-- ==== Sys2Proof/Word.lean ====
section
/-!
DEFINITION. The words of the machine: the byte, the byte string and the 64-bit scalar word (00_scope.md R1, R5).
-/
namespace Sys2Proof

/-- A byte. -/
abbrev Byte := BitVec 8

/-- A byte string, lowest address first (R2). -/
abbrev Bytes := List Byte

/-- The contents of a scalar register (08 R190). -/
abbrev Word := BitVec 64

end Sys2Proof
end

