-- ==== Sys2Proof/Config.lean ====
section
/-!
DEFINITION. What is fixed for one module: the counts and capacities of the parts (01_machine.md R8, R14, R17, R22; 06 R153),
and, as opaque constants, what the spec leaves to the chip: ROM and routine images, fuses, random draws, and
values it does not state. Nothing can be proved about the value of an opaque
constant.
-/
namespace Sys2Proof

/-- Installed HBM bytes of a die (R153). -/
def Config.hbmCap : Nat := 2 ^ 37

/-- Installed bytes of an LP6 interface (R153). -/
def Config.lp6Cap : Nat := 96 * 2 ^ 30

/-- Microprogram image of standard routine `i` (R326; the spec gives no bytes, log 6). -/
opaque Config.standardImage (i : Nat) : Bytes

/-- The test image that the monitor writes into a scratchpad at power-on (R420, log 6). -/
opaque Config.testImage : Bytes

/-- The monitor ROM and the supervisor image, as measured (R410, R420, log 6). -/
opaque Config.monitorRom : Bytes

/-- The supervisor image as verified at bring-up (R410, log 6). -/
opaque Config.supervisorImage : Bytes

/-- The identity seed and the chip seal key of the fuses (R408, log 6). -/
opaque Config.identitySeed : Bytes

/-- The chip seal key of the fuses (R408, log 6). -/
opaque Config.sealKey : Bytes

/-- The digest of the Ebaris root signing key (R408, log 6). -/
opaque Config.rootKey : Bytes

/-- OWNREQ (R408, log 6). -/
opaque Config.ownReq : Bool

/-- OWN0 to OWN3, owner key digests (R408, log 6). -/
opaque Config.owner (i : Nat) : Bytes

/-- FRATE, the greatest egress rate (R408, log 6). -/
opaque Config.fRate : Nat

/-- FBURST, the greatest egress burst (R408, log 6). -/
opaque Config.fBurst : Nat

/-- The Ebaris root public key, whose digest the fuses hold (R408, log 6). -/
opaque Config.rootPublic : Bytes

/-- The 32 random bytes that enter an ML-DSA-87 signature of a message: FIPS 204 leaves them to the signer. Free (R375, log 6). -/
opaque Config.signRandom (msg : Bytes) : Bytes

/-- The signature of the supervisor image, which the monitor verifies against ERK (R408, R420, log 6). -/
opaque Config.supervisorSig : Bytes

/-- Whether host memory refuses the read of a ring entry, by its address and HEAD: the host's choice. Free (R402, log 6). -/
opaque Config.hostRefuses (pa head : Nat) : Bool

/-- How the tree store lays out a task's parts in memory: the spec gives no layout. Free (R377, log 15). -/
opaque Config.treeLayout (parts : Bytes) : Bytes

/-- The certificate chain of slot 0 (R408, log 6). -/
opaque Config.certChain : Bytes

/-- What a routine image that is not standard makes of one element of a bank: image digest, FMT, mp2, mp4, the codes of A and of B
in the block, block, element, old bits; bits 31-0 the element, bits 42-32 the flags (R326, log 20). -/
opaque Config.vendorBlock (image : Bytes) (fmt mp2 mp4 : Nat) (a b : List (List Nat)) (block element old : Nat) : Nat

/-- Where the monitor places the access log in host memory (R417, log 6). -/
opaque Config.accessLogBase : Nat

/-- Units of the access log (R417, log 6). -/
opaque Config.accessLogUnits : Nat

/-- The random nonce of a boot, by the boots before it (R417, R420, log 6). -/
opaque Config.freeNonce (boots : Nat) : Bytes

/-- What VQNT takes for (x − b) / s where a table entry holds an infinity: the spec states no quotient there. Free (log 21). -/
opaque Config.freeQuotient (x b s : Nat) : Int

/-- What AUDREF finds when the leaf's operands do not determine its result (a copy-in, a gather, a dequantisation with a side list, a
reducing landing): the recomputed RESULT and FSET of a capture entry. The spec states none. Free (log 19). -/
opaque Config.refereeResult (entry : Bytes) : Bytes × Nat

/-- Which element of a bank holds the uncorrectable error that an ACCRD meets: the event does not say. Free (log 23). -/
opaque Config.bankErrorAt (jid : Nat) : Nat

/-- ISSUED of a channel at the start of a replayed task, from its header: the spec does not say where a replay finds it. Free (log 19). -/
opaque Config.replayIssued (hdr : Bytes) (ch : Nat) : Nat

/-- SEQ, contribution tag, TD of the primed tile and of the contribution of a landing that a replay takes from its table, which holds
none of them. Free (log 19). -/
opaque Config.replayLanding (hdr : Bytes) (ch arrival : Nat) : Nat × Nat × Bytes × Bytes

/-- The payload of slot `k` of a regenerated leaf that a replay never held as a tile, bank or shape, as a reducing landing's contribution
whose bytes the landing table does not hold. Free (log 19). -/
opaque Config.replayPayload (record : Bytes) (k : Nat) : Bytes

end Sys2Proof
end

