-- ==== Sys2Proof/Syntax.lean ====
section
/-!
DEFINITION. The operations and events of the part: one constructor of `Instr` for each row of the
spec's table (03_bundles.md R70-R77, 95_what_each_step_holds.md). A slot operation carries the fields of
its syllable, `qp` first, and of its extension as the encoding tables name them; an event carries the data that the
agent which causes it supplies.
-/
namespace Sys2Proof

/-- What a handler is launched for: a context parked by a trap (R225), or a node held by a race (R124). -/
inductive HandlerFor where
  | parked (u b : Nat)
  | race (d n u : Nat)
  deriving DecidableEq, Repr

/-- Where an uncorrectable error is found (R171): a chunk of a pad slot, a 64-byte block of global memory by a
place in it, or a line of a cluster's code region. -/
inductive ErrAt where
  | pad (pad slot k : Nat)
  | global (key : Nat)
  | code (cluster line : Nat)
  deriving DecidableEq, Repr

/-- A Serif packet: its 32-byte header field by field, and the payload and digest that follow it (18 R341). -/
structure Packet where
  kind : Nat
  blot : Bool
  red : Nat := 0
  sealed : Bool := false
  dstChip : Nat := 0
  srcChip : Nat := 0
  dstEp : Nat := 0
  ch : Nat := 0
  srcEp : Nat := 0
  valid : Nat := 0
  n : Nat := 0
  chunk : Nat := 0
  lseq : Nat := 0
  tseq : Nat := 0
  tag : Nat := 0
  payload : Bytes := []
  digest : Bytes := []
  deriving DecidableEq, Repr

/-- One answer of a remote audit mailbox: status, leaf count and digest of the node asked for (19 R383);
`refused` when the request was refused or its link died. -/
structure NodeAnswer where
  refused : Bool
  status : Nat
  leaves : Nat
  digest : Bytes
  deriving DecidableEq, Repr

/-- The fields of a request of R413; OP is 1 for IMPORT. -/
structure ImportReq where
  op : Nat := 1
  region : Nat
  tplace : Nat
  tbase : Nat
  tlen : Nat
  splace : Nat
  sbase : Nat
  capsule : Bytes
  nonce : Bytes
  tag : Bytes
  key : Bytes
  rate : Nat
  burst : Nat
  sig : Bytes
  deriving DecidableEq, Repr

/-- The operations and events, one constructor for each row of the table, in its order. -/
inductive Instr where
  /-- BUNDLE_ISSUE (R424). -/
  | bundleIssue (u : Nat)
  /-- EMPTY_BUNDLE (R56). -/
  | emptyBundle
  /-- HANDLER_LAUNCH (R225). -/
  | handlerLaunch (w : HandlerFor)
  /-- CONTEXT_SWAP_COMPLETE (R133). -/
  | contextSwapComplete (u : Nat)
  /-- STALL_SWAP (R133). -/
  | stallSwap (u b : Nat)
  /-- MERGE_STARVATION (R132). -/
  | mergeStarvation (u : Nat)
  /-- ADD (R194). -/
  | add (qp sd sa sb : Nat)
  /-- SUB (R194). -/
  | sub (qp sd sa sb : Nat)
  /-- AND (R194). -/
  | and (qp sd sa sb : Nat)
  /-- OR (R194). -/
  | or (qp sd sa sb : Nat)
  /-- XOR (R194). -/
  | xor (qp sd sa sb : Nat)
  /-- SHL (R194). -/
  | shl (qp sd sa sb : Nat)
  /-- SHR (R194). -/
  | shr (qp sd sa sb : Nat)
  /-- SAR (R194). -/
  | sar (qp sd sa sb : Nat)
  /-- MUL (R194). -/
  | mul (qp sd sa sb : Nat)
  /-- MULH (R194). -/
  | mulh (qp sd sa sb : Nat)
  /-- MULHN (R194). -/
  | mulhn (qp sd sa sb : Nat)
  /-- DIV (R195). -/
  | div (qp sd sa sb : Nat)
  /-- DIVN (R195). -/
  | divn (qp sd sa sb : Nat)
  /-- REM (R195). -/
  | rem (qp sd sa sb : Nat)
  /-- REMN (R195). -/
  | remn (qp sd sa sb : Nat)
  /-- MIN (R194). -/
  | min (qp sd sa sb : Nat)
  /-- MAX (R194). -/
  | max (qp sd sa sb : Nat)
  /-- MINN (R194). -/
  | minn (qp sd sa sb : Nat)
  /-- MAXN (R194). -/
  | maxn (qp sd sa sb : Nat)
  /-- CLZ (R194). -/
  | clz (qp sd sa : Nat)
  /-- CTZ (R194). -/
  | ctz (qp sd sa : Nat)
  /-- POPC (R194). -/
  | popc (qp sd sa : Nat)
  /-- ANDN (R194). -/
  | andn (qp sd sa sb : Nat)
  /-- ORN (R194). -/
  | orn (qp sd sa sb : Nat)
  /-- ADDI (R196). -/
  | addi (qp sd sa imm11 : Nat)
  /-- ADDI_EXT (R196). -/
  | addiExt (qp sd sa imm11 ext : Nat)
  /-- ANDI (R196). -/
  | andi (qp sd sa imm11 : Nat)
  /-- ANDI_EXT (R196). -/
  | andiExt (qp sd sa imm11 ext : Nat)
  /-- ORI (R196). -/
  | ori (qp sd sa imm11 : Nat)
  /-- ORI_EXT (R196). -/
  | oriExt (qp sd sa imm11 ext : Nat)
  /-- XORI (R196). -/
  | xori (qp sd sa imm11 : Nat)
  /-- XORI_EXT (R196). -/
  | xoriExt (qp sd sa imm11 ext : Nat)
  /-- SHLI (R196). -/
  | shli (qp sd sa imm11 : Nat)
  /-- SHLI_EXT (R196). -/
  | shliExt (qp sd sa imm11 ext : Nat)
  /-- SHRI (R196). -/
  | shri (qp sd sa imm11 : Nat)
  /-- SHRI_EXT (R196). -/
  | shriExt (qp sd sa imm11 ext : Nat)
  /-- SARI (R196). -/
  | sari (qp sd sa imm11 : Nat)
  /-- SARI_EXT (R196). -/
  | sariExt (qp sd sa imm11 ext : Nat)
  /-- MULI (R196). -/
  | muli (qp sd sa imm11 : Nat)
  /-- MULI_EXT (R196). -/
  | muliExt (qp sd sa imm11 ext : Nat)
  /-- MOVI (R197). -/
  | movi (qp sd imm16 : Nat)
  /-- MOVI_EXT (R197). -/
  | moviExt (qp sd imm16 ext : Nat)
  /-- MOVHI (R197). -/
  | movhi (qp sd imm16 : Nat)
  /-- CMP (R198). -/
  | cmp (qp qt qf sa sb cond : Nat)
  /-- CMPI (R198). -/
  | cmpi (qp qt qf sa imm5 cond : Nat)
  /-- CMPI_EXT (R198). -/
  | cmpiExt (qp qt qf sa imm5 cond ext : Nat)
  /-- SEL (R199). -/
  | sel (qp sd sa sb qs : Nat)
  /-- BFX (R200). -/
  | bfx (qp sd sa pos lenm1 : Nat)
  /-- BFXS (R200). -/
  | bfxs (qp sd sa pos lenm1 : Nat)
  /-- BFI (R200). -/
  | bfi (qp sd sa pos lenm1 : Nat)
  /-- LEA (R201). -/
  | lea (qp sd sa sb shift : Nat)
  /-- MOVS (R202). -/
  | movs (qp sd special : Nat)
  /-- BR (R205). -/
  | br (qp disp21 : Nat)
  /-- BR_EXT (R205). -/
  | brExt (qp disp21 ext : Nat)
  /-- CALL (R205). -/
  | call (qp disp21 : Nat)
  /-- CALL_EXT (R205). -/
  | callExt (qp disp21 ext : Nat)
  /-- BRS (R205). -/
  | brs (qp sa : Nat)
  /-- CALLS (R205). -/
  | calls (qp sa : Nat)
  /-- LOOP (R207). -/
  | loop (qp sa len : Nat)
  /-- LOOPI (R207). -/
  | loopi (qp cnt10 len : Nat)
  /-- LOOPI_EXT (R207). -/
  | loopiExt (qp cnt10 len ext : Nat)
  /-- LOOPR (R207). -/
  | loopr (qp sa epi len : Nat)
  /-- LBREAK (R209). -/
  | lbreak (qp : Nat)
  /-- PLOG (R210). -/
  | plog (qp qd qa qb fn : Nat)
  /-- FMTSET (R211). -/
  | fmtset (qp sa : Nat)
  /-- FMTSETI (R211). -/
  | fmtseti (qp fmt : Nat)
  /-- SEMWAIT (R214). -/
  | semwait (qp e n : Nat)
  /-- SEMSIG (R214). -/
  | semsig (qp e n : Nat)
  /-- WAITC (R215). -/
  | waitc (qp h g sa : Nat)
  /-- CTRWAIT (R216). -/
  | ctrwait (qp c sa : Nat)
  /-- TFENCE (R217). -/
  | tfence (qp : Nat)
  /-- FENCE (R218). -/
  | fence (qp sd scope : Nat)
  /-- TASKEND (R219). -/
  | taskend (qp : Nat)
  /-- SPAWN (R220). -/
  | spawn (qp f sa e : Nat)
  /-- SPAWN_OVERLAP (R220). -/
  | spawnOverlap (qp f sa e ov : Nat)
  /-- YIELD (R221). -/
  | yield (qp : Nat)
  /-- STATPOP (R222). -/
  | statpop (qp sd sd2 : Nat)
  /-- TRAP (R241). -/
  | trap (qp imm16 : Nat)
  /-- ERET (R229). -/
  | eret (qp : Nat)
  /-- CSRR (R238). -/
  | csrr (qp sd sa csr : Nat)
  /-- CSRW (R238). -/
  | csrw (qp sa sb csr : Nat)
  /-- JOBRES (R231). -/
  | jobres (qp sa : Nat)
  /-- IFLUSH (R240). -/
  | iflush (qp : Nat)
  /-- CAPOP_DERIVE (R242). -/
  | capopDerive (qp sd sa sb rights : Nat)
  /-- CAPOP_REVOKE (R242). -/
  | capopRevoke (qp sd sa sb : Nat)
  /-- CAPOP_INFO (R242). -/
  | capopInfo (qp sd sa sb : Nat)
  /-- CAPOP_FREE (R242). -/
  | capopFree (qp sd sa sb : Nat)
  /-- CTXCTL_STOP (R232). -/
  | ctxctlStop (qp sd sa sb : Nat)
  /-- CTXCTL_GO (R232). -/
  | ctxctlGo (qp sd sa sb : Nat)
  /-- CTXCTL_KILL (R232). -/
  | ctxctlKill (qp sd sa sb : Nat)
  /-- CTXCTL_READ (R234). -/
  | ctxctlRead (qp sd sa sb off : Nat)
  /-- CTXCTL_WRITE (R234). -/
  | ctxctlWrite (qp sd sa sb off : Nat)
  /-- CTXCTL_BRKSET (R243). -/
  | ctxctlBrkSet (qp sd sa sb n : Nat)
  /-- CTXCTL_BRKCLR (R243). -/
  | ctxctlBrkClr (qp sd sa sb n : Nat)
  /-- CTXCTL_TESTMODE (R237). -/
  | ctxctlTestMode (qp sd sa sb : Nat)
  /-- AUDMARK (R379). -/
  | audmark (qp sa sb : Nat)
  /-- AUDSEAL_SEAL (R381). -/
  | audsealSeal (qp sd f sa : Nat)
  /-- AUDSEAL_CONFIG (R381). -/
  | audsealConfig (qp sd f sa : Nat)
  /-- AUDBISECT (R383). -/
  | audbisect (qp sd f sa e : Nat)
  /-- AUDREF (R385). -/
  | audref (qp sd f sa e : Nat)
  /-- AUDREPLAY (R384). -/
  | audreplay (qp sd f sa e : Nat)
  /-- AUDROOT (R380). -/
  | audroot (qp hd sl : Nat)
  /-- SHSET (R248). -/
  | shset (qp sh field sa : Nat)
  /-- SHSETI (R248). -/
  | shseti (qp sh field imm : Nat)
  /-- SHCOPY (R248). -/
  | shcopy (qp shd shs : Nat)
  /-- SHSTEP (R248). -/
  | shstep (qp sh dim sa : Nat)
  /-- MPSET (R254). -/
  | mpset (qp mp half sa : Nat)
  /-- MPSETI (R254). -/
  | mpseti (qp mp word imm : Nat)
  /-- VSHAPE (R255). -/
  | vshape (qp rowsm1 colsm1 : Nat)
  /-- FPNARROW (R256). -/
  | fpnarrow (qp fd fs mode sa sb : Nat)
  /-- SHRD (R251). -/
  | shrd (qp sd kind reg sl : Nat)
  /-- ALLOC (R260). -/
  | alloc (qp hd pool reads : Nat)
  /-- ALLOCR (R260). -/
  | allocr (qp hd pool sa : Nat)
  /-- ALLOCT (R260). -/
  | alloct (qp hd pool reads qs : Nat)
  /-- COPYIN (R262). -/
  | copyin (qp hd sh e : Nat)
  /-- GPUSH (R263). -/
  | gpush (qp hd sa last : Nat)
  /-- GATHER (R263). -/
  | gather (qp hd sh e : Nat)
  /-- TMOVE (R265). -/
  | tmove (qp hd hs c e : Nat)
  /-- LDT (R266). -/
  | ldt (qp sd hs sz sg imm9 : Nat)
  /-- LDTR (R266). -/
  | ldtr (qp sd hs sz sg sb : Nat)
  /-- LDG (R268). -/
  | ldg (qp sd f sa sz sg e : Nat)
  /-- TREAD (R267). -/
  | tread (qp sd hs c sb : Nat)
  /-- TREL (R269). -/
  | trel (qp hs : Nat)
  /-- TINFO (R270). -/
  | tinfo (qp sd hs sl : Nat)
  /-- OVL (R272). -/
  | ovl (qp f sa sb e : Nat)
  /-- LANDH (R271). -/
  | landh (qp hd ch sa : Nat)
  /-- VADD (R291). -/
  | vadd (qp hd ha hb ty ca cb fn : Nat)
  /-- VSUB (R291). -/
  | vsub (qp hd ha hb ty ca cb fn : Nat)
  /-- VMUL (R291). -/
  | vmul (qp hd ha hb ty ca cb fn : Nat)
  /-- VFMA (R291). -/
  | vfma (qp hd ha hb ty ca cb fn : Nat)
  /-- VMIN (R292). -/
  | vmin (qp hd ha hb ty ca cb : Nat)
  /-- VMAX (R292). -/
  | vmax (qp hd ha hb ty ca cb : Nat)
  /-- VAND (R293). -/
  | vand (qp hd ha hb ty ca cb : Nat)
  /-- VOR (R293). -/
  | vor (qp hd ha hb ty ca cb : Nat)
  /-- VXOR (R293). -/
  | vxor (qp hd ha hb ty ca cb : Nat)
  /-- VSHL (R293). -/
  | vshl (qp hd ha hb ty ca cb : Nat)
  /-- VSHR (R293). -/
  | vshr (qp hd ha hb ty ca cb : Nat)
  /-- VCMP (R294). -/
  | vcmp (qp hd ha hb ty ca cb fn : Nat)
  /-- VSEL (R294). -/
  | vsel (qp hd ha hb ty ca cb : Nat)
  /-- VABS (R295). -/
  | vabs (qp hd ha ty ca : Nat)
  /-- VNEG (R295). -/
  | vneg (qp hd ha ty ca : Nat)
  /-- VMOV (R295). -/
  | vmov (qp hd ha ty ca : Nat)
  /-- VFILL (R296). -/
  | vfill (qp hd ty : Nat)
  /-- VFILL_EXT (R296). -/
  | vfillExt (qp hd ty ext : Nat)
  /-- VBROW (R297). -/
  | vbrow (qp hd ha ty ca : Nat)
  /-- VBCOL (R297). -/
  | vbcol (qp hd ha ty ca : Nat)
  /-- VTRANS (R297). -/
  | vtrans (qp hd ha ty ca : Nat)
  /-- VSFU (R299). -/
  | vsfu (qp hd ha ty ca fn func : Nat)
  /-- VRSUM (R300). -/
  | vrsum (qp hd ha ty ca fn : Nat)
  /-- VRMAX (R300). -/
  | vrmax (qp hd ha ty ca : Nat)
  /-- VCSUM (R300). -/
  | vcsum (qp hd ha ty ca fn : Nat)
  /-- VCMAX (R300). -/
  | vcmax (qp hd ha ty ca : Nat)
  /-- VDOT (R300). -/
  | vdot (qp hd ha hb ty ca cb fn : Nat)
  /-- VMACC (R302). -/
  | vmacc (qp hd ha hb ty ca cb fn : Nat)
  /-- VCVT (R303). -/
  | vcvt (qp hd ha ca fn src dst sat inter : Nat)
  /-- VQNT (R304). -/
  | vqnt (qp hd ha hb ty ca cb fn dst axis side cal : Nat)
  /-- VDQNT (R305). -/
  | vdqnt (qp hd ha hb ty ca cb fn src axis side sat : Nat)
  /-- VSCALE (R298). -/
  | vscale (qp hd ha hb ty ca cb fn : Nat)
  /-- VIOTA (R296). -/
  | viota (qp hd ty fn : Nat)
  /-- VSUMS (R301). -/
  | vsums (qp sd ha sdhi ty ca : Nat)
  /-- MCALL (R321). -/
  | mcall (qp routine acc z e : Nat)
  /-- ACCZERO (R329). -/
  | acczero (qp acc ty : Nat)
  /-- ACCRD (R332). -/
  | accrd (qp hd acc ht fo rm sat ct : Nat)
  /-- ACCWR (R330). -/
  | accwr (qp acc hs c ty : Nat)
  /-- ACCMOV (R331). -/
  | accmov (qp accd accs : Nat)
  /-- RINGPUSH (R316). -/
  | ringpush (qp ring hs : Nat)
  /-- RINGDROP (R317). -/
  | ringdrop (qp ring n : Nat)
  /-- RINGINFO (R318). -/
  | ringinfo (qp sd ring : Nat)
  /-- MPROG (R333). -/
  | mprog (qp index f sa : Nat)
  /-- MPROG_EXT (R333). -/
  | mprogExt (qp index f sa e : Nat)
  /-- COPYOUT (R276). -/
  | copyout (qp hs sh c red e : Nat)
  /-- COPYACC (R278). -/
  | copyacc (qp acc sh e : Nat)
  /-- STT (R280). -/
  | stt (qp sa hs sz imm9 : Nat)
  /-- STTR (R280). -/
  | sttr (qp sa hs sz sb : Nat)
  /-- STG (R281). -/
  | stg (qp sb f sa sz e : Nat)
  /-- ATOM (R282). -/
  | atom (qp sd f sa sb aop scope order size e : Nat)
  /-- CAS (R282). -/
  | cas (qp sd f sa sb scope order size e : Nat)
  /-- SEND (R355). -/
  | send (qp ch hs c e : Nat)
  /-- SENDT (R356). -/
  | sendt (qp ch hs c e thr ctr : Nat)
  /-- PUTR (R357). -/
  | putr (qp ch hs c sa : Nat)
  /-- CTRADD_REMOTE (R359). -/
  | ctraddRemote (qp ch sa : Nat)
  /-- CTRADD_LOCAL (R359). -/
  | ctraddLocal (qp c sa : Nat)
  /-- MBOX (R360). -/
  | mbox (qp hs c sa e : Nat)
  /-- SCATTER (R279). -/
  | scatter (qp hs hi sh c ci red e : Nat)
  /-- PRIME (R358). -/
  | prime (qp ch hs c reads : Nat)
  /-- CHUNK_ARRIVES (R164). -/
  | chunkArrives (u j k : Nat)
  /-- TILE_JOB_COMPLETE (R258). -/
  | tileJobComplete (u j : Nat)
  /-- OUT_JOB_COMPLETE (R274). -/
  | outJobComplete (u j : Nat)
  /-- LDG_COMPLETE (R268). -/
  | ldgComplete (u j : Nat)
  /-- JOB_FAULT (R258). -/
  | jobFault (u j : Nat)
  /-- OVL_COMPLETE (R272). -/
  | ovlComplete (u j : Nat)
  /-- VECTOR_RESULT_LANDS (R288). -/
  | vectorResultLands (u j : Nat)
  /-- ACCRD_COMPLETE (R332). -/
  | accrdComplete (u j : Nat)
  /-- ROUTINE_START (R310). -/
  | routineStart (u j : Nat)
  /-- ROUTINE_BLOCK_COMPLETE (R322). -/
  | routineBlockComplete (u j : Nat)
  /-- ROUTINE_RETIRE (R323). -/
  | routineRetire (u j : Nat)
  /-- ROUTINE_FAULT (R325). -/
  | routineFault (u j : Nat)
  /-- MPROG_COMPLETE (R333). -/
  | mprogComplete (u j : Nat)
  /-- SPAWN_ACCEPTED (R220). -/
  | spawnAccepted (u j : Nat)
  /-- SEND_FIRE (R354). -/
  | sendFire (u j : Nat)
  /-- SENDT_FIRE (R356). -/
  | sendtFire (u j : Nat)
  /-- SEND_COMPLETE (R354). -/
  | sendComplete (u j : Nat)
  /-- PRIME_COMPLETE (R358). -/
  | primeComplete (u j : Nat)
  /-- SERIF_DATA (R349). -/
  | serifData (port : Nat) (p : Packet)
  /-- LANDING_COMPLETE (R349). -/
  | landingComplete (u ch : Nat)
  /-- BLOT_DEADLINE (R350). -/
  | blotDeadline (u ch : Nat)
  /-- SERIF_ACK (R342). -/
  | serifAck (port lseq : Nat)
  /-- SERIF_NACK (R342). -/
  | serifNack (port lseq : Nat)
  /-- SLOT_READY (R348). -/
  | slotReady (port : Nat) (p : Packet)
  /-- COUNTER_ADD (R359). -/
  | counterAdd (port : Nat) (p : Packet)
  /-- SERIF_MAILBOX (R134). -/
  | serifMailbox (port : Nat) (p : Packet)
  /-- REFUSAL (R391). -/
  | refusal (port : Nat) (p : Packet)
  /-- BIND_NOTICE (R345). -/
  | bindNotice (port : Nat) (p : Packet)
  /-- RETRANSMIT_TIMEOUT (R342). -/
  | retransmitTimeout (port now : Nat)
  /-- LOSS_OF_SIGNAL_DEAD (R342). -/
  | lossOfSignalDead (port now : Nat)
  /-- AUDIT_NODE_REQUEST (R383). -/
  | auditNodeRequest (d : Nat) (msg : Bytes)
  /-- AUDIT_JOB_COMPLETE (R382). -/
  | auditJobComplete (u j : Nat) (ans : List NodeAnswer)
  /-- ROOT_LOG_WRITE (R376). -/
  | rootLogWrite (d : Nat)
  /-- NODE_ENTERS_WINDOW (R119). -/
  | nodeEntersWindow (d q : Nat)
  /-- NODE_DISPATCH (R125). -/
  | nodeDispatch (d n : Nat)
  /-- TASK_START (R126). -/
  | taskStart (u : Nat)
  /-- STEAL (R127). -/
  | steal (u : Nat)
  /-- QUEUE_STARVATION (R128). -/
  | queueStarvation (d q now : Nat)
  /-- TASK_COMPLETE (R122). -/
  | taskComplete (d n : Nat)
  /-- GRAPH_COMPLETE (R143). -/
  | graphComplete (d g : Nat)
  /-- WATCHDOG_W1 (R136). -/
  | watchdogW1 (u b : Nat)
  /-- WATCHDOG_W2 (R136). -/
  | watchdogW2 (u b : Nat)
  /-- WATCHDOG_W3 (R136). -/
  | watchdogW3 (u cid : Nat)
  /-- SOFT_ERROR_CORRECTED (R170). -/
  | softErrorCorrected (u : Nat) (acc : Bool)
  /-- FREEZE_END (R170). -/
  | freezeEnd (u : Nat)
  /-- PAD_UNCORRECTABLE (R171). -/
  | padUncorrectable (w : ErrAt)
  /-- BANK_UNCORRECTABLE (R314). -/
  | bankUncorrectable (u n : Nat)
  /-- DOORBELL (R402). -/
  | doorbell (d q tail : Nat)
  /-- REGISTER_WRITE (R401). -/
  | registerWrite (d q off val : Nat)
  /-- LAUNCH (R115). -/
  | launch (d q : Nat)
  /-- PATCH (R142). -/
  | patch (d q : Nat)
  /-- LOAD (R139). -/
  | load (d q : Nat)
  /-- LOAD_COMPLETE (R139). -/
  | loadComplete (d q : Nat)
  /-- UNLOAD (R140). -/
  | unload (d q : Nat)
  /-- BARRIER (R404). -/
  | barrier (d q : Nat)
  /-- SIGNAL (R404). -/
  | signal (d q : Nat)
  /-- SEAL (R404). -/
  | hostSeal (d q : Nat)
  /-- BIND (R345). -/
  | bind (d q : Nat)
  /-- SETCHIP (R407). -/
  | setchip (d : Nat)
  /-- SETROUTE (R407). -/
  | setroute (d : Nat)
  /-- RETRAIN (R407). -/
  | retrain (d : Nat)
  /-- XINV (R239). -/
  | xinv (d idx val : Nat)
  /-- QROOT_WRITE (R143). -/
  | qrootWrite (d q val : Nat)
  /-- NODECTL_RELEASE (R124). -/
  | nodectlRelease (d n : Nat)
  /-- NODECTL_FAIL (R124). -/
  | nodectlFail (d n : Nat)
  /-- UFENCE_CLEAR (R238). -/
  | ufenceClear (d u : Nat)
  /-- UFENCE_SET (R238). -/
  | ufenceSet (d u : Nat)
  /-- QCTL_ENABLE (R374). -/
  | qctlEnable (d q : Nat)
  /-- QCTL_DISABLE (R375). -/
  | qctlDisable (d q : Nat)
  /-- POOLCFG_WRITE (R156). -/
  | poolcfgWrite (d idx val : Nat)
  /-- STATRD (R238). -/
  | statrd (d cap : Nat)
  /-- GET_VERSION (R410). -/
  | getVersion
  /-- GET_CAPABILITIES (R410). -/
  | getCapabilities
  /-- NEGOTIATE_ALGORITHMS (R410). -/
  | negotiateAlgorithms
  /-- GET_DIGESTS (R410). -/
  | getDigests
  /-- GET_CERTIFICATE (R410). -/
  | getCertificate (slot off len : Nat)
  /-- CHALLENGE (R410). -/
  | challenge (slot : Nat) (nonce : Bytes)
  /-- GET_MEASUREMENTS (R410). -/
  | getMeasurements (idx : Nat) (sign : Bool) (nonce : Bytes)
  /-- UNSUPPORTED_REQUEST (R410). -/
  | unsupportedRequest (code : Nat)
  /-- IMPORT (R413). -/
  | importRegion (req : ImportReq)
  /-- RELEASE (R413). -/
  | release (region : Nat)
  /-- SIGN_LOG_HEAD (R418). -/
  | signLogHead
  /-- METER_REFILL (R416). -/
  | meterRefill
  /-- CROSSING_GRANT (R415). -/
  | crossingGrant (u j : Nat)
  /-- POWER_ON (R420). -/
  | powerOn (nonce : Bytes)
  /-- THERMAL_GATE (R421). -/
  | thermalGate (d : Nat)
  /-- THERMAL_SHUTDOWN (R421). -/
  | thermalShutdown
  /-- FIXED_LATENCY_RESULT_LANDS (R65). -/
  | fixedLatencyResultLands (u b i : Nat)
  /-- SLOT_STORAGE_RETURNS (R161). -/
  | slotStorageReturns (pad slot : Nat)
  /-- MBOX_LOCAL_DELIVERY (R360). -/
  | mboxLocalDelivery (i : Nat)
  /-- AUDIT_CONFIG_TAKES_EFFECT (R381). -/
  | auditConfigTakesEffect (u j : Nat)
  /-- FEC_FAILURE (R342). -/
  | fecFailure (port : Nat) (p : Packet)
  /-- LOSS_OF_SIGNAL_CHANGES (R342). -/
  | lossOfSignalChanges (port : Nat) (on : Bool) (now : Nat)
  /-- LINK_TRAINING_COMPLETE (R342). -/
  | linkTrainingComplete (port : Nat)
  /-- THERMAL_GATE_RELEASE (R421). -/
  | thermalGateRelease (d : Nat)
  deriving DecidableEq, Repr

end Sys2Proof
end

