-- ==== Sys2Proof/WellFormed.lean ====
section
/-!
DEFINITION. Which instructions the encodings admit: each field in its width and outside its reserved values
(03 R58, R67-R77 and the field tables of the class chapters). Events carry data, not encodings, and are always well formed.
-/
set_option Elab.async false

namespace Sys2Proof

/-- The instruction has an encoding: every field fits and holds no reserved value. -/
def Instr.wf : Instr → Bool
  | .bundleIssue _ => true
  | .emptyBundle => true
  | .handlerLaunch _ => true
  | .contextSwapComplete _ => true
  | .stallSwap _ _ => true
  | .mergeStarvation _ => true
  | .add qp sd sa sb =>
    decide (qp < 16) && decide (sd < 32) && decide (sa < 32) && decide (sb < 32)
  | .sub qp sd sa sb =>
    decide (qp < 16) && decide (sd < 32) && decide (sa < 32) && decide (sb < 32)
  | .and qp sd sa sb =>
    decide (qp < 16) && decide (sd < 32) && decide (sa < 32) && decide (sb < 32)
  | .or qp sd sa sb =>
    decide (qp < 16) && decide (sd < 32) && decide (sa < 32) && decide (sb < 32)
  | .xor qp sd sa sb =>
    decide (qp < 16) && decide (sd < 32) && decide (sa < 32) && decide (sb < 32)
  | .shl qp sd sa sb =>
    decide (qp < 16) && decide (sd < 32) && decide (sa < 32) && decide (sb < 32)
  | .shr qp sd sa sb =>
    decide (qp < 16) && decide (sd < 32) && decide (sa < 32) && decide (sb < 32)
  | .sar qp sd sa sb =>
    decide (qp < 16) && decide (sd < 32) && decide (sa < 32) && decide (sb < 32)
  | .mul qp sd sa sb =>
    decide (qp < 16) && decide (sd < 32) && decide (sa < 32) && decide (sb < 32)
  | .mulh qp sd sa sb =>
    decide (qp < 16) && decide (sd < 32) && decide (sa < 32) && decide (sb < 32)
  | .mulhn qp sd sa sb =>
    decide (qp < 16) && decide (sd < 32) && decide (sa < 32) && decide (sb < 32)
  | .div qp sd sa sb =>
    decide (qp < 16) && decide (sd < 32) && decide (sa < 32) && decide (sb < 32)
  | .divn qp sd sa sb =>
    decide (qp < 16) && decide (sd < 32) && decide (sa < 32) && decide (sb < 32)
  | .rem qp sd sa sb =>
    decide (qp < 16) && decide (sd < 32) && decide (sa < 32) && decide (sb < 32)
  | .remn qp sd sa sb =>
    decide (qp < 16) && decide (sd < 32) && decide (sa < 32) && decide (sb < 32)
  | .min qp sd sa sb =>
    decide (qp < 16) && decide (sd < 32) && decide (sa < 32) && decide (sb < 32)
  | .max qp sd sa sb =>
    decide (qp < 16) && decide (sd < 32) && decide (sa < 32) && decide (sb < 32)
  | .minn qp sd sa sb =>
    decide (qp < 16) && decide (sd < 32) && decide (sa < 32) && decide (sb < 32)
  | .maxn qp sd sa sb =>
    decide (qp < 16) && decide (sd < 32) && decide (sa < 32) && decide (sb < 32)
  | .clz qp sd sa =>
    decide (qp < 16) && decide (sd < 32) && decide (sa < 32)
  | .ctz qp sd sa =>
    decide (qp < 16) && decide (sd < 32) && decide (sa < 32)
  | .popc qp sd sa =>
    decide (qp < 16) && decide (sd < 32) && decide (sa < 32)
  | .andn qp sd sa sb =>
    decide (qp < 16) && decide (sd < 32) && decide (sa < 32) && decide (sb < 32)
  | .orn qp sd sa sb =>
    decide (qp < 16) && decide (sd < 32) && decide (sa < 32) && decide (sb < 32)
  | .addi qp sd sa imm11 =>
    decide (qp < 16) && decide (sd < 32) && decide (sa < 32) && decide (imm11 < 2048)
  | .addiExt qp sd sa imm11 ext =>
    decide (qp < 16) && decide (sd < 32) && decide (sa < 32) && decide (imm11 < 2048) && decide (ext < 4294967296)
  | .andi qp sd sa imm11 =>
    decide (qp < 16) && decide (sd < 32) && decide (sa < 32) && decide (imm11 < 2048)
  | .andiExt qp sd sa imm11 ext =>
    decide (qp < 16) && decide (sd < 32) && decide (sa < 32) && decide (imm11 < 2048) && decide (ext < 4294967296)
  | .ori qp sd sa imm11 =>
    decide (qp < 16) && decide (sd < 32) && decide (sa < 32) && decide (imm11 < 2048)
  | .oriExt qp sd sa imm11 ext =>
    decide (qp < 16) && decide (sd < 32) && decide (sa < 32) && decide (imm11 < 2048) && decide (ext < 4294967296)
  | .xori qp sd sa imm11 =>
    decide (qp < 16) && decide (sd < 32) && decide (sa < 32) && decide (imm11 < 2048)
  | .xoriExt qp sd sa imm11 ext =>
    decide (qp < 16) && decide (sd < 32) && decide (sa < 32) && decide (imm11 < 2048) && decide (ext < 4294967296)
  | .shli qp sd sa imm11 =>
    decide (qp < 16) && decide (sd < 32) && decide (sa < 32) && decide (imm11 < 2048) && decide (imm11 < 64)
  | .shliExt qp sd sa imm11 ext =>
    decide (qp < 16) && decide (sd < 32) && decide (sa < 32) && decide (imm11 < 2048) && decide (ext < 4294967296) && decide (ext = 0) && decide (imm11 < 64)
  | .shri qp sd sa imm11 =>
    decide (qp < 16) && decide (sd < 32) && decide (sa < 32) && decide (imm11 < 2048) && decide (imm11 < 64)
  | .shriExt qp sd sa imm11 ext =>
    decide (qp < 16) && decide (sd < 32) && decide (sa < 32) && decide (imm11 < 2048) && decide (ext < 4294967296) && decide (ext = 0) && decide (imm11 < 64)
  | .sari qp sd sa imm11 =>
    decide (qp < 16) && decide (sd < 32) && decide (sa < 32) && decide (imm11 < 2048) && decide (imm11 < 64)
  | .sariExt qp sd sa imm11 ext =>
    decide (qp < 16) && decide (sd < 32) && decide (sa < 32) && decide (imm11 < 2048) && decide (ext < 4294967296) && decide (ext = 0) && decide (imm11 < 64)
  | .muli qp sd sa imm11 =>
    decide (qp < 16) && decide (sd < 32) && decide (sa < 32) && decide (imm11 < 2048)
  | .muliExt qp sd sa imm11 ext =>
    decide (qp < 16) && decide (sd < 32) && decide (sa < 32) && decide (imm11 < 2048) && decide (ext < 4294967296)
  | .movi qp sd imm16 =>
    decide (qp < 16) && decide (sd < 32) && decide (imm16 < 65536)
  | .moviExt qp sd imm16 ext =>
    decide (qp < 16) && decide (sd < 32) && decide (imm16 < 65536) && decide (ext < 4294967296)
  | .movhi qp sd imm16 =>
    decide (qp < 16) && decide (sd < 32) && decide (imm16 < 65536)
  | .cmp qp qt qf sa sb cond =>
    decide (qp < 16) && decide (qt < 16) && decide (qf < 16) && decide (sa < 32) && decide (sb < 32) && decide (cond < 8)
  | .cmpi qp qt qf sa imm5 cond =>
    decide (qp < 16) && decide (qt < 16) && decide (qf < 16) && decide (sa < 32) && decide (imm5 < 32) && decide (cond < 8)
  | .cmpiExt qp qt qf sa imm5 cond ext =>
    decide (qp < 16) && decide (qt < 16) && decide (qf < 16) && decide (sa < 32) && decide (imm5 < 32) && decide (cond < 8) && decide (ext < 4294967296)
  | .sel qp sd sa sb qs =>
    decide (qp < 16) && decide (sd < 32) && decide (sa < 32) && decide (sb < 32) && decide (qs < 16)
  | .bfx qp sd sa pos lenm1 =>
    decide (qp < 16) && decide (sd < 32) && decide (sa < 32) && decide (pos < 64) && decide (lenm1 < 64) && decide (pos + lenm1 + 1 ≤ 64)
  | .bfxs qp sd sa pos lenm1 =>
    decide (qp < 16) && decide (sd < 32) && decide (sa < 32) && decide (pos < 64) && decide (lenm1 < 64) && decide (pos + lenm1 + 1 ≤ 64)
  | .bfi qp sd sa pos lenm1 =>
    decide (qp < 16) && decide (sd < 32) && decide (sa < 32) && decide (pos < 64) && decide (lenm1 < 64) && decide (pos + lenm1 + 1 ≤ 64)
  | .lea qp sd sa sb shift =>
    decide (qp < 16) && decide (sd < 32) && decide (sa < 32) && decide (sb < 32) && decide (shift < 8)
  | .movs qp sd special =>
    decide (qp < 16) && decide (sd < 32) && decide (special < 256) && (decide (special < 6) || (decide (8 ≤ special) && decide (special ≤ 15)))
  | .br qp disp21 =>
    decide (qp < 16) && decide (disp21 < 2097152)
  | .brExt qp disp21 ext =>
    decide (qp < 16) && decide (disp21 < 2097152) && decide (ext < 4294967296)
  | .call qp disp21 =>
    decide (qp < 16) && decide (disp21 < 2097152)
  | .callExt qp disp21 ext =>
    decide (qp < 16) && decide (disp21 < 2097152) && decide (ext < 4294967296)
  | .brs qp sa =>
    decide (qp < 16) && decide (sa < 32)
  | .calls qp sa =>
    decide (qp < 16) && decide (sa < 32)
  | .loop qp sa len =>
    decide (qp < 16) && decide (sa < 32) && decide (len < 2048)
  | .loopi qp cnt10 len =>
    decide (qp < 16) && decide (cnt10 < 1024) && decide (len < 2048)
  | .loopiExt qp cnt10 len ext =>
    decide (qp < 16) && decide (cnt10 < 1024) && decide (len < 2048) && decide (ext < 4294967296)
  | .loopr qp sa epi len =>
    decide (qp < 16) && decide (sa < 32) && decide (epi < 16) && decide (len < 4096)
  | .lbreak qp =>
    decide (qp < 16)
  | .plog qp qd qa qb fn =>
    decide (qp < 16) && decide (qd < 16) && decide (qa < 16) && decide (qb < 16) && decide (fn < 8) && (decide (fn < 5) || (decide (qb = 0) && (decide (fn = 5) || decide (qa = 0))))
  | .fmtset qp sa =>
    decide (qp < 16) && decide (sa < 32)
  | .fmtseti qp fmt =>
    decide (qp < 16) && decide (fmt < 4294967296)
  | .semwait qp e n =>
    decide (qp < 16) && decide (e < 16) && decide (n < 256) && decide (e ≠ 0) && decide (n ≠ 0)
  | .semsig qp e n =>
    decide (qp < 16) && decide (e < 16) && decide (n < 256) && decide (e ≠ 0) && decide (n ≠ 0)
  | .waitc qp h g sa =>
    decide (qp < 16) && decide (h < 16) && decide (g < 8) && decide (sa < 32)
  | .ctrwait qp c sa =>
    decide (qp < 16) && decide (c < 64) && decide (sa < 32)
  | .tfence qp =>
    decide (qp < 16)
  | .fence qp sd scope =>
    decide (qp < 16) && decide (sd < 32) && decide (scope < 8) && decide (scope ≤ 4)
  | .taskend qp =>
    decide (qp < 16)
  | .spawn qp f sa e =>
    decide (qp < 16) && decide (f < 16) && decide (sa < 32) && decide (e < 16)
  | .spawnOverlap qp f sa e ov =>
    decide (qp < 16) && decide (f < 16) && decide (sa < 32) && decide (e < 16) && decide (ov < 2)
  | .yield qp =>
    decide (qp < 16)
  | .statpop qp sd sd2 =>
    decide (qp < 16) && decide (sd < 32) && decide (sd2 < 32)
  | .trap qp imm16 =>
    decide (qp < 16) && decide (imm16 < 65536)
  | .eret qp =>
    decide (qp < 16)
  | .csrr qp sd sa csr =>
    decide (qp < 16) && decide (sd < 32) && decide (sa < 32) && decide (csr < 2048)
  | .csrw qp sa sb csr =>
    decide (qp < 16) && decide (sa < 32) && decide (sb < 32) && decide (csr < 2048)
  | .jobres qp sa =>
    decide (qp < 16) && decide (sa < 32)
  | .iflush qp =>
    decide (qp < 16)
  | .capopDerive qp sd sa sb rights =>
    decide (qp < 16) && decide (sd < 32) && decide (sa < 32) && decide (sb < 32) && decide (rights < 64)
  | .capopRevoke qp sd sa sb =>
    decide (qp < 16) && decide (sd < 32) && decide (sa < 32) && decide (sb < 32)
  | .capopInfo qp sd sa sb =>
    decide (qp < 16) && decide (sd < 32) && decide (sa < 32) && decide (sb < 32)
  | .capopFree qp sd sa sb =>
    decide (qp < 16) && decide (sd < 32) && decide (sa < 32) && decide (sb < 32)
  | .ctxctlStop qp sd sa sb =>
    decide (qp < 16) && decide (sd < 32) && decide (sa < 32) && decide (sb < 32)
  | .ctxctlGo qp sd sa sb =>
    decide (qp < 16) && decide (sd < 32) && decide (sa < 32) && decide (sb < 32)
  | .ctxctlKill qp sd sa sb =>
    decide (qp < 16) && decide (sd < 32) && decide (sa < 32) && decide (sb < 32)
  | .ctxctlRead qp sd sa sb off =>
    decide (qp < 16) && decide (sd < 32) && decide (sa < 32) && decide (sb < 32) && decide (off < 65536) && decide (off % 8 = 0) && decide (off ≤ 4088)
  | .ctxctlWrite qp sd sa sb off =>
    decide (qp < 16) && decide (sd < 32) && decide (sa < 32) && decide (sb < 32) && decide (off < 65536) && decide (off % 8 = 0) && decide (off ≤ 4088)
  | .ctxctlBrkSet qp sd sa sb n =>
    decide (qp < 16) && decide (sd < 32) && decide (sa < 32) && decide (sb < 32) && decide (n < 4)
  | .ctxctlBrkClr qp sd sa sb n =>
    decide (qp < 16) && decide (sd < 32) && decide (sa < 32) && decide (sb < 32) && decide (n < 4)
  | .ctxctlTestMode qp sd sa sb =>
    decide (qp < 16) && decide (sd < 32) && decide (sa < 32) && decide (sb < 32)
  | .audmark qp sa sb =>
    decide (qp < 16) && decide (sa < 32) && decide (sb < 32)
  | .audsealSeal qp sd f sa =>
    decide (qp < 16) && decide (sd < 32) && decide (f < 16) && decide (sa < 32) && decide (f = 0)
  | .audsealConfig qp sd f sa =>
    decide (qp < 16) && decide (sd < 32) && decide (f < 16) && decide (sa < 32)
  | .audbisect qp sd f sa e =>
    decide (qp < 16) && decide (sd < 32) && decide (f < 16) && decide (sa < 32) && decide (e < 16)
  | .audref qp sd f sa e =>
    decide (qp < 16) && decide (sd < 32) && decide (f < 16) && decide (sa < 32) && decide (e < 16)
  | .audreplay qp sd f sa e =>
    decide (qp < 16) && decide (sd < 32) && decide (f < 16) && decide (sa < 32) && decide (e < 16)
  | .audroot qp hd sl =>
    decide (qp < 16) && decide (hd < 16) && decide (sl < 8) && decide (sl ≤ 2)
  | .shset qp sh field sa =>
    decide (qp < 16) && decide (sh < 8) && decide (field < 32) && decide (sa < 32) && decide (field < 20)
  | .shseti qp sh field imm =>
    decide (qp < 16) && decide (sh < 8) && decide (field < 32) && decide (imm < 4294967296) && decide (field < 20)
  | .shcopy qp shd shs =>
    decide (qp < 16) && decide (shd < 8) && decide (shs < 8)
  | .shstep qp sh dim sa =>
    decide (qp < 16) && decide (sh < 8) && decide (dim < 4) && decide (sa < 32)
  | .mpset qp mp half sa =>
    decide (qp < 16) && decide (mp < 8) && decide (half < 2) && decide (sa < 32) && decide (mp ≠ 5) && decide (mp ≠ 7)
  | .mpseti qp mp word imm =>
    decide (qp < 16) && decide (mp < 8) && decide (word < 4) && decide (imm < 4294967296) && decide (mp ≠ 5) && decide (mp ≠ 7)
  | .vshape qp rowsm1 colsm1 =>
    decide (qp < 16) && decide (rowsm1 < 128) && decide (colsm1 < 2048)
  | .fpnarrow qp fd fs mode sa sb =>
    decide (qp < 16) && decide (fd < 16) && decide (fs < 16) && decide (mode < 4) && decide (sa < 32) && decide (sb < 32)
  | .shrd qp sd kind reg sl =>
    decide (qp < 16) && decide (sd < 32) && decide (kind < 2) && decide (reg < 8) && decide (sl < 32) && (if kind = 0 then decide (sl < 20) else decide (sl < 2))
  | .alloc qp hd pool reads =>
    decide (qp < 16) && decide (hd < 16) && decide (pool < 16) && decide (reads < 256)
  | .allocr qp hd pool sa =>
    decide (qp < 16) && decide (hd < 16) && decide (pool < 16) && decide (sa < 32)
  | .alloct qp hd pool reads qs =>
    decide (qp < 16) && decide (hd < 16) && decide (pool < 16) && decide (reads < 256) && decide (qs < 16)
  | .copyin qp hd sh e =>
    decide (qp < 16) && decide (hd < 16) && decide (sh < 8) && decide (e < 16)
  | .gpush qp hd sa last =>
    decide (qp < 16) && decide (hd < 16) && decide (sa < 32) && decide (last < 2)
  | .gather qp hd sh e =>
    decide (qp < 16) && decide (hd < 16) && decide (sh < 8) && decide (e < 16)
  | .tmove qp hd hs c e =>
    decide (qp < 16) && decide (hd < 16) && decide (hs < 16) && decide (c < 2) && decide (e < 16)
  | .ldt qp sd hs sz sg imm9 =>
    decide (qp < 16) && decide (sd < 32) && decide (hs < 16) && decide (sz < 4) && decide (sg < 2) && decide (imm9 < 512) && (decide (sz < 3) || decide (sg = 0))
  | .ldtr qp sd hs sz sg sb =>
    decide (qp < 16) && decide (sd < 32) && decide (hs < 16) && decide (sz < 4) && decide (sg < 2) && decide (sb < 32) && (decide (sz < 3) || decide (sg = 0))
  | .ldg qp sd f sa sz sg e =>
    decide (qp < 16) && decide (sd < 32) && decide (f < 16) && decide (sa < 32) && decide (sz < 4) && decide (sg < 2) && decide (e < 16) && (decide (sz < 3) || decide (sg = 0))
  | .tread qp sd hs c sb =>
    decide (qp < 16) && decide (sd < 32) && decide (hs < 16) && decide (c < 2) && decide (sb < 32)
  | .trel qp hs =>
    decide (qp < 16) && decide (hs < 16)
  | .tinfo qp sd hs sl =>
    decide (qp < 16) && decide (sd < 32) && decide (hs < 16) && decide (sl < 16) && decide (sl < 12)
  | .ovl qp f sa sb e =>
    decide (qp < 16) && decide (f < 16) && decide (sa < 32) && decide (sb < 32) && decide (e < 16)
  | .landh qp hd ch sa =>
    decide (qp < 16) && decide (hd < 16) && decide (ch < 256) && decide (sa < 32)
  | .vadd qp hd ha hb ty ca cb fn =>
    decide (qp < 16) && decide (hd < 16) && decide (ha < 16) && decide (hb < 16) && decide (ty < 8) && decide (ca < 2) && decide (cb < 2) && decide (fn < 16) && decide (fn < 5) && (decide (fn = 0) || decide (ty < 3))
  | .vsub qp hd ha hb ty ca cb fn =>
    decide (qp < 16) && decide (hd < 16) && decide (ha < 16) && decide (hb < 16) && decide (ty < 8) && decide (ca < 2) && decide (cb < 2) && decide (fn < 16) && decide (fn < 5) && (decide (fn = 0) || decide (ty < 3))
  | .vmul qp hd ha hb ty ca cb fn =>
    decide (qp < 16) && decide (hd < 16) && decide (ha < 16) && decide (hb < 16) && decide (ty < 8) && decide (ca < 2) && decide (cb < 2) && decide (fn < 16) && decide (fn < 5) && (decide (fn = 0) || decide (ty < 3))
  | .vfma qp hd ha hb ty ca cb fn =>
    decide (qp < 16) && decide (hd < 16) && decide (ha < 16) && decide (hb < 16) && decide (ty < 8) && decide (ca < 2) && decide (cb < 2) && decide (fn < 16) && decide (fn < 5) && (decide (fn = 0) || decide (ty < 3))
  | .vmin qp hd ha hb ty ca cb =>
    decide (qp < 16) && decide (hd < 16) && decide (ha < 16) && decide (hb < 16) && decide (ty < 8) && decide (ca < 2) && decide (cb < 2)
  | .vmax qp hd ha hb ty ca cb =>
    decide (qp < 16) && decide (hd < 16) && decide (ha < 16) && decide (hb < 16) && decide (ty < 8) && decide (ca < 2) && decide (cb < 2)
  | .vand qp hd ha hb ty ca cb =>
    decide (qp < 16) && decide (hd < 16) && decide (ha < 16) && decide (hb < 16) && decide (ty < 8) && decide (ca < 2) && decide (cb < 2)
  | .vor qp hd ha hb ty ca cb =>
    decide (qp < 16) && decide (hd < 16) && decide (ha < 16) && decide (hb < 16) && decide (ty < 8) && decide (ca < 2) && decide (cb < 2)
  | .vxor qp hd ha hb ty ca cb =>
    decide (qp < 16) && decide (hd < 16) && decide (ha < 16) && decide (hb < 16) && decide (ty < 8) && decide (ca < 2) && decide (cb < 2)
  | .vshl qp hd ha hb ty ca cb =>
    decide (qp < 16) && decide (hd < 16) && decide (ha < 16) && decide (hb < 16) && decide (ty < 8) && decide (ca < 2) && decide (cb < 2) && decide (3 ≤ ty)
  | .vshr qp hd ha hb ty ca cb =>
    decide (qp < 16) && decide (hd < 16) && decide (ha < 16) && decide (hb < 16) && decide (ty < 8) && decide (ca < 2) && decide (cb < 2) && decide (3 ≤ ty)
  | .vcmp qp hd ha hb ty ca cb fn =>
    decide (qp < 16) && decide (hd < 16) && decide (ha < 16) && decide (hb < 16) && decide (ty < 8) && decide (ca < 2) && decide (cb < 2) && decide (fn < 16) && decide (fn < 6)
  | .vsel qp hd ha hb ty ca cb =>
    decide (qp < 16) && decide (hd < 16) && decide (ha < 16) && decide (hb < 16) && decide (ty < 8) && decide (ca < 2) && decide (cb < 2)
  | .vabs qp hd ha ty ca =>
    decide (qp < 16) && decide (hd < 16) && decide (ha < 16) && decide (ty < 8) && decide (ca < 2)
  | .vneg qp hd ha ty ca =>
    decide (qp < 16) && decide (hd < 16) && decide (ha < 16) && decide (ty < 8) && decide (ca < 2)
  | .vmov qp hd ha ty ca =>
    decide (qp < 16) && decide (hd < 16) && decide (ha < 16) && decide (ty < 8) && decide (ca < 2)
  | .vfill qp hd ty =>
    decide (qp < 16) && decide (hd < 16) && decide (ty < 8)
  | .vfillExt qp hd ty ext =>
    decide (qp < 16) && decide (hd < 16) && decide (ty < 8) && decide (ext < 4294967296) && (if ty = 0 ∨ ty = 3 then true else if ty = 5 ∨ ty = 6 then decide (ext < 256) else decide (ext < 65536))
  | .vbrow qp hd ha ty ca =>
    decide (qp < 16) && decide (hd < 16) && decide (ha < 16) && decide (ty < 8) && decide (ca < 2)
  | .vbcol qp hd ha ty ca =>
    decide (qp < 16) && decide (hd < 16) && decide (ha < 16) && decide (ty < 8) && decide (ca < 2)
  | .vtrans qp hd ha ty ca =>
    decide (qp < 16) && decide (hd < 16) && decide (ha < 16) && decide (ty < 8) && decide (ca < 2)
  | .vsfu qp hd ha ty ca fn func =>
    decide (qp < 16) && decide (hd < 16) && decide (ha < 16) && decide (ty < 8) && decide (ca < 2) && decide (fn < 16) && decide (func < 8) && decide (fn < 5) && decide (ty < 3) && decide (func < 6)
  | .vrsum qp hd ha ty ca fn =>
    decide (qp < 16) && decide (hd < 16) && decide (ha < 16) && decide (ty < 8) && decide (ca < 2) && decide (fn < 16) && decide (fn < 5) && (decide (fn = 0) || decide (ty < 3))
  | .vrmax qp hd ha ty ca =>
    decide (qp < 16) && decide (hd < 16) && decide (ha < 16) && decide (ty < 8) && decide (ca < 2)
  | .vcsum qp hd ha ty ca fn =>
    decide (qp < 16) && decide (hd < 16) && decide (ha < 16) && decide (ty < 8) && decide (ca < 2) && decide (fn < 16) && decide (fn < 5) && (decide (fn = 0) || decide (ty < 3))
  | .vcmax qp hd ha ty ca =>
    decide (qp < 16) && decide (hd < 16) && decide (ha < 16) && decide (ty < 8) && decide (ca < 2)
  | .vdot qp hd ha hb ty ca cb fn =>
    decide (qp < 16) && decide (hd < 16) && decide (ha < 16) && decide (hb < 16) && decide (ty < 8) && decide (ca < 2) && decide (cb < 2) && decide (fn < 16) && decide (fn < 5) && (decide (fn = 0) || decide (ty < 3))
  | .vmacc qp hd ha hb ty ca cb fn =>
    decide (qp < 16) && decide (hd < 16) && decide (ha < 16) && decide (hb < 16) && decide (ty < 8) && decide (ca < 2) && decide (cb < 2) && decide (fn < 16) && decide (fn < 5) && decide (ty < 3)
  | .vcvt qp hd ha ca fn src dst sat inter =>
    decide (qp < 16) && decide (hd < 16) && decide (ha < 16) && decide (ca < 2) && decide (fn < 16) && decide (src < 64) && decide (dst < 64) && decide (sat < 2) && decide (inter < 2) && decide (fn < 5) && ((decide (src < 0x10) || decide (src = 0x20)) || decide (src = 0x21)) && (((decide (dst < 0x10) || decide (dst = 0x16)) || decide (dst = 0x17)) || (decide (dst = 0x20) || decide (dst = 0x21))) && (decide (inter = 0) || decide (fn = 4))
  | .vqnt qp hd ha hb ty ca cb fn dst axis side cal =>
    decide (qp < 16) && decide (hd < 16) && decide (ha < 16) && decide (hb < 16) && decide (ty < 8) && decide (ca < 2) && decide (cb < 2) && decide (fn < 16) && decide (dst < 32) && decide (axis < 2) && decide (side < 16) && decide (cal < 2) && decide (fn < 5) && decide (ty < 3) && ((decide (8 ≤ dst) && decide (dst ≤ 0xC)) || (decide (dst = 0x16) || decide (dst = 0x17))) && (if dst = 0x16 ∨ dst = 0x17 then decide (side ≠ 0) else decide (side = 0)) && (decide (cal = 1) || decide (cb = 0))
  | .vdqnt qp hd ha hb ty ca cb fn src axis side sat =>
    decide (qp < 16) && decide (hd < 16) && decide (ha < 16) && decide (hb < 16) && decide (ty < 8) && decide (ca < 2) && decide (cb < 2) && decide (fn < 16) && decide (src < 32) && decide (axis < 2) && decide (side < 16) && decide (sat < 2) && decide (fn < 5) && decide (ty < 3) && ((decide (8 ≤ src) && decide (src ≤ 0xC)) || (decide (src = 0x16) || decide (src = 0x17))) && (if src = 0x16 ∨ src = 0x17 then true else decide (side = 0))
  | .vscale qp hd ha hb ty ca cb fn =>
    decide (qp < 16) && decide (hd < 16) && decide (ha < 16) && decide (hb < 16) && decide (ty < 8) && decide (ca < 2) && decide (cb < 2) && decide (fn < 16) && decide (fn < 5) && (decide (fn = 0) || decide (ty < 3))
  | .viota qp hd ty fn =>
    decide (qp < 16) && decide (hd < 16) && decide (ty < 8) && decide (fn < 16) && decide (fn < 5) && (decide (fn = 0) || decide (ty < 3))
  | .vsums qp sd ha sdhi ty ca =>
    decide (qp < 16) && decide (sd < 16) && decide (ha < 16) && decide (sdhi < 2) && decide (ty < 8) && decide (ca < 2)
  | .mcall qp routine acc z e =>
    decide (qp < 16) && decide (routine < 256) && decide (acc < 8) && decide (z < 2) && decide (e < 16)
  | .acczero qp acc ty =>
    decide (qp < 16) && decide (acc < 8) && decide (ty < 2)
  | .accrd qp hd acc ht fo rm sat ct =>
    decide (qp < 16) && decide (hd < 16) && decide (acc < 8) && decide (ht < 16) && decide (fo < 32) && decide (rm < 8) && decide (sat < 2) && decide (ct < 2) && (decide (fo < 0x10) || (decide (fo = 0x16) || decide (fo = 0x17))) && decide (rm < 5)
  | .accwr qp acc hs c ty =>
    decide (qp < 16) && decide (acc < 8) && decide (hs < 16) && decide (c < 2) && decide (ty < 2)
  | .accmov qp accd accs =>
    decide (qp < 16) && decide (accd < 8) && decide (accs < 8)
  | .ringpush qp ring hs =>
    decide (qp < 16) && decide (ring < 8) && decide (hs < 16)
  | .ringdrop qp ring n =>
    decide (qp < 16) && decide (ring < 8) && decide (n < 32) && decide (1 ≤ n) && decide (n ≤ 16)
  | .ringinfo qp sd ring =>
    decide (qp < 16) && decide (sd < 32) && decide (ring < 8)
  | .mprog qp index f sa =>
    decide (qp < 16) && decide (index < 256) && decide (f < 16) && decide (sa < 32)
  | .mprogExt qp index f sa e =>
    decide (qp < 16) && decide (index < 256) && decide (f < 16) && decide (sa < 32) && decide (e < 16)
  | .copyout qp hs sh c red e =>
    decide (qp < 16) && decide (hs < 16) && decide (sh < 8) && decide (c < 2) && decide (red < 4) && decide (e < 16)
  | .copyacc qp acc sh e =>
    decide (qp < 16) && decide (acc < 8) && decide (sh < 8) && decide (e < 16)
  | .stt qp sa hs sz imm9 =>
    decide (qp < 16) && decide (sa < 32) && decide (hs < 16) && decide (sz < 4) && decide (imm9 < 512)
  | .sttr qp sa hs sz sb =>
    decide (qp < 16) && decide (sa < 32) && decide (hs < 16) && decide (sz < 4) && decide (sb < 32)
  | .stg qp sb f sa sz e =>
    decide (qp < 16) && decide (sb < 32) && decide (f < 16) && decide (sa < 32) && decide (sz < 4) && decide (e < 16)
  | .atom qp sd f sa sb aop scope order size e =>
    decide (qp < 16) && decide (sd < 32) && decide (f < 16) && decide (sa < 32) && decide (sb < 32) && decide (aop < 16) && decide (scope < 8) && decide (order < 4) && decide (size < 2) && decide (e < 16) && decide (aop ≤ 8) && decide (scope ≤ 4)
  | .cas qp sd f sa sb scope order size e =>
    decide (qp < 16) && decide (sd < 32) && decide (f < 16) && decide (sa < 32) && decide (sb < 32) && decide (scope < 8) && decide (order < 4) && decide (size < 2) && decide (e < 16) && decide (scope ≤ 4)
  | .send qp ch hs c e =>
    decide (qp < 16) && decide (ch < 256) && decide (hs < 16) && decide (c < 2) && decide (e < 16)
  | .sendt qp ch hs c e thr ctr =>
    decide (qp < 16) && decide (ch < 256) && decide (hs < 16) && decide (c < 2) && decide (e < 16) && decide (thr < 67108864) && decide (ctr < 64)
  | .putr qp ch hs c sa =>
    decide (qp < 16) && decide (ch < 256) && decide (hs < 16) && decide (c < 2) && decide (sa < 32)
  | .ctraddRemote qp ch sa =>
    decide (qp < 16) && decide (ch < 256) && decide (sa < 32)
  | .ctraddLocal qp c sa =>
    decide (qp < 16) && decide (c < 64) && decide (sa < 32)
  | .mbox qp hs c sa e =>
    decide (qp < 16) && decide (hs < 16) && decide (c < 2) && decide (sa < 32) && decide (e < 16)
  | .scatter qp hs hi sh c ci red e =>
    decide (qp < 16) && decide (hs < 16) && decide (hi < 16) && decide (sh < 8) && decide (c < 2) && decide (ci < 2) && decide (red < 4) && decide (e < 16)
  | .prime qp ch hs c reads =>
    decide (qp < 16) && decide (ch < 256) && decide (hs < 16) && decide (c < 2) && decide (reads < 256) && decide (reads ≠ 0)
  | .chunkArrives _ _ _ => true
  | .tileJobComplete _ _ => true
  | .outJobComplete _ _ => true
  | .ldgComplete _ _ => true
  | .jobFault _ _ => true
  | .ovlComplete _ _ => true
  | .vectorResultLands _ _ => true
  | .accrdComplete _ _ => true
  | .routineStart _ _ => true
  | .routineBlockComplete _ _ => true
  | .routineRetire _ _ => true
  | .routineFault _ _ => true
  | .mprogComplete _ _ => true
  | .spawnAccepted _ _ => true
  | .sendFire _ _ => true
  | .sendtFire _ _ => true
  | .sendComplete _ _ => true
  | .primeComplete _ _ => true
  | .serifData _ _ => true
  | .landingComplete _ _ => true
  | .blotDeadline _ _ => true
  | .serifAck _ _ => true
  | .serifNack _ _ => true
  | .slotReady _ _ => true
  | .counterAdd _ _ => true
  | .serifMailbox _ _ => true
  | .refusal _ _ => true
  | .bindNotice _ _ => true
  | .retransmitTimeout _ _ => true
  | .lossOfSignalDead _ _ => true
  | .auditNodeRequest _ _ => true
  | .auditJobComplete _ _ _ => true
  | .rootLogWrite _ => true
  | .nodeEntersWindow _ _ => true
  | .nodeDispatch _ _ => true
  | .taskStart _ => true
  | .steal _ => true
  | .queueStarvation _ _ _ => true
  | .taskComplete _ _ => true
  | .graphComplete _ _ => true
  | .watchdogW1 _ _ => true
  | .watchdogW2 _ _ => true
  | .watchdogW3 _ _ => true
  | .softErrorCorrected _ _ => true
  | .freezeEnd _ => true
  | .padUncorrectable _ => true
  | .bankUncorrectable _ _ => true
  | .doorbell _ _ _ => true
  | .registerWrite _ _ _ _ => true
  | .launch _ _ => true
  | .patch _ _ => true
  | .load _ _ => true
  | .loadComplete _ _ => true
  | .unload _ _ => true
  | .barrier _ _ => true
  | .signal _ _ => true
  | .hostSeal _ _ => true
  | .bind _ _ => true
  | .setchip _ => true
  | .setroute _ => true
  | .retrain _ => true
  | .xinv _ _ _ => true
  | .qrootWrite _ _ _ => true
  | .nodectlRelease _ _ => true
  | .nodectlFail _ _ => true
  | .ufenceClear _ _ => true
  | .ufenceSet _ _ => true
  | .qctlEnable _ _ => true
  | .qctlDisable _ _ => true
  | .poolcfgWrite _ _ _ => true
  | .statrd _ _ => true
  | .getVersion => true
  | .getCapabilities => true
  | .negotiateAlgorithms => true
  | .getDigests => true
  | .getCertificate _ _ _ => true
  | .challenge _ _ => true
  | .getMeasurements _ _ _ => true
  | .unsupportedRequest _ => true
  | .importRegion _ => true
  | .release _ => true
  | .signLogHead => true
  | .meterRefill => true
  | .crossingGrant _ _ => true
  | .powerOn _ => true
  | .thermalGate _ => true
  | .thermalShutdown => true
  | .fixedLatencyResultLands _ _ _ => true
  | .slotStorageReturns _ _ => true
  | .mboxLocalDelivery _ => true
  | .auditConfigTakesEffect _ _ => true
  | .fecFailure _ _ => true
  | .lossOfSignalChanges _ _ _ => true
  | .linkTrainingComplete _ => true
  | .thermalGateRelease _ => true

end Sys2Proof
end

