-- ==== Sys2Proof/Decode.lean ====
section
/-!
DEFINITION. Bundles and syllables as bits: the decoder, total on any bytes and refusing by name, and the encoder
written from the same tables (03_bundles.md R55-R60, R69-R77; the field tables of chapters 08-14, 16, 18, 19).
-/
set_option Elab.async false

namespace Sys2Proof

/-- Bits `[lo + n - 1 : lo]` of `w` (R1). -/
def fld (w lo n : Nat) : Nat := w / 2 ^ lo % 2 ^ n

/-- Little-endian value of a byte string (R1). -/
def leVal : Bytes → Nat
  | [] => 0
  | b :: bs => b.toNat + 256 * leVal bs

/-- The `n` low bytes of `v`, little-endian (R1). -/
def leBytes : Nat → Nat → Bytes
  | 0, _ => []
  | n + 1, v => BitVec.ofNat 8 v :: leBytes n (v / 256)

/-- The value of the `n`-bit two's-complement pattern `v`. -/
def sext (n v : Nat) : Int := if v < 2 ^ (n - 1) then v else (v : Int) - 2 ^ n

/-- Why a syllable does not decode (R68, decode reasons 1, 2, 4 and 5). -/
inductive DecErr where
  | reservedOp
  | undefinedFn
  | reservedField
  | wrongX
  deriving DecidableEq, Repr

/-- What a syllable decodes to. -/
inductive Decoded where
  | ok (i : Instr)
  | err (e : DecErr)
  deriving DecidableEq, Repr

/-- One syllable as it stands in a bundle: the slot's header bit, the word, and its extension (0 when X is 0). -/
structure Syl where
  slot : Nat
  w : Nat
  ext : Nat
  deriving DecidableEq, Repr

/-- The end of a syllable's decoding: the fields in their table order, then the X rule (R68 orders 5 and 6). -/
def decFin (ok4 okX : Bool) (i : Instr) : Decoded :=
  if !ok4 then .err .reservedField else if !okX then .err .wrongX else .ok i

/-- The scalar slot's syllables (R70): word `w`, extension `e`. -/
def decodeA (w e : Nat) : Decoded :=
  let x := fld w 25 1
  match fld w 26 6 with
  | 0 =>
    match fld w 0 6 with
    | 0 => decFin (true) (x == 0) (.add (fld w 21 4) (fld w 16 5) (fld w 11 5) (fld w 6 5))
    | 1 => decFin (true) (x == 0) (.sub (fld w 21 4) (fld w 16 5) (fld w 11 5) (fld w 6 5))
    | 2 => decFin (true) (x == 0) (.and (fld w 21 4) (fld w 16 5) (fld w 11 5) (fld w 6 5))
    | 3 => decFin (true) (x == 0) (.or (fld w 21 4) (fld w 16 5) (fld w 11 5) (fld w 6 5))
    | 4 => decFin (true) (x == 0) (.xor (fld w 21 4) (fld w 16 5) (fld w 11 5) (fld w 6 5))
    | 5 => decFin (true) (x == 0) (.shl (fld w 21 4) (fld w 16 5) (fld w 11 5) (fld w 6 5))
    | 6 => decFin (true) (x == 0) (.shr (fld w 21 4) (fld w 16 5) (fld w 11 5) (fld w 6 5))
    | 7 => decFin (true) (x == 0) (.sar (fld w 21 4) (fld w 16 5) (fld w 11 5) (fld w 6 5))
    | 8 => decFin (true) (x == 0) (.mul (fld w 21 4) (fld w 16 5) (fld w 11 5) (fld w 6 5))
    | 9 => decFin (true) (x == 0) (.mulh (fld w 21 4) (fld w 16 5) (fld w 11 5) (fld w 6 5))
    | 10 => decFin (true) (x == 0) (.mulhn (fld w 21 4) (fld w 16 5) (fld w 11 5) (fld w 6 5))
    | 11 => decFin (true) (x == 0) (.div (fld w 21 4) (fld w 16 5) (fld w 11 5) (fld w 6 5))
    | 12 => decFin (true) (x == 0) (.divn (fld w 21 4) (fld w 16 5) (fld w 11 5) (fld w 6 5))
    | 13 => decFin (true) (x == 0) (.rem (fld w 21 4) (fld w 16 5) (fld w 11 5) (fld w 6 5))
    | 14 => decFin (true) (x == 0) (.remn (fld w 21 4) (fld w 16 5) (fld w 11 5) (fld w 6 5))
    | 15 => decFin (true) (x == 0) (.min (fld w 21 4) (fld w 16 5) (fld w 11 5) (fld w 6 5))
    | 16 => decFin (true) (x == 0) (.max (fld w 21 4) (fld w 16 5) (fld w 11 5) (fld w 6 5))
    | 17 => decFin (true) (x == 0) (.minn (fld w 21 4) (fld w 16 5) (fld w 11 5) (fld w 6 5))
    | 18 => decFin (true) (x == 0) (.maxn (fld w 21 4) (fld w 16 5) (fld w 11 5) (fld w 6 5))
    | 19 => decFin (fld w 6 5 == 0) (x == 0) (.clz (fld w 21 4) (fld w 16 5) (fld w 11 5))
    | 20 => decFin (fld w 6 5 == 0) (x == 0) (.ctz (fld w 21 4) (fld w 16 5) (fld w 11 5))
    | 21 => decFin (fld w 6 5 == 0) (x == 0) (.popc (fld w 21 4) (fld w 16 5) (fld w 11 5))
    | 22 => decFin (true) (x == 0) (.andn (fld w 21 4) (fld w 16 5) (fld w 11 5) (fld w 6 5))
    | 23 => decFin (true) (x == 0) (.orn (fld w 21 4) (fld w 16 5) (fld w 11 5) (fld w 6 5))
    | _ => .err .undefinedFn
  | 1 => if x == 0 then decFin (true) (true) (.addi (fld w 21 4) (fld w 16 5) (fld w 11 5) (fld w 0 11))
    else decFin (true) (true) (.addiExt (fld w 21 4) (fld w 16 5) (fld w 11 5) (fld w 0 11) (fld e 0 32))
  | 2 => if x == 0 then decFin (true) (true) (.andi (fld w 21 4) (fld w 16 5) (fld w 11 5) (fld w 0 11))
    else decFin (true) (true) (.andiExt (fld w 21 4) (fld w 16 5) (fld w 11 5) (fld w 0 11) (fld e 0 32))
  | 3 => if x == 0 then decFin (true) (true) (.ori (fld w 21 4) (fld w 16 5) (fld w 11 5) (fld w 0 11))
    else decFin (true) (true) (.oriExt (fld w 21 4) (fld w 16 5) (fld w 11 5) (fld w 0 11) (fld e 0 32))
  | 4 => if x == 0 then decFin (true) (true) (.xori (fld w 21 4) (fld w 16 5) (fld w 11 5) (fld w 0 11))
    else decFin (true) (true) (.xoriExt (fld w 21 4) (fld w 16 5) (fld w 11 5) (fld w 0 11) (fld e 0 32))
  | 5 => if x == 0 then decFin (decide ((fld w 0 11) < 64)) (true) (.shli (fld w 21 4) (fld w 16 5) (fld w 11 5) (fld w 0 11))
    else decFin (decide ((fld e 0 32) = 0) && decide ((fld w 0 11) < 64)) (true) (.shliExt (fld w 21 4) (fld w 16 5) (fld w 11 5) (fld w 0 11) (fld e 0 32))
  | 6 => if x == 0 then decFin (decide ((fld w 0 11) < 64)) (true) (.shri (fld w 21 4) (fld w 16 5) (fld w 11 5) (fld w 0 11))
    else decFin (decide ((fld e 0 32) = 0) && decide ((fld w 0 11) < 64)) (true) (.shriExt (fld w 21 4) (fld w 16 5) (fld w 11 5) (fld w 0 11) (fld e 0 32))
  | 7 => if x == 0 then decFin (decide ((fld w 0 11) < 64)) (true) (.sari (fld w 21 4) (fld w 16 5) (fld w 11 5) (fld w 0 11))
    else decFin (decide ((fld e 0 32) = 0) && decide ((fld w 0 11) < 64)) (true) (.sariExt (fld w 21 4) (fld w 16 5) (fld w 11 5) (fld w 0 11) (fld e 0 32))
  | 8 => if x == 0 then decFin (true) (true) (.muli (fld w 21 4) (fld w 16 5) (fld w 11 5) (fld w 0 11))
    else decFin (true) (true) (.muliExt (fld w 21 4) (fld w 16 5) (fld w 11 5) (fld w 0 11) (fld e 0 32))
  | 9 => if x == 0 then decFin (true) (true) (.movi (fld w 21 4) (fld w 16 5) (fld w 0 16))
    else decFin (true) (true) (.moviExt (fld w 21 4) (fld w 16 5) (fld w 0 16) (fld e 0 32))
  | 10 => decFin (true) (x == 0) (.movhi (fld w 21 4) (fld w 16 5) (fld w 0 16))
  | 11 => decFin (true) (x == 0) (.cmp (fld w 21 4) (fld w 17 4) (fld w 13 4) (fld w 8 5) (fld w 3 5) (fld w 0 3))
  | 12 => if x == 0 then decFin (true) (true) (.cmpi (fld w 21 4) (fld w 17 4) (fld w 13 4) (fld w 8 5) (fld w 3 5) (fld w 0 3))
    else decFin (true) (true) (.cmpiExt (fld w 21 4) (fld w 17 4) (fld w 13 4) (fld w 8 5) (fld w 3 5) (fld w 0 3) (fld e 0 32))
  | 13 => decFin (fld w 0 2 == 0) (x == 0) (.sel (fld w 21 4) (fld w 16 5) (fld w 11 5) (fld w 6 5) (fld w 2 4))
  | 14 => decFin (fld w 0 11 == 0 && fld e 6 2 == 0 && fld e 14 18 == 0 && decide ((fld e 0 6) + (fld e 8 6) + 1 ≤ 64)) (x == 1) (.bfx (fld w 21 4) (fld w 16 5) (fld w 11 5) (fld e 0 6) (fld e 8 6))
  | 15 => decFin (fld w 0 11 == 0 && fld e 6 2 == 0 && fld e 14 18 == 0 && decide ((fld e 0 6) + (fld e 8 6) + 1 ≤ 64)) (x == 1) (.bfxs (fld w 21 4) (fld w 16 5) (fld w 11 5) (fld e 0 6) (fld e 8 6))
  | 16 => decFin (fld w 0 11 == 0 && fld e 6 2 == 0 && fld e 14 18 == 0 && decide ((fld e 0 6) + (fld e 8 6) + 1 ≤ 64)) (x == 1) (.bfi (fld w 21 4) (fld w 16 5) (fld w 11 5) (fld e 0 6) (fld e 8 6))
  | 17 => decFin (fld w 3 3 == 0) (x == 0) (.lea (fld w 21 4) (fld w 16 5) (fld w 11 5) (fld w 6 5) (fld w 0 3))
  | 18 => decFin (fld w 8 8 == 0 && (decide ((fld w 0 8) < 6) || (decide (8 ≤ (fld w 0 8)) && decide ((fld w 0 8) ≤ 15)))) (x == 0) (.movs (fld w 21 4) (fld w 16 5) (fld w 0 8))
  | _ => .err .reservedOp

/-- The control, system and audit slot's syllables (R71): word `w`, extension `e`. -/
def decodeB (w e : Nat) : Decoded :=
  let x := fld w 25 1
  match fld w 26 6 with
  | 0 => if x == 0 then decFin (true) (true) (.br (fld w 21 4) (fld w 0 21))
    else decFin (true) (true) (.brExt (fld w 21 4) (fld w 0 21) (fld e 0 32))
  | 1 => if x == 0 then decFin (true) (true) (.call (fld w 21 4) (fld w 0 21))
    else decFin (true) (true) (.callExt (fld w 21 4) (fld w 0 21) (fld e 0 32))
  | 2 => decFin (fld w 0 16 == 0) (x == 0) (.brs (fld w 21 4) (fld w 16 5))
  | 3 => decFin (fld w 0 16 == 0) (x == 0) (.calls (fld w 21 4) (fld w 16 5))
  | 4 => decFin (fld w 11 5 == 0) (x == 0) (.loop (fld w 21 4) (fld w 16 5) (fld w 0 11))
  | 5 => if x == 0 then decFin (true) (true) (.loopi (fld w 21 4) (fld w 11 10) (fld w 0 11))
    else decFin (true) (true) (.loopiExt (fld w 21 4) (fld w 11 10) (fld w 0 11) (fld e 0 32))
  | 6 => decFin (true) (x == 0) (.loopr (fld w 21 4) (fld w 16 5) (fld w 12 4) (fld w 0 12))
  | 7 => decFin (fld w 0 21 == 0) (x == 0) (.lbreak (fld w 21 4))
  | 8 => decFin (fld w 3 6 == 0 && (decide ((fld w 0 3) < 5) || (decide ((fld w 9 4) = 0) && (decide ((fld w 0 3) = 5) || decide ((fld w 13 4) = 0))))) (x == 0) (.plog (fld w 21 4) (fld w 17 4) (fld w 13 4) (fld w 9 4) (fld w 0 3))
  | 9 => decFin (fld w 0 16 == 0) (x == 0) (.fmtset (fld w 21 4) (fld w 16 5))
  | 10 => decFin (fld w 0 21 == 0) (x == 1) (.fmtseti (fld w 21 4) (fld e 0 32))
  | 11 => decFin (fld w 0 9 == 0 && decide ((fld w 17 4) ≠ 0) && decide ((fld w 9 8) ≠ 0)) (x == 0) (.semwait (fld w 21 4) (fld w 17 4) (fld w 9 8))
  | 12 => decFin (fld w 0 9 == 0 && decide ((fld w 17 4) ≠ 0) && decide ((fld w 9 8) ≠ 0)) (x == 0) (.semsig (fld w 21 4) (fld w 17 4) (fld w 9 8))
  | 13 => decFin (fld w 0 9 == 0) (x == 0) (.waitc (fld w 21 4) (fld w 17 4) (fld w 14 3) (fld w 9 5))
  | 14 => decFin (fld w 0 10 == 0) (x == 0) (.ctrwait (fld w 21 4) (fld w 15 6) (fld w 10 5))
  | 15 => decFin (fld w 0 21 == 0) (x == 0) (.tfence (fld w 21 4))
  | 16 => decFin (fld w 0 13 == 0 && decide ((fld w 13 3) ≤ 4)) (x == 0) (.fence (fld w 21 4) (fld w 16 5) (fld w 13 3))
  | 17 => decFin (fld w 0 21 == 0) (x == 0) (.taskend (fld w 21 4))
  | 18 => if x == 0 then decFin (fld w 0 8 == 0) (true) (.spawn (fld w 21 4) (fld w 17 4) (fld w 12 5) (fld w 8 4))
    else decFin (fld w 0 8 == 0 && fld e 1 31 == 0) (true) (.spawnOverlap (fld w 21 4) (fld w 17 4) (fld w 12 5) (fld w 8 4) (fld e 0 1))
  | 19 => decFin (fld w 0 21 == 0) (x == 0) (.yield (fld w 21 4))
  | 20 => decFin (fld w 0 11 == 0) (x == 0) (.statpop (fld w 21 4) (fld w 16 5) (fld w 11 5))
  | 32 => decFin (fld w 16 5 == 0) (x == 0) (.trap (fld w 21 4) (fld w 0 16))
  | 33 => decFin (fld w 0 21 == 0) (x == 0) (.eret (fld w 21 4))
  | 34 => decFin (true) (x == 0) (.csrr (fld w 21 4) (fld w 16 5) (fld w 11 5) (fld w 0 11))
  | 35 => decFin (true) (x == 0) (.csrw (fld w 21 4) (fld w 16 5) (fld w 11 5) (fld w 0 11))
  | 36 => decFin (fld w 0 16 == 0) (x == 0) (.jobres (fld w 21 4) (fld w 16 5))
  | 37 => decFin (fld w 0 21 == 0) (x == 0) (.iflush (fld w 21 4))
  | 38 =>
    match fld w 0 3 with
    | 0 => decFin (fld w 3 3 == 0 && fld e 6 26 == 0) (x == 1) (.capopDerive (fld w 21 4) (fld w 16 5) (fld w 11 5) (fld w 6 5) (fld e 0 6))
    | 1 => decFin (fld w 3 3 == 0) (x == 0) (.capopRevoke (fld w 21 4) (fld w 16 5) (fld w 11 5) (fld w 6 5))
    | 2 => decFin (fld w 3 3 == 0) (x == 0) (.capopInfo (fld w 21 4) (fld w 16 5) (fld w 11 5) (fld w 6 5))
    | 3 => decFin (fld w 3 3 == 0) (x == 0) (.capopFree (fld w 21 4) (fld w 16 5) (fld w 11 5) (fld w 6 5))
    | _ => .err .undefinedFn
  | 39 =>
    match fld w 0 5 with
    | 0 => decFin (fld w 5 1 == 0) (x == 0) (.ctxctlStop (fld w 21 4) (fld w 16 5) (fld w 11 5) (fld w 6 5))
    | 1 => decFin (fld w 5 1 == 0) (x == 0) (.ctxctlGo (fld w 21 4) (fld w 16 5) (fld w 11 5) (fld w 6 5))
    | 2 => decFin (fld w 5 1 == 0) (x == 0) (.ctxctlKill (fld w 21 4) (fld w 16 5) (fld w 11 5) (fld w 6 5))
    | 3 => decFin (fld w 5 1 == 0 && fld e 16 16 == 0 && decide ((fld e 0 16) % 8 = 0) && decide ((fld e 0 16) ≤ 4088)) (x == 1) (.ctxctlRead (fld w 21 4) (fld w 16 5) (fld w 11 5) (fld w 6 5) (fld e 0 16))
    | 4 => decFin (fld w 5 1 == 0 && fld e 16 16 == 0 && decide ((fld e 0 16) % 8 = 0) && decide ((fld e 0 16) ≤ 4088)) (x == 1) (.ctxctlWrite (fld w 21 4) (fld w 16 5) (fld w 11 5) (fld w 6 5) (fld e 0 16))
    | 5 => decFin (fld w 5 1 == 0 && fld e 2 30 == 0) (x == 1) (.ctxctlBrkSet (fld w 21 4) (fld w 16 5) (fld w 11 5) (fld w 6 5) (fld e 0 2))
    | 6 => decFin (fld w 5 1 == 0 && fld e 2 30 == 0) (x == 1) (.ctxctlBrkClr (fld w 21 4) (fld w 16 5) (fld w 11 5) (fld w 6 5) (fld e 0 2))
    | 7 => decFin (fld w 5 1 == 0) (x == 0) (.ctxctlTestMode (fld w 21 4) (fld w 16 5) (fld w 11 5) (fld w 6 5))
    | _ => .err .undefinedFn
  | 48 => decFin (fld w 0 11 == 0) (x == 0) (.audmark (fld w 21 4) (fld w 16 5) (fld w 11 5))
  | 49 =>
    match fld w 0 3 with
    | 0 => decFin (fld w 3 4 == 0 && decide ((fld w 12 4) = 0)) (x == 0) (.audsealSeal (fld w 21 4) (fld w 16 5) (fld w 12 4) (fld w 7 5))
    | 1 => decFin (fld w 3 4 == 0) (x == 0) (.audsealConfig (fld w 21 4) (fld w 16 5) (fld w 12 4) (fld w 7 5))
    | _ => .err .undefinedFn
  | 50 => decFin (fld w 4 3 == 0) (x == 0) (.audbisect (fld w 21 4) (fld w 16 5) (fld w 12 4) (fld w 7 5) (fld w 0 4))
  | 51 => decFin (fld w 4 3 == 0) (x == 0) (.audref (fld w 21 4) (fld w 16 5) (fld w 12 4) (fld w 7 5) (fld w 0 4))
  | 52 => decFin (fld w 4 3 == 0) (x == 0) (.audreplay (fld w 21 4) (fld w 16 5) (fld w 12 4) (fld w 7 5) (fld w 0 4))
  | 53 => decFin (fld w 0 14 == 0 && decide ((fld w 14 3) ≤ 2)) (x == 0) (.audroot (fld w 21 4) (fld w 17 4) (fld w 14 3))
  | _ => .err .reservedOp

/-- The descriptor slot's syllables (R72): word `w`, extension `e`. -/
def decodeD (w e : Nat) : Decoded :=
  let x := fld w 25 1
  match fld w 26 6 with
  | 0 => decFin (fld w 0 8 == 0 && decide ((fld w 13 5) < 20)) (x == 0) (.shset (fld w 21 4) (fld w 18 3) (fld w 13 5) (fld w 8 5))
  | 1 => decFin (fld w 0 13 == 0 && decide ((fld w 13 5) < 20)) (x == 1) (.shseti (fld w 21 4) (fld w 18 3) (fld w 13 5) (fld e 0 32))
  | 2 => decFin (fld w 0 15 == 0) (x == 0) (.shcopy (fld w 21 4) (fld w 18 3) (fld w 15 3))
  | 3 => decFin (fld w 0 11 == 0) (x == 0) (.shstep (fld w 21 4) (fld w 18 3) (fld w 16 2) (fld w 11 5))
  | 4 => decFin (fld w 0 12 == 0 && decide ((fld w 18 3) ≠ 5) && decide ((fld w 18 3) ≠ 7)) (x == 0) (.mpset (fld w 21 4) (fld w 18 3) (fld w 17 1) (fld w 12 5))
  | 5 => decFin (fld w 0 16 == 0 && decide ((fld w 18 3) ≠ 5) && decide ((fld w 18 3) ≠ 7)) (x == 1) (.mpseti (fld w 21 4) (fld w 18 3) (fld w 16 2) (fld e 0 32))
  | 6 => decFin (fld w 0 3 == 0) (x == 0) (.vshape (fld w 21 4) (fld w 14 7) (fld w 3 11))
  | 7 => decFin (fld w 0 1 == 0) (x == 0) (.fpnarrow (fld w 21 4) (fld w 17 4) (fld w 13 4) (fld w 11 2) (fld w 6 5) (fld w 1 5))
  | 8 => decFin (fld w 0 7 == 0 && (if (fld w 15 1) = 0 then decide ((fld w 7 5) < 20) else decide ((fld w 7 5) < 2))) (x == 0) (.shrd (fld w 21 4) (fld w 16 5) (fld w 15 1) (fld w 12 3) (fld w 7 5))
  | _ => .err .reservedOp

/-- The copy slot's syllables (R73): word `w`, extension `e`. -/
def decodeL (w _e : Nat) : Decoded :=
  let x := fld w 25 1
  match fld w 26 6 with
  | 0 => decFin (fld w 0 5 == 0) (x == 0) (.alloc (fld w 21 4) (fld w 17 4) (fld w 13 4) (fld w 5 8))
  | 1 => decFin (fld w 0 8 == 0) (x == 0) (.allocr (fld w 21 4) (fld w 17 4) (fld w 13 4) (fld w 8 5))
  | 2 => decFin (fld w 0 1 == 0) (x == 0) (.alloct (fld w 21 4) (fld w 17 4) (fld w 13 4) (fld w 5 8) (fld w 1 4))
  | 3 => decFin (fld w 0 10 == 0) (x == 0) (.copyin (fld w 21 4) (fld w 17 4) (fld w 14 3) (fld w 10 4))
  | 4 => decFin (fld w 0 11 == 0) (x == 0) (.gpush (fld w 21 4) (fld w 17 4) (fld w 12 5) (fld w 11 1))
  | 5 => decFin (fld w 0 10 == 0) (x == 0) (.gather (fld w 21 4) (fld w 17 4) (fld w 14 3) (fld w 10 4))
  | 6 => decFin (fld w 0 8 == 0) (x == 0) (.tmove (fld w 21 4) (fld w 17 4) (fld w 13 4) (fld w 12 1) (fld w 8 4))
  | 7 => decFin ((decide ((fld w 10 2) < 3) || decide ((fld w 9 1) = 0))) (x == 0) (.ldt (fld w 21 4) (fld w 16 5) (fld w 12 4) (fld w 10 2) (fld w 9 1) (fld w 0 9))
  | 8 => decFin (fld w 0 4 == 0 && (decide ((fld w 10 2) < 3) || decide ((fld w 9 1) = 0))) (x == 0) (.ldtr (fld w 21 4) (fld w 16 5) (fld w 12 4) (fld w 10 2) (fld w 9 1) (fld w 4 5))
  | 9 => decFin ((decide ((fld w 5 2) < 3) || decide ((fld w 4 1) = 0))) (x == 0) (.ldg (fld w 21 4) (fld w 16 5) (fld w 12 4) (fld w 7 5) (fld w 5 2) (fld w 4 1) (fld w 0 4))
  | 10 => decFin (fld w 0 6 == 0) (x == 0) (.tread (fld w 21 4) (fld w 16 5) (fld w 12 4) (fld w 11 1) (fld w 6 5))
  | 11 => decFin (fld w 0 17 == 0) (x == 0) (.trel (fld w 21 4) (fld w 17 4))
  | 12 => decFin (fld w 0 8 == 0 && decide ((fld w 8 4) < 12)) (x == 0) (.tinfo (fld w 21 4) (fld w 16 5) (fld w 12 4) (fld w 8 4))
  | 13 => decFin (fld w 0 3 == 0) (x == 0) (.ovl (fld w 21 4) (fld w 17 4) (fld w 12 5) (fld w 7 5) (fld w 3 4))
  | 14 => decFin (fld w 0 4 == 0) (x == 0) (.landh (fld w 21 4) (fld w 17 4) (fld w 9 8) (fld w 4 5))
  | _ => .err .reservedOp

/-- The vector slot's syllables (R74): word `w`, extension `e`. -/
def decodeV (w e : Nat) : Decoded :=
  let x := fld w 25 1
  match fld w 26 6 with
  | 0 => if decide (5 ≤ (fld w 0 4)) then .err .undefinedFn
    else decFin ((decide ((fld w 0 4) = 0) || decide ((fld w 6 3) < 3))) (x == 0) (.vadd (fld w 21 4) (fld w 17 4) (fld w 13 4) (fld w 9 4) (fld w 6 3) (fld w 5 1) (fld w 4 1) (fld w 0 4))
  | 1 => if decide (5 ≤ (fld w 0 4)) then .err .undefinedFn
    else decFin ((decide ((fld w 0 4) = 0) || decide ((fld w 6 3) < 3))) (x == 0) (.vsub (fld w 21 4) (fld w 17 4) (fld w 13 4) (fld w 9 4) (fld w 6 3) (fld w 5 1) (fld w 4 1) (fld w 0 4))
  | 2 => if decide (5 ≤ (fld w 0 4)) then .err .undefinedFn
    else decFin ((decide ((fld w 0 4) = 0) || decide ((fld w 6 3) < 3))) (x == 0) (.vmul (fld w 21 4) (fld w 17 4) (fld w 13 4) (fld w 9 4) (fld w 6 3) (fld w 5 1) (fld w 4 1) (fld w 0 4))
  | 3 => if decide (5 ≤ (fld w 0 4)) then .err .undefinedFn
    else decFin ((decide ((fld w 0 4) = 0) || decide ((fld w 6 3) < 3))) (x == 0) (.vfma (fld w 21 4) (fld w 17 4) (fld w 13 4) (fld w 9 4) (fld w 6 3) (fld w 5 1) (fld w 4 1) (fld w 0 4))
  | 4 => if fld w 0 4 != 0 then .err .undefinedFn
    else decFin (true) (x == 0) (.vmin (fld w 21 4) (fld w 17 4) (fld w 13 4) (fld w 9 4) (fld w 6 3) (fld w 5 1) (fld w 4 1))
  | 5 => if fld w 0 4 != 0 then .err .undefinedFn
    else decFin (true) (x == 0) (.vmax (fld w 21 4) (fld w 17 4) (fld w 13 4) (fld w 9 4) (fld w 6 3) (fld w 5 1) (fld w 4 1))
  | 6 => if fld w 0 4 != 0 then .err .undefinedFn
    else decFin (true) (x == 0) (.vand (fld w 21 4) (fld w 17 4) (fld w 13 4) (fld w 9 4) (fld w 6 3) (fld w 5 1) (fld w 4 1))
  | 7 => if fld w 0 4 != 0 then .err .undefinedFn
    else decFin (true) (x == 0) (.vor (fld w 21 4) (fld w 17 4) (fld w 13 4) (fld w 9 4) (fld w 6 3) (fld w 5 1) (fld w 4 1))
  | 8 => if fld w 0 4 != 0 then .err .undefinedFn
    else decFin (true) (x == 0) (.vxor (fld w 21 4) (fld w 17 4) (fld w 13 4) (fld w 9 4) (fld w 6 3) (fld w 5 1) (fld w 4 1))
  | 9 => if fld w 0 4 != 0 then .err .undefinedFn
    else decFin (decide (3 ≤ (fld w 6 3))) (x == 0) (.vshl (fld w 21 4) (fld w 17 4) (fld w 13 4) (fld w 9 4) (fld w 6 3) (fld w 5 1) (fld w 4 1))
  | 10 => if fld w 0 4 != 0 then .err .undefinedFn
    else decFin (decide (3 ≤ (fld w 6 3))) (x == 0) (.vshr (fld w 21 4) (fld w 17 4) (fld w 13 4) (fld w 9 4) (fld w 6 3) (fld w 5 1) (fld w 4 1))
  | 11 => if decide (6 ≤ (fld w 0 4)) then .err .undefinedFn
    else decFin (true) (x == 0) (.vcmp (fld w 21 4) (fld w 17 4) (fld w 13 4) (fld w 9 4) (fld w 6 3) (fld w 5 1) (fld w 4 1) (fld w 0 4))
  | 12 => if fld w 0 4 != 0 then .err .undefinedFn
    else decFin (true) (x == 0) (.vsel (fld w 21 4) (fld w 17 4) (fld w 13 4) (fld w 9 4) (fld w 6 3) (fld w 5 1) (fld w 4 1))
  | 13 => if fld w 0 4 != 0 then .err .undefinedFn
    else decFin (fld w 4 1 == 0 && fld w 9 4 == 0) (x == 0) (.vabs (fld w 21 4) (fld w 17 4) (fld w 13 4) (fld w 6 3) (fld w 5 1))
  | 14 => if fld w 0 4 != 0 then .err .undefinedFn
    else decFin (fld w 4 1 == 0 && fld w 9 4 == 0) (x == 0) (.vneg (fld w 21 4) (fld w 17 4) (fld w 13 4) (fld w 6 3) (fld w 5 1))
  | 15 => if fld w 0 4 != 0 then .err .undefinedFn
    else decFin (fld w 4 1 == 0 && fld w 9 4 == 0) (x == 0) (.vmov (fld w 21 4) (fld w 17 4) (fld w 13 4) (fld w 6 3) (fld w 5 1))
  | 16 => if fld w 0 4 != 0 then .err .undefinedFn
    else if x == 0 then decFin (fld w 4 2 == 0 && fld w 9 8 == 0) (true) (.vfill (fld w 21 4) (fld w 17 4) (fld w 6 3))
    else decFin (fld w 4 2 == 0 && fld w 9 8 == 0 && (if (fld w 6 3) = 0 ∨ (fld w 6 3) = 3 then true else if (fld w 6 3) = 5 ∨ (fld w 6 3) = 6 then decide ((fld e 0 32) < 256) else decide ((fld e 0 32) < 65536))) (true) (.vfillExt (fld w 21 4) (fld w 17 4) (fld w 6 3) (fld e 0 32))
  | 17 => if fld w 0 4 != 0 then .err .undefinedFn
    else decFin (fld w 4 1 == 0 && fld w 9 4 == 0) (x == 0) (.vbrow (fld w 21 4) (fld w 17 4) (fld w 13 4) (fld w 6 3) (fld w 5 1))
  | 18 => if fld w 0 4 != 0 then .err .undefinedFn
    else decFin (fld w 4 1 == 0 && fld w 9 4 == 0) (x == 0) (.vbcol (fld w 21 4) (fld w 17 4) (fld w 13 4) (fld w 6 3) (fld w 5 1))
  | 19 => if fld w 0 4 != 0 then .err .undefinedFn
    else decFin (fld w 4 1 == 0 && fld w 9 4 == 0) (x == 0) (.vtrans (fld w 21 4) (fld w 17 4) (fld w 13 4) (fld w 6 3) (fld w 5 1))
  | 20 => if decide (5 ≤ (fld w 0 4)) then .err .undefinedFn
    else decFin (fld w 4 1 == 0 && fld w 9 4 == 0 && fld e 3 29 == 0 && decide ((fld w 6 3) < 3) && decide ((fld e 0 3) < 6)) (x == 1) (.vsfu (fld w 21 4) (fld w 17 4) (fld w 13 4) (fld w 6 3) (fld w 5 1) (fld w 0 4) (fld e 0 3))
  | 21 => if decide (5 ≤ (fld w 0 4)) then .err .undefinedFn
    else decFin (fld w 4 1 == 0 && fld w 9 4 == 0 && (decide ((fld w 0 4) = 0) || decide ((fld w 6 3) < 3))) (x == 0) (.vrsum (fld w 21 4) (fld w 17 4) (fld w 13 4) (fld w 6 3) (fld w 5 1) (fld w 0 4))
  | 22 => if fld w 0 4 != 0 then .err .undefinedFn
    else decFin (fld w 4 1 == 0 && fld w 9 4 == 0) (x == 0) (.vrmax (fld w 21 4) (fld w 17 4) (fld w 13 4) (fld w 6 3) (fld w 5 1))
  | 23 => if decide (5 ≤ (fld w 0 4)) then .err .undefinedFn
    else decFin (fld w 4 1 == 0 && fld w 9 4 == 0 && (decide ((fld w 0 4) = 0) || decide ((fld w 6 3) < 3))) (x == 0) (.vcsum (fld w 21 4) (fld w 17 4) (fld w 13 4) (fld w 6 3) (fld w 5 1) (fld w 0 4))
  | 24 => if fld w 0 4 != 0 then .err .undefinedFn
    else decFin (fld w 4 1 == 0 && fld w 9 4 == 0) (x == 0) (.vcmax (fld w 21 4) (fld w 17 4) (fld w 13 4) (fld w 6 3) (fld w 5 1))
  | 25 => if decide (5 ≤ (fld w 0 4)) then .err .undefinedFn
    else decFin ((decide ((fld w 0 4) = 0) || decide ((fld w 6 3) < 3))) (x == 0) (.vdot (fld w 21 4) (fld w 17 4) (fld w 13 4) (fld w 9 4) (fld w 6 3) (fld w 5 1) (fld w 4 1) (fld w 0 4))
  | 26 => if decide (5 ≤ (fld w 0 4)) then .err .undefinedFn
    else decFin (decide ((fld w 6 3) < 3)) (x == 0) (.vmacc (fld w 21 4) (fld w 17 4) (fld w 13 4) (fld w 9 4) (fld w 6 3) (fld w 5 1) (fld w 4 1) (fld w 0 4))
  | 27 => if decide (5 ≤ (fld w 0 4)) then .err .undefinedFn
    else decFin (fld w 4 1 == 0 && fld w 6 7 == 0 && fld e 14 18 == 0 && ((decide ((fld e 0 6) < 0x10) || decide ((fld e 0 6) = 0x20)) || decide ((fld e 0 6) = 0x21)) && (((decide ((fld e 6 6) < 0x10) || decide ((fld e 6 6) = 0x16)) || decide ((fld e 6 6) = 0x17)) || (decide ((fld e 6 6) = 0x20) || decide ((fld e 6 6) = 0x21))) && (decide ((fld e 13 1) = 0) || decide ((fld w 0 4) = 4))) (x == 1) (.vcvt (fld w 21 4) (fld w 17 4) (fld w 13 4) (fld w 5 1) (fld w 0 4) (fld e 0 6) (fld e 6 6) (fld e 12 1) (fld e 13 1))
  | 28 => if decide (5 ≤ (fld w 0 4)) then .err .undefinedFn
    else decFin (decide ((fld w 6 3) < 3) && (x == 0 || fld e 11 21 == 0 && ((decide (8 ≤ (fld e 0 5)) && decide ((fld e 0 5) ≤ 0xC)) || (decide ((fld e 0 5) = 0x16) || decide ((fld e 0 5) = 0x17))) && (if (fld e 0 5) = 0x16 ∨ (fld e 0 5) = 0x17 then decide ((fld e 6 4) ≠ 0) else decide ((fld e 6 4) = 0)) && (decide ((fld e 10 1) = 1) || decide ((fld w 4 1) = 0)))) (x == 1) (.vqnt (fld w 21 4) (fld w 17 4) (fld w 13 4) (fld w 9 4) (fld w 6 3) (fld w 5 1) (fld w 4 1) (fld w 0 4) (fld e 0 5) (fld e 5 1) (fld e 6 4) (fld e 10 1))
  | 29 => if decide (5 ≤ (fld w 0 4)) then .err .undefinedFn
    else decFin (decide ((fld w 6 3) < 3) && (x == 0 || fld e 11 21 == 0 && ((decide (8 ≤ (fld e 0 5)) && decide ((fld e 0 5) ≤ 0xC)) || (decide ((fld e 0 5) = 0x16) || decide ((fld e 0 5) = 0x17))) && (if (fld e 0 5) = 0x16 ∨ (fld e 0 5) = 0x17 then true else decide ((fld e 6 4) = 0)))) (x == 1) (.vdqnt (fld w 21 4) (fld w 17 4) (fld w 13 4) (fld w 9 4) (fld w 6 3) (fld w 5 1) (fld w 4 1) (fld w 0 4) (fld e 0 5) (fld e 5 1) (fld e 6 4) (fld e 10 1))
  | 30 => if decide (5 ≤ (fld w 0 4)) then .err .undefinedFn
    else decFin ((decide ((fld w 0 4) = 0) || decide ((fld w 6 3) < 3))) (x == 0) (.vscale (fld w 21 4) (fld w 17 4) (fld w 13 4) (fld w 9 4) (fld w 6 3) (fld w 5 1) (fld w 4 1) (fld w 0 4))
  | 31 => if decide (5 ≤ (fld w 0 4)) then .err .undefinedFn
    else decFin (fld w 4 2 == 0 && fld w 9 8 == 0 && (decide ((fld w 0 4) = 0) || decide ((fld w 6 3) < 3))) (x == 0) (.viota (fld w 21 4) (fld w 17 4) (fld w 6 3) (fld w 0 4))
  | 32 => if fld w 0 4 != 0 then .err .undefinedFn
    else decFin (fld w 4 1 == 0 && fld w 9 3 == 0) (x == 0) (.vsums (fld w 21 4) (fld w 17 4) (fld w 13 4) (fld w 12 1) (fld w 6 3) (fld w 5 1))
  | _ => .err .reservedOp

/-- The matrix slot's syllables (R75): word `w`, extension `e`. -/
def decodeM (w e : Nat) : Decoded :=
  let x := fld w 25 1
  match fld w 26 6 with
  | 0 => decFin (fld w 0 5 == 0) (x == 0) (.mcall (fld w 21 4) (fld w 13 8) (fld w 10 3) (fld w 9 1) (fld w 5 4))
  | 1 => decFin (fld w 0 17 == 0) (x == 0) (.acczero (fld w 21 4) (fld w 18 3) (fld w 17 1))
  | 2 => decFin ((decide ((fld w 5 5) < 0x10) || (decide ((fld w 5 5) = 0x16) || decide ((fld w 5 5) = 0x17))) && decide ((fld w 2 3) < 5)) (x == 0) (.accrd (fld w 21 4) (fld w 17 4) (fld w 14 3) (fld w 10 4) (fld w 5 5) (fld w 2 3) (fld w 1 1) (fld w 0 1))
  | 3 => decFin (fld w 0 12 == 0) (x == 0) (.accwr (fld w 21 4) (fld w 18 3) (fld w 14 4) (fld w 13 1) (fld w 12 1))
  | 4 => decFin (fld w 0 15 == 0) (x == 0) (.accmov (fld w 21 4) (fld w 18 3) (fld w 15 3))
  | 5 => decFin (fld w 0 14 == 0) (x == 0) (.ringpush (fld w 21 4) (fld w 18 3) (fld w 14 4))
  | 6 => decFin (fld w 0 13 == 0 && decide (1 ≤ (fld w 13 5)) && decide ((fld w 13 5) ≤ 16)) (x == 0) (.ringdrop (fld w 21 4) (fld w 18 3) (fld w 13 5))
  | 7 => decFin (fld w 0 13 == 0) (x == 0) (.ringinfo (fld w 21 4) (fld w 16 5) (fld w 13 3))
  | 8 => if x == 0 then decFin (fld w 0 4 == 0) (true) (.mprog (fld w 21 4) (fld w 13 8) (fld w 9 4) (fld w 4 5))
    else decFin (fld w 0 4 == 0 && fld e 4 28 == 0) (true) (.mprogExt (fld w 21 4) (fld w 13 8) (fld w 9 4) (fld w 4 5) (fld e 0 4))
  | _ => .err .reservedOp

/-- The store and channel slot's syllables (R76): word `w`, extension `e`. -/
def decodeO (w e : Nat) : Decoded :=
  let x := fld w 25 1
  match fld w 26 6 with
  | 0 => decFin (fld w 0 7 == 0) (x == 0) (.copyout (fld w 21 4) (fld w 17 4) (fld w 14 3) (fld w 13 1) (fld w 11 2) (fld w 7 4))
  | 1 => decFin (fld w 0 11 == 0) (x == 0) (.copyacc (fld w 21 4) (fld w 18 3) (fld w 15 3) (fld w 11 4))
  | 2 => decFin (fld w 9 1 == 0) (x == 0) (.stt (fld w 21 4) (fld w 16 5) (fld w 12 4) (fld w 10 2) (fld w 0 9))
  | 3 => decFin (fld w 0 4 == 0 && fld w 9 1 == 0) (x == 0) (.sttr (fld w 21 4) (fld w 16 5) (fld w 12 4) (fld w 10 2) (fld w 4 5))
  | 4 => decFin (fld w 4 1 == 0) (x == 0) (.stg (fld w 21 4) (fld w 16 5) (fld w 12 4) (fld w 7 5) (fld w 5 2) (fld w 0 4))
  | 5 => decFin (fld w 0 2 == 0 && fld e 14 18 == 0 && decide ((fld e 0 4) ≤ 8) && decide ((fld e 4 3) ≤ 4)) (x == 1) (.atom (fld w 21 4) (fld w 16 5) (fld w 12 4) (fld w 7 5) (fld w 2 5) (fld e 0 4) (fld e 4 3) (fld e 7 2) (fld e 9 1) (fld e 10 4))
  | 6 => decFin (fld w 0 2 == 0 && fld e 0 4 == 0 && fld e 14 18 == 0 && decide ((fld e 4 3) ≤ 4)) (x == 1) (.cas (fld w 21 4) (fld w 16 5) (fld w 12 4) (fld w 7 5) (fld w 2 5) (fld e 4 3) (fld e 7 2) (fld e 9 1) (fld e 10 4))
  | 7 => decFin (fld w 0 4 == 0) (x == 0) (.send (fld w 21 4) (fld w 13 8) (fld w 9 4) (fld w 8 1) (fld w 4 4))
  | 8 => decFin (fld w 0 4 == 0) (x == 1) (.sendt (fld w 21 4) (fld w 13 8) (fld w 9 4) (fld w 8 1) (fld w 4 4) (fld e 0 26) (fld e 26 6))
  | 9 => decFin (fld w 0 3 == 0) (x == 0) (.putr (fld w 21 4) (fld w 13 8) (fld w 9 4) (fld w 8 1) (fld w 3 5))
  | 10 =>
    match fld w 20 1 with
    | 0 => decFin (fld w 0 7 == 0) (x == 0) (.ctraddRemote (fld w 21 4) (fld w 12 8) (fld w 7 5))
    | 1 => decFin (fld w 0 7 == 0 && fld w 18 2 == 0) (x == 0) (.ctraddLocal (fld w 21 4) (fld w 12 6) (fld w 7 5))
    | _ => .err .undefinedFn
  | 11 => decFin (fld w 0 7 == 0) (x == 0) (.mbox (fld w 21 4) (fld w 17 4) (fld w 16 1) (fld w 11 5) (fld w 7 4))
  | 12 => decFin (fld w 0 2 == 0) (x == 0) (.scatter (fld w 21 4) (fld w 17 4) (fld w 13 4) (fld w 10 3) (fld w 9 1) (fld w 8 1) (fld w 6 2) (fld w 2 4))
  | 13 => decFin (decide ((fld w 0 8) ≠ 0)) (x == 0) (.prime (fld w 21 4) (fld w 13 8) (fld w 9 4) (fld w 8 1) (fld w 0 8))
  | _ => .err .reservedOp

/-- The decoder of one syllable, by its slot's header bit (R55). -/
def decodeSyl (s : Syl) : Decoded :=
  match s.slot with
  | 0 => decodeA s.w s.ext
  | 1 => decodeB s.w s.ext
  | 2 => decodeD s.w s.ext
  | 3 => decodeL s.w s.ext
  | 4 => decodeV s.w s.ext
  | 5 => decodeM s.w s.ext
  | 6 => decodeO s.w s.ext
  | _ => .err .reservedOp

/-- Whether the op of a syllable is marked S in the map of its slot, whatever its other fields (R69, R71, R73, R75). -/
def sylPriv (s : Syl) : Bool :=
  let op := fld s.w 26 6
  if s.slot == 1 then (decide (0x21 ≤ op) && decide (op ≤ 0x27)) || (decide (0x31 ≤ op) && decide (op ≤ 0x34))
  else if s.slot == 3 then op == 0xD
  else if s.slot == 5 then op == 8
  else false

/-- What the bytes at a bundle's address hold (R55-R57). -/
inductive Fetched where
  /-- Header 0x00: the line pad. -/
  | linePad
  /-- Bytes beyond the end of the line: IBND. -/
  | runsPast
  /-- A bundle: STOP, its length in bytes, its syllables in header order. -/
  | bundle (stop : Bool) (len : Nat) (syls : List Syl)
  deriving DecidableEq, Repr

/-- Reads the syllables of the slots present from the rest of the line, adding 4 bytes wherever X is 1 (R57). -/
def takeSyls : List Nat → Bytes → Option (List Syl × Nat)
  | [], _ => some ([], 0)
  | s :: ss, bs =>
    if bs.length < 4 then none
    else
      let w := leVal (bs.take 4)
      if fld w 25 1 = 0 then (takeSyls ss (bs.drop 4)).map fun r => (⟨s, w, 0⟩ :: r.1, r.2 + 4)
      else if bs.length < 8 then none
      else (takeSyls ss (bs.drop 8)).map fun r => (⟨s, w, leVal ((bs.drop 4).take 4)⟩ :: r.1, r.2 + 8)

/-- The bundle at the head of `line`, the bytes from its address to the end of its 64-byte line (R55-R57). -/
def decodeLine (line : Bytes) : Fetched :=
  match line with
  | [] => .runsPast
  | hdr :: rest =>
    let h := hdr.toNat
    if h = 0 then .linePad
    else
      match takeSyls ((List.range 7).filter fun i => fld h i 1 == 1) rest with
      | none => .runsPast
      | some (ss, n) => .bundle (fld h 7 1 == 1) (n + 1) ss

/-- The syllable of a slot operation, field by field; an event has none (R58, R59). -/
def encodeSyl : Instr → Option Syl
  | .bundleIssue _ => none
  | .emptyBundle => none
  | .handlerLaunch _ => none
  | .contextSwapComplete _ => none
  | .stallSwap _ _ => none
  | .mergeStarvation _ => none
  | .add qp sd sa sb => some ⟨0, 0 + qp * 2097152 + sd * 65536 + sa * 2048 + sb * 64, 0⟩
  | .sub qp sd sa sb => some ⟨0, 1 + qp * 2097152 + sd * 65536 + sa * 2048 + sb * 64, 0⟩
  | .and qp sd sa sb => some ⟨0, 2 + qp * 2097152 + sd * 65536 + sa * 2048 + sb * 64, 0⟩
  | .or qp sd sa sb => some ⟨0, 3 + qp * 2097152 + sd * 65536 + sa * 2048 + sb * 64, 0⟩
  | .xor qp sd sa sb => some ⟨0, 4 + qp * 2097152 + sd * 65536 + sa * 2048 + sb * 64, 0⟩
  | .shl qp sd sa sb => some ⟨0, 5 + qp * 2097152 + sd * 65536 + sa * 2048 + sb * 64, 0⟩
  | .shr qp sd sa sb => some ⟨0, 6 + qp * 2097152 + sd * 65536 + sa * 2048 + sb * 64, 0⟩
  | .sar qp sd sa sb => some ⟨0, 7 + qp * 2097152 + sd * 65536 + sa * 2048 + sb * 64, 0⟩
  | .mul qp sd sa sb => some ⟨0, 8 + qp * 2097152 + sd * 65536 + sa * 2048 + sb * 64, 0⟩
  | .mulh qp sd sa sb => some ⟨0, 9 + qp * 2097152 + sd * 65536 + sa * 2048 + sb * 64, 0⟩
  | .mulhn qp sd sa sb => some ⟨0, 10 + qp * 2097152 + sd * 65536 + sa * 2048 + sb * 64, 0⟩
  | .div qp sd sa sb => some ⟨0, 11 + qp * 2097152 + sd * 65536 + sa * 2048 + sb * 64, 0⟩
  | .divn qp sd sa sb => some ⟨0, 12 + qp * 2097152 + sd * 65536 + sa * 2048 + sb * 64, 0⟩
  | .rem qp sd sa sb => some ⟨0, 13 + qp * 2097152 + sd * 65536 + sa * 2048 + sb * 64, 0⟩
  | .remn qp sd sa sb => some ⟨0, 14 + qp * 2097152 + sd * 65536 + sa * 2048 + sb * 64, 0⟩
  | .min qp sd sa sb => some ⟨0, 15 + qp * 2097152 + sd * 65536 + sa * 2048 + sb * 64, 0⟩
  | .max qp sd sa sb => some ⟨0, 16 + qp * 2097152 + sd * 65536 + sa * 2048 + sb * 64, 0⟩
  | .minn qp sd sa sb => some ⟨0, 17 + qp * 2097152 + sd * 65536 + sa * 2048 + sb * 64, 0⟩
  | .maxn qp sd sa sb => some ⟨0, 18 + qp * 2097152 + sd * 65536 + sa * 2048 + sb * 64, 0⟩
  | .clz qp sd sa => some ⟨0, 19 + qp * 2097152 + sd * 65536 + sa * 2048, 0⟩
  | .ctz qp sd sa => some ⟨0, 20 + qp * 2097152 + sd * 65536 + sa * 2048, 0⟩
  | .popc qp sd sa => some ⟨0, 21 + qp * 2097152 + sd * 65536 + sa * 2048, 0⟩
  | .andn qp sd sa sb => some ⟨0, 22 + qp * 2097152 + sd * 65536 + sa * 2048 + sb * 64, 0⟩
  | .orn qp sd sa sb => some ⟨0, 23 + qp * 2097152 + sd * 65536 + sa * 2048 + sb * 64, 0⟩
  | .addi qp sd sa imm11 => some ⟨0, 67108864 + qp * 2097152 + sd * 65536 + sa * 2048 + imm11, 0⟩
  | .addiExt qp sd sa imm11 ext => some ⟨0, 100663296 + qp * 2097152 + sd * 65536 + sa * 2048 + imm11, ext⟩
  | .andi qp sd sa imm11 => some ⟨0, 134217728 + qp * 2097152 + sd * 65536 + sa * 2048 + imm11, 0⟩
  | .andiExt qp sd sa imm11 ext => some ⟨0, 167772160 + qp * 2097152 + sd * 65536 + sa * 2048 + imm11, ext⟩
  | .ori qp sd sa imm11 => some ⟨0, 201326592 + qp * 2097152 + sd * 65536 + sa * 2048 + imm11, 0⟩
  | .oriExt qp sd sa imm11 ext => some ⟨0, 234881024 + qp * 2097152 + sd * 65536 + sa * 2048 + imm11, ext⟩
  | .xori qp sd sa imm11 => some ⟨0, 268435456 + qp * 2097152 + sd * 65536 + sa * 2048 + imm11, 0⟩
  | .xoriExt qp sd sa imm11 ext => some ⟨0, 301989888 + qp * 2097152 + sd * 65536 + sa * 2048 + imm11, ext⟩
  | .shli qp sd sa imm11 => some ⟨0, 335544320 + qp * 2097152 + sd * 65536 + sa * 2048 + imm11, 0⟩
  | .shliExt qp sd sa imm11 ext => some ⟨0, 369098752 + qp * 2097152 + sd * 65536 + sa * 2048 + imm11, ext⟩
  | .shri qp sd sa imm11 => some ⟨0, 402653184 + qp * 2097152 + sd * 65536 + sa * 2048 + imm11, 0⟩
  | .shriExt qp sd sa imm11 ext => some ⟨0, 436207616 + qp * 2097152 + sd * 65536 + sa * 2048 + imm11, ext⟩
  | .sari qp sd sa imm11 => some ⟨0, 469762048 + qp * 2097152 + sd * 65536 + sa * 2048 + imm11, 0⟩
  | .sariExt qp sd sa imm11 ext => some ⟨0, 503316480 + qp * 2097152 + sd * 65536 + sa * 2048 + imm11, ext⟩
  | .muli qp sd sa imm11 => some ⟨0, 536870912 + qp * 2097152 + sd * 65536 + sa * 2048 + imm11, 0⟩
  | .muliExt qp sd sa imm11 ext => some ⟨0, 570425344 + qp * 2097152 + sd * 65536 + sa * 2048 + imm11, ext⟩
  | .movi qp sd imm16 => some ⟨0, 603979776 + qp * 2097152 + sd * 65536 + imm16, 0⟩
  | .moviExt qp sd imm16 ext => some ⟨0, 637534208 + qp * 2097152 + sd * 65536 + imm16, ext⟩
  | .movhi qp sd imm16 => some ⟨0, 671088640 + qp * 2097152 + sd * 65536 + imm16, 0⟩
  | .cmp qp qt qf sa sb cond => some ⟨0, 738197504 + qp * 2097152 + qt * 131072 + qf * 8192 + sa * 256 + sb * 8 + cond, 0⟩
  | .cmpi qp qt qf sa imm5 cond => some ⟨0, 805306368 + qp * 2097152 + qt * 131072 + qf * 8192 + sa * 256 + imm5 * 8 + cond, 0⟩
  | .cmpiExt qp qt qf sa imm5 cond ext => some ⟨0, 838860800 + qp * 2097152 + qt * 131072 + qf * 8192 + sa * 256 + imm5 * 8 + cond, ext⟩
  | .sel qp sd sa sb qs => some ⟨0, 872415232 + qp * 2097152 + sd * 65536 + sa * 2048 + sb * 64 + qs * 4, 0⟩
  | .bfx qp sd sa pos lenm1 => some ⟨0, 973078528 + qp * 2097152 + sd * 65536 + sa * 2048, pos + lenm1 * 256⟩
  | .bfxs qp sd sa pos lenm1 => some ⟨0, 1040187392 + qp * 2097152 + sd * 65536 + sa * 2048, pos + lenm1 * 256⟩
  | .bfi qp sd sa pos lenm1 => some ⟨0, 1107296256 + qp * 2097152 + sd * 65536 + sa * 2048, pos + lenm1 * 256⟩
  | .lea qp sd sa sb shift => some ⟨0, 1140850688 + qp * 2097152 + sd * 65536 + sa * 2048 + sb * 64 + shift, 0⟩
  | .movs qp sd special => some ⟨0, 1207959552 + qp * 2097152 + sd * 65536 + special, 0⟩
  | .br qp disp21 => some ⟨1, 0 + qp * 2097152 + disp21, 0⟩
  | .brExt qp disp21 ext => some ⟨1, 33554432 + qp * 2097152 + disp21, ext⟩
  | .call qp disp21 => some ⟨1, 67108864 + qp * 2097152 + disp21, 0⟩
  | .callExt qp disp21 ext => some ⟨1, 100663296 + qp * 2097152 + disp21, ext⟩
  | .brs qp sa => some ⟨1, 134217728 + qp * 2097152 + sa * 65536, 0⟩
  | .calls qp sa => some ⟨1, 201326592 + qp * 2097152 + sa * 65536, 0⟩
  | .loop qp sa len => some ⟨1, 268435456 + qp * 2097152 + sa * 65536 + len, 0⟩
  | .loopi qp cnt10 len => some ⟨1, 335544320 + qp * 2097152 + cnt10 * 2048 + len, 0⟩
  | .loopiExt qp cnt10 len ext => some ⟨1, 369098752 + qp * 2097152 + cnt10 * 2048 + len, ext⟩
  | .loopr qp sa epi len => some ⟨1, 402653184 + qp * 2097152 + sa * 65536 + epi * 4096 + len, 0⟩
  | .lbreak qp => some ⟨1, 469762048 + qp * 2097152, 0⟩
  | .plog qp qd qa qb fn => some ⟨1, 536870912 + qp * 2097152 + qd * 131072 + qa * 8192 + qb * 512 + fn, 0⟩
  | .fmtset qp sa => some ⟨1, 603979776 + qp * 2097152 + sa * 65536, 0⟩
  | .fmtseti qp fmt => some ⟨1, 704643072 + qp * 2097152, fmt⟩
  | .semwait qp e n => some ⟨1, 738197504 + qp * 2097152 + e * 131072 + n * 512, 0⟩
  | .semsig qp e n => some ⟨1, 805306368 + qp * 2097152 + e * 131072 + n * 512, 0⟩
  | .waitc qp h g sa => some ⟨1, 872415232 + qp * 2097152 + h * 131072 + g * 16384 + sa * 512, 0⟩
  | .ctrwait qp c sa => some ⟨1, 939524096 + qp * 2097152 + c * 32768 + sa * 1024, 0⟩
  | .tfence qp => some ⟨1, 1006632960 + qp * 2097152, 0⟩
  | .fence qp sd scope => some ⟨1, 1073741824 + qp * 2097152 + sd * 65536 + scope * 8192, 0⟩
  | .taskend qp => some ⟨1, 1140850688 + qp * 2097152, 0⟩
  | .spawn qp f sa e => some ⟨1, 1207959552 + qp * 2097152 + f * 131072 + sa * 4096 + e * 256, 0⟩
  | .spawnOverlap qp f sa e ov => some ⟨1, 1241513984 + qp * 2097152 + f * 131072 + sa * 4096 + e * 256, ov⟩
  | .yield qp => some ⟨1, 1275068416 + qp * 2097152, 0⟩
  | .statpop qp sd sd2 => some ⟨1, 1342177280 + qp * 2097152 + sd * 65536 + sd2 * 2048, 0⟩
  | .trap qp imm16 => some ⟨1, 2147483648 + qp * 2097152 + imm16, 0⟩
  | .eret qp => some ⟨1, 2214592512 + qp * 2097152, 0⟩
  | .csrr qp sd sa csr => some ⟨1, 2281701376 + qp * 2097152 + sd * 65536 + sa * 2048 + csr, 0⟩
  | .csrw qp sa sb csr => some ⟨1, 2348810240 + qp * 2097152 + sa * 65536 + sb * 2048 + csr, 0⟩
  | .jobres qp sa => some ⟨1, 2415919104 + qp * 2097152 + sa * 65536, 0⟩
  | .iflush qp => some ⟨1, 2483027968 + qp * 2097152, 0⟩
  | .capopDerive qp sd sa sb rights => some ⟨1, 2583691264 + qp * 2097152 + sd * 65536 + sa * 2048 + sb * 64, rights⟩
  | .capopRevoke qp sd sa sb => some ⟨1, 2550136833 + qp * 2097152 + sd * 65536 + sa * 2048 + sb * 64, 0⟩
  | .capopInfo qp sd sa sb => some ⟨1, 2550136834 + qp * 2097152 + sd * 65536 + sa * 2048 + sb * 64, 0⟩
  | .capopFree qp sd sa sb => some ⟨1, 2550136835 + qp * 2097152 + sd * 65536 + sa * 2048 + sb * 64, 0⟩
  | .ctxctlStop qp sd sa sb => some ⟨1, 2617245696 + qp * 2097152 + sd * 65536 + sa * 2048 + sb * 64, 0⟩
  | .ctxctlGo qp sd sa sb => some ⟨1, 2617245697 + qp * 2097152 + sd * 65536 + sa * 2048 + sb * 64, 0⟩
  | .ctxctlKill qp sd sa sb => some ⟨1, 2617245698 + qp * 2097152 + sd * 65536 + sa * 2048 + sb * 64, 0⟩
  | .ctxctlRead qp sd sa sb off => some ⟨1, 2650800131 + qp * 2097152 + sd * 65536 + sa * 2048 + sb * 64, off⟩
  | .ctxctlWrite qp sd sa sb off => some ⟨1, 2650800132 + qp * 2097152 + sd * 65536 + sa * 2048 + sb * 64, off⟩
  | .ctxctlBrkSet qp sd sa sb n => some ⟨1, 2650800133 + qp * 2097152 + sd * 65536 + sa * 2048 + sb * 64, n⟩
  | .ctxctlBrkClr qp sd sa sb n => some ⟨1, 2650800134 + qp * 2097152 + sd * 65536 + sa * 2048 + sb * 64, n⟩
  | .ctxctlTestMode qp sd sa sb => some ⟨1, 2617245703 + qp * 2097152 + sd * 65536 + sa * 2048 + sb * 64, 0⟩
  | .audmark qp sa sb => some ⟨1, 3221225472 + qp * 2097152 + sa * 65536 + sb * 2048, 0⟩
  | .audsealSeal qp sd f sa => some ⟨1, 3288334336 + qp * 2097152 + sd * 65536 + f * 4096 + sa * 128, 0⟩
  | .audsealConfig qp sd f sa => some ⟨1, 3288334337 + qp * 2097152 + sd * 65536 + f * 4096 + sa * 128, 0⟩
  | .audbisect qp sd f sa e => some ⟨1, 3355443200 + qp * 2097152 + sd * 65536 + f * 4096 + sa * 128 + e, 0⟩
  | .audref qp sd f sa e => some ⟨1, 3422552064 + qp * 2097152 + sd * 65536 + f * 4096 + sa * 128 + e, 0⟩
  | .audreplay qp sd f sa e => some ⟨1, 3489660928 + qp * 2097152 + sd * 65536 + f * 4096 + sa * 128 + e, 0⟩
  | .audroot qp hd sl => some ⟨1, 3556769792 + qp * 2097152 + hd * 131072 + sl * 16384, 0⟩
  | .shset qp sh field sa => some ⟨2, 0 + qp * 2097152 + sh * 262144 + field * 8192 + sa * 256, 0⟩
  | .shseti qp sh field imm => some ⟨2, 100663296 + qp * 2097152 + sh * 262144 + field * 8192, imm⟩
  | .shcopy qp shd shs => some ⟨2, 134217728 + qp * 2097152 + shd * 262144 + shs * 32768, 0⟩
  | .shstep qp sh dim sa => some ⟨2, 201326592 + qp * 2097152 + sh * 262144 + dim * 65536 + sa * 2048, 0⟩
  | .mpset qp mp half sa => some ⟨2, 268435456 + qp * 2097152 + mp * 262144 + half * 131072 + sa * 4096, 0⟩
  | .mpseti qp mp word imm => some ⟨2, 369098752 + qp * 2097152 + mp * 262144 + word * 65536, imm⟩
  | .vshape qp rowsm1 colsm1 => some ⟨2, 402653184 + qp * 2097152 + rowsm1 * 16384 + colsm1 * 8, 0⟩
  | .fpnarrow qp fd fs mode sa sb => some ⟨2, 469762048 + qp * 2097152 + fd * 131072 + fs * 8192 + mode * 2048 + sa * 64 + sb * 2, 0⟩
  | .shrd qp sd kind reg sl => some ⟨2, 536870912 + qp * 2097152 + sd * 65536 + kind * 32768 + reg * 4096 + sl * 128, 0⟩
  | .alloc qp hd pool reads => some ⟨3, 0 + qp * 2097152 + hd * 131072 + pool * 8192 + reads * 32, 0⟩
  | .allocr qp hd pool sa => some ⟨3, 67108864 + qp * 2097152 + hd * 131072 + pool * 8192 + sa * 256, 0⟩
  | .alloct qp hd pool reads qs => some ⟨3, 134217728 + qp * 2097152 + hd * 131072 + pool * 8192 + reads * 32 + qs * 2, 0⟩
  | .copyin qp hd sh e => some ⟨3, 201326592 + qp * 2097152 + hd * 131072 + sh * 16384 + e * 1024, 0⟩
  | .gpush qp hd sa last => some ⟨3, 268435456 + qp * 2097152 + hd * 131072 + sa * 4096 + last * 2048, 0⟩
  | .gather qp hd sh e => some ⟨3, 335544320 + qp * 2097152 + hd * 131072 + sh * 16384 + e * 1024, 0⟩
  | .tmove qp hd hs c e => some ⟨3, 402653184 + qp * 2097152 + hd * 131072 + hs * 8192 + c * 4096 + e * 256, 0⟩
  | .ldt qp sd hs sz sg imm9 => some ⟨3, 469762048 + qp * 2097152 + sd * 65536 + hs * 4096 + sz * 1024 + sg * 512 + imm9, 0⟩
  | .ldtr qp sd hs sz sg sb => some ⟨3, 536870912 + qp * 2097152 + sd * 65536 + hs * 4096 + sz * 1024 + sg * 512 + sb * 16, 0⟩
  | .ldg qp sd f sa sz sg e => some ⟨3, 603979776 + qp * 2097152 + sd * 65536 + f * 4096 + sa * 128 + sz * 32 + sg * 16 + e, 0⟩
  | .tread qp sd hs c sb => some ⟨3, 671088640 + qp * 2097152 + sd * 65536 + hs * 4096 + c * 2048 + sb * 64, 0⟩
  | .trel qp hs => some ⟨3, 738197504 + qp * 2097152 + hs * 131072, 0⟩
  | .tinfo qp sd hs sl => some ⟨3, 805306368 + qp * 2097152 + sd * 65536 + hs * 4096 + sl * 256, 0⟩
  | .ovl qp f sa sb e => some ⟨3, 872415232 + qp * 2097152 + f * 131072 + sa * 4096 + sb * 128 + e * 8, 0⟩
  | .landh qp hd ch sa => some ⟨3, 939524096 + qp * 2097152 + hd * 131072 + ch * 512 + sa * 16, 0⟩
  | .vadd qp hd ha hb ty ca cb fn => some ⟨4, 0 + qp * 2097152 + hd * 131072 + ha * 8192 + hb * 512 + ty * 64 + ca * 32 + cb * 16 + fn, 0⟩
  | .vsub qp hd ha hb ty ca cb fn => some ⟨4, 67108864 + qp * 2097152 + hd * 131072 + ha * 8192 + hb * 512 + ty * 64 + ca * 32 + cb * 16 + fn, 0⟩
  | .vmul qp hd ha hb ty ca cb fn => some ⟨4, 134217728 + qp * 2097152 + hd * 131072 + ha * 8192 + hb * 512 + ty * 64 + ca * 32 + cb * 16 + fn, 0⟩
  | .vfma qp hd ha hb ty ca cb fn => some ⟨4, 201326592 + qp * 2097152 + hd * 131072 + ha * 8192 + hb * 512 + ty * 64 + ca * 32 + cb * 16 + fn, 0⟩
  | .vmin qp hd ha hb ty ca cb => some ⟨4, 268435456 + qp * 2097152 + hd * 131072 + ha * 8192 + hb * 512 + ty * 64 + ca * 32 + cb * 16, 0⟩
  | .vmax qp hd ha hb ty ca cb => some ⟨4, 335544320 + qp * 2097152 + hd * 131072 + ha * 8192 + hb * 512 + ty * 64 + ca * 32 + cb * 16, 0⟩
  | .vand qp hd ha hb ty ca cb => some ⟨4, 402653184 + qp * 2097152 + hd * 131072 + ha * 8192 + hb * 512 + ty * 64 + ca * 32 + cb * 16, 0⟩
  | .vor qp hd ha hb ty ca cb => some ⟨4, 469762048 + qp * 2097152 + hd * 131072 + ha * 8192 + hb * 512 + ty * 64 + ca * 32 + cb * 16, 0⟩
  | .vxor qp hd ha hb ty ca cb => some ⟨4, 536870912 + qp * 2097152 + hd * 131072 + ha * 8192 + hb * 512 + ty * 64 + ca * 32 + cb * 16, 0⟩
  | .vshl qp hd ha hb ty ca cb => some ⟨4, 603979776 + qp * 2097152 + hd * 131072 + ha * 8192 + hb * 512 + ty * 64 + ca * 32 + cb * 16, 0⟩
  | .vshr qp hd ha hb ty ca cb => some ⟨4, 671088640 + qp * 2097152 + hd * 131072 + ha * 8192 + hb * 512 + ty * 64 + ca * 32 + cb * 16, 0⟩
  | .vcmp qp hd ha hb ty ca cb fn => some ⟨4, 738197504 + qp * 2097152 + hd * 131072 + ha * 8192 + hb * 512 + ty * 64 + ca * 32 + cb * 16 + fn, 0⟩
  | .vsel qp hd ha hb ty ca cb => some ⟨4, 805306368 + qp * 2097152 + hd * 131072 + ha * 8192 + hb * 512 + ty * 64 + ca * 32 + cb * 16, 0⟩
  | .vabs qp hd ha ty ca => some ⟨4, 872415232 + qp * 2097152 + hd * 131072 + ha * 8192 + ty * 64 + ca * 32, 0⟩
  | .vneg qp hd ha ty ca => some ⟨4, 939524096 + qp * 2097152 + hd * 131072 + ha * 8192 + ty * 64 + ca * 32, 0⟩
  | .vmov qp hd ha ty ca => some ⟨4, 1006632960 + qp * 2097152 + hd * 131072 + ha * 8192 + ty * 64 + ca * 32, 0⟩
  | .vfill qp hd ty => some ⟨4, 1073741824 + qp * 2097152 + hd * 131072 + ty * 64, 0⟩
  | .vfillExt qp hd ty ext => some ⟨4, 1107296256 + qp * 2097152 + hd * 131072 + ty * 64, ext⟩
  | .vbrow qp hd ha ty ca => some ⟨4, 1140850688 + qp * 2097152 + hd * 131072 + ha * 8192 + ty * 64 + ca * 32, 0⟩
  | .vbcol qp hd ha ty ca => some ⟨4, 1207959552 + qp * 2097152 + hd * 131072 + ha * 8192 + ty * 64 + ca * 32, 0⟩
  | .vtrans qp hd ha ty ca => some ⟨4, 1275068416 + qp * 2097152 + hd * 131072 + ha * 8192 + ty * 64 + ca * 32, 0⟩
  | .vsfu qp hd ha ty ca fn func => some ⟨4, 1375731712 + qp * 2097152 + hd * 131072 + ha * 8192 + ty * 64 + ca * 32 + fn, func⟩
  | .vrsum qp hd ha ty ca fn => some ⟨4, 1409286144 + qp * 2097152 + hd * 131072 + ha * 8192 + ty * 64 + ca * 32 + fn, 0⟩
  | .vrmax qp hd ha ty ca => some ⟨4, 1476395008 + qp * 2097152 + hd * 131072 + ha * 8192 + ty * 64 + ca * 32, 0⟩
  | .vcsum qp hd ha ty ca fn => some ⟨4, 1543503872 + qp * 2097152 + hd * 131072 + ha * 8192 + ty * 64 + ca * 32 + fn, 0⟩
  | .vcmax qp hd ha ty ca => some ⟨4, 1610612736 + qp * 2097152 + hd * 131072 + ha * 8192 + ty * 64 + ca * 32, 0⟩
  | .vdot qp hd ha hb ty ca cb fn => some ⟨4, 1677721600 + qp * 2097152 + hd * 131072 + ha * 8192 + hb * 512 + ty * 64 + ca * 32 + cb * 16 + fn, 0⟩
  | .vmacc qp hd ha hb ty ca cb fn => some ⟨4, 1744830464 + qp * 2097152 + hd * 131072 + ha * 8192 + hb * 512 + ty * 64 + ca * 32 + cb * 16 + fn, 0⟩
  | .vcvt qp hd ha ca fn src dst sat inter => some ⟨4, 1845493760 + qp * 2097152 + hd * 131072 + ha * 8192 + ca * 32 + fn, src + dst * 64 + sat * 4096 + inter * 8192⟩
  | .vqnt qp hd ha hb ty ca cb fn dst axis side cal => some ⟨4, 1912602624 + qp * 2097152 + hd * 131072 + ha * 8192 + hb * 512 + ty * 64 + ca * 32 + cb * 16 + fn, dst + axis * 32 + side * 64 + cal * 1024⟩
  | .vdqnt qp hd ha hb ty ca cb fn src axis side sat => some ⟨4, 1979711488 + qp * 2097152 + hd * 131072 + ha * 8192 + hb * 512 + ty * 64 + ca * 32 + cb * 16 + fn, src + axis * 32 + side * 64 + sat * 1024⟩
  | .vscale qp hd ha hb ty ca cb fn => some ⟨4, 2013265920 + qp * 2097152 + hd * 131072 + ha * 8192 + hb * 512 + ty * 64 + ca * 32 + cb * 16 + fn, 0⟩
  | .viota qp hd ty fn => some ⟨4, 2080374784 + qp * 2097152 + hd * 131072 + ty * 64 + fn, 0⟩
  | .vsums qp sd ha sdhi ty ca => some ⟨4, 2147483648 + qp * 2097152 + sd * 131072 + ha * 8192 + sdhi * 4096 + ty * 64 + ca * 32, 0⟩
  | .mcall qp routine acc z e => some ⟨5, 0 + qp * 2097152 + routine * 8192 + acc * 1024 + z * 512 + e * 32, 0⟩
  | .acczero qp acc ty => some ⟨5, 67108864 + qp * 2097152 + acc * 262144 + ty * 131072, 0⟩
  | .accrd qp hd acc ht fo rm sat ct => some ⟨5, 134217728 + qp * 2097152 + hd * 131072 + acc * 16384 + ht * 1024 + fo * 32 + rm * 4 + sat * 2 + ct, 0⟩
  | .accwr qp acc hs c ty => some ⟨5, 201326592 + qp * 2097152 + acc * 262144 + hs * 16384 + c * 8192 + ty * 4096, 0⟩
  | .accmov qp accd accs => some ⟨5, 268435456 + qp * 2097152 + accd * 262144 + accs * 32768, 0⟩
  | .ringpush qp ring hs => some ⟨5, 335544320 + qp * 2097152 + ring * 262144 + hs * 16384, 0⟩
  | .ringdrop qp ring n => some ⟨5, 402653184 + qp * 2097152 + ring * 262144 + n * 8192, 0⟩
  | .ringinfo qp sd ring => some ⟨5, 469762048 + qp * 2097152 + sd * 65536 + ring * 8192, 0⟩
  | .mprog qp index f sa => some ⟨5, 536870912 + qp * 2097152 + index * 8192 + f * 512 + sa * 16, 0⟩
  | .mprogExt qp index f sa e => some ⟨5, 570425344 + qp * 2097152 + index * 8192 + f * 512 + sa * 16, e⟩
  | .copyout qp hs sh c red e => some ⟨6, 0 + qp * 2097152 + hs * 131072 + sh * 16384 + c * 8192 + red * 2048 + e * 128, 0⟩
  | .copyacc qp acc sh e => some ⟨6, 67108864 + qp * 2097152 + acc * 262144 + sh * 32768 + e * 2048, 0⟩
  | .stt qp sa hs sz imm9 => some ⟨6, 134217728 + qp * 2097152 + sa * 65536 + hs * 4096 + sz * 1024 + imm9, 0⟩
  | .sttr qp sa hs sz sb => some ⟨6, 201326592 + qp * 2097152 + sa * 65536 + hs * 4096 + sz * 1024 + sb * 16, 0⟩
  | .stg qp sb f sa sz e => some ⟨6, 268435456 + qp * 2097152 + sb * 65536 + f * 4096 + sa * 128 + sz * 32 + e, 0⟩
  | .atom qp sd f sa sb aop scope order size e => some ⟨6, 369098752 + qp * 2097152 + sd * 65536 + f * 4096 + sa * 128 + sb * 4, aop + scope * 16 + order * 128 + size * 512 + e * 1024⟩
  | .cas qp sd f sa sb scope order size e => some ⟨6, 436207616 + qp * 2097152 + sd * 65536 + f * 4096 + sa * 128 + sb * 4, scope * 16 + order * 128 + size * 512 + e * 1024⟩
  | .send qp ch hs c e => some ⟨6, 469762048 + qp * 2097152 + ch * 8192 + hs * 512 + c * 256 + e * 16, 0⟩
  | .sendt qp ch hs c e thr ctr => some ⟨6, 570425344 + qp * 2097152 + ch * 8192 + hs * 512 + c * 256 + e * 16, thr + ctr * 67108864⟩
  | .putr qp ch hs c sa => some ⟨6, 603979776 + qp * 2097152 + ch * 8192 + hs * 512 + c * 256 + sa * 8, 0⟩
  | .ctraddRemote qp ch sa => some ⟨6, 671088640 + qp * 2097152 + ch * 4096 + sa * 128, 0⟩
  | .ctraddLocal qp c sa => some ⟨6, 672137216 + qp * 2097152 + c * 4096 + sa * 128, 0⟩
  | .mbox qp hs c sa e => some ⟨6, 738197504 + qp * 2097152 + hs * 131072 + c * 65536 + sa * 2048 + e * 128, 0⟩
  | .scatter qp hs hi sh c ci red e => some ⟨6, 805306368 + qp * 2097152 + hs * 131072 + hi * 8192 + sh * 1024 + c * 512 + ci * 256 + red * 64 + e * 4, 0⟩
  | .prime qp ch hs c reads => some ⟨6, 872415232 + qp * 2097152 + ch * 8192 + hs * 512 + c * 256 + reads, 0⟩
  | .chunkArrives _ _ _ => none
  | .tileJobComplete _ _ => none
  | .outJobComplete _ _ => none
  | .ldgComplete _ _ => none
  | .jobFault _ _ => none
  | .ovlComplete _ _ => none
  | .vectorResultLands _ _ => none
  | .accrdComplete _ _ => none
  | .routineStart _ _ => none
  | .routineBlockComplete _ _ => none
  | .routineRetire _ _ => none
  | .routineFault _ _ => none
  | .mprogComplete _ _ => none
  | .spawnAccepted _ _ => none
  | .sendFire _ _ => none
  | .sendtFire _ _ => none
  | .sendComplete _ _ => none
  | .primeComplete _ _ => none
  | .serifData _ _ => none
  | .landingComplete _ _ => none
  | .blotDeadline _ _ => none
  | .serifAck _ _ => none
  | .serifNack _ _ => none
  | .slotReady _ _ => none
  | .counterAdd _ _ => none
  | .serifMailbox _ _ => none
  | .refusal _ _ => none
  | .bindNotice _ _ => none
  | .retransmitTimeout _ _ => none
  | .lossOfSignalDead _ _ => none
  | .auditNodeRequest _ _ => none
  | .auditJobComplete _ _ _ => none
  | .rootLogWrite _ => none
  | .nodeEntersWindow _ _ => none
  | .nodeDispatch _ _ => none
  | .taskStart _ => none
  | .steal _ => none
  | .queueStarvation _ _ _ => none
  | .taskComplete _ _ => none
  | .graphComplete _ _ => none
  | .watchdogW1 _ _ => none
  | .watchdogW2 _ _ => none
  | .watchdogW3 _ _ => none
  | .softErrorCorrected _ _ => none
  | .freezeEnd _ => none
  | .padUncorrectable _ => none
  | .bankUncorrectable _ _ => none
  | .doorbell _ _ _ => none
  | .registerWrite _ _ _ _ => none
  | .launch _ _ => none
  | .patch _ _ => none
  | .load _ _ => none
  | .loadComplete _ _ => none
  | .unload _ _ => none
  | .barrier _ _ => none
  | .signal _ _ => none
  | .hostSeal _ _ => none
  | .bind _ _ => none
  | .setchip _ => none
  | .setroute _ => none
  | .retrain _ => none
  | .xinv _ _ _ => none
  | .qrootWrite _ _ _ => none
  | .nodectlRelease _ _ => none
  | .nodectlFail _ _ => none
  | .ufenceClear _ _ => none
  | .ufenceSet _ _ => none
  | .qctlEnable _ _ => none
  | .qctlDisable _ _ => none
  | .poolcfgWrite _ _ _ => none
  | .statrd _ _ => none
  | .getVersion => none
  | .getCapabilities => none
  | .negotiateAlgorithms => none
  | .getDigests => none
  | .getCertificate _ _ _ => none
  | .challenge _ _ => none
  | .getMeasurements _ _ _ => none
  | .unsupportedRequest _ => none
  | .importRegion _ => none
  | .release _ => none
  | .signLogHead => none
  | .meterRefill => none
  | .crossingGrant _ _ => none
  | .powerOn _ => none
  | .thermalGate _ => none
  | .thermalShutdown => none
  | .fixedLatencyResultLands _ _ _ => none
  | .slotStorageReturns _ _ => none
  | .mboxLocalDelivery _ => none
  | .auditConfigTakesEffect _ _ => none
  | .fecFailure _ _ => none
  | .lossOfSignalChanges _ _ _ => none
  | .linkTrainingComplete _ => none
  | .thermalGateRelease _ => none

/-- The bytes of a syllable and of its extension when X is 1 (R55). -/
def Syl.bytes (s : Syl) : Bytes :=
  leBytes 4 s.w ++ (if fld s.w 25 1 = 1 then leBytes 4 s.ext else [])

/-- The bundle that holds the one instruction and ends its group (R55, R56); an event has no bytes. -/
def encode (i : Instr) : Bytes :=
  match i with
  | .emptyBundle => [0x80]
  | i =>
    match encodeSyl i with
    | none => []
    | some s => BitVec.ofNat 8 (0x80 + 2 ^ s.slot) :: s.bytes

/-- The bytes of a lone bundle whose syllable's bits are `w`, in slot `s`, in memory order. -/
def tableBytes (s nbits w : Nat) : Bytes :=
  if nbits ≤ 8 then [BitVec.ofNat 8 w]
  else BitVec.ofNat 8 (0x80 + 2 ^ s) :: leBytes 4 w ++ (if fld w 25 1 = 1 then leBytes 4 (w / 2 ^ 32) else [])

/-- The instruction at the head of a line that holds one bundle of at most one syllable. -/
def decodeOne (line : Bytes) : Option Instr :=
  match decodeLine line with
  | .bundle _ _ [] => some .emptyBundle
  | .bundle _ _ [s] =>
    match decodeSyl s with
    | .ok i => some i
    | .err _ => none
  | _ => none

/-- The order in which slots are tried for a table word: header order (R55). -/
def slotOrder : List Nat := [0, 1, 2, 3, 4, 5, 6]

/-- The slot that a table word of `nbits` bits is read in. A row of the table does not give its slot, so the first slot in
the order `slotOrder` whose decoder accepts the word takes it. DESIGN CHOICE (log 4). -/
def tableSlot (nbits w : Nat) : Option Nat :=
  slotOrder.find? fun s => (decodeOne (tableBytes s nbits w)).isSome

/-- The instruction that the decoder reads from an instruction whose bits are `w`. -/
def decodeTableWord (nbits w : Nat) : Option Instr :=
  (tableSlot nbits w).bind fun s => decodeOne (tableBytes s nbits w)

/-! One word for each constructor, written out from the encoding tables: op [31:26], X [25], qp [24:21], fields [20:0]. -/

theorem word_add : decodeA 0x006952C0 0x0 = .ok (.add 3 9 10 11) := by decide
theorem word_sub : decodeA 0x006952C1 0x0 = .ok (.sub 3 9 10 11) := by decide
theorem word_and : decodeA 0x006952C2 0x0 = .ok (.and 3 9 10 11) := by decide
theorem word_or : decodeA 0x006952C3 0x0 = .ok (.or 3 9 10 11) := by decide
theorem word_xor : decodeA 0x006952C4 0x0 = .ok (.xor 3 9 10 11) := by decide
theorem word_shl : decodeA 0x006952C5 0x0 = .ok (.shl 3 9 10 11) := by decide
theorem word_shr : decodeA 0x006952C6 0x0 = .ok (.shr 3 9 10 11) := by decide
theorem word_sar : decodeA 0x006952C7 0x0 = .ok (.sar 3 9 10 11) := by decide
theorem word_mul : decodeA 0x006952C8 0x0 = .ok (.mul 3 9 10 11) := by decide
theorem word_mulh : decodeA 0x006952C9 0x0 = .ok (.mulh 3 9 10 11) := by decide
theorem word_mulhn : decodeA 0x006952CA 0x0 = .ok (.mulhn 3 9 10 11) := by decide
theorem word_div : decodeA 0x006952CB 0x0 = .ok (.div 3 9 10 11) := by decide
theorem word_divn : decodeA 0x006952CC 0x0 = .ok (.divn 3 9 10 11) := by decide
theorem word_rem : decodeA 0x006952CD 0x0 = .ok (.rem 3 9 10 11) := by decide
theorem word_remn : decodeA 0x006952CE 0x0 = .ok (.remn 3 9 10 11) := by decide
theorem word_min : decodeA 0x006952CF 0x0 = .ok (.min 3 9 10 11) := by decide
theorem word_max : decodeA 0x006952D0 0x0 = .ok (.max 3 9 10 11) := by decide
theorem word_minn : decodeA 0x006952D1 0x0 = .ok (.minn 3 9 10 11) := by decide
theorem word_maxn : decodeA 0x006952D2 0x0 = .ok (.maxn 3 9 10 11) := by decide
theorem word_clz : decodeA 0x00695013 0x0 = .ok (.clz 3 9 10) := by decide
theorem word_ctz : decodeA 0x00695014 0x0 = .ok (.ctz 3 9 10) := by decide
theorem word_popc : decodeA 0x00695015 0x0 = .ok (.popc 3 9 10) := by decide
theorem word_andn : decodeA 0x006952D6 0x0 = .ok (.andn 3 9 10 11) := by decide
theorem word_orn : decodeA 0x006952D7 0x0 = .ok (.orn 3 9 10 11) := by decide
theorem word_addi : decodeA 0x04695003 0x0 = .ok (.addi 3 9 10 3) := by decide
theorem word_addiExt : decodeA 0x06695003 0x1 = .ok (.addiExt 3 9 10 3 1) := by decide
theorem word_andi : decodeA 0x08695003 0x0 = .ok (.andi 3 9 10 3) := by decide
theorem word_andiExt : decodeA 0x0A695003 0x1 = .ok (.andiExt 3 9 10 3 1) := by decide
theorem word_ori : decodeA 0x0C695003 0x0 = .ok (.ori 3 9 10 3) := by decide
theorem word_oriExt : decodeA 0x0E695003 0x1 = .ok (.oriExt 3 9 10 3 1) := by decide
theorem word_xori : decodeA 0x10695003 0x0 = .ok (.xori 3 9 10 3) := by decide
theorem word_xoriExt : decodeA 0x12695003 0x1 = .ok (.xoriExt 3 9 10 3 1) := by decide
theorem word_shli : decodeA 0x14695003 0x0 = .ok (.shli 3 9 10 3) := by decide
theorem word_shliExt : decodeA 0x16695003 0x0 = .ok (.shliExt 3 9 10 3 0) := by decide
theorem word_shri : decodeA 0x18695003 0x0 = .ok (.shri 3 9 10 3) := by decide
theorem word_shriExt : decodeA 0x1A695003 0x0 = .ok (.shriExt 3 9 10 3 0) := by decide
theorem word_sari : decodeA 0x1C695003 0x0 = .ok (.sari 3 9 10 3) := by decide
theorem word_sariExt : decodeA 0x1E695003 0x0 = .ok (.sariExt 3 9 10 3 0) := by decide
theorem word_muli : decodeA 0x20695003 0x0 = .ok (.muli 3 9 10 3) := by decide
theorem word_muliExt : decodeA 0x22695003 0x1 = .ok (.muliExt 3 9 10 3 1) := by decide
theorem word_movi : decodeA 0x24690001 0x0 = .ok (.movi 3 9 1) := by decide
theorem word_moviExt : decodeA 0x26690001 0x1 = .ok (.moviExt 3 9 1 1) := by decide
theorem word_movhi : decodeA 0x28690001 0x0 = .ok (.movhi 3 9 1) := by decide
theorem word_cmp : decodeA 0x2C622A5A 0x0 = .ok (.cmp 3 1 1 10 11 2) := by decide
theorem word_cmpi : decodeA 0x30622A0A 0x0 = .ok (.cmpi 3 1 1 10 1 2) := by decide
theorem word_cmpiExt : decodeA 0x32622A0A 0x1 = .ok (.cmpiExt 3 1 1 10 1 2 1) := by decide
theorem word_sel : decodeA 0x346952C4 0x0 = .ok (.sel 3 9 10 11 1) := by decide
theorem word_bfx : decodeA 0x3A695000 0x705 = .ok (.bfx 3 9 10 5 7) := by decide
theorem word_bfxs : decodeA 0x3E695000 0x705 = .ok (.bfxs 3 9 10 5 7) := by decide
theorem word_bfi : decodeA 0x42695000 0x705 = .ok (.bfi 3 9 10 5 7) := by decide
theorem word_lea : decodeA 0x446952C1 0x0 = .ok (.lea 3 9 10 11 1) := by decide
theorem word_movs : decodeA 0x4869000D 0x0 = .ok (.movs 3 9 13) := by decide
theorem word_br : decodeB 0x00600001 0x0 = .ok (.br 3 1) := by decide
theorem word_brExt : decodeB 0x02600001 0x1 = .ok (.brExt 3 1 1) := by decide
theorem word_call : decodeB 0x04600001 0x0 = .ok (.call 3 1) := by decide
theorem word_callExt : decodeB 0x06600001 0x1 = .ok (.callExt 3 1 1) := by decide
theorem word_brs : decodeB 0x086A0000 0x0 = .ok (.brs 3 10) := by decide
theorem word_calls : decodeB 0x0C6A0000 0x0 = .ok (.calls 3 10) := by decide
theorem word_loop : decodeB 0x106A0014 0x0 = .ok (.loop 3 10 20) := by decide
theorem word_loopi : decodeB 0x14600814 0x0 = .ok (.loopi 3 1 20) := by decide
theorem word_loopiExt : decodeB 0x16600814 0x1 = .ok (.loopiExt 3 1 20 1) := by decide
theorem word_loopr : decodeB 0x186A1014 0x0 = .ok (.loopr 3 10 1 20) := by decide
theorem word_lbreak : decodeB 0x1C600000 0x0 = .ok (.lbreak 3) := by decide
theorem word_plog : decodeB 0x20622201 0x0 = .ok (.plog 3 1 1 1 1) := by decide
theorem word_fmtset : decodeB 0x246A0000 0x0 = .ok (.fmtset 3 10) := by decide
theorem word_fmtseti : decodeB 0x2A600000 0x21 = .ok (.fmtseti 3 33) := by decide
theorem word_semwait : decodeB 0x2C620400 0x0 = .ok (.semwait 3 1 2) := by decide
theorem word_semsig : decodeB 0x30620400 0x0 = .ok (.semsig 3 1 2) := by decide
theorem word_waitc : decodeB 0x34625400 0x0 = .ok (.waitc 3 1 1 10) := by decide
theorem word_ctrwait : decodeB 0x3860A800 0x0 = .ok (.ctrwait 3 1 10) := by decide
theorem word_tfence : decodeB 0x3C600000 0x0 = .ok (.tfence 3) := by decide
theorem word_fence : decodeB 0x40694000 0x0 = .ok (.fence 3 9 2) := by decide
theorem word_taskend : decodeB 0x44600000 0x0 = .ok (.taskend 3) := by decide
theorem word_spawn : decodeB 0x4864A100 0x0 = .ok (.spawn 3 2 10 1) := by decide
theorem word_spawnOverlap : decodeB 0x4A64A100 0x1 = .ok (.spawnOverlap 3 2 10 1 1) := by decide
theorem word_yield : decodeB 0x4C600000 0x0 = .ok (.yield 3) := by decide
theorem word_statpop : decodeB 0x50690800 0x0 = .ok (.statpop 3 9 1) := by decide
theorem word_trap : decodeB 0x80600001 0x0 = .ok (.trap 3 1) := by decide
theorem word_eret : decodeB 0x84600000 0x0 = .ok (.eret 3) := by decide
theorem word_csrr : decodeB 0x88695001 0x0 = .ok (.csrr 3 9 10 1) := by decide
theorem word_csrw : decodeB 0x8C6A5801 0x0 = .ok (.csrw 3 10 11 1) := by decide
theorem word_jobres : decodeB 0x906A0000 0x0 = .ok (.jobres 3 10) := by decide
theorem word_iflush : decodeB 0x94600000 0x0 = .ok (.iflush 3) := by decide
theorem word_capopDerive : decodeB 0x9A6952C0 0x1 = .ok (.capopDerive 3 9 10 11 1) := by decide
theorem word_capopRevoke : decodeB 0x986952C1 0x0 = .ok (.capopRevoke 3 9 10 11) := by decide
theorem word_capopInfo : decodeB 0x986952C2 0x0 = .ok (.capopInfo 3 9 10 11) := by decide
theorem word_capopFree : decodeB 0x986952C3 0x0 = .ok (.capopFree 3 9 10 11) := by decide
theorem word_ctxctlStop : decodeB 0x9C6952C0 0x0 = .ok (.ctxctlStop 3 9 10 11) := by decide
theorem word_ctxctlGo : decodeB 0x9C6952C1 0x0 = .ok (.ctxctlGo 3 9 10 11) := by decide
theorem word_ctxctlKill : decodeB 0x9C6952C2 0x0 = .ok (.ctxctlKill 3 9 10 11) := by decide
theorem word_ctxctlRead : decodeB 0x9E6952C3 0x2D0 = .ok (.ctxctlRead 3 9 10 11 720) := by decide
theorem word_ctxctlWrite : decodeB 0x9E6952C4 0x2D0 = .ok (.ctxctlWrite 3 9 10 11 720) := by decide
theorem word_ctxctlBrkSet : decodeB 0x9E6952C5 0x2 = .ok (.ctxctlBrkSet 3 9 10 11 2) := by decide
theorem word_ctxctlBrkClr : decodeB 0x9E6952C6 0x2 = .ok (.ctxctlBrkClr 3 9 10 11 2) := by decide
theorem word_ctxctlTestMode : decodeB 0x9C6952C7 0x0 = .ok (.ctxctlTestMode 3 9 10 11) := by decide
theorem word_audmark : decodeB 0xC06A5800 0x0 = .ok (.audmark 3 10 11) := by decide
theorem word_audsealSeal : decodeB 0xC4690500 0x0 = .ok (.audsealSeal 3 9 0 10) := by decide
theorem word_audsealConfig : decodeB 0xC4692501 0x0 = .ok (.audsealConfig 3 9 2 10) := by decide
theorem word_audbisect : decodeB 0xC8692501 0x0 = .ok (.audbisect 3 9 2 10 1) := by decide
theorem word_audref : decodeB 0xCC692501 0x0 = .ok (.audref 3 9 2 10 1) := by decide
theorem word_audreplay : decodeB 0xD0692501 0x0 = .ok (.audreplay 3 9 2 10 1) := by decide
theorem word_audroot : decodeB 0xD46A4000 0x0 = .ok (.audroot 3 5 1) := by decide
theorem word_shset : decodeD 0x00648A00 0x0 = .ok (.shset 3 1 4 10) := by decide
theorem word_shseti : decodeD 0x06648000 0x1 = .ok (.shseti 3 1 4 1) := by decide
theorem word_shcopy : decodeD 0x08648000 0x0 = .ok (.shcopy 3 1 1) := by decide
theorem word_shstep : decodeD 0x0C655000 0x0 = .ok (.shstep 3 1 1 10) := by decide
theorem word_mpset : decodeD 0x106EA000 0x0 = .ok (.mpset 3 3 1 10) := by decide
theorem word_mpseti : decodeD 0x166D0000 0x1 = .ok (.mpseti 3 3 1 1) := by decide
theorem word_vshape : decodeD 0x18604008 0x0 = .ok (.vshape 3 1 1) := by decide
theorem word_fpnarrow : decodeD 0x1C622A96 0x0 = .ok (.fpnarrow 3 1 1 1 10 11) := by decide
theorem word_shrd : decodeD 0x20699080 0x0 = .ok (.shrd 3 9 1 1 1) := by decide
theorem word_alloc : decodeL 0x006A20A0 0x0 = .ok (.alloc 3 5 1 5) := by decide
theorem word_allocr : decodeL 0x046A2A00 0x0 = .ok (.allocr 3 5 1 10) := by decide
theorem word_alloct : decodeL 0x086A20A2 0x0 = .ok (.alloct 3 5 1 5 1) := by decide
theorem word_copyin : decodeL 0x0C6A4400 0x0 = .ok (.copyin 3 5 1 1) := by decide
theorem word_gpush : decodeL 0x106AA800 0x0 = .ok (.gpush 3 5 10 1) := by decide
theorem word_gather : decodeL 0x146A4400 0x0 = .ok (.gather 3 5 1 1) := by decide
theorem word_tmove : decodeL 0x186A9100 0x0 = .ok (.tmove 3 5 4 1 1) := by decide
theorem word_ldt : decodeL 0x1C694801 0x0 = .ok (.ldt 3 9 4 2 0 1) := by decide
theorem word_ldtr : decodeL 0x206948B0 0x0 = .ok (.ldtr 3 9 4 2 0 11) := by decide
theorem word_ldg : decodeL 0x24692541 0x0 = .ok (.ldg 3 9 2 10 2 0 1) := by decide
theorem word_tread : decodeL 0x28694AC0 0x0 = .ok (.tread 3 9 4 1 11) := by decide
theorem word_trel : decodeL 0x2C680000 0x0 = .ok (.trel 3 4) := by decide
theorem word_tinfo : decodeL 0x30694100 0x0 = .ok (.tinfo 3 9 4 1) := by decide
theorem word_ovl : decodeL 0x3464A588 0x0 = .ok (.ovl 3 2 10 11 1) := by decide
theorem word_landh : decodeL 0x386A02A0 0x0 = .ok (.landh 3 5 1 10) := by decide
theorem word_vadd : decodeV 0x006ACE71 0x0 = .ok (.vadd 3 5 6 7 1 1 1 1) := by decide
theorem word_vsub : decodeV 0x046ACE71 0x0 = .ok (.vsub 3 5 6 7 1 1 1 1) := by decide
theorem word_vmul : decodeV 0x086ACE71 0x0 = .ok (.vmul 3 5 6 7 1 1 1 1) := by decide
theorem word_vfma : decodeV 0x0C6ACE71 0x0 = .ok (.vfma 3 5 6 7 1 1 1 1) := by decide
theorem word_vmin : decodeV 0x106ACE70 0x0 = .ok (.vmin 3 5 6 7 1 1 1) := by decide
theorem word_vmax : decodeV 0x146ACE70 0x0 = .ok (.vmax 3 5 6 7 1 1 1) := by decide
theorem word_vand : decodeV 0x186ACE70 0x0 = .ok (.vand 3 5 6 7 1 1 1) := by decide
theorem word_vor : decodeV 0x1C6ACE70 0x0 = .ok (.vor 3 5 6 7 1 1 1) := by decide
theorem word_vxor : decodeV 0x206ACE70 0x0 = .ok (.vxor 3 5 6 7 1 1 1) := by decide
theorem word_vshl : decodeV 0x246ACF30 0x0 = .ok (.vshl 3 5 6 7 4 1 1) := by decide
theorem word_vshr : decodeV 0x286ACF30 0x0 = .ok (.vshr 3 5 6 7 4 1 1) := by decide
theorem word_vcmp : decodeV 0x2C6ACE71 0x0 = .ok (.vcmp 3 5 6 7 1 1 1 1) := by decide
theorem word_vsel : decodeV 0x306ACE70 0x0 = .ok (.vsel 3 5 6 7 1 1 1) := by decide
theorem word_vabs : decodeV 0x346AC060 0x0 = .ok (.vabs 3 5 6 1 1) := by decide
theorem word_vneg : decodeV 0x386AC060 0x0 = .ok (.vneg 3 5 6 1 1) := by decide
theorem word_vmov : decodeV 0x3C6AC060 0x0 = .ok (.vmov 3 5 6 1 1) := by decide
theorem word_vfill : decodeV 0x406A0040 0x0 = .ok (.vfill 3 5 1) := by decide
theorem word_vfillExt : decodeV 0x426A0040 0x7F = .ok (.vfillExt 3 5 1 127) := by decide
theorem word_vbrow : decodeV 0x446AC060 0x0 = .ok (.vbrow 3 5 6 1 1) := by decide
theorem word_vbcol : decodeV 0x486AC060 0x0 = .ok (.vbcol 3 5 6 1 1) := by decide
theorem word_vtrans : decodeV 0x4C6AC060 0x0 = .ok (.vtrans 3 5 6 1 1) := by decide
theorem word_vsfu : decodeV 0x526AC061 0x1 = .ok (.vsfu 3 5 6 1 1 1 1) := by decide
theorem word_vrsum : decodeV 0x546AC061 0x0 = .ok (.vrsum 3 5 6 1 1 1) := by decide
theorem word_vrmax : decodeV 0x586AC060 0x0 = .ok (.vrmax 3 5 6 1 1) := by decide
theorem word_vcsum : decodeV 0x5C6AC061 0x0 = .ok (.vcsum 3 5 6 1 1 1) := by decide
theorem word_vcmax : decodeV 0x606AC060 0x0 = .ok (.vcmax 3 5 6 1 1) := by decide
theorem word_vdot : decodeV 0x646ACE71 0x0 = .ok (.vdot 3 5 6 7 1 1 1 1) := by decide
theorem word_vmacc : decodeV 0x686ACE71 0x0 = .ok (.vmacc 3 5 6 7 1 1 1 1) := by decide
theorem word_vcvt : decodeV 0x6E6AC021 0x1243 = .ok (.vcvt 3 5 6 1 1 3 9 1 0) := by decide
theorem word_vqnt : decodeV 0x726ACE71 0x429 = .ok (.vqnt 3 5 6 7 1 1 1 1 9 1 0 1) := by decide
theorem word_vdqnt : decodeV 0x766ACE71 0x429 = .ok (.vdqnt 3 5 6 7 1 1 1 1 9 1 0 1) := by decide
theorem word_vscale : decodeV 0x786ACE71 0x0 = .ok (.vscale 3 5 6 7 1 1 1 1) := by decide
theorem word_viota : decodeV 0x7C6A0041 0x0 = .ok (.viota 3 5 1 1) := by decide
theorem word_vsums : decodeV 0x8072D060 0x0 = .ok (.vsums 3 9 6 1 1 1) := by decide
theorem word_mcall : decodeM 0x00602620 0x0 = .ok (.mcall 3 1 1 1 1) := by decide
theorem word_acczero : decodeM 0x04660000 0x0 = .ok (.acczero 3 1 1) := by decide
theorem word_accrd : decodeM 0x086A4467 0x0 = .ok (.accrd 3 5 1 1 3 1 1 1) := by decide
theorem word_accwr : decodeM 0x0C653000 0x0 = .ok (.accwr 3 1 4 1 1) := by decide
theorem word_accmov : decodeM 0x10648000 0x0 = .ok (.accmov 3 1 1) := by decide
theorem word_ringpush : decodeM 0x14650000 0x0 = .ok (.ringpush 3 1 4) := by decide
theorem word_ringdrop : decodeM 0x18644000 0x0 = .ok (.ringdrop 3 1 2) := by decide
theorem word_ringinfo : decodeM 0x1C692000 0x0 = .ok (.ringinfo 3 9 1) := by decide
theorem word_mprog : decodeM 0x206024A0 0x0 = .ok (.mprog 3 1 2 10) := by decide
theorem word_mprogExt : decodeM 0x226024A0 0x1 = .ok (.mprogExt 3 1 2 10 1) := by decide
theorem word_copyout : decodeO 0x00686880 0x0 = .ok (.copyout 3 4 1 1 1 1) := by decide
theorem word_copyacc : decodeO 0x04648800 0x0 = .ok (.copyacc 3 1 1 1) := by decide
theorem word_stt : decodeO 0x086A4801 0x0 = .ok (.stt 3 10 4 2 1) := by decide
theorem word_sttr : decodeO 0x0C6A48B0 0x0 = .ok (.sttr 3 10 4 2 11) := by decide
theorem word_stg : decodeO 0x106B2541 0x0 = .ok (.stg 3 11 2 10 2 1) := by decide
theorem word_atom : decodeO 0x1669252C 0x6A3 = .ok (.atom 3 9 2 10 11 3 2 1 1 1) := by decide
theorem word_cas : decodeO 0x1A69252C 0x6A0 = .ok (.cas 3 9 2 10 11 2 1 1 1) := by decide
theorem word_send : decodeO 0x1C602910 0x0 = .ok (.send 3 1 4 1 1) := by decide
theorem word_sendt : decodeO 0x22602910 0x4000001 = .ok (.sendt 3 1 4 1 1 1 1) := by decide
theorem word_putr : decodeO 0x24602950 0x0 = .ok (.putr 3 1 4 1 10) := by decide
theorem word_ctraddRemote : decodeO 0x28601500 0x0 = .ok (.ctraddRemote 3 1 10) := by decide
theorem word_ctraddLocal : decodeO 0x28701500 0x0 = .ok (.ctraddLocal 3 1 10) := by decide
theorem word_mbox : decodeO 0x2C695080 0x0 = .ok (.mbox 3 4 1 10 1) := by decide
theorem word_scatter : decodeO 0x30690744 0x0 = .ok (.scatter 3 4 8 1 1 1 1 1) := by decide
theorem word_prime : decodeO 0x34602905 0x0 = .ok (.prime 3 1 4 1 5) := by decide

end Sys2Proof
end

