-- ==== Sys2Proof/Machine/Map.lean ====
section
/-!
DEFINITION. Finite maps as sorted lists of numbered entries, and byte memory as the list of the bytes that differ
from what an unlisted address reads as. Both are plain data; equal memories are equal lists.
-/
namespace Sys2Proof.Machine

/-- Numbered entries, rising; an absent entry reads as the default its reader names. -/
abbrev Map (α : Type) := List (Nat × α)

/-- The entry numbered `k`, if there is one. -/
def Map.entry? {α : Type} : Map α → Nat → Option α
  | [], _ => none
  | e :: m, k => if e.1 = k then some e.2 else Map.entry? m k

/-- The entry numbered `k`, or `d`. -/
def Map.look {α : Type} (m : Map α) (k : Nat) (d : α) : α := (Map.entry? m k).getD d

/-- The map with entry `k` set to `v`. -/
def Map.put {α : Type} : Map α → Nat → α → Map α
  | [], k, v => [(k, v)]
  | e :: m, k, v =>
    if k < e.1 then (k, v) :: e :: m
    else if e.1 = k then (k, v) :: m
    else e :: Map.put m k v

/-- The map without entry `k`. -/
def Map.del {α : Type} (m : Map α) (k : Nat) : Map α := m.filter fun e => e.1 ≠ k

/-- The map with `f` applied to entry `k`, taken as `d` when absent. -/
def Map.adj {α : Type} (m : Map α) (k : Nat) (d : α) (f : α → α) : Map α := Map.put m k (f (Map.look m k d))

/-- The map with `f` applied to every entry. -/
def Map.mapv {α β : Type} (m : Map α) (f : α → β) : Map β := m.map fun e => (e.1, f e.2)

/-- Byte memory: the addresses that hold something other than `Mem.empty`, strictly rising. -/
abbrev Mem := List Host.Cell

/-- What an unlisted byte reads as. The spec gives no contents of a memory that nothing has written.
DESIGN CHOICE (log 1). -/
def Mem.empty : Byte := 0

/-- Every address lies at or above `lo` and rises strictly, and no entry equals what an unlisted address reads as. -/
def Mem.wfFrom : Nat → Mem → Bool
  | _, [] => true
  | lo, c :: m => decide (lo ≤ c.1) && decide (c.2 ≠ Mem.empty) && Mem.wfFrom (c.1 + 1) m

/-- The canonical form of a memory. -/
def Mem.wf (m : Mem) : Bool := Mem.wfFrom 0 m

/-- One byte. -/
def Mem.read : Mem → Nat → Byte
  | [], _ => Mem.empty
  | c :: m, a => if c.1 = a then c.2 else Mem.read m a

/-- The bytes of a run at `a` from a memory whose entries below `a` are gone; one pass. -/
def Mem.readGo : Mem → Nat → Nat → Bytes
  | _, _, 0 => []
  | [], _, n + 1 => Mem.empty :: Mem.readGo [] 0 n
  | c :: m, a, n + 1 => if c.1 = a then c.2 :: Mem.readGo m (a + 1) n else Mem.empty :: Mem.readGo (c :: m) (a + 1) n

/-- `n` bytes from `a` up. -/
def Mem.readN (m : Mem) (a n : Nat) : Bytes := Mem.readGo (m.filter fun c => a ≤ c.1 ∧ c.1 < a + n) a n

/-- The entries of a run of bytes at `a`, without those equal to what an unlisted address reads as. -/
def Mem.cells : Nat → Bytes → Mem
  | _, [] => []
  | a, b :: bs => if b = Mem.empty then Mem.cells (a + 1) bs else (a, b) :: Mem.cells (a + 1) bs

/-- Writes a run of bytes at `a`, keeping the canonical form. -/
def Mem.writeN (m : Mem) (a : Nat) (bs : Bytes) : Mem :=
  (m.filter fun c => c.1 < a) ++ Mem.cells a bs ++ m.filter fun c => a + bs.length ≤ c.1

end Sys2Proof.Machine
end

