-- ==== Sys2Proof/Machine/State.lean ====
section
/-!
DEFINITION. Everything the spec gives the machine, as plain data, and the machine right after reset. INVENTORY.md lists
each piece with its rule and its reset value. Contexts, units, pads, dies and the parts of the module are structures
of their own; sparse collections are maps whose absent entries read as the reset value.
-/
namespace Sys2Proof.Machine

/-- Reasons for which a step stops the machine. -/
inductive Fault where
  /-- Raised by `step` once thermal shutdown has powered the module down (R421). Safe: nothing runs after it. -/
  | poweredDown
  deriving DecidableEq, Repr

/-- Reasons for which a step has no meaning. -/
inductive Refusal where
  /-- Raised by `exec` for an instruction without a meaning in this model. Safe: no claim is made. -/
  | notModelled (mnemonic : String)
  deriving DecidableEq, Repr

/-- A footprint record (R144). -/
structure FpRec where
  base : Nat := 0
  len : Nat := 0
  mode : Nat := 0
  deriving DecidableEq, Repr

/-- One entry of the loop stack (R206). -/
structure Loop where
  start : Nat
  stop : Nat
  total : Nat
  kern : Nat
  index : Nat
  rot : Bool
  deriving DecidableEq, Repr

/-- A ring (R315). -/
structure Ring where
  entries : Map Nat := []
  head : Nat := 0
  count : Nat := 0
  claim : Nat := 0
  deriving DecidableEq, Repr

/-- A pool-table entry (R157). -/
structure PtEnt where
  level : Nat := 0
  pool : Nat := 0
  resM1 : Nat := 0
  inUse : Nat := 0
  valid : Bool := false
  deriving DecidableEq, Repr

/-- A physical register (R191). -/
inductive Dest where
  | s (n : Nat)
  | q (n : Nat)
  | h (n : Nat)
  deriving DecidableEq, Repr

/-- A fixed-latency result in flight: its bundle, the bundle from which it is usable, its register, value and flags (R65). -/
structure Fly where
  bundle : Nat
  due : Nat
  dest : Dest
  val : Nat
  flags : Nat := 0
  deriving DecidableEq, Repr

/-- A descriptor or format write that other slots do not see yet (R28, R249, R254-R256). -/
inductive ShadowW where
  | shape (r f : Nat) (v : Word)
  | mp (i : Nat) (v : BitVec 128)
  | vsh (v : BitVec 32)
  | fp (i : Nat) (r : FpRec)
  | fmt (v : BitVec 32)
  deriving DecidableEq, Repr

/-- A shadowed write and the bundle that made it. -/
structure Shadow where
  bundle : Nat
  w : ShadowW
  deriving DecidableEq, Repr

/-- A fault about to be raised, with what its record holds beside the context's own fields (R228). -/
structure Trap where
  cause : Nat
  reason : Nat := 0
  dreason : Nat := 0xFF
  mask : Nat := 0
  slot : Nat := 7
  engine : Bool := false
  iss : Nat := 0
  vaddr : Nat := 0
  row : Nat := 0
  col : Nat := 0
  jobId : Nat := 0
  data : Nat := 0
  kdone : Nat := 0
  w : Nat := 0
  ext : Nat := 0
  /-- the model's own: scalar sources whose values the record shows -/
  snap : List Word := []
  deriving DecidableEq, Repr

/-- One position of a task's tree: what a void leaf needs, and the record once placed (R370). -/
structure Leaf where
  addr : Nat
  slot : Nat
  w : Nat
  ext : Nat
  record : Option Bytes := none
  deriving DecidableEq, Repr

/-- What a context is doing. -/
inductive CtxStatus where
  /-- presents bundles -/
  | live
  /-- in the steps of a TASKEND that has issued (R219) -/
  | ending
  /-- parked by a trap: the record, whether it may resume, whether a breakpoint parked it, whether a handler was launched -/
  | parked (record : Bytes) (resumable brk handled : Bool)
  /-- parked by CTXCTL STOP (R232) -/
  | stopped
  deriving DecidableEq, Repr

/-- A bundle under presentation: its address, and whether its issue checks are made and its effect started (R424). -/
structure Pres where
  addr : Nat
  checked : Bool := false
  started : Bool := false
  /-- its STOP bit and its length -/
  stop : Bool := true
  len : Nat := 5
  /-- leaf indices that the task had assigned when the bundle was first presented (R380) -/
  leaf0 : Nat := 0
  /-- the first of its two operations for one shared port has entered the port (R132) -/
  entered : Bool := false
  deriving DecidableEq, Repr

/-- A TFENCE or FENCE that has issued and stalls its context (R217, R218): its bundle's address, its syllable, the next address, the
first job and the first bundle that it does not wait for, and what it does at its end. -/
structure Fencing where
  addr : Nat
  w : Nat
  next : Nat
  jid : Nat
  bundle : Nat
  /-- none for TFENCE; the register and the scope of FENCE -/
  word : Option (Dest × Nat) := none
  /-- the enables at the issue of a TFENCE (R53) -/
  te : BitVec 32 := 0
  deriving DecidableEq, Repr

/-- What a bundle being issued asks of the sequencer once every slot has taken effect. -/
inductive After where
  | none
  | jump (target : Nat)
  | pushLoop (l : Loop)
  | lbreak
  | taskend
  | trapinsn (imm : Nat)
  | arith (pending : Nat)
  | yield
  | eret
  deriving DecidableEq, Repr

/-- Outcome of the last presentation, which the merge stage and the sequencer read. -/
inductive Issue where
  | idle
  | held
  /-- held in the first of its two cycles for a shared port (R132) -/
  | entering
  | issued
  | trapped (t : Trap)
  deriving DecidableEq, Repr

/-- A context (R130, R235). -/
structure Ctx where
  cid : Nat
  unit : Nat := 0
  die : Nat := 0
  queue : Nat := 0
  level : Nat := 0
  startup : Bool := false
  touchSeal : Bool := false
  taskId : Nat := 0
  graph : Nat := 0
  node : Nat := 0
  nodeIdx : Nat := 0
  obj : Nat := 0
  taskIdx : Nat := 0
  prio : Nat := 0
  cycles : Nat := 0
  strict : Bool := false
  affinity : Bool := false
  stamps : Bool := false
  retain : Nat := 0
  params : List Nat := []
  startCycle : Nat := 0
  status : CtxStatus := .live
  pc : Nat := 0
  s : Map Word := []
  q : Map Bool := []
  h : Map (BitVec 32) := []
  rot : Nat := 0
  semV : Map Nat := []
  semP : Map Nat := []
  li : List Loop := []
  fmt : BitVec 32 := 0
  flags : BitVec 32 := 0
  pend : BitVec 8 := 0
  sh : Map Word := []
  mp : Map (BitVec 128) := []
  vsh : BitVec 32 := 0
  fp : Map FpRec := []
  rings : Map Ring := []
  pt : Map PtEnt := []
  refCnt : Nat := 0
  deadCnt : Nat := 0
  jobCount : Nat := 0
  watch : Nat := 0
  lastAcc : Option Nat := none
  /-- words whose tag relaxed atomics have read, each with that tag where it named a release (R184, R185) -/
  rlx : List (Nat × Nat) := []
  banks : Nat := 0
  leafNext : Nat := 0
  leaves : Map Leaf := []
  bundleNo : Nat := 0
  fly : List Fly := []
  shadow : List Shadow := []
  ticket : Nat := 0
  tickets : Map Nat := []
  grp : List Dest := []
  /-- first bundle of the open dependence group; none at a group boundary -/
  grpFrom : Option Nat := none
  inRun : Bool := false
  pres : Option Pres := none
  after : After := .none
  last : Issue := .idle
  stall : Nat := 0
  waited : Nat := 0
  /-- CYCLE when it last parked on a trap (R225) -/
  parkedAt : Nat := 0
  preempt : Bool := false
  stopReq : Bool := false
  brkSkip : Option Nat := none
  /-- this context is a trap handler: of a parked context, or (`some none`) of a race or of a context since ended -/
  handles : Option (Option Nat) := none
  /-- its task has failed (R136, R229, R232) -/
  killed : Bool := false
  /-- W1 is reached: pre-emption has been requested (R136) -/
  wdWarn : Bool := false
  /-- W2 is reached: the task is killed at the next group boundary (R136) -/
  wdKill : Bool := false
  /-- a handler that ERET has ended (R229) -/
  quiet : Bool := false
  /-- step of R219 that the end of the task has reached; 0 while it runs -/
  endPhase : Nat := 0
  /-- syllable of the TASKEND that has issued, which COUNTMISMATCH reports (R228) -/
  endW : Nat := 0
  /-- the TFENCE or FENCE that stalls it (R217, R218) -/
  fencing : Option Fencing := none
  /-- a stall swap fell due inside a shape shadow and has yet to land (R250) -/
  swapDue : Bool := false
  /-- the lines in its fetch queue and in its loop buffer, by line number (R168) -/
  fq : Map Bytes := []
  lbuf : Map Bytes := []
  deriving DecidableEq, Repr

/-- A tile slot by its pad and its number within the pad (pool × 16,384 + slot). -/
structure TileRef where
  pad : Nat
  slot : Nat
  deriving DecidableEq, Repr

/-- The digest of a tile by its chunks, as an operation comes to know it: where it stands in the leaf (0 A, 1 B, 2 C, 3 AUX, 4 RESULT), the tile
and its descriptor, and of each chunk its digest and its count once they are known (R369, R370). -/
structure TdWait where
  pos : Nat
  tile : TileRef
  desc : Bytes
  cells : List (Option (Bytes × Nat))
  deriving DecidableEq, Repr

/-- The kinds of engine job, routine and queued operation. -/
inductive JobKind where
  | copyIn | gather | tmove | ldg | ovl | copyOut | copyAcc | scatter | stg | atomic
  | vec | accrd | routine | send | prime | mbox | ctradd | mprog | spawn | audConfig | audit
  deriving DecidableEq, Repr

/-- An element of an out job that has passed its checks and is on its way to its home (R146, R173): its index, the places of its bytes, its
first bit in them, its bits. -/
structure Air where
  idx : Nat
  keys : List Nat
  bit : Nat := 0
  val : Nat := 0
  deriving DecidableEq, Repr

/-- A job's writes stand as performed at a scope of a unit, by a FENCE or by a release that wrote a word; contexts whose acquire found that
release out of its scope need not see them by it (R173, R183-R185). A plain write ends what the word can still name, not what relaxed atomics of
contexts have read there before, each given with the word. -/
structure Mark where
  unit : Nat
  scope : Nat
  word : Option Nat
  read : List (Nat × Nat) := []
  dropped : List Nat := []
  deriving DecidableEq, Repr

/-- A job from its issue to its completion: what it sampled, how far it is, and its fault while it has one. -/
structure Job where
  jid : Nat
  cid : Nat
  die : Nat
  queue : Nat
  kind : JobKind
  instr : Instr
  addr : Nat := 0
  slot : Nat := 7
  tag : Nat := 0
  sem : Nat := 0
  leaf : Option Nat := none
  fps : Map FpRec := []
  fmt : BitVec 32 := 0
  vsh : BitVec 32 := 0
  shape : Map Word := []
  shape2 : Map Word := []
  mp : Map (BitVec 128) := []
  dst : Option TileRef := none
  src : Option TileRef := none
  src2 : Option TileRef := none
  aux : Option TileRef := none
  tilesA : List TileRef := []
  tilesB : List TileRef := []
  tiles3 : List (Option TileRef) := []
  dreg : Option (Dest × Nat) := none
  /-- scalar operands at issue -/
  a : Nat := 0
  b : Nat := 0
  c : Nat := 0
  due : Nat := 0
  issued : Nat := 0
  /-- chunks read or acknowledged (sends) -/
  done : Nat := 0
  /-- the chunks of its destination that a vector operation lands, as a mask (R288) -/
  lands : Nat := 0
  /-- next element (out jobs), next block (routines) -/
  next : Nat := 0
  performed : Bool := false
  flags : Nat := 0
  fault : Option Trap := none
  rows : List Int := []
  /-- rows of a gather whose indices have left the unit's gather address queue (R264) -/
  drained : Nat := 0
  /-- the rows of a gather that have been fetched: bits of elements, and whether they came from a sealed page (R264) -/
  got : Map (List Nat × Bool) := []
  /-- chunks of an in job fetched and yet to arrive: bytes, whether they came from a sealed page, count (R258) -/
  fetched : Map (Bytes × Bool × Nat) := []
  /-- tile digests that its leaf still lacks; of an in job that of its own tile, chunk by chunk as they land (R369, R370) -/
  tds : List TdWait := []
  closed : Bool := false
  phase : Nat := 0
  bank : Nat := 0
  ch : Nat := 0
  arr : Nat := 0
  granted : Bool := false
  /-- bytes of its crossing that tokens have paid for (R415) -/
  paid : Nat := 0
  /-- bytes of its buffer that a replay captures, once it has found that (R384, R423) -/
  cap : Option Nat := none
  /-- the units that hold the image of an MPROG already (R333) -/
  early : List Nat := []
  /-- bytes that have crossed, and the mask of the regions charged, for its egress record (R417) -/
  crossed : Nat := 0
  cmask : Nat := 0
  /-- its elements on their way to their homes, the latest first (R173) -/
  air : List Air := []
  /-- where they stand as performed meanwhile (R173, R183, R184) -/
  marks : List Mark := []
  /-- contexts that have synchronised with a release behind it, and at what scope (R183) -/
  seers : List (Nat × Nat) := []
  /-- the jobs on their way when it was sent whose writes come before its own to the same bytes (R180, R182) -/
  after : List Nat := []
  /-- of a relaxed atomic: a FENCE that has let it pass has read the tag of its word (R184, R185) -/
  tagRead : Bool := false
  /-- what an atomic returns, once it has been performed (R181, R282) -/
  res : Nat := 0
  /-- SEQ of the tile that it reads, for its message (R135) -/
  seq : Nat := 0
  /-- places that it has read, as spans, and what a record that an engine has rewritten meanwhile held there (R176) -/
  seen : List (Nat × Nat) := []
  view : Map Byte := []
  failed : Bool := false
  digA : Bytes := []
  digB : Bytes := []
  digC : Bytes := []
  digX : Bytes := []
  image : Bytes := []
  stored : Map Nat := []
  readBefore : Map Nat := []
  /-- 64-byte blocks this job has counted (R154) -/
  blocks : List Nat := []
  /-- scalar sources at issue, for a trap record's SNAP (R228) -/
  snap : List Word := []
  deriving DecidableEq, Repr

/-- A pool of a pad (R156, R238). -/
structure PoolCfg where
  log2 : Nat
  count : Nat
  base : Nat
  deriving DecidableEq, Repr

/-- The metadata of a slot (R159), its PRODUCED bit (R258), chunk digests (R164) and stamp cycles (R245). -/
structure SlotSt where
  gen : Nat := 1
  reads : Nat := 0
  okind : Nat := 0
  oid : Nat := 0
  fmt : Nat := 0
  rows : Nat := 0
  cols : Nat := 0
  seq : Nat := 0
  sealed : Bool := false
  arrival : Nat := 0
  valid : Map Nat := []
  poison : Nat := 0
  td : Bytes := []
  cds : Map Bytes := []
  produced : Bool := false
  /-- the storage has not returned to the pool (R161) -/
  busy : Bool := false
  /-- reserved to a channel: unit, channel number, landing slot (R344) -/
  chan : Option (Nat × Nat × Nat) := none
  /-- the context whose pool-table entry counts the slot, and that entry (R157) -/
  ptCid : Nat := 0
  ptIdx : Nat := 0
  /-- the allocator's unit, task, queue and stamps flag -/
  aUnit : Nat := 0
  aTask : Nat := 0
  aQueue : Nat := 0
  stamps : Bool := false
  allocAddr : Nat := 0
  tAlloc : Nat := 0
  tFirst : Nat := 0
  tLast : Nat := 0
  tHeld : Option Nat := none
  tRead : Option Nat := none
  deriving DecidableEq, Repr

/-- A pad: its pools, its slots, and the slots of each pool reserved for tasks (R156, R131). -/
structure PadSt where
  pools : Map PoolCfg := []
  slots : Map SlotSt := []
  resv : Map Nat := []
  deriving DecidableEq, Repr

/-- An accumulator bank beside its DATA, which memory holds (R312, R366). -/
structure AccSt where
  owner : Option Nat := none
  int : Bool := false
  busy : Bool := false
  poison : Bool := false
  kdone : Nat := 0
  bd : Option Bytes := none
  deriving DecidableEq, Repr

/-- A statistics record with the task and queue it is tagged with (R222). -/
structure StatRec where
  taskId : Nat
  kind : Nat
  slot : Nat
  drops : Nat
  data : Nat
  addr : Nat
  queue : Nat
  /-- its number among the records of its die -/
  age : Nat := 0
  deriving DecidableEq, Repr

/-- A landing in progress or counted (R349, R350). -/
structure Landing where
  n : Nat
  begun : Bool := false
  done : Bool := false
  /-- deadline cycles left, once it runs -/
  dl : Option Nat := none
  tag : Nat := 0
  dup : Bool := false
  filled : Nat := 0
  reads : Option Nat := none
  seen : Bool := false
  /-- the tree position: context and leaf index -/
  leaf : Option (Nat × Nat) := none
  primedTD : Bytes := []
  /-- digests of the contribution's chunks as received -/
  cds : Map Bytes := []
  /-- slots A, B, C, AUX and RESULT of its leaf, and VZERO, VMIN, VMAX, once it has completed -/
  parts : List Bytes := []
  vals : Nat × Nat × Nat := (0, 0, 0)
  deriving DecidableEq, Repr

/-- A channel end (R343, R344, R345). -/
structure ChanEnd where
  peerChip : Nat
  peerEp : Nat
  fmt : Nat
  rows : Nat
  cols : Nat
  depth : Nat
  blot : Bool
  red : Nat
  ctr : Nat
  deadline : Nat
  usable : Bool := false
  mismatch : Bool := false
  lreads : Nat := 1
  issued : Nat := 0
  fired : Nat := 0
  ready : Nat := 0
  nextIn : Nat := 0
  primed : Nat := 0
  tags : List Nat := []
  slots : List TileRef := []
  g0 : List Nat := []
  readySent : Nat := 0
  landings : Map Landing := []
  /-- counter adds held until NEXTIN reaches their threshold: threshold, amount (R359) -/
  adds : List (Nat × Nat) := []
  deriving DecidableEq, Repr

/-- A unit endpoint held by a queue's graphs (R343). -/
structure Endpoint where
  ep : Nat
  die : Nat
  queue : Nat
  ctrs : Map Nat := []
  eflags : Nat := 0
  ends : Map ChanEnd := []
  deriving DecidableEq, Repr

/-- A translation buffer entry: address space, first virtual address and size of its page, the leaf (R151). -/
structure TlbEnt where
  space : Nat
  va : Nat
  span : Nat
  pa : Nat
  place : Nat
  perm : Nat
  sealed : Bool
  deriving DecidableEq, Repr

/-- A swap in progress: the live bank, cycles left (R133). -/
structure Swap where
  bank : Nat
  left : Nat
  deriving DecidableEq, Repr

/-- An installed microprogram image (R326, R333). -/
structure Image where
  bytes : Bytes
  digest : Bytes
  deriving DecidableEq, Repr

/-- A unit (R10). -/
structure UnitSt where
  cycle : Nat := 0
  fence : Nat := 5
  secorr : Nat := 0
  freeze : Nat := 0
  memue : Bool := false
  swap : Option Swap := none
  /-- the bank that is the shadow; the other two are live -/
  shadow : Nat := 2
  ctxs : Map Ctx := []
  deque : List (Nat × Nat × Nat) := []
  served : Map Nat := []
  jobs : List Job := []
  /-- operations that have completed but for their leaves, which wait for chunks of an operand (R370) -/
  late : List Job := []
  /-- lane cycles that its vector unit has left of the operation it accepted last (R284) -/
  vecLeft : Nat := 0
  tlb : List TlbEnt := []
  filled : Map Unit := []
  stats : List StatRec := []
  /-- records dropped by task since its last one -/
  drops : Map Nat := []
  accs : Map AccSt := []
  /-- images that MPROG has put into its microprogram store (R326, R333) -/
  store : Map Image := []
  endpoint : Option Endpoint := none
  /-- data packets that reached its channel ends in a freeze, oldest first, each with whether its checks failed (R170) -/
  landQ : List (Packet × Bool) := []
  deriving DecidableEq, Repr

/-- Records of a loaded object: tasks, footprint templates, pools, channels (R103-R106). -/
structure TaskRec where
  entry : Nat
  cycles : Nat
  banks : Nat
  prio : Nat
  retain : Nat
  strict : Bool
  affinity : Bool
  stamps : Bool
  pool0 : Nat
  npool : Nat
  fp0 : Nat
  nfp : Nat
  gates : List (Nat × Nat × Nat)
  deriving DecidableEq, Repr

/-- A footprint template (R105). -/
structure FpTpl where
  n : Nat
  mode : Nat
  p : Nat
  byParam : Bool
  lenP : Nat
  off : Nat
  clen : Nat
  deriving DecidableEq, Repr

/-- A channel record (R106). -/
structure ChanRec where
  ch : Nat
  fmt : Nat
  rows : Nat
  depth : Nat
  blot : Bool
  red : Nat
  ctr : Nat
  pool : Nat
  peerChip : Option Nat
  peerEp : Nat
  cols : Nat
  deadline : Nat
  deriving DecidableEq, Repr

/-- A loaded object (R139, R140). -/
structure Obj where
  base : Nat
  len : Nat
  digest : Bytes
  key : Option Bytes
  tasks : List TaskRec
  fps : List FpTpl
  pools : List (Nat × Nat × Nat)
  chans : List ChanRec
  mboxes : List (Nat × Nat)
  refs : List Nat
  /-- bytes of its CODE section (R139) -/
  code : Nat := 0
  deriving DecidableEq, Repr

/-- Where a node of the window stands (R121, R124). -/
inductive NodeState where
  | waiting
  | queued (u : Nat)
  | held
  | running (u cid : Nat)
  /-- its task has passed its root -/
  | ended (u : Nat)
  deriving DecidableEq, Repr

/-- The descriptor of a task, formed as its node enters the window: where its object's code begins, its record, its pool requirements (R116). Its
footprint records stand in the node. -/
structure Desc where
  base : Nat
  task : TaskRec
  pools : List (Nat × Nat × Nat)
  deriving DecidableEq, Repr

/-- A node of the window (R116, R119-R121). -/
structure Node where
  queue : Nat
  graph : Nat
  idx : Nat
  obj : Nat
  taskIdx : Nat
  desc : Desc
  params : List Nat
  fps : Map FpRec
  sign : Option Nat
  version : Option (Nat × Nat × Nat)
  deps : List Nat
  age : Nat
  state : NodeState := .waiting
  lastUnit : Option Nat := none
  taskId : Nat := 0
  mbox : Option Nat := none
  /-- while held by a race no handler has been launched for: the other task, its queue and die, the first overlapping byte (R124) -/
  race : Option (Nat × Nat × Nat × Nat) := none
  /-- the pools reserved for its task (R131) -/
  pt : Map PtEnt := []
  /-- graph-engine cycle of its die at which it became ready (R128) -/
  readyAt : Option Nat := none
  deriving DecidableEq, Repr

/-- A node yet to enter the window: TASK, parameters, parameter version (header, block, number), signal. -/
structure Todo where
  task : Nat
  params : List Nat
  version : Option (Nat × Nat × Nat)
  sign : Option Nat
  deriving DecidableEq, Repr

/-- A graph instance (R114, R143). -/
structure Graph where
  queue : Nat
  seq : Nat
  obj : Nat
  sig : Nat
  overlap : Bool
  todo : List Todo
  entered : Nat := 0
  left : Nat := 0
  signals : List Nat := []
  flags : Nat := 0
  fences : Nat := 0
  status : Nat := 0
  leaf : Nat := 0
  /-- completion record wanted (a handler graph of a mailbox has none) -/
  record : Bool := true
  mbox : Option Nat := none
  chans : List Nat := []
  /-- its record could not be written and awaits XINV or QROOT (R143) -/
  tried : Bool := false
  /-- unit, context and job of the SPAWN that submitted it (R178) -/
  spawned : Option (Nat × Nat × Nat) := none
  /-- while it owes the SPAWN that it refused its signal: unit, context and semaphore (R220) -/
  owes : Option (Nat × Nat × Nat) := none
  /-- contexts of its tasks that have ended with packets or messages still on their way (R143) -/
  sent : List Nat := []
  /-- the graph of a message whose channels wait for landing slots (R134, R344) -/
  bindWait : Bool := false
  /-- its residue roots have been passed (R371) -/
  residued : Bool := false
  /-- its parameters are the words of a sealed tile's message (R244) -/
  sealed : Bool := false
  deriving DecidableEq, Repr

/-- A parameter block under versions: header address, index, versions with their bytes and bound counts (R142). -/
structure Block where
  hdr : Nat
  idx : Nat
  cur : Nat
  versions : Map (List Nat × Nat)
  deriving DecidableEq, Repr

/-- A session of a queue: its task roots, how many are sealed, the number of its next seal (R374, R375). -/
structure Session where
  queue : Nat := 0
  roots : List Bytes := []
  sealedN : Nat := 0
  sealNo : Nat := 0
  deriving DecidableEq, Repr

/-- A packet whose queue was disabled before it was done, with its RECADDR and HEAD index (R402): a LOAD with its load handle, a SEAL with
its session. -/
inductive Stray
  | load (h rec' head : Nat)
  | seal (session rec' head : Nat)
  deriving DecidableEq, Repr

/-- A queue's registers and state (R238, R345, R401). -/
structure QueueSt where
  en : Bool := false
  sup : Bool := false
  root : Nat := 0
  w1 : Nat := 0
  w2 : Nat := 0
  w3 : Nat := 0
  dbg : Nat := 0
  dbgPtr : Nat := 0
  notify : Nat := 0
  rbase : Nat := 0
  rsize : Nat := 1
  tail : Nat := 0
  head : Nat := 0
  stopped : Bool := false
  launchSeq : Nat := 0
  /-- endpoint binding: object handle, endpoint, unit, peer table (R345) -/
  binding : Option (Nat × Nat × Nat × Map Nat) := none
  brk : Map Nat := []
  /-- the number of its session, 0 before the first, and the session root its latest seal covered -/
  sess : Nat := 0
  lastSeal : Bytes := []
  /-- graph-engine cycle at which its starvation timer last restarted (R128) -/
  waitFrom : Nat := 0
  /-- UNLOADs that wait for earlier graphs: load handle, graphs, RECADDR, HEAD index (R140) -/
  unloads : List (Nat × List Nat × Nat × Nat) := []
  /-- the load handle of a LOAD whose copies are being written, and its RECADDR (R139) -/
  loading : Option (Nat × Nat) := none
  /-- the RECADDR of a host SEAL that waits for its seal (R404) -/
  sealing : Option Nat := none
  /-- packets that the queue's disabling has taken from HEAD (R402) -/
  strays : List Stray := []
  /-- the HEAD index whose ring entry the device has read (R154, R402) -/
  seen : Option Nat := none
  deriving DecidableEq, Repr

/-- A derived debug capability (R242). -/
structure Cap where
  valid : Bool
  target : Nat
  holder : Nat
  rights : Nat
  parent : Nat
  gen : Nat
  deriving DecidableEq, Repr

/-- A mailbox: its binding (queue, object, task) and its pending messages (R134). -/
structure Mbox where
  bound : Option (Nat × Nat × Nat) := none
  pending : Nat := 0
  deriving DecidableEq, Repr

/-- A message on its way to a mailbox of this module: die, mailbox, bytes, sender's queue level, where a refusal is counted
and which job its acceptance completes (R134, R135, R360). -/
structure Msg where
  die : Nat
  mb : Nat
  bytes : Bytes
  sup : Bool
  cid : Option (Nat × Nat)
  job : Option (Nat × Nat)
  /-- its bytes are a sealed tile's (R244) -/
  sealed : Bool := false
  deriving DecidableEq, Repr

/-- What waits for the root-log writer: a task root with its session leaf index, header and status, or a seal with who waits for it:
0 nobody, 2c context c, 2q + 1 the host for queue q (R375, R376, R381, R404). -/
structure RootEnt where
  isSeal : Bool := false
  who : Nat := 0
  queue : Nat
  session : Nat
  idx : Nat := 0
  hdr : Bytes := []
  tr : Bytes := []
  status : Nat := 0
  deriving DecidableEq, Repr

/-- The audit configuration of a die (R381). -/
structure AudCfg where
  place : Nat
  pa : Nat
  log : Nat
  sealk : Nat
  mb : Nat
  mbOn : Bool
  splace : Nat
  spa : Nat
  slog : Nat
  deriving DecidableEq, Repr

/-- What the tree store keeps of a task (R377): queue, session index, leaf count, header, root, retained nodes, leaf records. -/
structure TreeEnt where
  queue : Nat
  session : Nat
  idx : Nat
  n : Nat
  hdr : Bytes
  tr : Bytes
  retain : Nat
  nodes : List (Nat × Nat × Bytes)
  leaves : Map Bytes
  deriving DecidableEq, Repr

/-- A die. -/
structure DieSt where
  trapH : Nat := 0
  trapVA : Nat := 0
  trapQ : Nat := 0
  faultMB : Nat := 0
  locReq : Nat := 0
  remReq : Nat := 0
  savePA : Nat := 0
  saveN : Nat := 128
  stat1 : Nat := 0
  queues : Map QueueSt := []
  caps : Map Cap := []
  rootGens : Map Nat := []
  objs : Map Obj := []
  nextObj : Nat := 1
  window : Map Node := []
  graphs : Map Graph := []
  nextGraph : Nat := 0
  nextAge : Nat := 0
  lastQ : Nat := 0
  /-- graph-engine cycles (R128) -/
  cycle : Nat := 0
  /-- statistics records entered on the die's units, which orders them by age (R238) -/
  statNo : Nat := 0
  blocks : List Block := []
  tasksStarted : Nat := 0
  mboxes : Map Mbox := []
  routes : Map Nat := []
  aud : Option AudCfg := none
  logWrite : Nat := 0
  rootQ : List RootEnt := []
  /-- roots covered by the seals that someone waits for, by who waits -/
  sealDone : Map Nat := []
  tree : List TreeEnt := []
  /-- where in the tree store's ring the next entry goes (R377) -/
  treeW : Nat := 0
  sessions : Nat := 0
  sess : Map Session := []
  saved : Map Ctx := []
  /-- received bind notices held for ends not yet bound (R345), and notices that wait for a route or a live port (R342) -/
  held : List Packet := []
  waiting : List Packet := []
  gated : Bool := false
  /-- a fault before TRAPH was set has ended the die's bring-up (R420) -/
  halted : Bool := false
  deriving DecidableEq, Repr

/-- Whether a die issues nothing: it is gated, or its bring-up has ended at a fault (R420, R421). -/
def DieSt.idle (x : DieSt) : Bool := x.gated || x.halted

/-- A record of the package-wide directory (R123). -/
structure DirRec where
  die : Nat
  queue : Nat
  node : Nat
  taskId : Nat
  space : Nat
  base : Nat
  len : Nat
  mode : Nat
  deriving DecidableEq, Repr

/-- A packet on its way out, and the die, job (unit, name) and context (unit, name) it belongs to (R342). -/
structure OutPkt where
  p : Packet
  die : Nat := 0
  job : Option (Nat × Nat) := none
  cid : Option (Nat × Nat) := none
  /-- cycle of the port's die at which it first left (R342) -/
  sentAt : Nat := 0
  deriving DecidableEq, Repr

/-- A Serif port, one direction out and one in (R342). -/
structure PortSt where
  dead : Bool := true
  training : Bool := false
  nextSeq : Nat := 0
  unacked : List OutPkt := []
  queued : List OutPkt := []
  expSeq : Nat := 0
  nackSent : Bool := false
  rounds : Nat := 0
  /-- cycle of the port's die at which the sender last went back -/
  waitFrom : Nat := 0
  /-- acknowledgements that a refusal yet to leave must precede (R342, R391) -/
  acks : List Packet := []
  los : Option Nat := none
  /-- packets that have left the port, newest last: what the fabric sees -/
  wire : List Packet := []
  deriving DecidableEq, Repr

/-- An active sealed region with its meter (R411, R416). -/
structure Region where
  place : Nat
  base : Nat
  len : Nat
  key : Bytes
  rate : Nat
  burst : Nat
  tok : Nat
  deriving DecidableEq, Repr

/-- An answer of the SPDM responder (R410). -/
inductive Spdm where
  | version
  | capabilities
  | algorithms
  | digests (chain : Bytes)
  | certificate (bytes : Bytes)
  | challengeAuth (sig : Bytes)
  | measurements (blocks : List (Nat × Bytes)) (sig : Bytes)
  | vendorDone (op region : Nat)
  | errorUnsupported (code : Nat)
  | errorInvalid (op region step : Nat)
  /-- ERROR Unspecified with the kept head of a trap record (R420) -/
  | errorUnspecified (head : Bytes)
  deriving DecidableEq, Repr

/-- What a record of the access log says beside CHIPID and LOGIDX (R417). -/
structure AccRec where
  kind : Nat
  port : Nat := 2
  queue : Nat := 0
  mask : Nat := 0
  amount : Nat := 0
  taskId : Nat := 0
  unit : Nat := 0
  nonce : Bytes := []
  /-- its CHIPID, when it was made before the power went (R417, R421) -/
  chip : Option Nat := none
  deriving DecidableEq, Repr

/-- The security core (R408-R418, R420). -/
structure SecSt where
  bootc : Nat := 0
  regions : Map Region := []
  logWrite : Nat := 0
  logIdx : Nat := 0
  logH : Bytes := []
  sinceSign : Nat := 0
  /-- records that wait for room in the access log (R417) -/
  logQ : List AccRec := []
  heads : Map Bytes := []
  /-- crossings that wait for tokens, in the order of their requests: unit, job (R415) -/
  reqs : List (Nat × Nat) := []
  out : List Spdm := []
  deriving DecidableEq, Repr

/-- Power (R420, R421). -/
inductive Power where
  | off
  | on
  | down
  deriving DecidableEq, Repr

/-- The machine: one module. -/
structure State where
  power : Power := .off
  /-- the model's own: events that happen next, in order; then the current unit's cycle (log 2) -/
  agenda : List Instr := []
  /-- the model's own: with an empty agenda, which of the unit's engines moves next (log 2) -/
  turn : Nat := 0
  curU : Nat := 0
  curB : Nat := 0
  nextCid : Nat := 1
  nextJid : Nat := 1
  mem : Mem := []
  tags : Map Nat := []
  gpoison : Map Unit := []
  chipId : Nat := 0
  chipSet : Bool := false
  units : Map UnitSt := []
  pads : Map PadSt := []
  dies : Map DieSt := []
  dir : List DirRec := []
  ports : Map PortSt := []
  msgs : List Msg := []
  sec : SecSt := {}
  deriving DecidableEq, Repr

/-- The machine right after reset: every register at its reset value, memory with nothing listed, power not yet
on (R420). Every field a map leaves out reads as its default: units fenced with reason 5, ports dead. -/
def State.reset : State := {}

end Sys2Proof.Machine
end

