-- ==== Sys2Proof/Machine/Bits.lean ====
section
/-!
DEFINITION. Bits, byte strings and packed elements (00_scope.md R1; 02_numbers.md R30; 06_memory.md R160).
-/
namespace Sys2Proof.Machine

/-- Bit `i` of `v`. -/
def bit (v i : Nat) : Bool := v / 2 ^ i % 2 == 1

/-- `v` with bit `i` set. -/
def setBit (v i : Nat) : Nat := v ||| 2 ^ i

/-- The number of ones among the low `n` bits of `v`. -/
def ones (n v : Nat) : Nat := ((List.range n).filter fun i => bit v i).length

/-- The numbers of the ones among the low `n` bits of `v`, rising. -/
def onesAt (n v : Nat) : List Nat := (List.range n).filter fun i => bit v i

/-- `v` cut to `n` bits. -/
def cut (n v : Nat) : Nat := v % 2 ^ n

/-- The pattern of `n` bits of an integer (R5, wrap). -/
def wrapN (n : Nat) (v : Int) : Nat := (v % (2 ^ n : Nat)).toNat

/-- Quotient rounded up. -/
def cdiv (a b : Nat) : Nat := (a + b - 1) / b

/-- `n` zero bytes. -/
def zeros (n : Nat) : Bytes := List.replicate n 0

/-- `bs` cut or filled with zero bytes to `n`. -/
def padTo (n : Nat) (bs : Bytes) : Bytes := bs.take n ++ zeros (n - bs.length)

/-- Bytes `off` to `off + n - 1`, zero beyond the end. -/
def slice (bs : Bytes) (off n : Nat) : Bytes := padTo n ((bs.drop off).take n)

/-- Little-endian field of `n` bytes at `off`. -/
def leAt (bs : Bytes) (off n : Nat) : Nat := leVal (slice bs off n)

/-- Whether every byte is zero. -/
def allZero (bs : Bytes) : Bool := bs.all fun b => b == 0

/-- A byte string of `n` bytes with fields laid over zeros at the offsets given; fields are in rising order. -/
def layoutAt : Nat → List (Nat × Bytes) → Bytes
  | _, [] => []
  | at0, (off, bs) :: fs => zeros (off - at0) ++ bs ++ layoutAt (max at0 off + bs.length) fs

/-- A record of `n` bytes with the given fields and zero elsewhere. -/
def layout (n : Nat) (fs : List (Nat × Bytes)) : Bytes := padTo n (layoutAt 0 fs)

/-- Groups of eight `w`-bit elements, each group in `w` bytes (R30). -/
def elemGroups (w : Nat) : Nat → Bytes → List Nat
  | 0, _ => []
  | g + 1, bs =>
    let v := leVal (bs.take w)
    ((List.range 8).map fun i => v / 2 ^ (w * i) % 2 ^ w) ++ elemGroups w g (bs.drop w)

/-- The first `n` elements of `w` bits of a tile's bytes (R30). -/
def elems (w n : Nat) (bs : Bytes) : List Nat := (elemGroups w (cdiv n 8) bs).take n

/-- Value of a list of `w`-bit elements, the first lowest. -/
def packVal (w : Nat) : List Nat → Nat
  | [] => 0
  | x :: xs => x % 2 ^ w + 2 ^ w * packVal w xs

/-- The bytes of groups of eight elements. -/
def packGroups (w : Nat) : Nat → List Nat → Bytes
  | 0, _ => []
  | g + 1, xs => leBytes w (packVal w (xs.take 8)) ++ packGroups w g (xs.drop 8)

/-- The bytes of a list of `w`-bit elements (R30, R160). -/
def pack (w : Nat) (xs : List Nat) : Bytes := (packGroups w (cdiv xs.length 8) xs).take (cdiv (xs.length * w) 8)

/-- Entry `i` of a list of numbers, 0 beyond its end. -/
def nth (xs : List Nat) (i : Nat) : Nat := xs.getD i 0

end Sys2Proof.Machine
end

