-- ==== Sys2Proof/Machine/Keccak.lean ====
section
/-!
DEFINITION. SHA3 and SHAKE: the hash functions that the spec names, and those that its signatures and key encapsulation use inside
(01_machine.md R23, 19_audit_class.md R364). Their text is FIPS 202's. PRESUMED (log 7).
-/
namespace Sys2Proof.Machine

/-- A 64-bit lane rotated left. -/
def rotl64 (x n : Nat) : Nat := if n = 0 then x else (x * 2 ^ n ||| x / 2 ^ (64 - n)) % 2 ^ 64

/-- Rotation offsets of lanes x + 5y. -/
def keccakRot : List Nat :=
  [0, 1, 62, 28, 27, 36, 44, 6, 55, 20, 3, 10, 43, 25, 39, 41, 45, 15, 21, 8, 18, 2, 61, 56, 14]

/-- Round constants. -/
def keccakRC : List Nat :=
  [0x0000000000000001, 0x0000000000008082, 0x800000000000808A, 0x8000000080008000,
   0x000000000000808B, 0x0000000080000001, 0x8000000080008081, 0x8000000000008009] ++
  [0x000000000000008A, 0x0000000000000088, 0x0000000080008009, 0x000000008000000A,
   0x000000008000808B, 0x800000000000008B, 0x8000000000008089, 0x8000000000008003] ++
  [0x8000000000008002, 0x8000000000000080, 0x000000000000800A, 0x800000008000000A,
   0x8000000080008081, 0x8000000000008080, 0x0000000080000001, 0x8000000080008008]

/-- One round over 25 lanes. -/
def keccakRound (a : List Nat) (rc : Nat) : List Nat :=
  let c := (List.range 5).map fun x =>
    nth a x ^^^ nth a (x + 5) ^^^ nth a (x + 10) ^^^ nth a (x + 15) ^^^ nth a (x + 20)
  let d := (List.range 5).map fun x => nth c ((x + 4) % 5) ^^^ rotl64 (nth c ((x + 1) % 5)) 1
  let b := (List.range 25).map fun i =>
    let j := (i % 5 + 3 * (i / 5)) % 5 + 5 * (i % 5)
    rotl64 (nth a j ^^^ nth d (j % 5)) (nth keccakRot j)
  (List.range 25).map fun i =>
    let r := 5 * (i / 5)
    let v := nth b i ^^^ ((2 ^ 64 - 1 - nth b (r + (i + 1) % 5)) &&& nth b (r + (i + 2) % 5))
    if i = 0 then v ^^^ rc else v

/-- The permutation of 24 rounds. -/
def keccakF (a : List Nat) : List Nat := keccakRC.foldl keccakRound a

/-- The lanes with one block of bytes combined in. -/
def keccakXor (a : List Nat) (blk : Bytes) : List Nat :=
  (List.range 25).map fun i => nth a i ^^^ leVal ((blk.drop (8 * i)).take 8)

/-- Absorbs `n` blocks of `rate` bytes. -/
def keccakAbsorb (rate : Nat) : Nat → List Nat → Bytes → List Nat
  | 0, a, _ => a
  | n + 1, a, bs => keccakAbsorb rate n (keccakF (keccakXor a (bs.take rate))) (bs.drop rate)

/-- The message padded to whole blocks, with the domain suffix. -/
def keccakPad (rate suffix : Nat) (m : Bytes) : Bytes :=
  let p := rate - m.length % rate
  if p = 1 then m ++ [BitVec.ofNat 8 (suffix + 0x80)]
  else m ++ BitVec.ofNat 8 suffix :: zeros (p - 2) ++ [0x80]

/-- The state of a sponge that has absorbed a message. -/
def spongeState (rate suffix : Nat) (m : Bytes) : List Nat :=
  let p := keccakPad rate suffix m
  keccakAbsorb rate (p.length / rate) (List.replicate 25 0) p

/-- The bytes of a sponge's state. -/
def laneBytes (a : List Nat) : Bytes := a.flatMap (leBytes 8)

/-- `n` blocks of a sponge's output. -/
def squeeze (rate : Nat) : Nat → List Nat → Bytes
  | 0, _ => []
  | n + 1, a => (laneBytes a).take rate ++ squeeze rate n (keccakF a)

/-- The sponge's first `out` bytes. -/
def sponge (rate suffix out : Nat) (m : Bytes) : Bytes := (squeeze rate (cdiv out rate) (spongeState rate suffix m)).take out

/-- SHA3-512, 64 bytes. -/
def sha3_512 (m : Bytes) : Bytes := sponge 72 0x06 64 m

/-- SHA3-256, 32 bytes. -/
def sha3_256 (m : Bytes) : Bytes := sponge 136 0x06 32 m

/-- SHAKE256 with `n` bytes of output. -/
def shake256 (n : Nat) (m : Bytes) : Bytes := sponge 136 0x1F n m

/-- SHAKE256 with 32 bytes of output. -/
def shake256_32 (m : Bytes) : Bytes := shake256 32 m

end Sys2Proof.Machine
end

