-- ==== Sys2Proof/Machine/Num.lean ====
section
/-!
DEFINITION. Numbers: exact values, the 24 formats, the five roundings, conversion with its overflow table and flags, and the
special functions (02_numbers.md R29-R49).
-/
namespace Sys2Proof.Machine

/-- An exact value: a rational `n / d` with the sign its zero carries, an infinity, or not a number (R31, R38, R42). -/
inductive XR where
  | fin (n : Int) (d : Nat) (negZero : Bool)
  | inf (neg : Bool)
  | nan
  deriving DecidableEq, Repr

/-- FLAGS bits of R52. -/
def fIV : Nat := 1
/-- Division by zero (R52). -/
def fDZ : Nat := 2
/-- Overflow (R52). -/
def fOF : Nat := 4
/-- Underflow (R52). -/
def fUF : Nat := 8
/-- Integer overflow (R52). -/
def fIOV : Nat := 16
/-- Saturation (R52). -/
def fSAT : Nat := 32
/-- Zero-range channel (R52). -/
def fCONST : Nat := 64
/-- Dropped acquire or release effect (R52). -/
def fSCOPEMISS : Nat := 128
/-- Dropped duplicate (R52). -/
def fDUPDROP : Nat := 256
/-- Validity count of 0 (R52). -/
def fBLOT : Nat := 512
/-- Escape that could not be written (R52). -/
def fESCOVF : Nat := 1024

/-- A value with the flags that making it set. -/
abbrev Flagged (α : Type) := α × Nat

/-- A float format: exponent and fraction bits, bias, whether it has infinities, its NaN code, its largest finite code (R31). -/
structure Flt where
  eb : Nat
  fb : Nat
  bias : Nat
  hasInf : Bool
  nan : Option Nat
  maxCode : Nat
  deriving DecidableEq, Repr

/-- The float formats by code (R29, R31, R32). -/
def fltOf : Nat → Option Flt
  | 0x00 => some ⟨8, 23, 127, true, some 0x7FC00000, 0x7F7FFFFF⟩
  | 0x01 => some ⟨8, 7, 127, true, some 0x7FC0, 0x7F7F⟩
  | 0x02 => some ⟨5, 10, 15, true, some 0x7E00, 0x7BFF⟩
  | 0x03 => some ⟨4, 3, 7, false, some 0x7F, 0x7E⟩
  | 0x04 => some ⟨5, 2, 15, true, some 0x7E, 0x7B⟩
  | 0x05 => some ⟨3, 2, 3, false, none, 0x1F⟩
  | 0x06 => some ⟨2, 3, 1, false, none, 0x1F⟩
  | 0x07 => some ⟨2, 1, 1, false, none, 0x7⟩
  | _ => none

/-- Element width of a format code, of the two VCVT selectors and of the metadata codes (R29, R288, R303). -/
def widthOf : Nat → Nat
  | 0x00 => 32 | 0x01 => 16 | 0x02 => 16 | 0x03 => 8 | 0x04 => 8 | 0x05 => 6 | 0x06 => 6 | 0x07 => 4
  | 0x08 => 16 | 0x09 => 8 | 0x0A => 8 | 0x0B => 4 | 0x0C => 4 | 0x0D => 4 | 0x0E => 6 | 0x0F => 8
  | 0x10 => 8 | 0x11 => 8 | 0x12 => 6 | 0x13 => 6 | 0x14 => 4 | 0x15 => 8 | 0x16 => 8 | 0x17 => 4
  | 0x18 => 32 | 0x19 => 16 | 0x1A => 64 | 0x1B => 64 | 0x20 => 32 | 0x21 => 16
  | _ => 8

/-- The plain format behind an MX code (R36). -/
def mxBase (c : Nat) : Nat := if c < 0x10 then c else if c < 0x15 then c - 0xD else c

/-- Least and greatest value of an integer code, INT32 and NAT16 included (R33, R34, R45). -/
def intRange : Nat → Option (Int × Int)
  | 0x08 => some (-32768, 32767) | 0x09 => some (-128, 127) | 0x0A => some (0, 255)
  | 0x0B => some (-8, 7) | 0x0C => some (0, 15) | 0x16 => some (-127, 127) | 0x17 => some (-7, 7)
  | 0x18 => some (-2147483648, 2147483647) | 0x19 => some (0, 65535)
  | 0x20 => some (-2147483648, 2147483647) | 0x21 => some (0, 65535)
  | _ => none

/-- The value of an integer element's bits (R33). -/
def intVal (c bits : Nat) : Int :=
  match c with
  | 0x0A => bits | 0x0C => bits | 0x19 => bits | 0x21 => bits
  | _ => sext (widthOf c) bits

/-- An integer as an exact value. -/
def XR.ofInt (n : Int) : XR := .fin n 1 false

/-- The value of a float element's bits (R31, R32). -/
def fltVal (f : Flt) (bits : Nat) : XR :=
  let neg := bit bits (f.eb + f.fb)
  let e := bits / 2 ^ f.fb % 2 ^ f.eb
  let m := bits % 2 ^ f.fb
  let special := f.hasInf && e == 2 ^ f.eb - 1
  if special && m == 0 then .inf neg
  else if special then .nan
  else if f.nan == some 0x7F && e == 15 && m == 7 then .nan
  else
    let sig : Nat := if e = 0 then m else 2 ^ f.fb + m
    let ex : Nat := (if e = 0 then 1 else e)
    let n : Int := if neg then -(sig : Int) else sig
    if f.bias + f.fb ≤ ex then .fin (n * 2 ^ (ex - f.bias - f.fb)) 1 (neg && sig == 0)
    else .fin n (2 ^ (f.bias + f.fb - ex)) (neg && sig == 0)

/-- log2 of a positive rational, rounded down. -/
def flog2 (n d : Nat) : Int :=
  let k : Int := (Nat.log2 n : Int) - Nat.log2 d
  let ge : Bool := if 0 ≤ k then decide (d * 2 ^ k.toNat ≤ n) else decide (d ≤ n * 2 ^ (-k).toNat)
  if ge then k else k - 1

/-- `n / d` in units of `2^t`: quotient, remainder, divisor. -/
def quantum (n d : Nat) (t : Int) : Nat × Nat × Nat :=
  if 0 ≤ t then
    let d' := d * 2 ^ t.toNat
    (n / d', n % d', d')
  else
    let n' := n * 2 ^ (-t).toNat
    (n' / d, n' % d, d)

/-- The magnitude `q + r / d` rounded in a mode of R43. -/
def roundMag (rm : Nat) (neg : Bool) (q r d : Nat) : Nat :=
  match rm with
  | 0 => if d < 2 * r ∨ (2 * r = d ∧ q % 2 = 1) then q + 1 else q
  | 1 => q
  | 2 => if r ≠ 0 ∧ neg = false then q + 1 else q
  | 3 => if r ≠ 0 ∧ neg = true then q + 1 else q
  | _ => if r ≠ 0 then q ||| 1 else q

/-- Whether a mode rounds toward zero for a sign (R45). -/
def towardZero (rm : Nat) (neg : Bool) : Bool :=
  match rm with
  | 1 => true
  | 4 => true
  | 2 => neg
  | 3 => !neg
  | _ => false

/-- Rounds an exact rational to an integer (R43, R44). RTO of a negative inexact value forces bit 0 of its magnitude: -2.5 gives -3. DESIGN
CHOICE (log 112). -/
def roundInt (rm : Nat) (n : Int) (d : Nat) : Int :=
  let neg := decide (n < 0)
  let m := roundMag rm neg (n.natAbs / d) (n.natAbs % d) d
  if neg then -(m : Int) else m

/-- Sign bit of a float code. -/
def signCode (f : Flt) (neg : Bool) : Nat := if neg then 2 ^ (f.eb + f.fb) else 0

/-- Rounds an exact value once into a float format (R44-R46). -/
def toFlt (f : Flt) (rm : Nat) (sat : Bool) (x : XR) : Flagged Nat :=
  match x with
  | .nan => match f.nan with
    | some c => (c, 0)
    | none => (0, fIV)
  | .inf neg =>
    if sat then (signCode f neg + f.maxCode, fSAT)
    else if f.hasInf then (signCode f neg + (2 ^ f.eb - 1) * 2 ^ f.fb, 0)
    else match f.nan with
      | some c => (c, fIV)
      | none => (signCode f neg + f.maxCode, fIV)
  | .fin n d nz =>
    if n = 0 then (signCode f nz, 0)
    else
      let neg := decide (n < 0)
      let a := n.natAbs
      let emin : Int := 1 - (f.bias : Int)
      let e := max (flog2 a d) emin
      let t := e - f.fb
      let (q, r, dd) := quantum a d t
      let m := roundMag rm neg q r dd
      let tiny := decide (flog2 a d < emin)
      let uf := if tiny && r != 0 then fUF else 0
      -- the code of significand m at exponent e; a carry into the next binade keeps the code's order
      let code : Nat := if m < 2 ^ f.fb then m else (e - emin).toNat * 2 ^ f.fb + m
      if f.maxCode < code then
        if towardZero rm neg then (signCode f neg + f.maxCode, fOF)
        else if sat then (signCode f neg + f.maxCode, fOF + fSAT)
        else if f.hasInf then (signCode f neg + (2 ^ f.eb - 1) * 2 ^ f.fb, fOF)
        else match f.nan with
          | some c => (c, fOF)
          | none => (signCode f neg + f.maxCode, fOF)
      else (signCode f neg + code, uf)

/-- Rounds an exact value once into an integer format; escapes are never written (R44, R45). -/
def toInt (c : Nat) (lo hi : Int) (rm : Nat) (sat : Bool) (x : XR) : Flagged Nat :=
  let w := widthOf c
  let esc := c == 0x16 || c == 0x17
  match x with
  | .nan => (0, fIV)
  | .inf neg =>
    let lim := if neg then lo else hi
    if esc then (wrapN w lim, fSAT)
    else if sat then (wrapN w lim, fSAT)
    else (0, fIV)
  | .fin n d _ =>
    let v := roundInt rm n d
    if lo ≤ v ∧ v ≤ hi then (wrapN w v, 0)
    else
      let neg := decide (v < 0)
      let lim := if neg then lo else hi
      if towardZero rm neg then (wrapN w lim, fIOV)
      else if esc || sat then (wrapN w lim, fIOV + fSAT)
      else (wrapN w v, fIOV)

/-- Fraction bits q of an LNS format's logarithm: 2, 4 or 8 per octave (R38). -/
def lnsQ : Nat → Nat
  | 0x0D => 2
  | 0x0E => 4
  | _ => 8

/-- Greatest magnitude logarithm of an LNS format (R38). -/
def lnsMax : Nat → Int
  | 0x0D => 3
  | 0x0E => 15
  | _ => 63

/-- The LNS code of sign and logarithm. -/
def lnsCode (c : Nat) (neg : Bool) (l : Int) : Nat :=
  let w := widthOf c
  wrapN (w - 1) l + (if neg then 2 ^ (w - 1) else 0)

/-- NaR of an LNS format (R38). -/
def lnsNaR (c : Nat) : Nat := 2 ^ (widthOf c - 1) + 2 ^ (widthOf c - 2)

/-- The logarithm of an LNS code; none for zero and NaR (R38). -/
def lnsLog (c bits : Nat) : Option Int :=
  let w := widthOf c
  let l := sext (w - 1) (bits % 2 ^ (w - 1))
  if l < -(lnsMax c) then none else some l

/-- An LNS logarithm that rounding gave, as a code (R45, R47). -/
def lnsFit (c : Nat) (neg sat : Bool) (l : Int) : Flagged Nat :=
  if lnsMax c < l then
    if sat then (lnsCode c neg (lnsMax c), fOF + fSAT) else (lnsNaR c, fOF)
  else if l < -(lnsMax c) then (2 ^ (widthOf c - 2), fUF)
  else (lnsCode c neg l, 0)

/-- Rounds a value into an LNS format; the mode plays no part (R43, R47). A rational's logarithm never ties: a tie would make
it an odd power of the square root of a power of two. -/
def toLns (c : Nat) (sat : Bool) (x : XR) : Flagged Nat :=
  match x with
  | .nan => (lnsNaR c, 0)
  | .inf neg => if sat then (lnsCode c neg (lnsMax c), fSAT) else (lnsNaR c, fIV)
  | .fin n d _ =>
    if n = 0 then (2 ^ (widthOf c - 2), 0)
    else
      let q := lnsQ c
      let a := n.natAbs
      let l := flog2 (a ^ q) (d ^ q)
      -- half a step above l?
      let up := decide (2 * l + 1 ≤ flog2 (a ^ (2 * q)) (d ^ (2 * q)))
      lnsFit c (decide (n < 0)) sat (if up then l + 1 else l)

/-- Integer square root by Newton's steps from above. -/
def isqrtGo : Nat → Nat → Nat → Nat
  | 0, _, x => x
  | k + 1, n, x =>
    let y := (x + n / x) / 2
    if x ≤ y then x else isqrtGo k n y

/-- Integer square root, rounded down. -/
def isqrt (n : Nat) : Nat := if n = 0 then 0 else isqrtGo (Nat.log2 n + 8) n (2 ^ (Nat.log2 n / 2 + 1))

/-- `m / 2^p` when exact, else a value strictly between it and `(m + 1) / 2^p`: enough to round correctly to any coarser grid. -/
def sticky (m p : Nat) (exact : Bool) : XR := if exact then .fin m (2 ^ p) false else .fin (2 * m + 1) (2 ^ (p + 1)) false

/-- An exact value with its sign inverted when `neg`. -/
def XR.signed (neg : Bool) : XR → XR
  | .fin n d z => if neg then .fin (-n) d (!z && n == 0) else .fin n d z
  | .inf s => .inf (s != neg)
  | .nan => .nan

/-- `2^(l/q)` for q = 2, 4 or 8, to 256 bits with the rest as a sticky part (R38, R47). -/
def lnsPow (q : Nat) (l : Int) : XR :=
  if l % q = 0 then
    let e := l / q
    if 0 ≤ e then .fin (2 ^ e.toNat) 1 false else .fin 1 (2 ^ (-e).toNat) false
  else
    let x : Nat := 2 ^ (256 * q + l).toNat
    let r := match q with
      | 2 => isqrt x
      | 4 => isqrt (isqrt x)
      | _ => isqrt (isqrt (isqrt x))
    sticky r 256 false

/-- The value of an LNS element (R38). -/
def lnsVal (c bits : Nat) : XR :=
  let neg := bit bits (widthOf c - 1)
  match lnsLog c bits with
  | some l => (lnsPow (lnsQ c) l).signed neg
  | none => if neg then .nan else .fin 0 1 false

/-- The exact value of an element of a format code or VCVT selector (R31-R38); MX codes read as their element format. -/
def elemVal (c bits : Nat) : XR :=
  match fltOf (mxBase c) with
  | some f => fltVal f bits
  | none =>
    if c = 0x15 then .fin (sext 8 bits) 64 false
    else if 0xD ≤ c ∧ c ≤ 0xF then lnsVal c bits
    else .ofInt (intVal c bits)

/-- Converts an exact value to a destination code: one rounding (R44, R45, R47). -/
def convert (c rm : Nat) (sat : Bool) (x : XR) : Flagged Nat :=
  match fltOf c with
  | some f => toFlt f rm sat x
  | none =>
    if 0xD ≤ c ∧ c ≤ 0xF then toLns c sat x
    else match intRange c with
      | some (lo, hi) => toInt c lo hi rm sat x
      | none => (0, 0)

/-- Converts one element from a format to another; between LNS formats the logarithm itself is rounded, a tie to the even
one (R47). -/
def convertElem (src dst rm : Nat) (sat : Bool) (bits : Nat) : Flagged Nat :=
  if 0xD ≤ src ∧ src ≤ 0xF ∧ 0xD ≤ dst ∧ dst ≤ 0xF then
    match lnsLog src bits with
    | none => if bit bits (widthOf src - 1) then (lnsNaR dst, 0) else (2 ^ (widthOf dst - 2), 0)
    | some l =>
      let num := l * lnsQ dst
      let den : Nat := lnsQ src
      let q := num / (den : Int)
      let r := (num % (den : Int)).toNat
      let l' := if den < 2 * r ∨ (2 * r = den ∧ q % 2 = 1) then q + 1 else q
      lnsFit dst (bit bits (widthOf src - 1)) sat l'
  else convert dst rm sat (elemVal src bits)

/-- FP32 format. -/
def f32 : Flt := ⟨8, 23, 127, true, some 0x7FC00000, 0x7F7FFFFF⟩

/-- Exact sum of two rationals over the coarser common denominator. -/
def qadd (n1 : Int) (d1 : Nat) (n2 : Int) (d2 : Nat) : Int × Nat :=
  if d1 = d2 then (n1 + n2, d1)
  else if d1 % d2 = 0 then (n1 + n2 * (d1 / d2 : Nat), d1)
  else if d2 % d1 = 0 then (n1 * (d2 / d1 : Nat) + n2, d2)
  else (n1 * d2 + n2 * d1, d1 * d2)

/-- Whether an exact value is negative, zero by its sign. -/
def XR.isNeg : XR → Bool
  | .fin n _ z => decide (n < 0) || (n == 0 && z)
  | .inf s => s
  | .nan => false

/-- IEEE 754 addition of exact values, before rounding; `rdn` is rounding toward minus infinity (R32, R42). -/
def XR.add (rdn : Bool) (x y : XR) : Flagged XR :=
  match x, y with
  | .nan, _ => (.nan, 0)
  | _, .nan => (.nan, 0)
  | .inf a, .inf b => if a = b then (.inf a, 0) else (.nan, fIV)
  | .inf a, _ => (.inf a, 0)
  | _, .inf b => (.inf b, 0)
  | .fin a da _, .fin b db _ =>
    let (n, d) := qadd a da b db
    let neg := if x.isNeg = y.isNeg then x.isNeg else rdn
    (.fin n d (n == 0 && neg), 0)

/-- IEEE 754 multiplication of exact values, before rounding. The product of a zero and a negative MX-INT8 element is -0 as well, which R42
counts. DESIGN CHOICE (log 113). -/
def XR.mul (x y : XR) : Flagged XR :=
  let neg := x.isNeg != y.isNeg
  match x, y with
  | .nan, _ => (.nan, 0)
  | _, .nan => (.nan, 0)
  | .inf _, .fin n _ _ => if n = 0 then (.nan, fIV) else (.inf neg, 0)
  | .fin n _ _, .inf _ => if n = 0 then (.nan, fIV) else (.inf neg, 0)
  | .inf _, .inf _ => (.inf neg, 0)
  | .fin a da _, .fin b db _ => (.fin (a * b) (da * db) (a * b == 0 && neg), 0)

/-- Sign inverted. -/
def XR.neg (x : XR) : XR := x.signed true

/-- The order of R277 and R292 on values other than NaN: a zero with the minus sign lies below one without. -/
def XR.below : XR → XR → Bool
  | .fin a da za, .fin b db zb =>
    decide (a * (db : Int) < b * (da : Int)) || (a == 0 && b == 0 && za && !zb)
  | .inf s, y => s && y != .inf true
  | _, .inf s => !s
  | _, _ => false

/-- Multiplication by a positive rational. -/
def XR.scale (x : XR) (n d : Nat) : XR :=
  match x with
  | .fin a da z => .fin (a * n) (da * d) z
  | x => x

/-- Whether an exact value is a zero. -/
def XR.isZero : XR → Bool
  | .fin n _ _ => n == 0
  | _ => false

/-- The value of a block of products (R42): NaN and infinity cases, else the exact sum with its zero's sign. -/
def blockSum (ps : List (Flagged XR)) : Flagged XR :=
  let xs := ps.map (·.1)
  let iv := ps.foldl (fun a p => a ||| p.2) 0
  let pos := xs.any fun x => x == .inf false
  let neg := xs.any fun x => x == .inf true
  if pos && neg then (.nan, iv ||| fIV)
  else if xs.any fun x => x == .nan then (.nan, iv)
  else if pos then (.inf false, 0)
  else if neg then (.inf true, 0)
  else
    let (n, d) := xs.foldl (fun a x => match x with
      | .fin m e _ => qadd a.1 a.2 m e
      | _ => a) ((0 : Int), 1)
    (.fin n d (n == 0 && xs.all fun x => x.isZero && x.isNeg), 0)

/-- The accumulator and the block rounded and added, each to nearest even in FP32 (R41, R46). -/
def accAdd (acc : Nat) (s : Flagged XR) : Flagged Nat :=
  let (b, f1) := toFlt f32 0 false s.1
  let (t, f2) := XR.add false (fltVal f32 acc) (fltVal f32 b)
  let (r, f3) := toFlt f32 0 false t
  (r, s.2 ||| f1 ||| f2 ||| f3)

/-- The integer accumulator with a block's exact sum added (R41). -/
def accAddInt (acc : Nat) (s : Int) : Flagged Nat :=
  let t := sext 32 acc + s
  (wrapN 32 t, if t < -2147483648 ∨ 2147483647 < t then fIOV else 0)

/-- The list cut into blocks of 32, at most `n` of them. -/
def blocks32 {α : Type} : Nat → List α → List (List α)
  | 0, _ => []
  | n + 1, xs => if xs.isEmpty then [] else xs.take 32 :: blocks32 n (xs.drop 32)

/-- A float reduction in the order of R41 from an accumulator. -/
def sumFloat (acc : Nat) (ps : List (Flagged XR)) : Flagged Nat :=
  (blocks32 ps.length ps).foldl (fun a blk =>
    let (r, f) := accAdd a.1 (blockSum blk)
    (r, a.2 ||| f)) (acc, 0)

/-- An integer reduction in the order of R41 from an accumulator. -/
def sumInt (acc : Nat) (xs : List Int) : Flagged Nat :=
  (blocks32 xs.length xs).foldl (fun a blk =>
    let (r, f) := accAddInt a.1 (blk.foldl (· + ·) 0)
    (r, a.2 ||| f)) (acc, 0)

/-- The table T of R39. -/
def lnsT : List Nat := [16777216, 18295684, 19951585, 21757357, 23726566, 25874004, 28215802, 30769550]

/-- The product of two LNS elements (R39). -/
def lnsProd (ca a cb b : Nat) : XR :=
  let sa := bit a (widthOf ca - 1)
  let sb := bit b (widthOf cb - 1)
  match lnsLog ca a, lnsLog cb b with
  | none, lb => if sa then .nan else if lb = none ∧ sb then .nan else .fin 0 1 (sa != sb)
  | some _, none => if sb then .nan else .fin 0 1 (sa != sb)
  | some la, some lb =>
    let e := la * (8 / lnsQ ca : Nat) + lb * (8 / lnsQ cb : Nat)
    let i := e / 8
    let j := (e % 8).toNat
    let n : Int := (nth lnsT j * 2 ^ (i + 16).toNat : Nat)
    .fin (if sa != sb then -n else n) (2 ^ 40) false

/-- Fixed-point precision of the special functions. -/
def sfP : Nat := 1200

/-- Σ of z^(2k+1)/(2k+1), z = zn/2^sfP: terms from power `p`. -/
def atanhGo : Nat → Nat → Nat → Nat → Nat
  | 0, _, _, _ => 0
  | fuel + 1, z2, p, k => p / (2 * k + 1) + atanhGo fuel z2 (p * z2 / 2 ^ sfP) (k + 1)

/-- Natural logarithm of a rational in [1, 2], in units of 2^-sfP. -/
def lnFix (n d : Nat) : Nat :=
  let z := (n - d) * 2 ^ sfP / (n + d)
  2 * atanhGo 400 (z * z / 2 ^ sfP) z 0

/-- Natural logarithm of 2, in units of 2^-sfP. -/
def ln2Fix : Nat := lnFix 2 1

/-- Taylor terms of the exponential of t = tn/2^sfP. -/
def expGo : Nat → Int → Int → Nat → Int
  | 0, _, _, _ => 0
  | fuel + 1, t, p, k => p + expGo fuel t (p * t / 2 ^ sfP / (k + 1 : Nat)) (k + 1)

/-- Squares `k` times. -/
def sqGo : Nat → Nat → Nat
  | 0, x => x
  | k + 1, x => sqGo k (x * x / 2 ^ sfP)

/-- The exponential of `y / 2^sfP` for a magnitude below 512, in units of 2^-sfP. -/
def expFix (y : Int) : Nat := sqGo 20 (expGo 100 (y / 2 ^ 20) (2 ^ sfP) 0).toNat

/-- A rational in units of 2^-sfP, rounded down. -/
def fixQ (n : Int) (d : Nat) : Int := n * 2 ^ sfP / (d : Int)

/-- 2^x for a rational x (R49). -/
def exp2X (n : Int) (d : Nat) : XR :=
  let i := n / (d : Int)
  if n % (d : Int) = 0 ∧ -2000 < i ∧ i < 2000 then
    if 0 ≤ i then .fin (2 ^ i.toNat) 1 false else .fin 1 (2 ^ (-i).toNat) false
  else if 2000 ≤ i then .fin (2 ^ 2000 + 1) 1 false
  else if i ≤ -2000 then .fin 1 (2 ^ 2000) false
  else
    let f := fixQ (n - i * d) d
    let m := expFix (f * ln2Fix / 2 ^ sfP)
    if 0 ≤ i then .fin ((2 * m + 1) * 2 ^ i.toNat : Nat) (2 ^ (sfP + 1)) false
    else .fin (2 * m + 1 : Nat) (2 ^ (sfP + 1 + (-i).toNat)) false

/-- log2 of a positive rational (R49). -/
def log2X (n d : Nat) : XR :=
  let e := flog2 n d
  let (a, b) := if 0 ≤ e then (n, d * 2 ^ e.toNat) else (n * 2 ^ (-e).toNat, d)
  if a = b then .fin e 1 false
  else
    let l := lnFix a b * 2 ^ sfP / ln2Fix
    .fin (2 * (e * 2 ^ sfP + l) + 1) (2 ^ (sfP + 1)) false

/-- 1/√x of a positive rational (R49). -/
def rsqX (n d : Nat) : XR :=
  let t := d * 2 ^ 1600 / n
  let r := isqrt t
  sticky r 800 (decide (r * r * n = d * 2 ^ 1600))

/-- tanh of a rational other than 0 (R49). -/
def tanhX (n : Int) (d : Nat) : XR :=
  let neg := decide (n < 0)
  let a := n.natAbs
  let v : XR := if 200 * d ≤ a then .fin (2 ^ sfP - 1) (2 ^ sfP) false
    else
      let e := expFix (fixQ (2 * a) d)
      let one := 2 ^ sfP
      .fin ((e : Int) - (one : Nat)) (e + one) false
  v.signed neg

/-- 1/(1 + e^(-x)) of a rational other than 0 (R49). -/
def sigmX (n : Int) (d : Nat) : XR :=
  if (400 * d : Nat) ≤ n then .fin (2 ^ sfP - 1) (2 ^ sfP) false
  else if n ≤ -(400 * d : Nat) then .fin 1 (2 ^ 500) false
  else
    let e := expFix (-(fixQ n d))
    .fin (2 ^ sfP) (2 ^ sfP + e) false

/-- The exact value of a special function of R49, with its special cases and flags; what is irrational is taken to 1,200 bits.
DESIGN CHOICE (log 11). -/
def sfu (func : Nat) (x : XR) : Flagged XR :=
  match func, x with
  | _, .nan => (.nan, 0)
  | 0, .inf s => if s then (.fin 0 1 false, 0) else (.inf false, 0)
  | 0, .fin n d _ => if n = 0 then (.fin 1 1 false, 0) else (exp2X n d, 0)
  | 1, .inf s => if s then (.nan, fIV) else (.inf false, 0)
  | 1, .fin n d _ =>
    if n = 0 then (.inf true, fDZ) else if n < 0 then (.nan, fIV) else (log2X n.toNat d, 0)
  | 2, .inf s => (.fin 0 1 s, 0)
  | 2, .fin n d z =>
    if n = 0 then (.inf z, fDZ) else (.fin (if n < 0 then -(d : Int) else d) n.natAbs false, 0)
  | 3, .inf s => if s then (.nan, fIV) else (.fin 0 1 false, 0)
  | 3, .fin n d z =>
    if n = 0 then (.inf z, fDZ) else if n < 0 then (.nan, fIV) else (rsqX n.toNat d, 0)
  | 4, .inf s => (.fin (if s then -1 else 1) 1 false, 0)
  | 4, .fin n d z => if n = 0 then (.fin 0 1 z, 0) else (tanhX n d, 0)
  | _, .inf s => if s then (.fin 0 1 false, 0) else (.fin 1 1 false, 0)
  | _, .fin n d _ => if n = 0 then (.fin 1 2 false, 0) else (sigmX n d, 0)

end Sys2Proof.Machine
end

