-- ==== Sys2Proof/Machine/Flags.lean ====
section
/-!
DEFINITION. FLAGS and the pending set: how an operation's flags enter both (02_numbers.md R52, R53).
-/
namespace Sys2Proof.Machine

/-- The arithmetic flags of a flag word in the order of FMT.TE: IV, DZ, OF, UF, IOV, SAT, CONST, ESCOVF (R53). -/
def pendOf (f : Nat) : Nat := f % 128 + f / 1024 % 2 * 128

/-- An operation's flags enter FLAGS, and the arithmetic ones the pending set, even when already set (R52, R53). -/
def Ctx.setFlags (c : Ctx) (f : Nat) : Ctx :=
  { c with flags := c.flags ||| BitVec.ofNat 32 f, pend := c.pend ||| BitVec.ofNat 8 (pendOf f) }

/-- The pending bits that trap at a TFENCE: those whose enable bit of FMT.TE is set (R53). -/
def trapping (pend : BitVec 8) (fmt : BitVec 32) : Nat := pend.toNat &&& fld fmt.toNat 20 8

end Sys2Proof.Machine
end

