-- ==== Sys2Proof/Machine/Operands.lean ====
section
/-!
DEFINITION. Operands: registers with their constant and rotating forms, results in flight, shadowed descriptor writes, and the
registers each operation reads and writes (08_scalar_class.md R190-R192; 03_bundles.md R62, R65-R67; 11 R249).
-/
namespace Sys2Proof.Machine

/-- The physical register of an encoded scalar register (R191). -/
def physS (rot n : Nat) : Nat := if n < 24 then n else 24 + (n - 24 + rot) % 8

/-- The physical register of an encoded predicate or handle register (R191). -/
def physQ (rot n : Nat) : Nat := if n < 8 then n else 8 + (n - 8 + rot) % 8

/-- A physical scalar register; s0 reads 0 (R190). -/
def Ctx.ps (c : Ctx) (n : Nat) : Word := if n = 0 then 0 else c.s.look n 0

/-- A physical predicate; q0 reads 1 (R190). -/
def Ctx.pq (c : Ctx) (n : Nat) : Bool := if n = 0 then true else c.q.look n false

/-- A physical handle register; h0 reads null (R190). -/
def Ctx.ph (c : Ctx) (n : Nat) : BitVec 32 := if n = 0 then 0 else c.h.look n 0

/-- Scalar source `sn` (R191, R192). -/
def Ctx.rs (c : Ctx) (n : Nat) : Word := c.ps (physS c.rot n)

/-- Predicate source `qn`. -/
def Ctx.rq (c : Ctx) (n : Nat) : Bool := c.pq (physQ c.rot n)

/-- Handle source `hn`. -/
def Ctx.rh (c : Ctx) (n : Nat) : Nat := (c.ph (physQ c.rot n)).toNat

/-- Writes a physical register; writes to s0, q0 and h0 are discarded (R192). -/
def Ctx.setReg (c : Ctx) (d : Dest) (v : Nat) : Ctx :=
  match d with
  | .s n => if n = 0 then c else { c with s := c.s.put n (BitVec.ofNat 64 v) }
  | .q n => if n = 0 then c else { c with q := c.q.put n (v % 2 == 1) }
  | .h n => if n = 0 then c else { c with h := c.h.put n (BitVec.ofNat 32 v) }

/-- The number under which a register's latest write is kept. -/
def destKey : Dest → Nat
  | .s n => n
  | .q n => 32 + n
  | .h n => 48 + n

/-- Marks a write of a register as issued now; a later engine result for it is discarded unless it bears this ticket (R192). -/
def Ctx.claim (c : Ctx) (d : Dest) : Ctx :=
  { c with ticket := c.ticket + 1, tickets := c.tickets.put (destKey d) (c.ticket + 1) }

/-- A fixed-latency result with bound `l` issued by the current bundle (R65, R66). -/
def Ctx.write (c : Ctx) (d : Dest) (v l : Nat) (flags : Nat := 0) : Ctx :=
  { c.claim d with fly := c.fly ++ [⟨c.bundleNo, c.bundleNo + l, d, v, flags⟩] }

/-- Destination `sn` through ROT. -/
def Ctx.ds (c : Ctx) (n : Nat) : Dest := .s (physS c.rot n)

/-- Destination `qn` through ROT. -/
def Ctx.dq (c : Ctx) (n : Nat) : Dest := .q (physQ c.rot n)

/-- Destination `hn` through ROT. -/
def Ctx.dh (c : Ctx) (n : Nat) : Dest := .h (physQ c.rot n)

/-- Lands one result: the register and its flags. -/
def Ctx.land1 (c : Ctx) (f : Fly) : Ctx := (c.setReg f.dest f.val).setFlags f.flags

/-- Splits results in flight into those that land now and the rest: those `p` picks, and every earlier write to the same
register, so that an earlier write never replaces a later one (R65). -/
def landSplit (p : Fly → Bool) : List Fly → List Fly × List Fly
  | [] => ([], [])
  | f :: fs =>
    let r := landSplit p fs
    if p f || r.1.any (fun g => g.dest == f.dest) then (f :: r.1, r.2) else (r.1, f :: r.2)

/-- Lands the results that `p` picks. -/
def Ctx.landWhere (c : Ctx) (p : Fly → Bool) : Ctx :=
  let r := landSplit p c.fly
  { r.1.foldl Ctx.land1 c with fly := r.2 }

/-- Lands every result (R65, R217, R224). -/
def Ctx.landAll (c : Ctx) : Ctx := { c.fly.foldl Ctx.land1 c with fly := [] }

/-- An engine job's register result: written unless a later write of the register has issued (R192). -/
def Ctx.engineWrite (c : Ctx) (d : Dest) (tk v : Nat) : Ctx :=
  if c.tickets.look (destKey d) 0 = tk then (c.landWhere fun f => f.dest == d).setReg d v else c

/-- How many bundles after its own a shadowed write is first seen outside the D slot (R66). -/
def ShadowW.delay : ShadowW → Nat
  | .shape .. => 3
  | .fmt .. => 4
  | _ => 1

/-- Key of field `f` of shape register `r`. -/
def shKey (r f : Nat) : Nat := r * 32 + f

/-- A shadowed write made visible. -/
def Ctx.apply1 (c : Ctx) (w : ShadowW) : Ctx :=
  match w with
  | .shape r f v => { c with sh := c.sh.put (shKey r f) v }
  | .mp i v => { c with mp := c.mp.put i v }
  | .vsh v => { c with vsh := v }
  | .fp i r => { c with fp := c.fp.put i r }
  | .fmt v => { c with fmt := v }

/-- The context with every shadowed write that `p` picks made visible and dropped. -/
def Ctx.settleWhere (c : Ctx) (p : Shadow → Bool) : Ctx :=
  { (c.shadow.filter p).foldl (fun c x => c.apply1 x.w) c with shadow := c.shadow.filter fun x => !p x }

/-- The writes that the current bundle's operations see become the registers' contents (R66, R249). -/
def Ctx.settle (c : Ctx) : Ctx := c.settleWhere fun x => decide (x.bundle + x.w.delay ≤ c.bundleNo)

/-- Every shadowed write lands: a context that parks (R250). -/
def Ctx.settleAll (c : Ctx) : Ctx := c.settleWhere fun _ => true

/-- The context as its D slot sees it: every earlier descriptor write (R249, R251). -/
def Ctx.dView (c : Ctx) : Ctx := (c.shadow.filter fun x => decide (x.bundle < c.bundleNo)).foldl (fun c x => c.apply1 x.w) c

/-- A shadowed write by the current bundle. -/
def Ctx.shadowed (c : Ctx) (w : ShadowW) : Ctx := { c with shadow := c.shadow ++ [⟨c.bundleNo, w⟩] }

/-- Whether a shape write is still in its shadow (R250). -/
def Ctx.shapeOpen (c : Ctx) : Bool := c.shadow.any fun x =>
  match x.w with
  | .shape .. => decide (c.bundleNo < x.bundle + 3)
  | _ => false

/-- Field `f` of shape register `r`, as the register stands. -/
def Ctx.shf (c : Ctx) (r f : Nat) : Word := c.sh.look (shKey r f) 0

/-- The 20 fields of shape register `r`, as sampled by a copy at its issue (R249). -/
def Ctx.sample (c : Ctx) (r : Nat) : Map Word := (List.range 20).map fun f => (f, c.shf r f)

/-- Field of a shape sample. -/
def shF (m : Map Word) (f : Nat) : Nat := (m.look f 0).toNat

/-- Footprint record `n`; f0 is null (R144). -/
def fpOf (m : Map FpRec) (n : Nat) : FpRec := if n = 0 then {} else m.look n {}

end Sys2Proof.Machine

namespace Sys2Proof

/-- The registers a slot operation reads and writes by their encoded numbers, in field order, its qualifying predicate and implicit ones
included, and the accumulator banks it names (03 R62, R67; 08 R197, R200; 13 R273; 14 R286, R304; 16 R319, R335; 19 R378). -/
structure Uses where
  rs : List Nat := []
  rq : List Nat := []
  rh : List Nat := []
  ws : List Nat := []
  wq : List Nat := []
  wh : List Nat := []
  banks : List Nat := []
  deriving DecidableEq, Repr

/-- The registers and banks of a slot operation (R62, R67); `m3` are the handle registers that mp3 names, which MCALL reads. DESIGN CHOICE
(log 80): VQNT's side list and table and VDQNT's side list, which are named by handles, are handle reads; an operand field that a
sub-operation of CAPOP or CTXCTL does not use is neither read nor written. -/
def Instr.uses (m3 : List Nat) : Instr → Uses
  | .bundleIssue _ => {}
  | .emptyBundle => {}
  | .handlerLaunch _ => {}
  | .contextSwapComplete _ => {}
  | .stallSwap _ _ => {}
  | .mergeStarvation _ => {}
  | .add qp sd sa sb =>
    { rs := [sa, sb], rq := [qp], ws := [sd] }
  | .sub qp sd sa sb =>
    { rs := [sa, sb], rq := [qp], ws := [sd] }
  | .and qp sd sa sb =>
    { rs := [sa, sb], rq := [qp], ws := [sd] }
  | .or qp sd sa sb =>
    { rs := [sa, sb], rq := [qp], ws := [sd] }
  | .xor qp sd sa sb =>
    { rs := [sa, sb], rq := [qp], ws := [sd] }
  | .shl qp sd sa sb =>
    { rs := [sa, sb], rq := [qp], ws := [sd] }
  | .shr qp sd sa sb =>
    { rs := [sa, sb], rq := [qp], ws := [sd] }
  | .sar qp sd sa sb =>
    { rs := [sa, sb], rq := [qp], ws := [sd] }
  | .mul qp sd sa sb =>
    { rs := [sa, sb], rq := [qp], ws := [sd] }
  | .mulh qp sd sa sb =>
    { rs := [sa, sb], rq := [qp], ws := [sd] }
  | .mulhn qp sd sa sb =>
    { rs := [sa, sb], rq := [qp], ws := [sd] }
  | .div qp sd sa sb =>
    { rs := [sa, sb], rq := [qp], ws := [sd] }
  | .divn qp sd sa sb =>
    { rs := [sa, sb], rq := [qp], ws := [sd] }
  | .rem qp sd sa sb =>
    { rs := [sa, sb], rq := [qp], ws := [sd] }
  | .remn qp sd sa sb =>
    { rs := [sa, sb], rq := [qp], ws := [sd] }
  | .min qp sd sa sb =>
    { rs := [sa, sb], rq := [qp], ws := [sd] }
  | .max qp sd sa sb =>
    { rs := [sa, sb], rq := [qp], ws := [sd] }
  | .minn qp sd sa sb =>
    { rs := [sa, sb], rq := [qp], ws := [sd] }
  | .maxn qp sd sa sb =>
    { rs := [sa, sb], rq := [qp], ws := [sd] }
  | .clz qp sd sa =>
    { rs := [sa], rq := [qp], ws := [sd] }
  | .ctz qp sd sa =>
    { rs := [sa], rq := [qp], ws := [sd] }
  | .popc qp sd sa =>
    { rs := [sa], rq := [qp], ws := [sd] }
  | .andn qp sd sa sb =>
    { rs := [sa, sb], rq := [qp], ws := [sd] }
  | .orn qp sd sa sb =>
    { rs := [sa, sb], rq := [qp], ws := [sd] }
  | .addi qp sd sa _ =>
    { rs := [sa], rq := [qp], ws := [sd] }
  | .addiExt qp sd sa _ _ =>
    { rs := [sa], rq := [qp], ws := [sd] }
  | .andi qp sd sa _ =>
    { rs := [sa], rq := [qp], ws := [sd] }
  | .andiExt qp sd sa _ _ =>
    { rs := [sa], rq := [qp], ws := [sd] }
  | .ori qp sd sa _ =>
    { rs := [sa], rq := [qp], ws := [sd] }
  | .oriExt qp sd sa _ _ =>
    { rs := [sa], rq := [qp], ws := [sd] }
  | .xori qp sd sa _ =>
    { rs := [sa], rq := [qp], ws := [sd] }
  | .xoriExt qp sd sa _ _ =>
    { rs := [sa], rq := [qp], ws := [sd] }
  | .shli qp sd sa _ =>
    { rs := [sa], rq := [qp], ws := [sd] }
  | .shliExt qp sd sa _ _ =>
    { rs := [sa], rq := [qp], ws := [sd] }
  | .shri qp sd sa _ =>
    { rs := [sa], rq := [qp], ws := [sd] }
  | .shriExt qp sd sa _ _ =>
    { rs := [sa], rq := [qp], ws := [sd] }
  | .sari qp sd sa _ =>
    { rs := [sa], rq := [qp], ws := [sd] }
  | .sariExt qp sd sa _ _ =>
    { rs := [sa], rq := [qp], ws := [sd] }
  | .muli qp sd sa _ =>
    { rs := [sa], rq := [qp], ws := [sd] }
  | .muliExt qp sd sa _ _ =>
    { rs := [sa], rq := [qp], ws := [sd] }
  | .movi qp sd _ =>
    { rq := [qp], ws := [sd] }
  | .moviExt qp sd _ _ =>
    { rq := [qp], ws := [sd] }
  | .movhi qp sd _ =>
    { rs := [sd], rq := [qp], ws := [sd] }
  | .cmp qp qt qf sa sb _ =>
    { rs := [sa, sb], rq := [qp], wq := [qt, qf] }
  | .cmpi qp qt qf sa _ _ =>
    { rs := [sa], rq := [qp], wq := [qt, qf] }
  | .cmpiExt qp qt qf sa _ _ _ =>
    { rs := [sa], rq := [qp], wq := [qt, qf] }
  | .sel qp sd sa sb qs =>
    { rs := [sa, sb], rq := [qp, qs], ws := [sd] }
  | .bfx qp sd sa _ _ =>
    { rs := [sa], rq := [qp], ws := [sd] }
  | .bfxs qp sd sa _ _ =>
    { rs := [sa], rq := [qp], ws := [sd] }
  | .bfi qp sd sa _ _ =>
    { rs := [sd, sa], rq := [qp], ws := [sd] }
  | .lea qp sd sa sb _ =>
    { rs := [sa, sb], rq := [qp], ws := [sd] }
  | .movs qp sd _ =>
    { rq := [qp], ws := [sd] }
  | .br qp _ =>
    { rq := [qp] }
  | .brExt qp _ _ =>
    { rq := [qp] }
  | .call qp _ =>
    { rq := [qp], ws := [23] }
  | .callExt qp _ _ =>
    { rq := [qp], ws := [23] }
  | .brs qp sa =>
    { rs := [sa], rq := [qp] }
  | .calls qp sa =>
    { rs := [sa], rq := [qp], ws := [23] }
  | .loop qp sa _ =>
    { rs := [sa], rq := [qp] }
  | .loopi qp _ _ =>
    { rq := [qp] }
  | .loopiExt qp _ _ _ =>
    { rq := [qp] }
  | .loopr qp sa _ _ =>
    { rs := [sa], rq := [qp] }
  | .lbreak qp =>
    { rq := [qp] }
  | .plog qp qd qa qb fn =>
    { rq := if fn < 5 then [qp, qa, qb] else if fn = 5 then [qp, qa] else [qp], wq := [qd] }
  | .fmtset qp sa =>
    { rs := [sa], rq := [qp] }
  | .fmtseti qp _ =>
    { rq := [qp] }
  | .semwait qp _ _ =>
    { rq := [qp] }
  | .semsig qp _ _ =>
    { rq := [qp] }
  | .waitc qp h _ sa =>
    { rs := [sa], rq := [qp], rh := [h] }
  | .ctrwait qp _ sa =>
    { rs := [sa], rq := [qp] }
  | .tfence qp =>
    { rq := [qp] }
  | .fence qp sd _ =>
    { rq := [qp], ws := [sd] }
  | .taskend qp =>
    { rq := [qp] }
  | .spawn qp _ sa _ =>
    { rs := [sa], rq := [qp] }
  | .spawnOverlap qp _ sa _ _ =>
    { rs := [sa], rq := [qp] }
  | .yield qp =>
    { rq := [qp] }
  | .statpop qp sd sd2 =>
    { rq := [qp], ws := [sd, sd2] }
  | .trap qp _ =>
    { rq := [qp] }
  | .eret qp =>
    { rq := [qp] }
  | .csrr qp sd sa _ =>
    { rs := [sa], rq := [qp], ws := [sd] }
  | .csrw qp sa sb _ =>
    { rs := [sa, sb], rq := [qp] }
  | .jobres qp sa =>
    { rs := [sa], rq := [qp] }
  | .iflush qp =>
    { rq := [qp] }
  | .capopDerive qp sd sa sb _ =>
    { rs := [sa, sb], rq := [qp], ws := [sd] }
  | .capopRevoke qp sd sa _ =>
    { rs := [sa], rq := [qp], ws := [sd] }
  | .capopInfo qp sd sa _ =>
    { rs := [sa], rq := [qp], ws := [sd] }
  | .capopFree qp _ sa _ =>
    { rs := [sa], rq := [qp] }
  | .ctxctlStop qp sd sa _ =>
    { rs := [sa], rq := [qp], ws := [sd] }
  | .ctxctlGo qp _ sa _ =>
    { rs := [sa], rq := [qp] }
  | .ctxctlKill qp sd sa _ =>
    { rs := [sa], rq := [qp], ws := [sd] }
  | .ctxctlRead qp sd sa _ _ =>
    { rs := [sa], rq := [qp], ws := [sd] }
  | .ctxctlWrite qp _ sa sb _ =>
    { rs := [sa, sb], rq := [qp] }
  | .ctxctlBrkSet qp _ sa sb _ =>
    { rs := [sa, sb], rq := [qp] }
  | .ctxctlBrkClr qp _ sa _ _ =>
    { rs := [sa], rq := [qp] }
  | .ctxctlTestMode qp _ sa sb =>
    { rs := [sa, sb], rq := [qp] }
  | .audmark qp sa sb =>
    { rs := [sa, sb], rq := [qp] }
  | .audsealSeal qp sd _ sa =>
    { rs := [sa], rq := [qp], ws := [sd] }
  | .audsealConfig qp sd _ sa =>
    { rs := [sa], rq := [qp], ws := [sd] }
  | .audbisect qp sd _ sa _ =>
    { rs := [sa], rq := [qp], ws := [sd] }
  | .audref qp sd _ sa _ =>
    { rs := [sa], rq := [qp], ws := [sd] }
  | .audreplay qp sd _ sa _ =>
    { rs := [sa], rq := [qp], ws := [sd] }
  | .audroot qp hd _ =>
    { rq := [qp], rh := [hd], wh := [hd] }
  | .shset qp _ _ sa =>
    { rs := [sa], rq := [qp] }
  | .shseti qp _ _ _ =>
    { rq := [qp] }
  | .shcopy qp _ _ =>
    { rq := [qp] }
  | .shstep qp _ _ sa =>
    { rs := [sa], rq := [qp] }
  | .mpset qp _ _ sa =>
    { rs := [sa], rq := [qp] }
  | .mpseti qp _ _ _ =>
    { rq := [qp] }
  | .vshape qp _ _ =>
    { rq := [qp] }
  | .fpnarrow qp _ _ _ sa sb =>
    { rs := [sa, sb], rq := [qp] }
  | .shrd qp sd _ _ _ =>
    { rq := [qp], ws := [sd] }
  | .alloc qp hd _ _ =>
    { rq := [qp], wh := [hd] }
  | .allocr qp hd _ sa =>
    { rs := [sa], rq := [qp], wh := [hd] }
  | .alloct qp hd _ _ qs =>
    { rq := [qp], wq := [qs], wh := [hd] }
  | .copyin qp hd _ _ =>
    { rq := [qp], rh := [hd] }
  | .gpush qp hd sa _ =>
    { rs := [sa], rq := [qp], rh := [hd] }
  | .gather qp hd _ _ =>
    { rq := [qp], rh := [hd] }
  | .tmove qp hd hs _ _ =>
    { rq := [qp], rh := [hs, hd] }
  | .ldt qp sd hs _ _ _ =>
    { rq := [qp], rh := [hs], ws := [sd] }
  | .ldtr qp sd hs _ _ sb =>
    { rs := [sb], rq := [qp], rh := [hs], ws := [sd] }
  | .ldg qp sd _ sa _ _ _ =>
    { rs := [sa], rq := [qp], ws := [sd] }
  | .tread qp sd hs _ sb =>
    { rs := [sb], rq := [qp], rh := [hs], ws := [sd] }
  | .trel qp hs =>
    { rq := [qp], rh := [hs] }
  | .tinfo qp sd hs _ =>
    { rq := [qp], rh := [hs], ws := [sd] }
  | .ovl qp _ sa sb _ =>
    { rs := [sa, sb], rq := [qp] }
  | .landh qp hd _ sa =>
    { rs := [sa], rq := [qp], wh := [hd] }
  | .vadd qp hd ha hb _ _ _ _ =>
    { rq := [qp], rh := [ha, hb], wh := [hd] }
  | .vsub qp hd ha hb _ _ _ _ =>
    { rq := [qp], rh := [ha, hb], wh := [hd] }
  | .vmul qp hd ha hb _ _ _ _ =>
    { rq := [qp], rh := [ha, hb], wh := [hd] }
  | .vfma qp hd ha hb _ _ _ _ =>
    { rq := [qp], rh := [ha, hb, hd], wh := [hd] }
  | .vmin qp hd ha hb _ _ _ =>
    { rq := [qp], rh := [ha, hb], wh := [hd] }
  | .vmax qp hd ha hb _ _ _ =>
    { rq := [qp], rh := [ha, hb], wh := [hd] }
  | .vand qp hd ha hb _ _ _ =>
    { rq := [qp], rh := [ha, hb], wh := [hd] }
  | .vor qp hd ha hb _ _ _ =>
    { rq := [qp], rh := [ha, hb], wh := [hd] }
  | .vxor qp hd ha hb _ _ _ =>
    { rq := [qp], rh := [ha, hb], wh := [hd] }
  | .vshl qp hd ha hb _ _ _ =>
    { rq := [qp], rh := [ha, hb], wh := [hd] }
  | .vshr qp hd ha hb _ _ _ =>
    { rq := [qp], rh := [ha, hb], wh := [hd] }
  | .vcmp qp hd ha hb _ _ _ _ =>
    { rq := [qp], rh := [ha, hb], wh := [hd] }
  | .vsel qp hd ha hb _ _ _ =>
    { rq := [qp], rh := [ha, hb, hd], wh := [hd] }
  | .vabs qp hd ha _ _ =>
    { rq := [qp], rh := [ha], wh := [hd] }
  | .vneg qp hd ha _ _ =>
    { rq := [qp], rh := [ha], wh := [hd] }
  | .vmov qp hd ha _ _ =>
    { rq := [qp], rh := [ha], wh := [hd] }
  | .vfill qp hd _ =>
    { rq := [qp], wh := [hd] }
  | .vfillExt qp hd _ _ =>
    { rq := [qp], wh := [hd] }
  | .vbrow qp hd ha _ _ =>
    { rq := [qp], rh := [ha], wh := [hd] }
  | .vbcol qp hd ha _ _ =>
    { rq := [qp], rh := [ha], wh := [hd] }
  | .vtrans qp hd ha _ _ =>
    { rq := [qp], rh := [ha], wh := [hd] }
  | .vsfu qp hd ha _ _ _ _ =>
    { rq := [qp], rh := [ha], wh := [hd] }
  | .vrsum qp hd ha _ _ _ =>
    { rq := [qp], rh := [ha], wh := [hd] }
  | .vrmax qp hd ha _ _ =>
    { rq := [qp], rh := [ha], wh := [hd] }
  | .vcsum qp hd ha _ _ _ =>
    { rq := [qp], rh := [ha], wh := [hd] }
  | .vcmax qp hd ha _ _ =>
    { rq := [qp], rh := [ha], wh := [hd] }
  | .vdot qp hd ha hb _ _ _ _ =>
    { rq := [qp], rh := [ha, hb], wh := [hd] }
  | .vmacc qp hd ha hb _ _ _ _ =>
    { rq := [qp], rh := [ha, hb, hd], wh := [hd] }
  | .vcvt qp hd ha _ _ _ _ _ _ =>
    { rq := [qp], rh := [ha], wh := [hd] }
  | .vqnt qp hd ha hb _ _ _ _ _ _ side _ =>
    { rq := [qp], rh := [ha, hb, side], wh := [hd, side] }
  | .vdqnt qp hd ha hb _ _ _ _ _ _ side _ =>
    { rq := [qp], rh := [ha, hb, side], wh := [hd] }
  | .vscale qp hd ha hb _ _ _ _ =>
    { rq := [qp], rh := [ha, hb], wh := [hd] }
  | .viota qp hd _ _ =>
    { rq := [qp], wh := [hd] }
  | .vsums qp sd ha sdhi _ _ =>
    { rq := [qp], rh := [ha], ws := [sd + 16 * sdhi] }
  | .mcall qp _ acc _ _ =>
    { rq := [qp], rh := m3, banks := [acc] }
  | .acczero qp acc _ =>
    { rq := [qp], banks := [acc] }
  | .accrd qp hd acc ht _ _ _ _ =>
    { rq := [qp], rh := [ht], wh := [hd], banks := [acc] }
  | .accwr qp acc hs _ _ =>
    { rq := [qp], rh := [hs], banks := [acc] }
  | .accmov qp accd accs =>
    { rq := [qp], banks := [accd, accs] }
  | .ringpush qp _ hs =>
    { rq := [qp], rh := [hs] }
  | .ringdrop qp _ _ =>
    { rq := [qp] }
  | .ringinfo qp sd _ =>
    { rq := [qp], ws := [sd] }
  | .mprog qp _ _ sa =>
    { rs := [sa], rq := [qp] }
  | .mprogExt qp _ _ sa _ =>
    { rs := [sa], rq := [qp] }
  | .copyout qp hs _ _ _ _ =>
    { rq := [qp], rh := [hs] }
  | .copyacc qp acc _ _ =>
    { rq := [qp], banks := [acc] }
  | .stt qp sa hs _ _ =>
    { rs := [sa], rq := [qp], rh := [hs] }
  | .sttr qp sa hs _ sb =>
    { rs := [sa, sb], rq := [qp], rh := [hs] }
  | .stg qp sb _ sa _ _ =>
    { rs := [sb, sa], rq := [qp] }
  | .atom qp sd _ sa sb _ _ _ _ _ =>
    { rs := [sd, sa, sb], rq := [qp], ws := [sd] }
  | .cas qp sd _ sa sb _ _ _ _ =>
    { rs := [sd, sa, sb], rq := [qp], ws := [sd] }
  | .send qp _ hs _ _ =>
    { rq := [qp], rh := [hs] }
  | .sendt qp _ hs _ _ _ _ =>
    { rq := [qp], rh := [hs] }
  | .putr qp _ hs _ sa =>
    { rs := [sa], rq := [qp], rh := [hs] }
  | .ctraddRemote qp _ sa =>
    { rs := [sa], rq := [qp] }
  | .ctraddLocal qp _ sa =>
    { rs := [sa], rq := [qp] }
  | .mbox qp hs _ sa _ =>
    { rs := [sa], rq := [qp], rh := [hs] }
  | .scatter qp hs hi _ _ _ _ _ =>
    { rq := [qp], rh := [hs, hi] }
  | .prime qp _ hs _ _ =>
    { rq := [qp], rh := [hs] }
  | .chunkArrives _ _ _ => {}
  | .tileJobComplete _ _ => {}
  | .outJobComplete _ _ => {}
  | .ldgComplete _ _ => {}
  | .jobFault _ _ => {}
  | .ovlComplete _ _ => {}
  | .vectorResultLands _ _ => {}
  | .accrdComplete _ _ => {}
  | .routineStart _ _ => {}
  | .routineBlockComplete _ _ => {}
  | .routineRetire _ _ => {}
  | .routineFault _ _ => {}
  | .mprogComplete _ _ => {}
  | .spawnAccepted _ _ => {}
  | .sendFire _ _ => {}
  | .sendtFire _ _ => {}
  | .sendComplete _ _ => {}
  | .primeComplete _ _ => {}
  | .serifData _ _ => {}
  | .landingComplete _ _ => {}
  | .blotDeadline _ _ => {}
  | .serifAck _ _ => {}
  | .serifNack _ _ => {}
  | .slotReady _ _ => {}
  | .counterAdd _ _ => {}
  | .serifMailbox _ _ => {}
  | .refusal _ _ => {}
  | .bindNotice _ _ => {}
  | .retransmitTimeout _ _ => {}
  | .lossOfSignalDead _ _ => {}
  | .auditNodeRequest _ _ => {}
  | .auditJobComplete _ _ _ => {}
  | .rootLogWrite _ => {}
  | .nodeEntersWindow _ _ => {}
  | .nodeDispatch _ _ => {}
  | .taskStart _ => {}
  | .steal _ => {}
  | .queueStarvation _ _ _ => {}
  | .taskComplete _ _ => {}
  | .graphComplete _ _ => {}
  | .watchdogW1 _ _ => {}
  | .watchdogW2 _ _ => {}
  | .watchdogW3 _ _ => {}
  | .softErrorCorrected _ _ => {}
  | .freezeEnd _ => {}
  | .padUncorrectable _ => {}
  | .bankUncorrectable _ _ => {}
  | .doorbell _ _ _ => {}
  | .registerWrite _ _ _ _ => {}
  | .launch _ _ => {}
  | .patch _ _ => {}
  | .load _ _ => {}
  | .loadComplete _ _ => {}
  | .unload _ _ => {}
  | .barrier _ _ => {}
  | .signal _ _ => {}
  | .hostSeal _ _ => {}
  | .bind _ _ => {}
  | .setchip _ => {}
  | .setroute _ => {}
  | .retrain _ => {}
  | .xinv _ _ _ => {}
  | .qrootWrite _ _ _ => {}
  | .nodectlRelease _ _ => {}
  | .nodectlFail _ _ => {}
  | .ufenceClear _ _ => {}
  | .ufenceSet _ _ => {}
  | .qctlEnable _ _ => {}
  | .qctlDisable _ _ => {}
  | .poolcfgWrite _ _ _ => {}
  | .statrd _ _ => {}
  | .getVersion => {}
  | .getCapabilities => {}
  | .negotiateAlgorithms => {}
  | .getDigests => {}
  | .getCertificate _ _ _ => {}
  | .challenge _ _ => {}
  | .getMeasurements _ _ _ => {}
  | .unsupportedRequest _ => {}
  | .importRegion _ => {}
  | .release _ => {}
  | .signLogHead => {}
  | .meterRefill => {}
  | .crossingGrant _ _ => {}
  | .powerOn _ => {}
  | .thermalGate _ => {}
  | .thermalShutdown => {}
  | .fixedLatencyResultLands _ _ _ => {}
  | .slotStorageReturns _ _ => {}
  | .mboxLocalDelivery _ => {}
  | .auditConfigTakesEffect _ _ => {}
  | .fecFailure _ _ => {}
  | .lossOfSignalChanges _ _ _ => {}
  | .linkTrainingComplete _ => {}
  | .thermalGateRelease _ => {}

/-- The slot of a slot operation as its header bit; 7 for an event (R55). -/
def Instr.slot : Instr → Nat
  | .bundleIssue _ => 7
  | .emptyBundle => 7
  | .handlerLaunch _ => 7
  | .contextSwapComplete _ => 7
  | .stallSwap _ _ => 7
  | .mergeStarvation _ => 7
  | .add _ _ _ _ => 0
  | .sub _ _ _ _ => 0
  | .and _ _ _ _ => 0
  | .or _ _ _ _ => 0
  | .xor _ _ _ _ => 0
  | .shl _ _ _ _ => 0
  | .shr _ _ _ _ => 0
  | .sar _ _ _ _ => 0
  | .mul _ _ _ _ => 0
  | .mulh _ _ _ _ => 0
  | .mulhn _ _ _ _ => 0
  | .div _ _ _ _ => 0
  | .divn _ _ _ _ => 0
  | .rem _ _ _ _ => 0
  | .remn _ _ _ _ => 0
  | .min _ _ _ _ => 0
  | .max _ _ _ _ => 0
  | .minn _ _ _ _ => 0
  | .maxn _ _ _ _ => 0
  | .clz _ _ _ => 0
  | .ctz _ _ _ => 0
  | .popc _ _ _ => 0
  | .andn _ _ _ _ => 0
  | .orn _ _ _ _ => 0
  | .addi _ _ _ _ => 0
  | .addiExt _ _ _ _ _ => 0
  | .andi _ _ _ _ => 0
  | .andiExt _ _ _ _ _ => 0
  | .ori _ _ _ _ => 0
  | .oriExt _ _ _ _ _ => 0
  | .xori _ _ _ _ => 0
  | .xoriExt _ _ _ _ _ => 0
  | .shli _ _ _ _ => 0
  | .shliExt _ _ _ _ _ => 0
  | .shri _ _ _ _ => 0
  | .shriExt _ _ _ _ _ => 0
  | .sari _ _ _ _ => 0
  | .sariExt _ _ _ _ _ => 0
  | .muli _ _ _ _ => 0
  | .muliExt _ _ _ _ _ => 0
  | .movi _ _ _ => 0
  | .moviExt _ _ _ _ => 0
  | .movhi _ _ _ => 0
  | .cmp _ _ _ _ _ _ => 0
  | .cmpi _ _ _ _ _ _ => 0
  | .cmpiExt _ _ _ _ _ _ _ => 0
  | .sel _ _ _ _ _ => 0
  | .bfx _ _ _ _ _ => 0
  | .bfxs _ _ _ _ _ => 0
  | .bfi _ _ _ _ _ => 0
  | .lea _ _ _ _ _ => 0
  | .movs _ _ _ => 0
  | .br _ _ => 1
  | .brExt _ _ _ => 1
  | .call _ _ => 1
  | .callExt _ _ _ => 1
  | .brs _ _ => 1
  | .calls _ _ => 1
  | .loop _ _ _ => 1
  | .loopi _ _ _ => 1
  | .loopiExt _ _ _ _ => 1
  | .loopr _ _ _ _ => 1
  | .lbreak _ => 1
  | .plog _ _ _ _ _ => 1
  | .fmtset _ _ => 1
  | .fmtseti _ _ => 1
  | .semwait _ _ _ => 1
  | .semsig _ _ _ => 1
  | .waitc _ _ _ _ => 1
  | .ctrwait _ _ _ => 1
  | .tfence _ => 1
  | .fence _ _ _ => 1
  | .taskend _ => 1
  | .spawn _ _ _ _ => 1
  | .spawnOverlap _ _ _ _ _ => 1
  | .yield _ => 1
  | .statpop _ _ _ => 1
  | .trap _ _ => 1
  | .eret _ => 1
  | .csrr _ _ _ _ => 1
  | .csrw _ _ _ _ => 1
  | .jobres _ _ => 1
  | .iflush _ => 1
  | .capopDerive _ _ _ _ _ => 1
  | .capopRevoke _ _ _ _ => 1
  | .capopInfo _ _ _ _ => 1
  | .capopFree _ _ _ _ => 1
  | .ctxctlStop _ _ _ _ => 1
  | .ctxctlGo _ _ _ _ => 1
  | .ctxctlKill _ _ _ _ => 1
  | .ctxctlRead _ _ _ _ _ => 1
  | .ctxctlWrite _ _ _ _ _ => 1
  | .ctxctlBrkSet _ _ _ _ _ => 1
  | .ctxctlBrkClr _ _ _ _ _ => 1
  | .ctxctlTestMode _ _ _ _ => 1
  | .audmark _ _ _ => 1
  | .audsealSeal _ _ _ _ => 1
  | .audsealConfig _ _ _ _ => 1
  | .audbisect _ _ _ _ _ => 1
  | .audref _ _ _ _ _ => 1
  | .audreplay _ _ _ _ _ => 1
  | .audroot _ _ _ => 1
  | .shset _ _ _ _ => 2
  | .shseti _ _ _ _ => 2
  | .shcopy _ _ _ => 2
  | .shstep _ _ _ _ => 2
  | .mpset _ _ _ _ => 2
  | .mpseti _ _ _ _ => 2
  | .vshape _ _ _ => 2
  | .fpnarrow _ _ _ _ _ _ => 2
  | .shrd _ _ _ _ _ => 2
  | .alloc _ _ _ _ => 3
  | .allocr _ _ _ _ => 3
  | .alloct _ _ _ _ _ => 3
  | .copyin _ _ _ _ => 3
  | .gpush _ _ _ _ => 3
  | .gather _ _ _ _ => 3
  | .tmove _ _ _ _ _ => 3
  | .ldt _ _ _ _ _ _ => 3
  | .ldtr _ _ _ _ _ _ => 3
  | .ldg _ _ _ _ _ _ _ => 3
  | .tread _ _ _ _ _ => 3
  | .trel _ _ => 3
  | .tinfo _ _ _ _ => 3
  | .ovl _ _ _ _ _ => 3
  | .landh _ _ _ _ => 3
  | .vadd _ _ _ _ _ _ _ _ => 4
  | .vsub _ _ _ _ _ _ _ _ => 4
  | .vmul _ _ _ _ _ _ _ _ => 4
  | .vfma _ _ _ _ _ _ _ _ => 4
  | .vmin _ _ _ _ _ _ _ => 4
  | .vmax _ _ _ _ _ _ _ => 4
  | .vand _ _ _ _ _ _ _ => 4
  | .vor _ _ _ _ _ _ _ => 4
  | .vxor _ _ _ _ _ _ _ => 4
  | .vshl _ _ _ _ _ _ _ => 4
  | .vshr _ _ _ _ _ _ _ => 4
  | .vcmp _ _ _ _ _ _ _ _ => 4
  | .vsel _ _ _ _ _ _ _ => 4
  | .vabs _ _ _ _ _ => 4
  | .vneg _ _ _ _ _ => 4
  | .vmov _ _ _ _ _ => 4
  | .vfill _ _ _ => 4
  | .vfillExt _ _ _ _ => 4
  | .vbrow _ _ _ _ _ => 4
  | .vbcol _ _ _ _ _ => 4
  | .vtrans _ _ _ _ _ => 4
  | .vsfu _ _ _ _ _ _ _ => 4
  | .vrsum _ _ _ _ _ _ => 4
  | .vrmax _ _ _ _ _ => 4
  | .vcsum _ _ _ _ _ _ => 4
  | .vcmax _ _ _ _ _ => 4
  | .vdot _ _ _ _ _ _ _ _ => 4
  | .vmacc _ _ _ _ _ _ _ _ => 4
  | .vcvt _ _ _ _ _ _ _ _ _ => 4
  | .vqnt _ _ _ _ _ _ _ _ _ _ _ _ => 4
  | .vdqnt _ _ _ _ _ _ _ _ _ _ _ _ => 4
  | .vscale _ _ _ _ _ _ _ _ => 4
  | .viota _ _ _ _ => 4
  | .vsums _ _ _ _ _ _ => 4
  | .mcall _ _ _ _ _ => 5
  | .acczero _ _ _ => 5
  | .accrd _ _ _ _ _ _ _ _ => 5
  | .accwr _ _ _ _ _ => 5
  | .accmov _ _ _ => 5
  | .ringpush _ _ _ => 5
  | .ringdrop _ _ _ => 5
  | .ringinfo _ _ _ => 5
  | .mprog _ _ _ _ => 5
  | .mprogExt _ _ _ _ _ => 5
  | .copyout _ _ _ _ _ _ => 6
  | .copyacc _ _ _ _ => 6
  | .stt _ _ _ _ _ => 6
  | .sttr _ _ _ _ _ => 6
  | .stg _ _ _ _ _ _ => 6
  | .atom _ _ _ _ _ _ _ _ _ _ => 6
  | .cas _ _ _ _ _ _ _ _ _ => 6
  | .send _ _ _ _ _ => 6
  | .sendt _ _ _ _ _ _ _ => 6
  | .putr _ _ _ _ _ => 6
  | .ctraddRemote _ _ _ => 6
  | .ctraddLocal _ _ _ => 6
  | .mbox _ _ _ _ _ => 6
  | .scatter _ _ _ _ _ _ _ _ => 6
  | .prime _ _ _ _ _ => 6
  | .chunkArrives _ _ _ => 7
  | .tileJobComplete _ _ => 7
  | .outJobComplete _ _ => 7
  | .ldgComplete _ _ => 7
  | .jobFault _ _ => 7
  | .ovlComplete _ _ => 7
  | .vectorResultLands _ _ => 7
  | .accrdComplete _ _ => 7
  | .routineStart _ _ => 7
  | .routineBlockComplete _ _ => 7
  | .routineRetire _ _ => 7
  | .routineFault _ _ => 7
  | .mprogComplete _ _ => 7
  | .spawnAccepted _ _ => 7
  | .sendFire _ _ => 7
  | .sendtFire _ _ => 7
  | .sendComplete _ _ => 7
  | .primeComplete _ _ => 7
  | .serifData _ _ => 7
  | .landingComplete _ _ => 7
  | .blotDeadline _ _ => 7
  | .serifAck _ _ => 7
  | .serifNack _ _ => 7
  | .slotReady _ _ => 7
  | .counterAdd _ _ => 7
  | .serifMailbox _ _ => 7
  | .refusal _ _ => 7
  | .bindNotice _ _ => 7
  | .retransmitTimeout _ _ => 7
  | .lossOfSignalDead _ _ => 7
  | .auditNodeRequest _ _ => 7
  | .auditJobComplete _ _ _ => 7
  | .rootLogWrite _ => 7
  | .nodeEntersWindow _ _ => 7
  | .nodeDispatch _ _ => 7
  | .taskStart _ => 7
  | .steal _ => 7
  | .queueStarvation _ _ _ => 7
  | .taskComplete _ _ => 7
  | .graphComplete _ _ => 7
  | .watchdogW1 _ _ => 7
  | .watchdogW2 _ _ => 7
  | .watchdogW3 _ _ => 7
  | .softErrorCorrected _ _ => 7
  | .freezeEnd _ => 7
  | .padUncorrectable _ => 7
  | .bankUncorrectable _ _ => 7
  | .doorbell _ _ _ => 7
  | .registerWrite _ _ _ _ => 7
  | .launch _ _ => 7
  | .patch _ _ => 7
  | .load _ _ => 7
  | .loadComplete _ _ => 7
  | .unload _ _ => 7
  | .barrier _ _ => 7
  | .signal _ _ => 7
  | .hostSeal _ _ => 7
  | .bind _ _ => 7
  | .setchip _ => 7
  | .setroute _ => 7
  | .retrain _ => 7
  | .xinv _ _ _ => 7
  | .qrootWrite _ _ _ => 7
  | .nodectlRelease _ _ => 7
  | .nodectlFail _ _ => 7
  | .ufenceClear _ _ => 7
  | .ufenceSet _ _ => 7
  | .qctlEnable _ _ => 7
  | .qctlDisable _ _ => 7
  | .poolcfgWrite _ _ _ => 7
  | .statrd _ _ => 7
  | .getVersion => 7
  | .getCapabilities => 7
  | .negotiateAlgorithms => 7
  | .getDigests => 7
  | .getCertificate _ _ _ => 7
  | .challenge _ _ => 7
  | .getMeasurements _ _ _ => 7
  | .unsupportedRequest _ => 7
  | .importRegion _ => 7
  | .release _ => 7
  | .signLogHead => 7
  | .meterRefill => 7
  | .crossingGrant _ _ => 7
  | .powerOn _ => 7
  | .thermalGate _ => 7
  | .thermalShutdown => 7
  | .fixedLatencyResultLands _ _ _ => 7
  | .slotStorageReturns _ _ => 7
  | .mboxLocalDelivery _ => 7
  | .auditConfigTakesEffect _ _ => 7
  | .fecFailure _ _ => 7
  | .lossOfSignalChanges _ _ _ => 7
  | .linkTrainingComplete _ => 7
  | .thermalGateRelease _ => 7

/-- The syllable of a slot operation; zero for an event. -/
def Instr.syl (i : Instr) : Syl := (encodeSyl i).getD ⟨7, 0, 0⟩

/-- Encoded registers of a list, without register 0. -/
def dests (s q h : List Nat) : List Machine.Dest :=
  (s.filter (· ≠ 0)).map Machine.Dest.s ++ (q.filter (· ≠ 0)).map Machine.Dest.q ++ (h.filter (· ≠ 0)).map Machine.Dest.h

/-- The registers a slot operation writes, by encoded number. -/
def Uses.writes (x : Uses) : List Machine.Dest := dests x.ws x.wq x.wh

/-- The registers a slot operation reads, by encoded number. -/
def Uses.reads (x : Uses) : List Machine.Dest := dests x.rs x.rq x.rh

end Sys2Proof
end

