-- ==== Sys2Proof/Machine/Access.lean ====
section
/-!
DEFINITION. Where bytes live and how an access reaches them: the parts of the state by number, memory by region, placement,
table walks, the translation buffer, sealed pages and the footprint check (06_memory.md R144-R155; 23 R411, R412).
-/
namespace Sys2Proof.Machine

/-- Unit `u` (R9). -/
def State.unit (s : State) (u : Nat) : UnitSt := s.units.look u {}

/-- Unit `u` replaced. -/
def State.setUnit (s : State) (u : Nat) (x : UnitSt) : State := { s with units := s.units.put u x }

/-- Unit `u` changed by `f`. -/
def State.updUnit (s : State) (u : Nat) (f : UnitSt → UnitSt) : State := s.setUnit u (f (s.unit u))

/-- Die `d`. -/
def State.die (s : State) (d : Nat) : DieSt := s.dies.look d {}

/-- Die `d` changed by `f`. -/
def State.updDie (s : State) (d : Nat) (f : DieSt → DieSt) : State := { s with dies := s.dies.put d (f (s.die d)) }

/-- Queue `q` of die `d`. -/
def State.queue (s : State) (d q : Nat) : QueueSt := (s.die d).queues.look q {}

/-- Queue `q` of die `d` changed by `f`. -/
def State.updQueue (s : State) (d q : Nat) (f : QueueSt → QueueSt) : State :=
  s.updDie d fun x => { x with queues := x.queues.adj q {} f }

/-- Serif port `p`. -/
def State.port (s : State) (p : Nat) : PortSt := s.ports.look p {}

/-- Serif port `p` changed by `f`. -/
def State.updPort (s : State) (p : Nat) (f : PortSt → PortSt) : State := { s with ports := s.ports.put p (f (s.port p)) }

/-- Pad `p`: unit pads 0-511, cluster pads 512-543, die pads 544-547 (R155). -/
def State.pad (s : State) (p : Nat) : PadSt := s.pads.look p {}

/-- Pad `p` changed by `f`. -/
def State.updPad (s : State) (p : Nat) (f : PadSt → PadSt) : State := { s with pads := s.pads.put p (f (s.pad p)) }

/-- The metadata of a slot. -/
def State.slot (s : State) (t : TileRef) : SlotSt := (s.pad t.pad).slots.look t.slot {}

/-- The metadata of a slot changed by `f`. -/
def State.updSlot (s : State) (t : TileRef) (f : SlotSt → SlotSt) : State :=
  s.updPad t.pad fun p => { p with slots := p.slots.adj t.slot {} f }

/-- The context in bank `b` of unit `u`. -/
def State.ctx? (s : State) (u b : Nat) : Option Ctx := (s.unit u).ctxs.entry? b

/-- The context in bank `b` of unit `u`, a context without identity when the bank is free. -/
def State.ctxAt (s : State) (u b : Nat) : Ctx := (s.unit u).ctxs.look b { cid := 0 }

/-- Bank `b` of unit `u` holds context `c`. -/
def State.setCtx (s : State) (u b : Nat) (c : Ctx) : State := s.updUnit u fun x => { x with ctxs := x.ctxs.put b c }

/-- The context that is issuing. -/
def State.cur (s : State) : Ctx := s.ctxAt s.curU s.curB

/-- The context that is issuing, replaced. -/
def State.setCur (s : State) (c : Ctx) : State := s.setCtx s.curU s.curB c

/-- The context that is issuing, changed by `f`. -/
def State.updCur (s : State) (f : Ctx → Ctx) : State := s.setCur (f s.cur)

/-- The bank of unit `u` that holds the context named `cid`. -/
def UnitSt.bankOf (x : UnitSt) (cid : Nat) : Option Nat := (x.ctxs.find? fun e => e.2.cid == cid).map (·.1)

/-- Where a context of a die is, by its name: unit `u` and its bank, else the unit to which it has migrated and its bank; none in a save
slot (R236). -/
def State.homeOf (s : State) (u cid : Nat) : Option (Nat × Nat) :=
  match (s.unit u).bankOf cid with
  | some b => some (u, b)
  | none => s.units.findSome? fun x => if x.1 / 128 = u / 128 then (x.2.bankOf cid).map fun b => (x.1, b) else none

/-- A context by its name and the unit that it was on, changed by `f`: in a bank, or in a save slot of its die. -/
def State.updCid (s : State) (u cid : Nat) (f : Ctx → Ctx) : State :=
  match s.homeOf u cid with
  | some (v, b) => s.setCtx v b (f (s.ctxAt v b))
  | none => s.updDie (u / 128) fun d => { d with saved := d.saved.mapv fun c => if c.cid == cid then f c else c }

/-- A context by its name and the unit that it was on. -/
def State.byCid? (s : State) (u cid : Nat) : Option Ctx :=
  match s.homeOf u cid with
  | some (v, b) => some (s.ctxAt v b)
  | none => ((s.die (u / 128)).saved.find? fun e => e.2.cid == cid).map (·.2)

/-- The address of byte `off` of memory region `r` in the one byte memory. -/
def memKey (r off : Nat) : Nat := r * 2 ^ 52 + off

/-- Region of the HBM of die `d`. -/
def regHbm (d : Nat) : Nat := d
/-- Region of LP6 interface `i`. -/
def regLp6 (i : Nat) : Nat := 4 + i
/-- Region of host memory. -/
def regHost : Nat := 24
/-- Region of pad `p`. -/
def regPad (p : Nat) : Nat := 32 + p
/-- Region of the code region of cluster `c`. -/
def regCode (c : Nat) : Nat := 600 + c
/-- Region of the instruction scratchpad of unit `u`. -/
def regScratch (u : Nat) : Nat := 640 + u
/-- Region of accumulator bank `n` of unit `u`. -/
def regAcc (u n : Nat) : Nat := 1160 + u * 8 + n

/-- The home die of a PLACE 0 address (R152). -/
def homeDie (pa : Nat) : Nat := fld pa 12 2 ^^^ fld pa 20 2 ^^^ fld pa 28 2 ^^^ fld pa 36 2

/-- Where a physical address lies under a PLACE code (R152); none beyond the capacity of its tier and for PLACE 7 (R153). -/
def placeKey (place pa : Nat) : Option Nat :=
  match place with
  | 0 =>
    let off := pa / 2 ^ 14 * 2 ^ 12 + pa % 2 ^ 12
    if off < Config.hbmCap then some (memKey (regHbm (homeDie pa)) off) else none
  | 5 =>
    let g := pa / 2 ^ 12
    let off := g / 20 * 2 ^ 12 + pa % 2 ^ 12
    if off < Config.lp6Cap then some (memKey (regLp6 (g % 20)) off) else none
  | 6 => some (memKey regHost pa)
  | 7 => none
  | p => if pa < Config.hbmCap then some (memKey (regHbm (p - 1)) pa) else none

/-- The physical addresses, with their PLACE codes, that reach a place in global memory (R153). -/
def pasOf (key : Nat) : List (Nat × Nat) :=
  let r := key / 2 ^ 52
  let off := key % 2 ^ 52
  if r < 4 then
    let hi := off / 2 ^ 12 * 2 ^ 14 + off % 2 ^ 12
    [(r + 1, off), (0, hi + (r ^^^ homeDie hi) * 2 ^ 12)]
  else if r < 24 then [(5, (off / 2 ^ 12 * 20 + (r - 4)) * 2 ^ 12 + off % 2 ^ 12)]
  else [(6, off)]

/-- The active sealed regions that hold a place in global memory (R411). -/
def State.regionsAt (s : State) (key : Nat) : List (Nat × Region) :=
  s.sec.regions.filter fun e => (pasOf key).any fun p =>
    p.1 == e.2.place && decide (e.2.base ≤ p.2) && decide (p.2 < e.2.base + e.2.len)

/-- Die that a global place belongs to; none for host memory (R154). -/
def dieOfKey (key : Nat) : Option Nat :=
  let r := key / 2 ^ 52
  if r < 4 then some r else if r < 24 then some ((r - 4) / 5) else none

/-- The kinds of access (R146, R150). -/
inductive Kind where
  | read | write | atomic | exec
  deriving DecidableEq, Repr

/-- Who an access acts for: address space, owner key of its object, start-up mode, TOUCHSEAL of its scalar stores (R275, R412). -/
structure Who where
  unit : Nat
  space : Nat
  key : Option Bytes := none
  startup : Bool := false
  onlySealed : Bool := false
  referee : Bool := false
  deriving DecidableEq, Repr

/-- A translation that failed: XLATE reason and the level at which the walk stopped (R150). -/
structure XErr where
  reason : Nat
  level : Nat
  deriving DecidableEq, Repr

/-- The root of an address space, from QROOT's value: PLACE and address (R148, R238). -/
def rootOf (space : Nat) : Nat × Nat := (fld space 0 3, fld space 17 35 * 2 ^ 17)

/-- Lowest bit of a level's index, and the number of index bits (R148). -/
def lvlBits : Nat → Nat × Nat
  | 4 => (66, 14)
  | 3 => (53, 13)
  | 2 => (40, 13)
  | 1 => (27, 13)
  | _ => (16, 11)

/-- Page span of a leaf at a level, in bits (R148, R150). -/
def lvlSpan : Nat → Nat
  | 2 => 40
  | 1 => 27
  | _ => 16

/-- The walk of R150 through the levels listed, from table `t` in `pl`; the leaf as a buffer entry. -/
def walk (mem : Mem) (space va : Nat) : List Nat → Nat → Nat → Except XErr TlbEnt
  | [], _, _ => .error ⟨2, 0⟩
  | lvl :: ls, t, pl =>
    let (lo, n) := lvlBits lvl
    match placeKey pl (t + fld va lo n * 8) with
    | none => .error ⟨if pl = 7 then 3 else 4, lvl⟩
    | some k =>
      let e := leVal (mem.readN k 8)
      let frame := fld e 16 36
      let place := fld e 7 3
      if fld e 0 1 = 0 then .error ⟨0, lvl⟩
      else if place = 7 then .error ⟨3, lvl⟩
      else if fld e 52 12 ≠ 0 ∨ fld e 10 6 ≠ 0 then .error ⟨2, lvl⟩
      else if fld e 1 1 = 1 then
        let span := lvlSpan lvl
        if 3 ≤ lvl then .error ⟨2, lvl⟩
        else if frame % 2 ^ (span - 16) ≠ 0 then .error ⟨2, lvl⟩
        else .ok ⟨space, va / 2 ^ span * 2 ^ span, 2 ^ span, frame * 2 ^ 16, place, fld e 2 4, fld e 6 1 == 1⟩
      else if lvl = 0 ∨ fld e 2 5 ≠ 0 then .error ⟨2, lvl⟩
      else walk mem space va ls (frame * 2 ^ 16) place

/-- The places of the entries that the walk of R150 reads. -/
def walkPlaces (mem : Mem) (va : Nat) : List Nat → Nat → Nat → List Nat
  | [], _, _ => []
  | lvl :: ls, t, pl =>
    let (lo, n) := lvlBits lvl
    match placeKey pl (t + fld va lo n * 8) with
    | none => []
    | some k =>
      let e := leVal (mem.readN k 8)
      k :: if fld e 0 1 = 0 ∨ fld e 1 1 = 1 then [] else walkPlaces mem va ls (fld e 16 36 * 2 ^ 16) (fld e 7 3)

/-- Level of a leaf, from its page size. -/
def spanLevel (span : Nat) : Nat := if span = 2 ^ 40 then 2 else if span = 2 ^ 27 then 1 else 0

/-- Whether a leaf's permission bits R, W, A, X allow a kind (R150). -/
def permits (perm : Nat) : Kind → Bool
  | .read => bit perm 0
  | .write => bit perm 1
  | .atomic => bit perm 2
  | .exec => bit perm 3

/-- The 512-entry buffer with an entry added; the oldest leaves when it is full. DESIGN CHOICE (log 13). -/
def tlbAdd (l : List TlbEnt) (e : TlbEnt) : List TlbEnt :=
  if l.length < 512 then l ++ [e] else l.drop 1 ++ [e]

/-- The entry of a unit's translation buffer that holds an address (R151). -/
def State.tlbHit (s : State) (w : Who) (va : Nat) : Option TlbEnt :=
  (s.unit w.unit).tlb.find? fun e => e.space == w.space && decide (e.va ≤ va) && decide (va < e.va + e.span)

/-- The places of the table entries that an access to `n` bytes from `va` walks through (R150, R151). -/
def State.walkKeys (s : State) (w : Who) (va n : Nat) : List Nat :=
  (((List.range (n / 65536 + 1)).map fun i => va + 65536 * i) ++ [va + n - 1]).flatMap fun a =>
    if (s.tlbHit w a).isSome then [] else walkPlaces s.mem a [4, 3, 2, 1, 0] (rootOf w.space).2 (rootOf w.space).1

/-- Translates one byte: the buffer, else a walk; permission; capacity; then the sealed-page rules (R150-R153, R275, R411, R412).
Answers the place in memory and whether the page is sealed. A fault leaves nothing in the buffer. -/
def State.xlate (s : State) (w : Who) (kind : Kind) (va : Nat) : State × Except XErr (Nat × Bool) :=
  let x := s.unit w.unit
  let hit := s.tlbHit w va
  let (root, pl) := ((rootOf w.space).2, (rootOf w.space).1)
  let leaf : Except XErr TlbEnt := match hit with
    | some e => .ok e
    | none => walk s.mem w.space va [4, 3, 2, 1, 0] root pl
  match leaf with
  | .error e => (s, .error e)
  | .ok e =>
    let lvl := spanLevel e.span
    if !permits e.perm kind then (s, .error ⟨1, lvl⟩)
    else match placeKey e.place (e.pa + va % e.span) with
      | none => (s, .error ⟨4, lvl⟩)
      | some k =>
        let regs := s.regionsAt k
        if e.sealed != !regs.isEmpty then (s, .error ⟨1, lvl⟩)
        else if !regs.isEmpty && !w.referee && (w.startup || !regs.all fun r => some r.2.key == w.key) then (s, .error ⟨1, lvl⟩)
        else if w.onlySealed && !e.sealed && kind != Kind.read then (s, .error ⟨1, lvl⟩)
        else
          let s := if hit.isSome then s else s.setUnit w.unit { x with tlb := tlbAdd x.tlb e }
          (s, .ok (k, e.sealed))

/-- The places of `n` bytes from `va`: translated once within a 4 KiB granule, byte by byte across one. -/
def State.xlateN (s : State) (w : Who) (kind : Kind) (va : Nat) : Nat → State × Except (XErr × Nat) (List Nat × Bool)
  | 0 => (s, .ok ([], false))
  | n + 1 =>
    let (s, r) := s.xlate w kind va
    match r with
    | .error e => (s, .error (e, va))
    | .ok (k, sl) =>
      if va % 4096 + (n + 1) ≤ 4096 then (s, .ok ((List.range (n + 1)).map (k + ·), sl))
      else
        let (s, r) := s.xlateN w kind (va + 1) n
        match r with
        | .error e => (s, .error e)
        | .ok (ks, sl2) => (s, .ok (k :: ks, sl || sl2))

/-- Bytes at a list of places. -/
def Mem.readAt (m : Mem) (ks : List Nat) : Bytes := ks.map m.read

/-- Bytes written at a list of places. -/
def Mem.writeAt (m : Mem) : List Nat → Bytes → Mem
  | k :: ks, b :: bs => Mem.writeAt (m.writeN k [b]) ks bs
  | _, _ => m

/-- A fault of cause `c` and reason `r`. -/
def trapOf (c r : Nat) : Trap := { cause := c, reason := r }

/-- The footprint check of R146 on an element of `size` bytes at offset `off`. -/
def fpCheck (m : Map FpRec) (n off size : Nat) (kind : Kind) : Option Trap :=
  let r := fpOf m n
  let va := r.base + off
  if n = 0 ∨ r.len = 0 then some { cause := 0x11, reason := 0, vaddr := va }
  else if r.len < off + size then some { cause := 0x11, reason := 2, vaddr := va }
  else if r.mode = 3 ∧ kind ≠ .atomic then some { cause := 0x12, vaddr := va }
  else match kind with
    | .write => if r.mode = 1 ∨ r.mode = 2 then none else some { cause := 0x11, reason := 3, vaddr := va }
    | .atomic => if r.mode = 2 ∨ r.mode = 3 then none else some { cause := 0x11, reason := 3, vaddr := va }
    | _ => if r.mode = 0 ∨ r.mode = 2 ∨ r.mode = 3 then none else some { cause := 0x11, reason := 3, vaddr := va }

/-- The trap of a failed translation (R147, R228). -/
def xTrap (e : XErr) (va : Nat) : Trap := { cause := 0x10, reason := e.reason, vaddr := va, data := e.level }

/-- One checked and translated element (R146): its places and whether its page is sealed. Offsets are unbounded integers: one
below the record's base fails as beyond the record. -/
def State.element (s : State) (w : Who) (fps : Map FpRec) (n : Nat) (off : Int) (size : Nat) (kind : Kind) :
    State × Except Trap (List Nat × Bool) :=
  if off < 0 then
    match fpCheck fps n (2 ^ 80) size kind with
    | some t => (s, .error { t with vaddr := wrapN 80 ((fpOf fps n).base + off) })
    | none => (s, .error { cause := 0x11, reason := 2 })
  else
    let o := off.toNat
    match fpCheck fps n o size kind with
    | some t => (s, .error t)
    | none =>
      let (s, r) := s.xlateN w kind ((fpOf fps n).base + o) size
      match r with
      | .error (e, va) => (s, .error (xTrap e va))
      | .ok r =>
        -- a plain write reads nothing (R171)
        if kind ≠ .write ∧ r.1.any fun k => (s.gpoison.entry? (k / 64)).isSome then
          (s, .error { cause := 0x30, vaddr := (fpOf fps n).base + o })
        else (s, .ok r)

/-- Clears the synchronisation tags of the words a plain write touches (R185). -/
def State.clearTags (s : State) (ks : List Nat) : State :=
  { s with tags := s.tags.filter fun e => !(ks.any fun k => k / 8 == e.1) }

/-- A plain write at places of global memory (R185). A block that held an uncorrectable error (R171) holds it still. DESIGN CHOICE (log 114). -/
def State.writeGlobal (s : State) (ks : List Nat) (bs : Bytes) : State :=
  { (s.clearTags ks) with mem := s.mem.writeAt ks bs }

/-- Counts the 64-byte blocks of global places that a job touches for the first time (R154); `salt` tells parts of a job apart
that count by themselves. -/
def countBlocks (d salt : Nat) (seen : List Nat) : List Nat → List Nat × Nat × Nat
  | [] => (seen, 0, 0)
  | k :: ks =>
    let b := k / 64 + salt * 2 ^ 64
    let r := countBlocks d salt (if seen.contains b then seen else b :: seen) ks
    if seen.contains b then r
    else match dieOfKey k with
      | none => r
      | some h => if h = d then (r.1, r.2.1 + 1, r.2.2) else (r.1, r.2.1, r.2.2 + 1)

/-- Adds requests to a die's counters (R154). -/
def State.addReqs (s : State) (d loc rem : Nat) : State :=
  s.updDie d fun x => { x with locReq := (x.locReq + loc) % 2 ^ 64, remReq := (x.remReq + rem) % 2 ^ 64 }

/-- An access of a die's engine to places of global memory counts each block once (R154). -/
def State.countVA (s : State) (d : Nat) (ks : List Nat) : State :=
  let r := countBlocks d 0 [] ks
  s.addReqs d r.2.1 r.2.2

/-- The places of bytes from `va` on, translated without a footprint check; none when a byte does not translate. -/
def State.keysVA (s : State) (w : Who) (kind : Kind) (va : Nat) : Nat → State × Option (List Nat)
  | 0 => (s, some [])
  | n + 1 =>
    let (s, r) := s.xlate w kind va
    match r with
    | .error _ => (s, none)
    | .ok (k, _) =>
      let (s, r) := s.keysVA w kind (va + 1) n
      (s, r.map fun ks => k :: ks)

/-- The address space of a queue (R123, R148). -/
def State.space (s : State) (d q : Nat) : Nat := (s.queue d q).root

/-- Who the graph engine and the packets of a queue act for. Their translations are kept in the buffer of the die's unit 0. DESIGN CHOICE
(log 88). -/
def State.whoQ (s : State) (d q : Nat) : Who := { unit := d * 128, space := s.space d q }

/-- Who a context acts for: its queue's space, its object's owner key (R412). -/
def State.whoCtx (s : State) (u : Nat) (c : Ctx) : Who :=
  { unit := u, space := s.space c.die c.queue
    key := ((s.die c.die).objs.entry? c.obj).bind (·.key), startup := c.startup }

end Sys2Proof.Machine
end

