-- ==== Sys2Proof/Machine/Air.lean ====
section
/-!
DEFINITION. Writes on their way to their homes: what each does when it arrives, which party must find it before, and how the engines of a
die reach bytes that tasks write (07_consistency.md R172, R173, R176, R182-R185; 13 R276-R283; 24 R422, R423).
-/
namespace Sys2Proof.Machine

/-! ## The jobs of a unit -/

/-- A job of a unit changed by `f`. -/
def State.updJob (s : State) (u jid : Nat) (f : Job → Job) : State :=
  s.updUnit u fun x => { x with jobs := x.jobs.map fun j => if j.jid = jid then f j else j }

/-- A job of a unit. -/
def State.job? (s : State) (u jid : Nat) : Option Job := (s.unit u).jobs.find? fun j => j.jid == jid

/-- A job of a unit replaced. -/
def State.putJob (s : State) (u : Nat) (j : Job) : State := s.updJob u j.jid fun _ => j

/-- Elements of a sample's tile. -/
def shCount (m : Map Word) : Nat := shF m 16 * shF m 17

/-- Element width of a sample. -/
def shWidth (m : Map Word) : Nat := widthOf (shF m 2)

/-- Kinds that write global memory. -/
def JobKind.out : JobKind → Bool
  | .copyOut | .copyAcc | .scatter | .stg | .atomic => true
  | _ => false

/-- The elements of an out job that it has yet to check and send to their homes (R274). -/
def Job.rest (j : Job) : List Nat := (List.range (shCount j.shape)).drop j.next

/-! ## Elements on their way -/

/-- A range of bytes for the order of R180: its first byte and its length. -/
abbrev Span := Nat × Nat

/-- Whether two ranges share a byte. -/
def Span.meets (a b : Span) : Bool := decide (a.1 < b.1 + b.2) && decide (b.1 < a.1 + a.2)

/-- Whether two jobs that reach these places, one of them writing, must keep their order (R180). -/
def clash (wa wb : Bool) (a b : List Span) : Bool := (wa || wb) && a.any fun x => b.any fun y => x.meets y

/-- The bytes of an element on its way. -/
def Air.spans (a : Air) : List Span := a.keys.map fun k => (k, 1)

/-- The elements of a job on their way that reach some bytes. -/
def Job.airOver (j : Job) (ks : List Span) : List Air := j.air.filter fun a => clash true true a.spans ks

/-- The jobs with writes on their way, each with its unit. -/
def State.aloft (s : State) : List (Nat × Job) :=
  s.units.flatMap fun x => (x.2.jobs.filter fun i => i.air != []).map fun i => (x.1, i)

/-- The bytes of a place span. -/
def placeSpans (ks : List Nat) (n : Nat) : List Span := ks.map fun k => (k, n)

/-! ## Scopes -/

/-- The instance of unit `u` at a scope (R172). -/
def scopeInst (scope u : Nat) : Nat :=
  match scope with
  | 0 => u
  | 1 => u / 16
  | 2 => u / 128
  | _ => 0

/-- The inclusion tests of R183 between a release named by a tag and an acquire of scope `sc` by unit `u`; true when the tag
names none (R185). -/
def tagIncludes (tag sc u : Nat) : Bool :=
  let rs := fld tag 9 3
  let p := fld tag 0 9
  rs == 7 || (scopeInst rs p == scopeInst rs u && scopeInst sc p == scopeInst sc u)

/-- Whether a mark's instance of its scope holds a unit (R172). -/
def Mark.covers (m : Mark) (u : Nat) : Bool := scopeInst m.scope u == scopeInst m.scope m.unit

/-- Whether a context of unit `u` must find the writes of a job when it reads their bytes: its own, those of a release that it has synchronised
with, those that stand as performed at a scope that holds it and whose release it has not dropped (R173, R180, R183-R185). -/
def Job.seenBy (j : Job) (u cid : Nat) : Bool :=
  j.cid == cid || (j.seers.any fun x => x.1 == cid) || j.marks.any fun m => m.covers u && !m.dropped.contains cid

/-- The graph engine of a die is a party from die scope on (R172). -/
def Job.seenByDie (j : Job) (d : Nat) : Bool := j.marks.any fun m => decide (2 ≤ m.scope) && m.covers (128 * d)

/-- The engines of a unit, and those of its die as parties of the die, find what stands as performed at a scope that holds them (R172, R173). -/
def Job.seenByUnit (j : Job) (u : Nat) : Bool := j.marks.any fun m => m.covers u

/-- The writes of a job as an acquire of a context at scope `sc` finds them, whose read has the tag of a word: the context synchronises with
the releases behind the job that it has read and that it includes; the release that the tag names, out of its scope, is dropped unless
the context has synchronised with the job before (R183, R185). Of a relaxed atomic before a FENCE, `late`, the releases are those that its own read
found. -/
def Job.acquired (j : Job) (u cid sc word tag : Nat) (late : Bool) : Job :=
  let heard (m : Mark) : Bool := if late then m.read.contains (cid, word) else m.word == some word
  let got := (j.marks.filter fun m => heard m && scopeInst m.scope u == scopeInst m.scope m.unit &&
    scopeInst sc u == scopeInst sc m.unit).map fun m => min m.scope sc
  let seer := (cid, got.foldl max 0)
  let drop (m : Mark) : Mark := if heard m ∧ m.unit = fld tag 0 9 ∧ m.scope = fld tag 9 3 then { m with dropped := cid :: m.dropped } else m
  if got ≠ [] then { j with seers := if j.seers.contains seer then j.seers else seer :: j.seers }
  else if tagIncludes tag sc u || (j.seers.any fun x => x.1 == cid) then j
  else { j with marks := j.marks.map drop }

/-- The jobs with writes on their way, but those of a context itself, changed by `f`. -/
def State.othersAloft (s : State) (cid : Nat) (f : Job → Job) : State :=
  { s with units := s.units.mapv fun x => { x with jobs := x.jobs.map fun j => if j.air = [] ∨ j.cid = cid then j else f j } }

/-- An acquire of a context takes effect (R183-R185). -/
def State.acquire (s : State) (u cid sc word tag : Nat) (late : Bool) : State :=
  if fld tag 9 3 = 7 then s else s.othersAloft cid fun j => j.acquired u cid sc word tag late

/-- A relaxed atomic of a context has read a word whose tag names a release: each FENCE that comes takes the acquire role for it (R184, R185). -/
def State.noteRead (s : State) (u cid word tag : Nat) : State :=
  if fld tag 9 3 = 7 then s
  else (s.updCid u cid fun c => { c with rlx := if c.rlx.contains (word, tag) then c.rlx else c.rlx ++ [(word, tag)] }).othersAloft cid
    fun j => { j with marks := j.marks.map fun m => if m.word = some word then { m with read := (cid, word) :: m.read } else m }

/-! ## What an element does at its home -/

/-- The inline reduce of R277: memory's element `m`, the tile's `v`; kinds 1 add, 2 max, 3 min. -/
def reduceVal (fmt red m v : Nat) : Flagged Nat :=
  match fltOf fmt with
  | some f =>
    let x := fltVal f m
    let y := fltVal f v
    if red = 1 then
      let (t, f1) := XR.add false x y
      let (r, f2) := toFlt f 0 false t
      (r, f1 ||| f2)
    else if x = .nan ∨ y = .nan then toFlt f 0 false .nan
    else if XR.below x y then (if red = 2 then v else m, 0)
    else (if red = 2 then m else v, 0)
  | none =>
    let x := intVal fmt m
    let y := intVal fmt v
    if red = 1 then
      let (lo, hi) := (intRange fmt).getD (0, 0)
      (wrapN (widthOf fmt) (x + y), if x + y < lo ∨ hi < x + y then fIOV else 0)
    else if x < y then (if red = 2 then v else m, 0)
    else (if red = 2 then m else v, 0)

/-- The reduce kind that an out job's operation names (R273). -/
def redOf : Instr → Nat
  | .copyout _ _ _ _ red _ => red
  | .scatter _ _ _ _ _ _ red _ => red
  | _ => 0

/-- An element of a copy-out or scatter at its home, written or reduced (R276-R279). -/
def State.writeEl (s : State) (j : Job) (a : Air) : State × Job :=
  let w := shWidth j.shape
  let red := redOf j.instr
  let old := leVal (s.mem.readAt a.keys)
  let m := old / 2 ^ a.bit % 2 ^ w
  let (x, f) := if red = 0 then (a.val, 0) else reduceVal (shF j.shape 2) red m a.val
  let new := old - m * 2 ^ a.bit + x % 2 ^ w * 2 ^ a.bit
  (s.writeGlobal a.keys (leBytes a.keys.length new),
    { j with flags := j.flags ||| f, stored := j.stored.put a.idx x
             readBefore := if red = 0 then j.readBefore else j.readBefore.put a.idx m })

/-- The synchronisation tag of a word (R185). -/
def State.tagOf (s : State) (word : Nat) : Nat := s.tags.look word 0xE00

/-- The result of an atomic on the old value: what it writes, if it does, and what it returns (R282). -/
def atomResult (i : Instr) (w old b cmp : Nat) : Option Nat × Nat :=
  let x := sext w old
  let y := sext w (b % 2 ^ w)
  let b := b % 2 ^ w
  match i with
  | .cas .. => (if old = cmp % 2 ^ w then some b else none, old)
  | .atom _ _ _ _ _ aop .. =>
    match aop with
    | 0 => (some ((old + b) % 2 ^ w), old)
    | 1 => (some (old &&& b), old)
    | 2 => (some (old ||| b), old)
    | 3 => (some (old ^^^ b), old)
    | 4 => (some (if y < x then b else old), wrapN 64 x)
    | 5 => (some (if x < y then b else old), wrapN 64 x)
    | 6 => (some (min old b), old)
    | 7 => (some (max old b), old)
    | _ => (some b, old)
  | _ => (none, old)

/-- An atomic at its home (R182-R185, R282, R283): `phase` is its order code, `bank` its scope. What it returns stays with the job until it
completes (R181). -/
def State.atomicAt (s : State) (u : Nat) (j : Job) (ks : List Nat) : State × Job :=
  let old := leVal (s.mem.readAt ks)
  let (new, res) := atomResult j.instr (8 * j.arr) old j.b j.c
  let k := ks.headD 0
  let host := k / 2 ^ 52 == regHost
  let tag := if host then 0xE00 else s.tagOf (k / 8)
  let acquires := j.phase % 2 == 1
  let s := if acquires then s.acquire u j.cid j.bank (k / 8) tag false
    else if j.phase = 0 ∧ !j.tagRead then s.noteRead u j.cid (k / 8) tag else s
  let s := match new with
    | some v =>
      let s := { s with mem := s.mem.writeAt ks (leBytes j.arr v) }
      if decide (2 ≤ j.phase) && !host then { s with tags := s.tags.put (k / 8) (j.bank * 2 ^ 9 + u) } else s
    | none => s
  (s, { j with res := res, flags := j.flags ||| (if acquires && !tagIncludes tag j.bank u then fSCOPEMISS else 0) })

/-- An element of an out job arrives at its home and is performed for every party of the module (R173). -/
def State.land (s : State) (u : Nat) (j : Job) (a : Air) : State × Job :=
  match j.kind with
  | .atomic => s.atomicAt u j a.keys
  | .stg => (s.writeGlobal a.keys (leBytes j.arr j.b), j)
  | _ => s.writeEl j a

/-! ## Arrival -/

/-- The elements of a job that reach some bytes arrive at their homes, in order; with the last of all the job has been performed. -/
def State.landAir (s : State) (u jid : Nat) (ks : List Span) : State :=
  match s.job? u jid with
  | none => s
  | some j =>
    let (now, later) := j.air.partition fun a => clash true true a.spans ks
    let (s, j) := now.reverse.foldl (fun r a => r.1.land u r.2 a) (s, { j with air := later })
    s.putJob u { j with performed := j.performed || (later.isEmpty && j.rest.isEmpty) }

/-- The elements of a job that reach some bytes arrive, behind those of the jobs whose writes to the same bytes come first (R182); the first
argument bounds the chain of those. -/
def State.landOver : Nat → State → Nat → Nat → List Span → State
  | 0, s, _, _, _ => s
  | n + 1, s, u, jid, ks =>
    match s.job? u jid with
    | none => s
    | some j =>
      let ks := (j.airOver ks).flatMap Air.spans
      if ks = [] then s
      else ((s.aloft.filter fun i => j.after.contains i.2.jid).foldl (fun s i => State.landOver n s i.1 i.2.jid ks) s).landAir u jid ks

/-- The writes on their way that a party must find at some bytes arrive (R173). -/
def State.landSeen (s : State) (sees : Job → Bool) (ks : List Span) : State :=
  let js := s.aloft
  js.foldl (fun s i => if sees i.2 then State.landOver (js.length + 1) s i.1 i.2.jid ks else s) s

/-- The jobs on their way that come before some jobs, directly or through others, and these; the first argument bounds the chain. -/
def State.behind (s : State) : Nat → List Nat → List Nat
  | 0, js => js
  | n + 1, js => s.behind n (js ++ ((s.aloft.filter fun i => js.contains i.2.jid).flatMap fun i => i.2.after).filter fun k => !js.contains k)

/-- Job `a` of the jobs on their way comes before `b` from now on, unless it comes after it. -/
def State.orderAir (s : State) (a : Job) (b : Nat × Job) : State :=
  if (s.behind s.aloft.length [a.jid]).contains b.2.jid then s
  else s.updJob b.1 b.2.jid fun j => { j with after := a.jid :: j.after }

/-- A release of a word that no release names any more begins anew: what stands as performed by releases of it before is theirs alone (R183,
R185). -/
def State.cutWord (s : State) (w : Nat) : State :=
  let cut (m : Mark) : Mark := if m.word = some w then { m with word := none } else m
  { s with units := s.units.mapv fun x => { x with jobs := x.jobs.map fun j => { j with marks := j.marks.map cut } } }

/-- The writes on their way of a context's jobs before `jid` stand as performed at a scope, and those that it has synchronised with stand so
for the parties that the narrower of the scopes holds, by a release but for those that have dropped them before; what the parties there have
on its way to the same bytes comes behind (R173, R183, R184, R423). -/
def State.mark (s : State) (u cid jid sc : Nat) (word : Option Nat) : State :=
  let s := match word with
    | some w => if fld (s.tagOf w) 9 3 = 7 then s.cutWord w else s
    | none => s
  let js := s.aloft
  let mine := js.filter fun i => i.2.cid == cid && decide (i.2.jid < jid)
  let add (i : Nat × Job) (s : State) (m : Mark) : State :=
    s.updJob i.1 i.2.jid fun j => if j.marks.contains m then j else { j with marks := m :: j.marks }
  let not' (i : Nat × Job) : List Nat := if word.isSome then (i.2.marks.flatMap (·.dropped)).eraseDups else []
  let s := mine.foldl (fun s i => add i s { unit := u, scope := sc, word := word }) s
  let s := js.foldl (fun s i => (i.2.seers.filter fun x => x.1 == cid).foldl (fun s x =>
    add i s { unit := u, scope := min sc x.2, word := word, dropped := not' i }) s) s
  mine.foldl (fun s i => js.foldl (fun s o =>
    if o.2.cid != cid && scopeInst sc o.1 == scopeInst sc u && (i.2.airOver (o.2.air.flatMap Air.spans)) != [] then s.orderAir i.2 o else s) s) s

/-- What an engine is to find at some places arrives before it writes there, and so does a relaxed atomic whose tag a FENCE has read (R173,
R182, R185). -/
def State.showWrite (s : State) (sees : Job → Bool) (ks : List Nat) : State :=
  s.landSeen (fun j => sees j || j.tagRead) (placeSpans ks 1)

/-! ## Bytes that engines reach -/

/-- The places of bytes that an engine reaches from `va` on, translated without a footprint check: it finds there, and in the tables that it
walks, the writes that it is to see (R150, R173). None when a byte does not translate. -/
def State.reachVA (s : State) (sees : Job → Bool) (w : Who) (kind : Kind) (va n : Nat) : State × Option (List Nat) :=
  match (s.landSeen sees (placeSpans (s.walkKeys w va n) 8)).keysVA w kind va n with
  | (s, none) => (s, none)
  | (s, some ks) => (if kind = .write then s.showWrite sees ks else s.landSeen sees (placeSpans ks 1), some ks)

/-- Bytes from `va` on, translated for a read without a footprint check: what the graph engine and the host's packets read
(R220, R403). None when a byte does not translate. -/
def State.readVA (s : State) (w : Who) (va n : Nat) : State × Option Bytes :=
  match s.reachVA (·.seenByDie (w.unit / 128)) w .read va n with
  | (s, none) => (s, none)
  | (s, some ks) => (s.countVA (w.unit / 128) ks, some (s.mem.readAt ks))

/-- Writes bytes from `va` on, all or none, translated for a write without a footprint check: a plain write (R185). -/
def State.writeVA (s : State) (w : Who) (va : Nat) (bs : Bytes) : State × Bool :=
  match s.reachVA (·.seenByUnit w.unit) w .write va bs.length with
  | (s, none) => (s, false)
  | (s, some ks) => ((s.countVA (w.unit / 128) ks).writeGlobal ks bs, true)

/-- A plain write of an engine of die `d` at places of global memory that it reaches without a translation (R154, R173, R185). -/
def State.dieWrite (s : State) (d : Nat) (ks : List Nat) (bs : Bytes) : State :=
  ((s.showWrite (·.seenByDie d) ks).countVA d ks).writeGlobal ks bs

/-- Whether a job has read one of some places. -/
def Job.hasRead (j : Job) (ks : List Nat) : Bool := ks.any fun k => j.seen.any fun r => decide (r.1 ≤ k) && decide (k < r.1 + r.2)

/-- The bytes at some places join those that a job holds as it has found them. -/
def State.holdBytes (s : State) (ks : List Nat) (v : Map Byte) : Map Byte :=
  ks.foldl (fun v k => if (v.entry? k).isSome then v else v.put k (s.mem.read k)) v

/-- A job that has read part of a record reads the rest as it stood before an engine writes it again, so that it finds the whole old record
(R176, R189). -/
def State.keepOld (s : State) (ks : List Nat) : State :=
  let keep (j : Job) : Job := if j.hasRead ks then { j with view := s.holdBytes ks j.view } else j
  { s with units := s.units.mapv fun x => { x with jobs := x.jobs.map keep } }

/-- A record that an engine writes for no task, from `va` on: one indivisible write (R176). -/
def State.writeRec (s : State) (w : Who) (va : Nat) (bs : Bytes) : State × Bool :=
  match s.reachVA (·.seenByDie (w.unit / 128)) w .write va bs.length with
  | (s, none) => (s, false)
  | (s, some ks) => (((s.countVA (w.unit / 128) ks).keepOld ks).writeGlobal ks bs, true)

end Sys2Proof.Machine
end

