-- ==== Sys2Proof/Machine/Crypto.lean ====
section
/-!
DEFINITION. The algorithms that R23 (01_machine.md) names by their standards: ML-KEM-1024 (FIPS 203), ML-DSA-87 (FIPS 204) and
AES-256-GCM (FIPS 197 and SP 800-38D). Their text is the standards'. PRESUMED (log 7).
-/
namespace Sys2Proof.Machine

/-! ## Polynomials modulo q -/

/-- A polynomial of 256 coefficients, each below its modulus, or the same in the transform's domain. -/
abbrev Poly := List Nat

/-- `b` to the power `e` modulo `q`; the first argument bounds the bits of `e`. -/
def powMod (q b : Nat) : Nat → Nat → Nat
  | 0, _ => 1
  | f + 1, e => if e = 0 then 1 else (if e % 2 = 1 then b else 1) * powMod q (b * b % q) f (e / 2) % q

/-- The low `n` bits of `v` in reverse order. -/
def revBits : Nat → Nat → Nat
  | 0, _ => 0
  | n + 1, v => v % 2 * 2 ^ n + revBits n (v / 2)

/-- Sum of polynomials. -/
def polyAdd (q : Nat) (a b : Poly) : Poly := a.zipWith (fun x y => (x + y) % q) b

/-- Difference of polynomials. -/
def polySub (q : Nat) (a b : Poly) : Poly := a.zipWith (fun x y => (x + q - y) % q) b

/-- A polynomial times a number. -/
def polyScale (q c : Nat) (a : Poly) : Poly := a.map fun x => c * x % q

/-- The number-theoretic transform by halves: `zs` holds the factor of each node, node `k` has the children `2k` and `2k + 1`. -/
def nttAt (q : Nat) (zs : Array Nat) : Nat → Nat → Poly → Poly
  | 0, _, f => f
  | d + 1, k, f =>
    let n := f.length / 2
    let lo := f.take n
    let t := polyScale q (zs.getD k 0) (f.drop n)
    nttAt q zs d (2 * k) (polyAdd q lo t) ++ nttAt q zs d (2 * k + 1) (polySub q lo t)

/-- The transform undone but for the factor of its length: `zs` holds the inverses of the factors. -/
def inttAt (q : Nat) (zs : Array Nat) : Nat → Nat → Poly → Poly
  | 0, _, f => f
  | d + 1, k, f =>
    let n := f.length / 2
    let a := inttAt q zs d (2 * k) (f.take n)
    let b := inttAt q zs d (2 * k + 1) (f.drop n)
    polyAdd q a b ++ polyScale q (zs.getD k 0) (polySub q a b)

/-- The factors of a transform of `d` layers from the root of unity `z`. -/
def nttZetas (q z d : Nat) : Array Nat := ((List.range (2 ^ d)).map fun k => powMod q z 32 (revBits d k)).toArray

/-- Their inverses. -/
def inttZetas (q z d : Nat) : Array Nat := (nttZetas q z d).map fun x => powMod q x 32 (q - 2)

/-- The sum of the products of the entries of two vectors. -/
def polyDot (q : Nat) (mul : Poly → Poly → Poly) (a b : List Poly) : Poly :=
  (a.zipWith mul b).foldl (polyAdd q) (List.replicate 256 0)

/-- Coefficients of `w` bits read from a byte string. -/
def bitUnpack (w : Nat) (b : Bytes) : List Nat := elems w (8 * b.length / w) b

/-- Coefficients drawn from a sponge, block by block, until there are 256: `draw` gives those of a block. -/
def drawPoly (rate : Nat) (draw : Bytes → List Nat) : Nat → List Nat → List Nat → Poly
  | 0, _, acc => (acc ++ List.replicate 256 0).take 256
  | n + 1, a, acc =>
    if 256 ≤ acc.length then acc.take 256 else drawPoly rate draw n (keccakF a) (acc ++ draw ((laneBytes a).take rate))

/-- Groups of three bytes of a block. -/
def threes : Nat → Bytes → List (Nat × Nat × Nat)
  | 0, _ => []
  | n + 1, b => (leAt b 0 1, leAt b 1 1, leAt b 2 1) :: threes n (b.drop 3)

/-- The vectors of a byte string, `n` bytes each. -/
def pieces (n : Nat) : Nat → Bytes → List Bytes
  | 0, _ => []
  | k + 1, b => slice b 0 n :: pieces n k (b.drop n)

/-! ## ML-KEM-1024 (FIPS 203) -/

namespace Kem

/-- The modulus. -/
def q : Nat := 3329

/-- The transform's factors. -/
def zetas : Array Nat := nttZetas q 17 7

/-- Their inverses. -/
def zetasInv : Array Nat := inttZetas q 17 7

/-- The transform. -/
def ntt (f : Poly) : Poly := nttAt q zetas 7 1 f

/-- The inverse transform. -/
def intt (f : Poly) : Poly := polyScale q 3303 (inttAt q zetasInv 7 1 f)

/-- Products of pairs of coefficients, each pair modulo X^2 - gamma. -/
def mulPairs : Nat → Poly → Poly → Poly
  | k, a0 :: a1 :: as, b0 :: b1 :: bs =>
    let g := powMod q 17 32 (2 * revBits 7 k + 1)
    (a0 * b0 + a1 * b1 % q * g) % q :: (a0 * b1 + a1 * b0) % q :: mulPairs (k + 1) as bs
  | _, _, _ => []

/-- The product in the transform's domain. -/
def mul (a b : Poly) : Poly := mulPairs 0 a b

/-- An entry of the matrix, from 34 bytes (SampleNTT). -/
def sample (seed : Bytes) : Poly :=
  drawPoly 168 (fun b => (threes 56 b).flatMap fun x =>
    [x.1 + 256 * (x.2.1 % 16), x.2.1 / 16 + 16 * x.2.2].filter (· < q)) 64 (spongeState 168 0x1F seed) []

/-- A polynomial of small coefficients from 128 bytes (SamplePolyCBD with eta 2). -/
def cbd (b : Bytes) : Poly :=
  (bitUnpack 4 b).map fun v => (v % 2 + v / 2 % 2 + q - v / 4 % 2 - v / 8 % 2) % q

/-- A small polynomial from a seed and a count. -/
def noise (seed : Bytes) (n : Nat) : Poly := cbd (shake256 128 (seed ++ leBytes 1 n))

/-- Rows of the matrix from its seed, or columns. -/
def matrix (rho : Bytes) (transposed : Bool) : List (List Poly) :=
  (List.range 4).map fun i => (List.range 4).map fun j =>
    sample (rho ++ if transposed then leBytes 1 i ++ leBytes 1 j else leBytes 1 j ++ leBytes 1 i)

/-- Compress and Decompress to `d` bits. -/
def compress (d x : Nat) : Nat := (2 ^ (d + 1) * x + q) / (2 * q) % 2 ^ d

/-- A coefficient from its `d` bits. -/
def decompress (d y : Nat) : Nat := (2 * q * y + 2 ^ d) / 2 ^ (d + 1)

/-- The key pair of the 64-byte seed d ‖ z: the decryption key, the encapsulation key, z (KeyGen). -/
def keyGen (seed : Bytes) : List Poly × Bytes × Bytes :=
  let g := sha3_512 (slice seed 0 32 ++ [4])
  let rho := g.take 32
  let sig := g.drop 32
  let s := (List.range 4).map fun n => ntt (noise sig n)
  let e := (List.range 4).map fun n => ntt (noise sig (4 + n))
  let t := (matrix rho false).zipWith (fun row x => polyAdd q (polyDot q mul row s) x) e
  (s, t.flatMap (pack 12) ++ rho, slice seed 32 32)

/-- The capsule of message `m` under an encapsulation key with randomness `r` (K-PKE.Encrypt). -/
def encrypt (ek m r : Bytes) : Bytes :=
  let t := (pieces 384 4 ek).map fun b => (bitUnpack 12 b).map (· % q)
  let rho := slice ek 1536 32
  let y := (List.range 4).map fun n => ntt (noise r n)
  let u := (matrix rho true).zipWith (fun row n => polyAdd q (intt (polyDot q mul row y)) (noise r (4 + n))) (List.range 4)
  let v := polyAdd q (polyAdd q (intt (polyDot q mul t y)) (noise r 8)) ((bitUnpack 1 m).map (decompress 1))
  u.flatMap (fun x => pack 11 (x.map (compress 11))) ++ pack 5 (v.map (compress 5))

/-- The message of a capsule (K-PKE.Decrypt). -/
def decrypt (s : List Poly) (c : Bytes) : Bytes :=
  let u := (pieces 352 4 c).map fun b => (bitUnpack 11 b).map (decompress 11)
  let v := (bitUnpack 5 (slice c 1408 160)).map (decompress 5)
  pack 1 ((polySub q v (intt (polyDot q mul s (u.map ntt)))).map (compress 1))

end Kem

/-- The data key of an ML-KEM-1024 capsule under the key pair of a 64-byte seed. A capsule that is not one of that key pair, for which
FIPS 203 answers a key that nobody knows, has none here: R413 ends the import at that step (R408, R413). DEDUCED (log 7). -/
def mlkemDecaps (seed c : Bytes) : Option Bytes :=
  let k := Kem.keyGen seed
  let m := Kem.decrypt k.1 c
  let g := sha3_512 (m ++ sha3_256 k.2.1)
  if c.length = 1568 ∧ Kem.encrypt k.2.1 m (g.drop 32) = c then some (g.take 32) else none

/-! ## ML-DSA-87 (FIPS 204) -/

namespace Dsa

/-- The modulus. -/
def q : Nat := 8380417

/-- The transform's factors. -/
def zetas : Array Nat := nttZetas q 1753 8

/-- Their inverses. -/
def zetasInv : Array Nat := inttZetas q 1753 8

/-- The transform. -/
def ntt (f : Poly) : Poly := nttAt q zetas 8 1 f

/-- The inverse transform. -/
def intt (f : Poly) : Poly := polyScale q 8347681 (inttAt q zetasInv 8 1 f)

/-- The product in the transform's domain. -/
def mul (a b : Poly) : Poly := a.zipWith (fun x y => x * y % q) b

/-- gamma1, gamma2 and beta. -/
def gamma1 : Nat := 2 ^ 19

/-- gamma2. -/
def gamma2 : Nat := 261888

/-- beta. -/
def beta : Nat := 120

/-- An entry of the matrix (RejNTTPoly). -/
def rejNtt (seed : Bytes) : Poly :=
  drawPoly 168 (fun b => ((threes 56 b).map fun x => x.1 + 256 * x.2.1 + 65536 * (x.2.2 % 128)).filter (· < q)) 64
    (spongeState 168 0x1F seed) []

/-- A secret polynomial with coefficients from -2 to 2 (RejBoundedPoly). -/
def rejBounded (seed : Bytes) : Poly :=
  drawPoly 136 (fun b => ((bitUnpack 4 b).filter (· < 15)).map fun x => (q + 2 - x % 5) % q) 64 (spongeState 136 0x1F seed) []

/-- The matrix of a seed (ExpandA). -/
def matrix (rho : Bytes) : List (List Poly) :=
  (List.range 8).map fun r => (List.range 7).map fun s => rejNtt (rho ++ leBytes 1 s ++ leBytes 1 r)

/-- The places of the bytes of a stream, for i from `i` on, that are at most i (SampleInBall). -/
def ballSteps (h : Nat) : Nat → Nat → Bytes → Poly → Poly
  | 0, _, _, c => c
  | _, _, [], c => c
  | f + 1, i, b :: bs, c =>
    if 256 ≤ i then c
    else if i < b.toNat then ballSteps h f i bs c
    else
      let c := c.set i (nth c b.toNat)
      ballSteps h f (i + 1) bs (c.set b.toNat (if h / 2 ^ (i - 196) % 2 = 1 then q - 1 else 1))

/-- The challenge polynomial of 60 coefficients 1 and -1 (SampleInBall). -/
def ball (seed : Bytes) : Poly :=
  let b := shake256 (136 * 32) seed
  ballSteps (leAt b 0 8) b.length 196 (b.drop 8) (List.replicate 256 0)

/-- The residue of a coefficient nearest 0 modulo `m`, as a number (mod±). -/
def near (m r : Nat) : Int := let x := r % m; if 2 * x ≤ m then (x : Int) else (x : Int) - m

/-- The size of a coefficient modulo q. -/
def size (x : Nat) : Nat := (near q x).natAbs

/-- Whether every coefficient is smaller than a bound. -/
def within (b : Nat) (v : List Poly) : Bool := v.all fun f => f.all fun x => decide (size x < b)

/-- A coefficient in its high part and its low part (Decompose). -/
def decompose (r : Nat) : Nat × Int :=
  let r0 := near (2 * gamma2) r
  if (r : Int) - r0 = q - 1 then (0, r0 - 1) else (((r : Int) - r0).toNat / (2 * gamma2), r0)

/-- The high part that a hint corrects (UseHint). -/
def useHint (h : Bool) (r : Nat) : Nat :=
  let d := decompose r
  if h then if 0 < d.2 then (d.1 + 1) % 16 else (d.1 + 15) % 16 else d.1

/-- A coefficient as its residue. -/
def residue (x : Int) : Nat := (x % q).toNat

/-- The secret key of a seed with the public key: the matrix, K, tr, s1, s2, t0 and the public key (KeyGen). -/
structure Key where
  a : List (List Poly)
  k : Bytes
  tr : Bytes
  s1 : List Poly
  s2 : List Poly
  t0 : List Poly
  pk : Bytes

/-- The key pair of a 32-byte seed (KeyGen). -/
def keyGen (xi : Bytes) : Key :=
  let h := shake256 128 (slice xi 0 32 ++ [8, 7])
  let rho := h.take 32
  let rho' := slice h 32 64
  let a := matrix rho
  let s1 := (List.range 7).map fun r => rejBounded (rho' ++ leBytes 2 r)
  let s2 := (List.range 8).map fun r => rejBounded (rho' ++ leBytes 2 (7 + r))
  let s1h := s1.map ntt
  let t := (a.map fun row => intt (polyDot q mul row s1h)).zipWith (polyAdd q) s2
  let low := fun x : Nat => near (2 ^ 13) x
  let t1 := t.map fun f => f.map fun x : Nat => ((x : Int) - low x).toNat / 2 ^ 13
  let pk := rho ++ t1.flatMap (pack 10)
  { a := a, k := slice h 96 32, tr := shake256 64 pk, s1 := s1, s2 := s2, t0 := t.map fun f => f.map fun x => residue (low x), pk := pk }

/-- The 83 bytes of a hint (HintBitPack). -/
def hintPack (h : List (List Bool)) : Bytes :=
  let at' := h.map fun f => (List.range 256).filter fun j => f.getD j false
  padTo 75 (at'.flatten.map (BitVec.ofNat 8)) ++ (List.range 8).map fun i => BitVec.ofNat 8 ((at'.take (i + 1)).flatten.length)

/-- The places of a hint from its bytes, a polynomial at a time; none when malformed (HintBitUnpack). -/
def hintAt (y ends : Bytes) : Nat → Nat → Option (List (List Nat))
  | 0, i => if allZero (y.drop i) then some [] else none
  | n + 1, i =>
    let e := (nth (ends.map BitVec.toNat) (8 - (n + 1)))
    let js := ((y.take e).drop i).map BitVec.toNat
    if e < i ∨ 75 < e ∨ !(List.zipWith (fun a b => decide (a < b)) js (js.drop 1)).all id then none
    else (hintAt y ends n e).map fun l => js :: l

/-- A signature of `m'` (Sign_internal); the first argument bounds the attempts. -/
def attempt (k : Key) (s1 s2 t0 : List Poly) (mu rho : Bytes) : Nat → Nat → Bytes
  | 0, _ => []
  | f + 1, kappa =>
    let y := (List.range 7).map fun r =>
      (bitUnpack 20 (shake256 640 (rho ++ leBytes 2 (kappa + r)))).map fun v => (q + gamma1 - v) % q
    let yh := y.map ntt
    let w := k.a.map fun row => intt (polyDot q mul row yh)
    let ct := shake256 64 (mu ++ (w.flatMap fun p => pack 4 (p.map fun x => (decompose x).1)))
    let c := ntt (ball ct)
    let z := y.zipWith (fun p s => polyAdd q p (intt (mul c s))) s1
    let r := w.zipWith (fun p s => polySub q p (intt (mul c s))) s2
    let low := r.all fun p => p.all fun x => decide ((decompose x).2.natAbs < gamma2 - beta)
    let ct0 := t0.map fun t => intt (mul c t)
    let h := r.zipWith (fun p t => p.zipWith (fun x v => (decompose ((x + v) % q)).1 != (decompose x).1) t) ct0
    if within (gamma1 - beta) z && low && within gamma2 ct0 && decide ((h.flatten.filter id).length ≤ 75) then
      ct ++ (z.flatMap fun p => pack 20 (p.map fun x => ((gamma1 : Int) - near q x).toNat)) ++ hintPack h
    else attempt k s1 s2 t0 mu rho f (kappa + 7)

end Dsa

/-- The ML-DSA-87 signature of a message with an empty context string, with the key pair of a 32-byte seed and 32 random bytes (R375,
R408). -/
def mldsaSign (seed msg rnd : Bytes) : Bytes :=
  let k := Dsa.keyGen seed
  let mu := shake256 64 (k.tr ++ [0, 0] ++ msg)
  Dsa.attempt k (k.s1.map Dsa.ntt) (k.s2.map Dsa.ntt) (k.t0.map Dsa.ntt) mu (shake256 64 (k.k ++ padTo 32 rnd ++ mu)) 65536 0

/-- Whether an ML-DSA-87 signature of a message with an empty context string verifies under a public key (R23, R111). -/
def mldsaVerify (pk msg sig : Bytes) : Bool :=
  let ct := sig.take 64
  let z := (pieces 640 7 (sig.drop 64)).map fun b => (bitUnpack 20 b).map fun v => (Dsa.q + Dsa.gamma1 - v) % Dsa.q
  let hb := sig.drop 4544
  match decide (pk.length = 2592) && decide (sig.length = 4627), Dsa.hintAt (hb.take 75) (hb.drop 75) 8 0 with
  | true, some hs =>
    let a := Dsa.matrix (pk.take 32)
    let c := Dsa.ntt (Dsa.ball ct)
    let zh := z.map Dsa.ntt
    let t1 := (pieces 320 8 (pk.drop 32)).map fun b => Dsa.ntt (polyScale Dsa.q (2 ^ 13) (bitUnpack 10 b))
    let w := a.zipWith (fun row t => Dsa.intt (polySub Dsa.q (polyDot Dsa.q Dsa.mul row zh) (Dsa.mul c t))) t1
    let w1 := w.zipWith (fun p js => ((List.range 256).zip p).map fun x => Dsa.useHint (js.contains x.1) x.2) hs
    Dsa.within (Dsa.gamma1 - Dsa.beta) z &&
      ct == shake256 64 (shake256 64 (shake256 64 pk ++ [0, 0] ++ msg) ++ w1.flatMap (pack 4))
  | _, _ => false

/-- The signature that the security core makes of a message (R375, R409, R418). -/
def signWith (seed msg : Bytes) : Bytes := mldsaSign seed msg (Config.signRandom msg)

/-- Whether an Ebaris signature verifies: under the root public key, whose digest the fuses hold (R333, R408, R420). -/
def ebarisVerify (msg sig : Bytes) : Bool := sha3_512 Config.rootPublic == Config.rootKey && mldsaVerify Config.rootPublic msg sig

/-! ## AES-256-GCM (FIPS 197, SP 800-38D) -/

namespace Aes

/-- A byte times x modulo x^8 + x^4 + x^3 + x + 1. -/
def xtime (v : Nat) : Nat := if v < 128 then 2 * v else (2 * v) % 256 ^^^ 0x1B

/-- The product of two bytes of the field; the first argument bounds the bits. -/
def mul : Nat → Nat → Nat → Nat
  | 0, _, _ => 0
  | n + 1, a, b => (if b % 2 = 1 then a else 0) ^^^ mul n (xtime a) (b / 2)

/-- `a` to the power `2 ^ n - 2`, the inverse for n = 8: products of its squares. -/
def inv : Nat → Nat → Nat
  | 0, _ => 1
  | n + 1, a => let s := mul 8 a a; mul 8 s (inv n s)

/-- The substitution of a byte. -/
def subByte (v : Nat) : Nat :=
  let b := inv 7 v
  let r := fun n : Nat => (b * 2 ^ n ||| b / 2 ^ (8 - n)) % 256
  if v = 0 then 0x63 else b ^^^ r 1 ^^^ r 2 ^^^ r 3 ^^^ r 4 ^^^ 0x63

/-- The substitution table. -/
def sbox : Array Nat := ((List.range 256).map subByte).toArray

/-- A byte through the table. -/
def sub (v : Nat) : Nat := sbox.getD v 0

/-- The words of the key schedule, newest first: four bytes each. -/
def schedule : Nat → Nat → List (List Nat) → List (List Nat)
  | 0, _, ws => ws
  | n + 1, i, ws =>
    let t := ws.headD []
    let t := if i % 8 = 0 then
        let r := (t.drop 1 ++ t.take 1).map sub
        r.zipWith (· ^^^ ·) [(List.range (i / 8 - 1)).foldl (fun v _ => xtime v) 1, 0, 0, 0]
      else if i % 8 = 4 then t.map sub else t
    schedule n (i + 1) (((ws.getD 7 []).zipWith (· ^^^ ·) t) :: ws)

/-- The fifteen round keys of a 32-byte key. -/
def roundKeys (key : Bytes) : List (List Nat) :=
  let ws := ((pieces 4 8 key).map fun w => w.map BitVec.toNat).reverse
  let all := (schedule 52 8 ws).reverse
  (List.range 15).map fun r => ((all.drop (4 * r)).take 4).flatten

/-- Rows shifted; bytes stand column by column. -/
def shiftRows (s : List Nat) : List Nat := (List.range 16).map fun i => nth s ((i + 4 * (i % 4)) % 16)

/-- Columns mixed. -/
def mixColumns (s : List Nat) : List Nat := (List.range 16).map fun i =>
  let c := i / 4 * 4
  let x := fun j : Nat => nth s (c + (i + j) % 4)
  xtime (x 0) ^^^ (xtime (x 1) ^^^ x 1) ^^^ x 2 ^^^ x 3

/-- A block of sixteen bytes enciphered. -/
def cipher (rk : List (List Nat)) (blk : List Nat) : List Nat :=
  let add := fun (s k : List Nat) => s.zipWith (· ^^^ ·) k
  let s := ((rk.drop 1).take 13).foldl (fun s k => add (mixColumns (shiftRows (s.map sub))) k) (add blk (rk.headD []))
  add (shiftRows (s.map sub)) (rk.getD 14 [])

/-- The value of bytes, the first highest. -/
def beVal (b : List Nat) : Nat := b.foldl (fun v x => 256 * v + x) 0

/-- Sixteen bytes of a value, the highest first. -/
def beBytes (v : Nat) : List Nat := (List.range 16).map fun i => v / 256 ^ (15 - i) % 256

/-- The product of GHASH, bit 127 first; the first argument counts the bits left. -/
def ghMul (x : Nat) : Nat → Nat → Nat → Nat
  | 0, _, z => z
  | n + 1, v, z => ghMul x n (if v % 2 = 1 then v / 2 ^^^ 0xE1 * 2 ^ 120 else v / 2) (if x / 2 ^ n % 2 = 1 then z ^^^ v else z)

/-- The blocks of sixteen bytes of a string, the last filled with zeros. -/
def blocks (b : Bytes) : List Nat := (pieces 16 (cdiv b.length 16) b).map fun w => beVal (w.map BitVec.toNat)

end Aes

/-- The plaintext of AES-256-GCM under a 12-byte nonce, or none when the tag does not match (R413). -/
def aesGcmOpen (key nonce aad ct tag : Bytes) : Option Bytes :=
  let rk := Aes.roundKeys key
  let enc := fun v : Nat => Aes.beVal (Aes.cipher rk (Aes.beBytes v))
  let j0 := Aes.beVal ((slice nonce 0 12).map BitVec.toNat) * 2 ^ 32
  let h := enc 0
  let y := (Aes.blocks aad ++ Aes.blocks ct ++ [8 * aad.length * 2 ^ 64 + 8 * ct.length]).foldl (fun y x => Aes.ghMul (y ^^^ x) 128 h 0) 0
  let t := (Aes.beBytes (y ^^^ enc (j0 + 1))).map (BitVec.ofNat 8)
  let bs := Aes.blocks ct
  if t ≠ tag then none
  else some (((((List.range bs.length).zip bs).flatMap fun x => Aes.beBytes (x.2 ^^^ enc (j0 + (x.1 + 2) % 2 ^ 32))).take ct.length).map
    (BitVec.ofNat 8))

end Sys2Proof.Machine
end

