-- ==== Sys2Proof/Machine/Tiles.lean ====
section
/-!
DEFINITION. Tiles: handles and their checks, slot metadata and bytes, arrival and poison, consuming reads and release, chunk
and tile digests, allocation, debug-ring and statistics records (06_memory.md R155-R166, R171; 12 R258-R260, R269-R271;
19 R364-R365; 10 R245; 09 R222).
-/
namespace Sys2Proof.Machine

/-- The pad that a level of a handle names for unit `u` (R155). -/
def padIdx (u level : Nat) : Nat := if level = 0 then u else if level = 1 then 512 + u / 16 else 544 + u / 128

/-- The level of a pad. -/
def padLevel (p : Nat) : Nat := if p < 512 then 0 else if p < 544 then 1 else 2

/-- The handle of a slot at a generation (R158). -/
def handleOf (t : TileRef) (gen : Nat) : Nat :=
  padLevel t.pad * 2 ^ 30 + t.slot / 16384 * 2 ^ 26 + t.slot % 16384 * 2 ^ 12 + gen

/-- The handle that now names a slot. -/
def State.handleNow (s : State) (t : TileRef) : Nat := handleOf t (s.slot t).gen

/-- The pool of a slot. -/
def State.poolOf (s : State) (t : TileRef) : PoolCfg := (s.pad t.pad).pools.look (t.slot / 16384) ⟨0, 0, 0⟩

/-- The size in bytes of a slot. -/
def State.slotSize (s : State) (t : TileRef) : Nat := 2 ^ (s.poolOf t).log2

/-- Where byte 0 of a slot lies in memory. -/
def State.slotKey (s : State) (t : TileRef) : Nat :=
  memKey (regPad t.pad) ((s.poolOf t).base * 512 + t.slot % 16384 * 2 ^ (s.poolOf t).log2)

/-- Bytes of a tile of `r` rows and `c` columns of a format (R160). -/
def tileLenOf (r c fmt : Nat) : Nat := cdiv (r * c * widthOf fmt) 8

/-- The length of the tile a slot holds (R160). -/
def SlotSt.len (x : SlotSt) : Nat := tileLenOf (x.rows + 1) (x.cols + 1) x.fmt

/-- Chunks of a length. -/
def chunksOf (len : Nat) : Nat := max 1 (cdiv len 512)

/-- The number of chunks of the tile a slot holds. -/
def SlotSt.chunks (x : SlotSt) : Nat := chunksOf x.len

/-- ARRIVAL of chunk `k`: 1 beyond the last chunk (R164). -/
def SlotSt.arrived (x : SlotSt) (k : Nat) : Bool := decide (x.chunks ≤ k) || bit x.arrival k

/-- Every chunk has arrived. -/
def SlotSt.whole (x : SlotSt) : Bool := (List.range x.chunks).all fun k => bit x.arrival k

/-- VALID counts of the tile's chunks. -/
def SlotSt.valids (x : SlotSt) : List Nat := (List.range x.chunks).map fun k => x.valid.look k 0

/-- The bytes of a tile. -/
def State.tileBytes (s : State) (t : TileRef) : Bytes := s.mem.readN (s.slotKey t) (s.slot t).len

/-- Whether the endpoint of unit `u` is held by a context's queue (R343). -/
def State.endpointOf (s : State) (u : Nat) (c : Ctx) : Option Endpoint :=
  (s.unit u).endpoint.bind fun e => if e.die = c.die ∧ e.queue = c.queue then some e else none

/-- Channel `ch` bound to the issuing context's unit endpoint (R271, R344). -/
def State.chanEnd? (s : State) (u : Nat) (c : Ctx) (ch : Nat) : Option ChanEnd :=
  (s.endpointOf u c).bind fun e => e.ends.entry? ch

/-- A channel end of a unit, changed by `f`. -/
def State.updEnd (s : State) (u ch : Nat) (f : ChanEnd → ChanEnd) : State :=
  s.updUnit u fun x =>
    { x with endpoint := x.endpoint.map fun e =>
        match e.ends.entry? ch with
        | some ce => { e with ends := e.ends.put ch (f ce) }
        | none => e }

/-- Length in bytes of the tiles of a channel (R106, R160). -/
def ChanEnd.len (e : ChanEnd) : Nat := tileLenOf e.rows e.cols e.fmt

/-- A channel end of a unit. -/
def State.end? (s : State) (u ch : Nat) : Option ChanEnd := (s.unit u).endpoint.bind fun e => e.ends.entry? ch

/-- What a handle names for a context (R162, R271). -/
inductive HRes where
  | ok (t : TileRef)
  /-- a landing slot whose arrival named has not begun to land -/
  | pending (t : TileRef)
  | bad (t : Trap)
  deriving DecidableEq, Repr

/-- The handles in a ring from its head on. -/
def Ring.handles (r : Ring) : List Nat := (List.range r.count).map fun i => r.entries.look ((r.head + i) % 16) 0

/-- Reason 2 of R162: whether the tile is owned by the context's task, by one of its rings, or by a channel bound to it. -/
def State.owns (s : State) (u : Nat) (c : Ctx) (t : TileRef) : Bool :=
  let x := s.slot t
  match x.okind with
  | 1 => x.oid == c.taskId
  | 2 => x.oid / 8 == u && ((c.rings.look (x.oid % 8) {}).handles.contains (s.handleNow t))
  | 3 => x.oid / 256 == u && (s.chanEnd? u c (x.oid % 256)).isSome
  | _ => false

/-- The handle check of R162, with R271 for the landing slots of a channel bound to the context. -/
def State.handle (s : State) (u : Nat) (c : Ctx) (h : Nat) : HRes :=
  let level := fld h 30 2
  let pool := fld h 26 4
  let gen := fld h 0 12
  let t : TileRef := ⟨padIdx u level, pool * 16384 + fld h 12 14⟩
  if h = 0 ∨ level = 3 then .bad (trapOf 0x14 0)
  else match (s.pad t.pad).pools.entry? pool with
    | none => .bad (trapOf 0x14 0)
    | some p =>
      if p.count ≤ fld h 12 14 then .bad (trapOf 0x14 0)
      else
        let x := s.slot t
        let landing : Bool := match x.chan with
          | some (cu, ch, _) => cu == u && (s.chanEnd? u c ch).isSome
          | none => false
        let j := (gen + 4095 - x.gen) % 4095
        if gen = 0 then .bad (trapOf 0x14 1)
        else if landing && ((j == 0 && x.okind == 0) || (decide (1 ≤ j) && decide (j ≤ 2047))) then .pending t
        else if gen ≠ x.gen ∨ x.okind = 0 then .bad (trapOf 0x14 1)
        else if s.owns u c t then .ok t
        else .bad (trapOf 0x14 2)

/-- The slot a handle names, when its check passes. -/
def State.tile? (s : State) (u : Nat) (c : Ctx) (h : Nat) : Option TileRef :=
  match s.handle u c h with
  | .ok t => some t
  | .pending t => some t
  | .bad _ => none

/-- The fault of a handle's check, if it fails. -/
def State.handleTrap (s : State) (u : Nat) (c : Ctx) (h : Nat) : Option Trap :=
  match s.handle u c h with
  | .bad t => some t
  | _ => none

/-- The length of the tile a handle names, or will name once its arrival lands (R271). -/
def State.operandLen (s : State) (u : Nat) (c : Ctx) (h : Nat) : Nat :=
  match s.handle u c h with
  | .ok t => (s.slot t).len
  | .pending t => match (s.slot t).chan with
    | some (_, ch, _) => ((s.end? u ch).map ChanEnd.len).getD 1
    | none => 1
  | .bad _ => 1

/-- The chunks that bytes `off` to `off + n - 1` of a tile lie in. -/
def chunkRange (off n : Nat) : List Nat := (List.range (if n = 0 then 0 else (off + n - 1) / 512 - off / 512 + 1)).map (off / 512 + ·)

/-- The ARRIVAL and POISON checks of a read of some chunks of a tile: MEMUE precedes UNREADY (R165, R171). -/
def State.readTrap (s : State) (u : Nat) (c : Ctx) (h : Nat) (ks : List Nat) : Option Trap :=
  match s.handle u c h with
  | .bad t => some t
  | .pending _ => ks.head?.map fun k => { cause := 0x16, row := k }
  | .ok t =>
    let x := s.slot t
    match ks.find? fun k => bit x.poison k with
    | some k => some { cause := 0x30, row := k }
    | none => (ks.find? fun k => !x.arrived k).map fun k => { cause := 0x16, row := k }

/-- The answer of the ARRIVAL and POISON checks of several operands: MEMUE of any precedes UNREADY of another (R171). -/
def memueFirst (l : List (Option Trap)) : Option Trap :=
  let ts := l.filterMap id
  (ts.find? fun t => t.cause == 0x30).or ts.head?

/-- All chunks of the tile a handle names. -/
def State.allChunks (s : State) (u : Nat) (c : Ctx) (h : Nat) : List Nat :=
  match s.tile? u c h with
  | some t => List.range (s.slot t).chunks
  | none => []

/-- The faulted producers that a read of chunks `ks` of a tile observes: a job of the context whose chunk bit is clear (R258). -/
def State.obsRead (s : State) (u : Nat) (c : Ctx) (h : Nat) (ks : List Nat) : List Nat :=
  match s.handle u c h with
  | .ok t =>
    let x := s.slot t
    if ks.any fun k => !x.arrived k then
      ((s.unit u).jobs.filter fun j => j.cid == c.cid && j.fault.isSome && j.dst == some t).map (·.jid)
    else []
  | _ => []

/-- The jobs of a context that name a semaphore (R212). -/
def State.obsSem (s : State) (u : Nat) (c : Ctx) (e : Nat) : List Nat :=
  ((s.unit u).jobs.filter fun j => j.cid == c.cid && j.sem == e && e != 0).map (·.jid)

/-- Every job of a context (R217-R219). -/
def State.obsAll (s : State) (u : Nat) (c : Ctx) : List Nat := ((s.unit u).jobs.filter fun j => j.cid == c.cid).map (·.jid)

/-- The queues that hold a valid capability with right `r` on the tasks of a queue (R242, R245). -/
def DieSt.holders (d : DieSt) (q r : Nat) : List Nat :=
  (q :: (d.caps.filter fun e => e.2.valid && e.2.target == q && bit e.2.rights r).map (·.2.holder)).eraseDups

/-- A record enters the debug ring of one holder queue, an access of the die's engine (R154, R238, R245). -/
def State.ringRecord (s : State) (d q : Nat) (rec : Bytes) : State :=
  let r := s.queue d q
  if fld r.dbg 8 1 = 0 then s
  else
    let n := 2 ^ fld r.dbg 3 5 * 1024
    let s := match placeKey (fld r.dbg 0 3) (fld r.dbg 16 36 * 2 ^ 16 + r.dbgPtr % n * 64) with
      | some k =>
        let ks := (List.range 64).map (k + ·)
        (s.countVA d ks).writeGlobal ks (padTo 64 rec)
      | none => s
    s.updQueue d q fun r => { r with dbgPtr := (r.dbgPtr + 1) % 2 ^ 64 }

/-- A record for every holder of right `r` on a queue's tasks. -/
def State.debugRecord (s : State) (d q r : Nat) (rec : Bytes) : State :=
  ((s.die d).holders q r).foldl (fun s h => s.ringRecord d h rec) s

/-- A trace record (R245). -/
def State.trace (s : State) (u b : Nat) (c : Ctx) (kind src tgt : Nat) : State :=
  s.debugRecord c.die c.queue 2 (layout 64 [(4, leBytes 4 c.taskId), (8, leBytes 2 u), (11, leBytes 1 kind), (12, leBytes 4 b),
    (16, leBytes 8 (s.unit u).cycle), (24, leBytes 8 src), (32, leBytes 8 tgt)])

/-- The stamp record of a tile's release (R245): `ab` abandoned, `tr` by TREL. The first read of a tile that was never read is its release.
DESIGN CHOICE (log 108). -/
def State.stampRecord (s : State) (t : TileRef) (ab tr : Bool) : State :=
  let x := s.slot t
  if !x.stamps then s
  else
    let fl := (if ab then 1 else 0) + (if tr then 2 else 0) + (if x.chan.isSome then 4 else 0)
    let now := (s.unit x.aUnit).cycle
    let rd := x.tRead.getD now
    s.debugRecord (x.aUnit / 128) x.aQueue 0 (layout 64 [(0, leBytes 4 (s.handleNow t)), (4, leBytes 4 x.aTask),
      (8, leBytes 2 x.aUnit), (10, leBytes 1 fl), (11, leBytes 1 1), (12, leBytes 4 x.allocAddr), (16, leBytes 8 x.tAlloc),
      (24, leBytes 8 x.tFirst), (32, leBytes 8 x.tLast), (40, leBytes 8 (x.tHeld.getD rd)), (48, leBytes 8 rd),
      (56, leBytes 8 now)])

/-- Releases a slot: GEN advances, the owner goes, the slot leaves INUSE, POISON is cleared; its storage stays busy until it
returns (R161, R171). -/
def State.release (s : State) (t : TileRef) (ab tr : Bool) : State :=
  let x := s.slot t
  let s := s.stampRecord t ab tr
  let s := s.updSlot t fun x => { x with gen := x.gen % 4095 + 1, reads := 0, okind := 0, poison := 0, busy := true, tHeld := none }
  if x.chan.isSome then s
  else s.updCid x.aUnit x.ptCid fun c =>
    { c with pt := c.pt.adj x.ptIdx {} fun p => { p with inUse := p.inUse - 1 } }

/-- A use of a tile records its first read (R245). -/
def State.stampRead (s : State) (t : TileRef) : State :=
  s.updSlot t fun x => if x.stamps && x.tRead.isNone then { x with tRead := some (s.unit x.aUnit).cycle } else x

/-- A bundle of context `c` is held on a tile: the first one is noted for the stamp record (R245), of a landing when the task has stamps. -/
def State.noteHold (s : State) (u : Nat) (c : Ctx) (t : TileRef) : State :=
  let x := s.slot t
  let now := (s.unit (if x.chan.isSome then u else x.aUnit)).cycle
  if x.tHeld.isNone && (x.stamps || (x.chan.isSome && c.stamps)) then s.updSlot t fun x => { x with tHeld := some now } else s

/-- The slot whose place a handle names for unit `u` (R155, R158). -/
def placeOf (u h : Nat) : TileRef := ⟨padIdx u (fld h 30 2), fld h 26 4 * 16384 + fld h 12 14⟩

/-- One consuming read of the tile that a handle names (R161): nothing when it is pinned or already released. -/
def State.consume (s : State) (u h : Nat) : State :=
  let t := placeOf u h
  let x := s.slot t
  if x.gen ≠ fld h 0 12 ∨ x.okind = 0 ∨ x.reads = 0 then s
  else if x.reads = 1 then s.release t false false
  else s.updSlot t fun x => { x with reads := x.reads - 1 }

/-- The handle of an operand read with mark `c`, when the mark makes it a consuming read (R83, R161). -/
def marked (c h : Nat) : List Nat := if c = 1 then [h] else []

/-- A context of unit `u` waits on or consumes a landing: EFLAGS enters its FLAGS and pending set (R351). -/
def State.orEflags (s : State) (u cid : Nat) : State :=
  match (s.unit u).endpoint with
  | some e => s.updCid u cid fun c => c.setFlags e.eflags
  | none => s

/-- A read of a tile issued by an instruction of context `cid`: the first is noted for the stamp record; the stamps of a landing are those of
the task that reads it (R245). -/
def State.noteTileRead (s : State) (u cid : Nat) (t : TileRef) : State :=
  let s := match (s.slot t).chan.isSome, s.byCid? u cid with
    | true, some c => s.updSlot t fun x => { x with stamps := c.stamps, aTask := c.taskId, aQueue := c.queue }
    | _, _ => s
  s.stampRead t

/-- A tile operand read by an instruction of context `cid`, consumed when its mark says so (R245, R351). -/
def State.readTile (s : State) (u cid : Nat) (t : TileRef) (h mark : Nat) : State :=
  let land := (s.slot t).chan.isSome
  let s := s.noteTileRead u cid t
  if mark = 1 then (if land then s.orEflags u cid else s).consume u h else s

/-- The tile descriptor (R365). -/
def tileDesc (rows cols fmt seq len : Nat) : Bytes :=
  leBytes 2 rows ++ leBytes 2 cols ++ leBytes 1 fmt ++ zeros 3 ++ leBytes 4 seq ++ leBytes 4 len

/-- The descriptor of the tile a slot holds. -/
def SlotSt.desc (x : SlotSt) : Bytes := tileDesc x.rows x.cols x.fmt x.seq x.len

/-- The chunk digest (R364). -/
def digestCD (bs : Bytes) : Bytes := shake256_32 ((1 : Byte) :: padTo 512 bs)

/-- The digest of a domain byte and a byte string (R364). -/
def digest (dom : Nat) (bs : Bytes) : Bytes := sha3_512 (BitVec.ofNat 8 dom :: bs)

/-- 64 zero bytes: a digest that a slot leaves unused (R364). -/
def noDigest : Bytes := zeros 64

/-- The digests of the chunks of a byte string. -/
def chunkDigests (bs : Bytes) : List Bytes :=
  (List.range (chunksOf bs.length)).map fun k => digestCD (slice (bs.drop (512 * k)) 0 (min 512 (bs.length - 512 * k)))

/-- The tile digest from a descriptor and chunk digests (R364). -/
def tdOf (desc : Bytes) (cds : List Bytes) : Bytes := digest 2 (desc ++ cds.flatten)

/-- The tile digest of the tile a slot holds, formed from its stored chunk digests. -/
def SlotSt.tdNow (x : SlotSt) : Bytes := tdOf x.desc ((List.range x.chunks).map fun k => x.cds.look k (zeros 32))

/-- The validity digest (R364). -/
def SlotSt.vd (x : SlotSt) : Bytes := digest 7 (x.desc ++ x.valids.map (BitVec.ofNat 8))

/-- Chunks of a tile become known, as a slot holds them, to what waits for its digest; one that is known stays as it was (R370). -/
def TdWait.note (x : SlotSt) (t : TileRef) (ks : List Nat) (w : TdWait) : TdWait :=
  let cell (p : Nat × Option (Bytes × Nat)) : Option (Bytes × Nat) :=
    p.2.or (if ks.contains p.1 then some (x.cds.look p.1 (zeros 32), x.valid.look p.1 0) else none)
  if w.tile ≠ t then w else { w with cells := ((List.range w.cells.length).zip w.cells).map cell }

/-- Chunks that have just arrived become known to the operations whose leaves lack them: at their arrival, whenever the leaves are placed
(R370). -/
def State.noteChunks (s : State) (t : TileRef) (ks : List Nat) : State :=
  let x := s.slot t
  let f (j : Job) : Job := if j.kind == JobKind.vec || j.kind == JobKind.accrd then { j with tds := j.tds.map (TdWait.note x t ks) } else j
  { s with units := s.units.mapv fun y => { y with jobs := y.jobs.map f, late := y.late.map f } }

/-- Writes one chunk of a tile with its digest and validity count, and sets its ARRIVAL bit (R164); TD is formed with the last chunk
(R365). -/
def State.writeChunk (s : State) (t : TileRef) (k : Nat) (bs : Bytes) (valid : Nat) : State :=
  let key := s.slotKey t + 512 * k
  let now := (s.unit (s.slot t).aUnit).cycle
  let s := { s with mem := s.mem.writeN key bs }
  let s := s.updSlot t fun x =>
    let x := { x with arrival := setBit x.arrival k, valid := x.valid.put k valid, cds := x.cds.put k (digestCD bs)
                      tFirst := if x.arrival = 0 then now else x.tFirst, tLast := now }
    if x.whole then { x with td := x.tdNow } else x
  s.noteChunks t [k]

/-- The bytes of chunk `k` of a tile of bytes `bs`. -/
def chunkBytes (bs : Bytes) (k : Nat) : Bytes := (bs.drop (512 * k)).take 512

/-- Every chunk of a tile written at once, and TD (R288, R332, R380). -/
def State.writeTile (s : State) (t : TileRef) (bs : Bytes) (valid : Nat → Nat) : State :=
  let s := (List.range (chunksOf bs.length)).foldl (fun s k => s.writeChunk t k (chunkBytes bs k) (valid k)) s
  s.updSlot t fun x => { x with td := x.tdNow }

/-- The metadata that a producer writes at its issue; the slot is now produced (R258). -/
def State.produce (s : State) (t : TileRef) (rows cols fmt seq : Nat) : State :=
  s.updSlot t fun x => { x with rows := rows, cols := cols, fmt := fmt, seq := seq, produced := true }

/-- The destination checks every producer makes: the handle, then produced once (R258). That of an arrival yet to begin passes (R271), and the
PRODUCED bit is then the landing slot's. DESIGN CHOICE (log 124). -/
def State.dstTrap (s : State) (u : Nat) (c : Ctx) (h : Nat) : Option Trap :=
  match s.handle u c h with
  | .bad t => some t
  | .pending t | .ok t => if (s.slot t).produced then some (trapOf 3 4) else none

/-- The slots of a pool that an allocation may take: free, storage returned, of no channel (R260). -/
def State.freeSlots (s : State) (pad pool : Nat) : List TileRef :=
  ((List.range ((s.pad pad).pools.look pool ⟨0, 0, 0⟩).count).map fun i => (⟨pad, pool * 16384 + i⟩ : TileRef)).filter fun t =>
    (s.slot t).okind == 0 && !(s.slot t).busy && (s.slot t).chan.isNone

/-- The lowest free slot of the pool that a pool-table entry names for a unit, when its reservation has room (R260). -/
def State.allocReady (s : State) (u : Nat) (p : PtEnt) : Option TileRef :=
  if p.inUse ≤ p.resM1 then (s.freeSlots (padIdx u p.level) p.pool).head? else none

/-- Allocates a slot for a context (R159, R260). -/
def State.allocSlot (s : State) (u : Nat) (c : Ctx) (pt reads addr : Nat) (t : TileRef) : State :=
  s.updSlot t fun x =>
    { x with reads := reads, okind := 1, oid := c.taskId, fmt := 0, rows := 0, cols := 0, seq := 0, sealed := false
             arrival := 0, valid := [], poison := 0, td := [], cds := [], produced := false, ptCid := c.cid, ptIdx := pt
             aUnit := u, aTask := c.taskId, aQueue := c.queue, stamps := c.stamps, allocAddr := addr
             tAlloc := (s.unit u).cycle, tFirst := 0, tLast := 0, tHeld := none, tRead := none }

/-- Every slot of a pad that holds a tile, by its place. -/
def State.tilesOf (s : State) (pad : Nat) : List TileRef :=
  ((s.pad pad).slots.filter fun e => e.2.okind != 0).map fun e => ⟨pad, e.1⟩

/-- The pads a unit reaches (R155). -/
def unitPads (u : Nat) : List Nat := [padIdx u 0, padIdx u 1, padIdx u 2]

/-- Whether a task of the die of a unit still has a context. -/
def State.taskLive (s : State) (u taskId : Nat) : Bool :=
  (s.units.any fun x => x.1 / 128 == u / 128 && x.2.ctxs.any fun e => e.2.taskId == taskId) || ((s.die (u / 128)).saved.any fun e => e.2.taskId == taskId)

/-- A record enters a unit's statistics queue of 128 (R222): when it is full the oldest record of a completed task goes, else the
record is dropped and counted. DROPS counts those since the task's last record that entered. DESIGN CHOICE (log 105). -/
def State.stat (s : State) (u : Nat) (c : Ctx) (kind slot data addr : Nat) : State :=
  let x := s.unit u
  let rec' : StatRec := ⟨c.taskId, kind, slot, min 65535 (x.drops.look c.taskId 0), data % 2 ^ 32, addr, c.queue, (s.die (u / 128)).statNo⟩
  let s := s.updDie (u / 128) fun d => { d with statNo := d.statNo + 1 }
  if x.stats.length < 128 then
    s.setUnit u { x with stats := x.stats ++ [rec'], drops := x.drops.del c.taskId }
  else match x.stats.find? fun r => !s.taskLive u r.taskId with
    | some r => s.setUnit u { x with stats := x.stats.erase r ++ [rec'], drops := x.drops.del c.taskId }
    | none => s.setUnit u { x with drops := x.drops.adj c.taskId 0 (· + 1) }

/-- The 16 bytes of a statistics record as two words (R222). -/
def StatRec.words (r : StatRec) : Nat × Nat := (r.kind + r.slot * 2 ^ 8 + r.drops * 2 ^ 16 + r.data * 2 ^ 32, r.addr)

/-- Counts a job's access to places in global memory once for each block. -/
def State.countAccess (s : State) (j : Job) (salt : Nat) (ks : List Nat) : State × Job :=
  let r := countBlocks j.die salt j.blocks ks
  (s.addReqs j.die r.2.1 r.2.2, { j with blocks := r.1 })

end Sys2Proof.Machine
end

