-- ==== Sys2Proof/Machine/AuditCore.lean ====
section
/-!
DEFINITION. Leaf records, the trees over them, task headers and roots, and how a task's root reaches the session tree
(19_audit_class.md R364-R377).
-/
namespace Sys2Proof.Machine

/-- The fields of a leaf record (R368). -/
structure LeafRec where
  type : Nat
  slot : Nat := 0
  fset : Nat := 0
  routine : Nat := 0
  sflags : Nat := 0
  idx : Nat := 0
  addr : Nat := 0
  w : Nat := 0
  ext : Nat := 0
  fmt : Nat := 0
  vsh : Nat := 0
  mp2 : Nat := 0
  mp4 : Nat := 0
  vz : Nat := 0
  vmin : Nat := 0
  vmax : Nat := 0
  peer : Nat := 0
  arr : Nat := 0
  a : Bytes := []
  b : Bytes := []
  c : Bytes := []
  aux : Bytes := []
  res : Bytes := []
  deriving DecidableEq, Repr

/-- The 384 bytes of a leaf record (R368). -/
def LeafRec.bytes (l : LeafRec) : Bytes :=
  layout 384 [(0, leBytes 1 l.type), (1, leBytes 1 l.slot), (2, leBytes 2 (l.fset % 2 ^ 11)), (4, leBytes 1 l.routine),
    (5, leBytes 1 l.sflags), (8, leBytes 8 l.idx), (16, leBytes 8 l.addr), (24, leBytes 4 l.w), (28, leBytes 4 l.ext),
    (32, leBytes 4 l.fmt), (36, leBytes 4 l.vsh), (40, leBytes 4 l.mp2), (44, leBytes 4 l.mp4), (48, leBytes 2 l.vz),
    (50, leBytes 1 l.vmin), (51, leBytes 1 l.vmax), (52, leBytes 4 l.peer), (56, leBytes 4 l.arr), (64, padTo 64 l.a),
    (128, padTo 64 l.b), (192, padTo 64 l.c), (256, padTo 64 l.aux), (320, padTo 64 l.res)]

/-- VZERO, VMIN and VMAX of some VALID counts (R368). -/
def validStats (vs : List Nat) : Nat × Nat × Nat :=
  ((vs.filter (· = 0)).length, vs.foldl min (vs.headD 0), vs.foldl max 0)

/-- The largest power of two below `n`, for n above 1 (R372). -/
def splitAt (n : Nat) : Nat := 2 ^ Nat.log2 (n - 1)

/-- The root over some digests, in order (R372); the first argument bounds the depth. -/
def treeRoot : Nat → List Bytes → Bytes
  | 0, _ => noDigest
  | f + 1, ds =>
    match ds with
    | [] => noDigest
    | [d] => d
    | _ => let k := splitAt ds.length
      digest 4 (treeRoot f (ds.take k) ++ treeRoot f (ds.drop k))

/-- The root over some digests. -/
def rootOfList (ds : List Bytes) : Bytes := treeRoot (Nat.log2 ds.length + 2) ds

/-- The nodes retained at depth `d` of the subtree over leaves `lo` to `lo + n - 1`: (first leaf, leaves, digest) (R377).
`par` says whether the parent's subtree holds at least 2^d leaves. -/
def retained (d : Nat) : Nat → Nat → List Bytes → Bool → List (Nat × Nat × Bytes)
  | 0, _, _, _ => []
  | f + 1, lo, ds, par =>
    let n := ds.length
    let big := decide (2 ^ d ≤ n)
    let self := if par || big then [(lo, n, rootOfList ds)] else []
    if n ≤ 1 then self
    else
      let k := splitAt n
      self ++ retained d f lo (ds.take k) big ++ retained d f (lo + k) (ds.drop k) big

/-- The task header (R373). -/
def taskHeader (odigest : Bytes) (params : List Nat) (seq node task n flags status retain queue chip : Nat) : Bytes :=
  layout 192 [(0, padTo 64 odigest), (64, ((List.range 8).map fun i => leBytes 8 (nth params i)).flatten), (128, leBytes 8 seq),
    (136, leBytes 4 node), (140, leBytes 4 task), (144, leBytes 8 n), (152, leBytes 4 flags), (156, leBytes 1 status),
    (157, leBytes 1 retain), (158, leBytes 2 queue), (160, leBytes 4 chip)]

/-- The task root (R373). -/
def taskRoot (hdr root : Bytes) : Bytes := digest 5 (hdr ++ root)

/-- The context takes the next leaf index for an instruction (R370). -/
def Ctx.takeLeaf (c : Ctx) (addr slot w ext : Nat) : Ctx × Nat :=
  ({ c with leafNext := c.leafNext + 1, leaves := c.leaves.put c.leafNext ⟨addr, slot, w, ext, none⟩ }, c.leafNext)

/-- Places a leaf at its index (R370). -/
def Ctx.placeLeaf (c : Ctx) (idx : Nat) (l : LeafRec) : Ctx :=
  { c with leaves := c.leaves.adj idx ⟨l.addr, l.slot, l.w, l.ext, none⟩ fun x => { x with record := some { l with idx := idx }.bytes } }

/-- Places a leaf in the tree of a context by its name. -/
def State.placeLeaf (s : State) (u cid idx : Nat) (l : LeafRec) : State := s.updCid u cid fun c => c.placeLeaf idx l

/-- How many leaves are placed: MOVS of LEAFIDX (R202, R370). -/
def Ctx.placed (c : Ctx) : Nat := (c.leaves.filter fun e => e.2.record.isSome).length

/-- Every assigned index holds its leaf. -/
def Ctx.allPlaced (c : Ctx) : Bool := c.leaves.all fun e => e.2.record.isSome

/-- The void leaf of an index (R370). -/
def Leaf.void (l : Leaf) (idx : Nat) : Bytes :=
  { type := 0x0E, slot := l.slot, addr := l.addr, w := l.w, ext := l.ext, idx := idx : LeafRec }.bytes

/-- The records of a context's tree over its first `n` indices, void where none is placed. -/
def Ctx.leafRecords (c : Ctx) (n : Nat) : List Bytes :=
  (List.range n).map fun i => match c.leaves.entry? i with
    | some l => l.record.getD (l.void i)
    | none => (⟨0, 0, 0, 0, none⟩ : Leaf).void i

/-- Leaf digests (R364). -/
def leafDigests (rs : List Bytes) : List Bytes := rs.map (digest 3)

/-- The audit status of a landing's leaf (R368, R369). -/
def landingLeaf (e : ChanEnd) (ch : Nat) (l : Landing) (addr slot w ext : Nat) : LeafRec :=
  { type := 0x0C, slot := slot, addr := addr, w := w, ext := ext, vz := l.vals.1, vmin := l.vals.2.1
    vmax := l.vals.2.2, peer := e.peerChip + ch * 2 ^ 20, arr := l.n, a := l.parts.getD 0 [], b := l.parts.getD 1 []
    c := l.parts.getD 2 [], aux := l.parts.getD 3 [], res := l.parts.getD 4 [] }

/-- The graph a context's node belongs to. -/
def State.graphOf (s : State) (c : Ctx) : Option Graph := (s.die c.die).graphs.entry? c.graph

/-- Whether a root may be passed: the die is configured and its root queue of 64 has room (R376, R381). -/
def State.rootRoom (s : State) (d : Nat) : Bool :=
  (s.die d).aud.isSome && decide (((s.die d).rootQ.filter fun e => !e.isSeal).length < 64)

/-- The session leaf index that the next root of a queue takes (R374). -/
def State.nextRootIdx (s : State) (d q : Nat) : Nat :=
  let n := (s.queue d q).sess
  ((s.die d).sess.look n {}).roots.length + ((s.die d).rootQ.filter fun e => !e.isSeal && e.session == n).length

/-- Size in bytes that a task takes in the tree store. DESIGN CHOICE (log 15). -/
def TreeEnt.size (t : TreeEnt) : Nat := 256 + 64 * t.nodes.length + 384 * t.leaves.length

/-- Drops the oldest entries until the store's size holds (R377). -/
def fitStore (cap : Nat) : Nat → List TreeEnt → List TreeEnt
  | 0, ts => ts
  | f + 1, ts =>
    if (ts.map TreeEnt.size).foldl (· + ·) 0 ≤ cap then ts else fitStore cap f (ts.drop 1)

/-- Bytes in a die's tree store (R381). -/
def AudCfg.storeCap (a : AudCfg) : Nat := 2 ^ a.slog * 65536

/-- What the tree store holds of a task: the header, TR, the retained nodes' digests and the leaf records (R377). -/
def TreeEnt.parts (t : TreeEnt) : Bytes :=
  t.hdr ++ t.tr ++ (t.nodes.map fun n => n.2.2).flatten ++ (t.leaves.map fun l => l.2).flatten

/-- A task's entry enters the die's tree store, a ring in its own HBM: over the oldest entries, which go whole; one larger than the
whole store is not kept (R377). The order of the parts in memory, which the spec does not give, is a free value (log 15). -/
def State.storeTree (s : State) (d : Nat) (t : TreeEnt) : State :=
  match (s.die d).aud with
  | none => s
  | some a =>
    let x := s.die d
    let s := s.updDie d fun x => { x with
      tree := fitStore a.storeCap (x.tree.length + 1) (x.tree ++ [t])
      treeW := if a.storeCap < t.size then x.treeW else (x.treeW + t.size) % a.storeCap }
    match placeKey a.splace a.spa with
    | some k =>
      if a.storeCap < t.size then s
      else
        let ks := (List.range t.size).map fun i => k + (x.treeW + i) % a.storeCap
        s.dieWrite d ks (padTo t.size (Config.treeLayout t.parts))
    | none => s

/-- Passes a root to the tree engine: it takes its session leaf index, waits for the root log, and its tree is retained
(R373, R374, R377). -/
def State.passRoot (s : State) (d q : Nat) (hdr : Bytes) (recs : List Bytes) (status retain : Nat) : State × Nat :=
  let lds := leafDigests recs
  let tr := taskRoot hdr (rootOfList lds)
  let idx := s.nextRootIdx d q
  let sn := (s.queue d q).sess
  let nodes := if lds = [] then [(0, 0, noDigest)] else retained retain (Nat.log2 lds.length + 2) 0 lds true
  let ent : TreeEnt := ⟨q, sn, idx, lds.length, hdr, tr, retain, nodes,
    if retain = 0 then (List.range recs.length).zip recs else []⟩
  ((s.updDie d fun x =>
    { x with rootQ := x.rootQ ++ [{ queue := q, session := sn, idx := idx, hdr := hdr, tr := tr, status := status }] }).storeTree d ent,
    idx)

/-! ## The access log (R417, R418) -/

/-- The unit of a record (R417). -/
def AccRec.bytes (r : AccRec) (chip idx : Nat) : Bytes :=
  layout 64 [(0, leBytes 1 r.kind), (1, leBytes 1 r.port), (2, leBytes 2 r.queue), (4, leBytes 4 (r.chip.getD chip)), (8, leBytes 8 r.mask),
    (16, leBytes 8 r.amount), (24, leBytes 8 idx), (32, leBytes 4 r.taskId), (36, leBytes 2 r.unit), (40, padTo 24 r.nonce)]

/-- Units written into the access log's ring in host memory, one after another, and WRITE advanced; none while READ has not passed them
(R417). -/
def State.putUnits (s : State) (bs : Bytes) : Option State :=
  let n := bs.length / 64
  let m := Config.accessLogUnits - 1
  let base := memKey regHost Config.accessLogBase
  let w := s.sec.logWrite
  if m < (w + 2 ^ 64 - leVal (s.mem.readN (base + 8) 8)) % 2 ^ 64 + n then none
  else
    let s := s.keepOld ((List.range n).flatMap fun i => (List.range 64).map (base + 64 * (1 + (w + i) % m) + ·))
    let s := s.keepOld ((List.range 8).map (base + ·))
    let mem := (List.range n).foldl (fun mem i => mem.writeN (base + 64 * (1 + (w + i) % m)) ((bs.drop (64 * i)).take 64)) s.mem
    some { s with mem := mem.writeN base (leBytes 8 (w + n)), sec := { s.sec with logWrite := (w + n) % 2 ^ 64 } }

/-- The seed of the chip's identity key pair (R408). -/
def identitySeed : Bytes := (digest 0x20 Config.identitySeed).take 32

/-- The head of the access log signed and appended as a KIND 6 record (R418). -/
def State.signHead (s : State) : Option State :=
  let r : AccRec := { kind := 6, amount := 75 }
  let sig := signWith identitySeed (digest 0x12 (leBytes 4 s.chipId ++ leBytes 8 s.sec.logIdx ++ padTo 64 s.sec.logH))
  (s.putUnits (r.bytes s.chipId s.sec.logIdx ++ padTo 64 s.sec.logH ++ padTo (73 * 64) sig)).map fun s =>
    { s with sec := { s.sec with sinceSign := 0 } }

/-- What a record is chained to: the digest before it, or, for the KIND 0 record of a power-on, what begins that power-on's chain (R418). -/
def State.chainTo (s : State) (r : AccRec) : Bytes :=
  if r.kind = 0 then digest 0x11 (leBytes 4 (r.chip.getD s.chipId) ++ leBytes 8 r.amount ++ r.nonce) else padTo 64 s.sec.logH

/-- One record chained into the access log (R417, R418): after 256 of them the head is signed before another enters. -/
def State.logOne (s : State) (r : AccRec) : Option State :=
  (if s.sec.sinceSign < 256 then some s else s.signHead).bind fun s =>
    let bs := r.bytes s.chipId s.sec.logIdx
    (s.putUnits bs).map fun s =>
      let s : State := { s with sec := { s.sec with logIdx := (s.sec.logIdx + 1) % 2 ^ 64, logH := digest 0x11 (s.chainTo r ++ bs)
                                                    sinceSign := s.sec.sinceSign + 1 } }
      if s.sec.sinceSign = 256 then s.signHead.getD s else s

/-- Records that waited for room enter the access log in order, as far as it has room (R417). -/
def State.drainLog (s : State) : List AccRec → State
  | [] => { s with sec := { s.sec with logQ := [] } }
  | r :: rs => match s.logOne r with
    | some s => s.drainLog rs
    | none => { s with sec := { s.sec with logQ := r :: rs } }

/-- A record enters the access log behind those that wait; none while the ring has no room for it (R417). -/
def State.logRecord (s : State) (r : AccRec) : Option State :=
  let s := s.drainLog s.sec.logQ
  if s.sec.logQ = [] then s.logOne r else none

/-- Whether the access log has room for a record (R417). -/
def State.logRoom (s : State) : Bool := (s.logRecord { kind := 3 }).isSome

/-- A refused debug read is recorded, when the ring has room for it (R414, R417). -/
def State.logRefused (s : State) (u : Nat) (c : Ctx) : State :=
  let r : AccRec := { kind := 5, queue := c.queue, taskId := c.taskId, unit := u }
  (s.logRecord r).getD { s with sec := { s.sec with logQ := s.sec.logQ ++ [r] } }

/-- The header and leaf records of a context's task (R370, R373): unplaced indices are void. -/
def State.taskAudit (s : State) (c : Ctx) (status : Nat) : Bytes × List Bytes :=
  let od := ((s.die c.die).objs.entry? c.obj).map (·.digest) |>.getD []
  let seq := (s.graphOf c).map (·.seq) |>.getD 0
  (taskHeader od c.params seq c.nodeIdx c.taskIdx c.leafNext c.flags.toNat status c.retain c.queue s.chipId,
    c.leafRecords c.leafNext)

end Sys2Proof.Machine
end

