-- ==== Sys2Proof/Machine/Ops.lean ====
section
/-!
DEFINITION. The named operations every instruction shares: engine jobs, taking an exception and returning from one, the end of
a task, and the issue of a bundle (03_bundles.md R60-R68, R424; 05 R136-R138; 09 R206-R219; 10 R224-R237).
-/
namespace Sys2Proof.Machine

/-! ## Context images and save slots -/

/-- A loop entry in an image (R235). -/
def Loop.image (l : Loop) : Bytes :=
  leBytes 4 (l.start + l.total / 2 ^ 64 * 2 ^ 30 + (if l.rot then 2 ^ 31 else 0)) ++ leBytes 4 l.stop ++ leBytes 8 l.total ++
    leBytes 8 l.kern ++ leBytes 8 l.index

/-- A pool-table entry as 64 bits (R157). -/
def PtEnt.word (p : PtEnt) : Nat :=
  p.level * 2 ^ 62 + p.pool * 2 ^ 58 + p.resM1 * 2 ^ 44 + p.inUse * 2 ^ 29 + (if p.valid then 1 else 0)

/-- The 4,096 bytes of a context image, with the value that mp5 reads as (R235, R253, R315). -/
def Ctx.image (c : Ctx) (mp5 : Nat) : Bytes :=
  let qs := (List.range 16).foldl (fun a i => a + if c.pq i then 2 ^ i else 0) 0
  let rec' := match c.status with
    | .parked r _ _ _ => padTo 128 r
    | _ => zeros 128
  layout 4096 [(0, leBytes 8 c.pc), (8, leBytes 4 c.taskId),
    (12, leBytes 1 (c.level + (if c.startup then 4 else 0) + (if c.touchSeal then 8 else 0))), (13, leBytes 1 c.jobCount),
    (14, leBytes 1 c.pend.toNat), (15, leBytes 1 c.banks), (16, leBytes 4 c.fmt.toNat), (20, leBytes 4 c.flags.toNat),
    (28, leBytes 4 c.vsh.toNat), (32, leBytes 2 qs), (34, leBytes 1 c.rot), (36, leBytes 2 (min 65535 c.refCnt)),
    (38, leBytes 2 (min 65535 c.deadCnt)), (40, leBytes 8 c.watch),
    (64, ((List.range 32).map fun i => leBytes 8 (c.ps i).toNat).flatten),
    (320, ((List.range 16).map fun i => leBytes 4 (c.ph i).toNat).flatten),
    (384, ((List.range 15).map fun i => leBytes 1 (c.semV.look (i + 1) 0) ++ leBytes 1 (c.semP.look (i + 1) 0)).flatten),
    (448, padTo 192 ((c.li.map Loop.image).flatten)),
    (640, ((List.range 8).map fun i => leBytes 16 (if i = 5 then mp5 else (c.mp.look i 0).toNat)).flatten),
    (768, ((List.range 16).map fun i => leBytes 8 (c.pt.look i {}).word).flatten),
    (896, ((List.range 16).map fun i => let r := fpOf c.fp i
      leBytes 10 r.base ++ leBytes 8 r.len ++ leBytes 1 r.mode ++ zeros 13).flatten),
    (1408, ((List.range 8).map fun i => let r := c.rings.look i {}
      ((List.range 16).map fun k => leBytes 4 (r.entries.look k 0)).flatten ++ leBytes 1 r.head ++
        leBytes 1 r.count ++ leBytes 1 r.claim ++ zeros 13).flatten),
    (2048, ((List.range 8).map fun r => ((List.range 20).map fun f => leBytes 8 (c.shf r f).toNat).flatten).flatten),
    (3328, rec')]

/-- The physical bank that a context's bank `n` is: the banks it holds, in rising order (R312). -/
def UnitSt.physAcc (x : UnitSt) (c : Ctx) (n : Nat) : Nat :=
  (([0, 1, 2, 3, 4, 5, 6, 7].filter fun i => (x.accs.look i {}).owner == some c.cid)[n]?).getD 0

/-- What mp5 reads as: KDONE of the bank that the context's last MCALL named (R312). -/
def State.mp5 (s : State) (u : Nat) (c : Ctx) : Nat :=
  match c.lastAcc with
  | some n => ((s.unit u).accs.look n {}).kdone
  | none => 0

/-- Byte `off` of a save slot of a die, when it exists (R236). -/
def State.saveKey (s : State) (d slot off : Nat) : Option Nat :=
  let x := s.die d
  placeKey (fld x.savePA 0 3) (fld x.savePA 16 36 * 2 ^ 16 + slot * 528384 + off)

/-- The spill engine writes bytes to a save slot of a die, as far as memory is installed there; it counts the blocks it touches
(R154, R236). -/
def State.saveBytes (s : State) (d slot off : Nat) (bs : Bytes) : State :=
  let ks := (List.range bs.length).filterMap fun i => (s.saveKey d slot (off + i)).map fun k => (k, bs.getD i 0)
  s.dieWrite d (ks.map (·.1)) (ks.map (·.2))

/-- A context that is in no bank fetches nothing ahead (R168). -/
def Ctx.dropLines (c : Ctx) : Ctx := { c with fq := [], lbuf := [] }

/-- A context with the reads that its relaxed atomics have made since, as writes on their way have arrived before an engine's (R184). -/
def State.heard (s : State) (u : Nat) (c : Ctx) : Ctx := { c with rlx := ((s.byCid? u c.cid).getD c).rlx }

/-- Writes a context's image to a save slot and holds it there (R236). -/
def State.saveTo (s : State) (d slot : Nat) (c : Ctx) : State :=
  let s := s.saveBytes d slot 0 (c.image (s.mp5 c.unit c))
  let c := s.heard c.unit c
  s.updDie d fun x => { x with saved := x.saved.put slot c.dropLines }

/-- The spill engine writes a context's poisoned banks to the areas of its unit's save slot as it parks (R314). -/
def State.spillPoisoned (s : State) (u : Nat) (c : Ctx) : State :=
  (List.range c.banks).foldl (fun s n =>
    let a := (s.unit u).physAcc c n
    if !((s.unit u).accs.look a {}).poison then s
    else s.saveBytes (u / 128) (u % 128) (4096 + n * 65536) (s.mem.readN (memKey (regAcc u a) 0) 65536)) s

/-- The lowest unreserved save slot that is free (R236). -/
def DieSt.freeSave (d : DieSt) : Option Nat :=
  ((List.range (d.saveN - 128)).map (128 + ·)).find? fun k => (d.saved.entry? k).isNone

/-- The live banks of a unit (R132). -/
def UnitSt.liveBanks (x : UnitSt) : List Nat := [0, 1, 2].filter (· ≠ x.shadow)

/-- A swap makes bank `b` live in place of live bank `out`, which becomes the shadow: 24 cycles (R133). -/
def State.swapIn (s : State) (u b out : Nat) : State :=
  s.updUnit u fun x => { x with shadow := out, swap := some ⟨b, 24⟩ }

/-- A context that is being swapped out or stopped holds no result in flight (R63, R65); a write whose shadow has closed with its last
bundle is in its registers, and one still in its shadow goes on counting bundles (R66, R249, R254, R255). -/
def Ctx.quiesce (c : Ctx) : Ctx := { c.landAll.settle with pres := none }

/-- A context that a fault parks: its shadowed writes land as well, and its fetch queue and loop buffer are given up (R65, R168,
R250). -/
def Ctx.quiesceTrap (c : Ctx) : Ctx := { c.landAll.settleAll.dropLines with pres := none }

/-- The spill engine, at the end of a swap: a running context that has left its live bank goes from the shadow to the lowest
unreserved save slot that is free (R133, R236). A context that a trap or STOP parked, and a handler, stay in the shadow. -/
def State.spillShadow (s : State) (u : Nat) : State :=
  let x := s.unit u
  let d := u / 128
  match x.ctxs.entry? x.shadow, (s.die d).freeSave with
  | some c, some k =>
    match c.status, c.handles.isNone && !c.startup && !c.shapeOpen with
    | .live, true | .ending, true => (s.saveTo d k c).updUnit u fun y => { y with ctxs := y.ctxs.del x.shadow }
    | _, _ => s
  | _, _ => s

/-! ## Landing of vector results -/

/-- A job leaves its unit. -/
def State.dropJob (s : State) (u jid : Nat) : State :=
  s.updUnit u fun x => { x with jobs := x.jobs.filter fun j => j.jid != jid }

/-- A job's flags enter its context's FLAGS and pending set, and the statistics queue (R52, R53, R222). -/
def State.jobFlags (s : State) (u : Nat) (j : Job) (f : Nat) : State :=
  if f = 0 then s
  else
    let s := s.updCid u j.cid fun c => c.setFlags f
    match s.byCid? u j.cid with
    | some c => if pendOf f = 0 then s else s.stat u c 1 j.slot f j.addr
    | none => s

/-- A leaf record of a job with its issue fields filled (R368). -/
def Job.leafRec (j : Job) (type : Nat) : LeafRec :=
  { type := type, slot := j.slot, fset := j.flags, addr := j.addr, w := j.instr.syl.w, ext := j.instr.syl.ext }

/-- Places a job's leaf, if it has an index (R370). -/
def State.jobLeaf (s : State) (u : Nat) (j : Job) (l : LeafRec) : State :=
  match j.leaf with
  | some i => s.placeLeaf u j.cid i l
  | none => s

/-- VZERO, VMIN and VMAX of a result (R368). -/
def LeafRec.withValid (l : LeafRec) (vs : List Nat) : LeafRec :=
  let v := validStats vs
  { l with vz := v.1, vmin := v.2.1, vmax := v.2.2 }

/-- Whether chunk `k` of a slot is one that a vector operation has still to land: those of its destination that it names, every chunk of
its other outputs. -/
def Job.covers (j : Job) (t : TileRef) (k : Nat) : Bool :=
  j.kind == JobKind.vec && ((j.dst == some t && bit j.lands k) || j.tilesA.contains t)

/-- Chunks of a slot become readable, but those that a later vector operation has still to land; TD follows the last (R288). -/
def State.landChunks (s : State) (u : Nat) (j : Job) (t : TileRef) : State :=
  let ks := (List.range (s.slot t).chunks).filter fun k =>
    j.covers t k && !(s.unit u).jobs.any fun i => decide (j.jid < i.jid) && i.covers t k
  let now := (s.unit (s.slot t).aUnit).cycle
  let s := s.updSlot t fun x =>
    let x := ks.foldl (fun x k =>
      { x with arrival := setBit x.arrival k, valid := x.valid.put k 1
               tFirst := if x.arrival = 0 then now else x.tFirst, tLast := now }) x
    if x.whole then { x with td := x.tdNow } else x
  s.noteChunks t ks

/-- The digest once every chunk is known: TD, or VD in AUX (R364, R369). -/
def TdWait.value (w : TdWait) : Option Bytes :=
  if w.cells.any Option.isNone then none
  else
    let cs := w.cells.filterMap id
    some (if w.pos = 3 then digest 7 (w.desc ++ cs.map fun x => BitVec.ofNat 8 x.2) else tdOf w.desc (cs.map (·.1)))

/-- A digest put where it stands in the leaf. -/
def Job.withDig (j : Job) (pos : Nat) (d : Bytes) : Job :=
  match pos with
  | 0 => { j with digA := d }
  | 1 => { j with digB := d }
  | 2 => { j with digC := d }
  | 3 => { j with digX := d }
  | _ => { j with image := d }

/-- The digests that can be formed by now leave the list of those that a leaf lacks (R370). -/
def Job.resolve (j : Job) : Job :=
  { j.tds.foldl (fun j w => w.value.elim j (j.withDig w.pos)) j with tds := j.tds.filter fun w => w.value.isNone }

/-- The leaf of a vector operation or of an ACCRD, once it lacks no digest (R369). -/
def Job.ownLeaf (j : Job) : LeafRec :=
  match j.kind with
  | .accrd => { j.leafRec 2 with sflags := if j.closed then 4 else 0, vsh := j.vsh.toNat, a := j.digA, b := j.digB, res := j.image }.withValid [1]
  | _ =>
    let l : LeafRec := { j.leafRec 4 with
      sflags := j.c, vsh := j.vsh.toNat, a := j.digA, b := j.digB, c := j.digC, aux := j.digX, res := j.image }
    if j.dst.isSome then l.withValid [1] else l

/-- An operation has retired: its leaf is placed, or waits for the chunks of its operands that have still to arrive, so that it does not
depend on when they do (R370). -/
def State.placeOrWait (s : State) (u : Nat) (j : Job) : State :=
  let j := j.resolve
  if j.tds = [] then s.jobLeaf u j j.ownLeaf else s.updUnit u fun x => { x with late := x.late ++ [j] }

/-- Leaves of a unit that lack nothing more are placed, before any bundle of the cycle can count them (R370). -/
def State.settleLeaves (s : State) (u : Nat) : State :=
  if (s.unit u).late = [] then s
  else
    let ls := (s.unit u).late.map Job.resolve
    let s := (ls.filter fun j => j.tds == []).foldl (fun s j => s.jobLeaf u j j.ownLeaf) s
    s.updUnit u fun x => { x with late := ls.filter fun j => j.tds != [] }

/-- The result of a vector operation lands: its chunks, or the register of VSUMS, its flags and its leaf (R288, R289, R301). -/
def State.landVec (s : State) (u : Nat) (j : Job) : State :=
  let s := (j.dst.toList ++ j.tilesA).foldl (fun s t => s.landChunks u j t) s
  let s := match j.dreg with
    | some (d, n) => s.updCid u j.cid fun c => c.landWhere fun f => f.dest == d && f.bundle == n
    | none => if j.flags = 0 then s else s.updCid u j.cid fun c => c.setFlags j.flags
  (s.placeOrWait u j).dropJob u j.jid

/-- Whether the register that a VSUMS writes has landed, and its flags with it (R289, R301). -/
def Job.regLanded (j : Job) (c : Ctx) : Bool :=
  j.kind == JobKind.vec && (j.dreg.map fun x => !c.fly.any fun f => f.dest == x.1 && f.bundle == x.2).getD false

/-- The vector operations of a context that `p` picks land, and every one that the unit accepted earlier, of either context (R284, R289). -/
def State.landVecs (s : State) (u cid : Nat) (p : Job → Bool) : State :=
  let vs := (s.unit u).jobs.filter fun j => j.kind == JobKind.vec
  let n : Nat := ((vs.filter fun j => j.cid == cid && p j).map (·.jid)).foldl max 0
  (vs.filter fun j => decide (j.jid ≤ n)).foldl (fun s j => s.landVec u j) s

/-- Every vector result of a context lands before it leaves its bank or parks (R65, R289). -/
def State.landAllVecs (s : State) (u cid : Nat) : State := s.landVecs u cid fun _ => true

/-! ## Mailboxes -/

/-- Posts a message to a mailbox of this module (R134, R360). -/
def State.post (s : State) (m : Msg) : State := { s with msgs := s.msgs ++ [m] }

/-! ## Taking an exception -/

/-- Causes whose record cannot resume (R227). -/
def resumable (cause : Nat) : Bool := cause != 0x30 && cause != 0x32

/-- The 128 bytes of a trap record (R228): `obs` is the faulting or observing bundle, `grp` the first bundle of its group. -/
def trapRecord (u b : Nat) (c : Ctx) (t : Trap) (obs grp : Nat) (noctx nested : Bool) : Bytes :=
  let sealed := c.touchSeal
  let fl := (if resumable t.cause && !noctx then 1 else 0) + (if t.engine then 2 else 0) + (if noctx then 4 else 0)
    + (if nested then 8 else 0) + (if sealed then 16 else 0)
  let data := t.data + (if t.cause = 5 ∨ t.cause = 0x30 then grp % 2 ^ 32 else 0) + t.kdone * 2 ^ 32
  layout 128 [(0, leBytes 1 t.cause), (1, leBytes 1 t.reason), (2, leBytes 1 t.dreason), (3, leBytes 1 t.mask),
    (4, leBytes 1 t.slot), (5, leBytes 1 fl), (6, leBytes 1 c.level), (7, leBytes 1 b), (8, leBytes 8 obs),
    (16, leBytes 8 (if t.engine then t.iss else obs)), (24, leBytes 10 t.vaddr), (40, leBytes 2 t.row), (42, leBytes 2 t.col),
    (44, leBytes 4 t.jobId), (48, leBytes 4 c.taskId), (52, leBytes 2 c.queue), (54, leBytes 2 u), (56, leBytes 8 data),
    (64, leBytes 4 t.w), (68, leBytes 4 t.ext),
    (72, if sealed then [] else ((t.snap.take 7).map fun v => leBytes 8 v.toNat).flatten)]

/-- Fences a unit with a reason (R14, R238). -/
def State.fenceUnit (s : State) (u reason : Nat) : State := s.updUnit u fun x => { x with fence := reason }

/-- The task of a die's TRAPH, when its object is loaded in queue TRAPQ and names it (R225). -/
def DieSt.trapTask (d : DieSt) : Option (Nat × TaskRec) :=
  let h := d.trapH % 2 ^ 32
  match d.objs.entry? h with
  | some o => if d.trapH ≠ 0 ∧ o.refs.contains d.trapQ then (o.tasks[d.trapH / 2 ^ 32]?).map fun t => (h, t) else none
  | none => none

/-- The virtual address of a trap record slot (R224, R238). -/
def DieSt.trapSlot (d : DieSt) (u b : Nat) : Nat := d.trapVA * 2 ^ 16 + (u % 128 * 3 + b) * 128

/-- A trap record goes to the security core, and its unit is fenced with reason 3; where TRAPH has not been set, no later step of the bring-up
runs on the die (R225, R420), which issues nothing more. DEDUCED (log 96). -/
def State.toSecurity (s : State) (u : Nat) (rec' : Bytes) : State :=
  let h := if (s.sec.heads.entry? (u / 128)).isSome then s.sec.heads else s.sec.heads.put (u / 128) (rec'.take 64)
  (State.fenceUnit { s with sec := { s.sec with heads := h } } u 3).updDie (u / 128) fun d => { d with halted := d.halted || d.trapH == 0 }

/-- Notes a MEMUE of a unit: a second one before the first is cleared fences the unit with reason 2 (R171). -/
def State.noteMemue (s : State) (u cause : Nat) : State :=
  if cause ≠ 0x30 then s
  else if (s.unit u).memue then s.fenceUnit u 2
  else s.updUnit u fun x => { x with memue := true }

/-- TAKING AN EXCEPTION (R224-R226): the context in bank `b` parks with its results landed, its record is written to its slot of
the trap area, and a handler is asked for; a nested fault fences the unit and posts the record's head; without a handler
or a record slot the record goes to the security core. -/
def State.enterTrap (s : State) (u b : Nat) (t : Trap) (obs : Nat) : State :=
  let s := s.landAllVecs u (s.ctxAt u b).cid
  let c := (s.ctxAt u b).quiesceTrap
  let nested := c.handles.isSome && !c.quiet
  let d := s.die (u / 128)
  let rec' := trapRecord u b c t obs (c.grpFrom.getD obs) false nested
  let s := ((s.trace u b c 5 obs t.cause).noteMemue u t.cause).spillPoisoned u c
  -- only a refused debug read raises PRIV with reason 2 (R234, R414)
  let s := if t.cause = 4 ∧ t.reason = 2 then s.logRefused u c else s
  let r := s.writeVA { unit := u, space := s.space (u / 128) d.trapQ } (d.trapSlot u b) rec'
  let ok := r.2 && d.trapTask.isSome
  let s := if ok then r.1 else s
  let c := s.heard u c
  let park (handled : Bool) : Ctx :=
    { c with status := .parked rec' (resumable t.cause) (t.cause == 0x21 && t.reason == 1) handled, last := .trapped t
             parkedAt := (s.unit u).cycle }
  if nested then
    let s := if ok then s.fenceUnit u 3 else s.toSecurity u rec'
    (s.setCtx u b (park true)).post { die := u / 128, mb := d.faultMB, bytes := rec'.take 64, sup := true, cid := none, job := none }
  else if ok then s.setCtx u b (park false)
  else (s.toSecurity u rec').setCtx u b (park true)

/-! ## Failing a task or a graph -/

/-- One binding of a parameter version less (R142). -/
def State.unbindVersion (s : State) (d : Nat) (v : Option (Nat × Nat × Nat)) : State :=
  match v with
  | none => s
  | some (h, i, n) => s.updDie d fun x =>
    { x with blocks := x.blocks.map fun b =>
        if b.hdr = h ∧ b.idx = i then { b with versions := b.versions.adj n ([], 0) fun p => (p.1, p.2 - 1) } else b }

/-- A node leaves the window without having run (R137): its version binding, its message and its deque entry go, and no
node waits for it. -/
def State.discardNode (s : State) (d n : Nat) (x : Node) : State :=
  let s := s.unbindVersion d x.version
  let s := s.updDie d fun y =>
    { y with window := (y.window.del n).mapv fun m => { m with deps := m.deps.filter (· != n) }
             mboxes := match x.mbox with
               | some m => y.mboxes.adj m {} fun b => { b with pending := b.pending - 1 }
               | none => y.mboxes }
  match x.state with
  | .queued u => s.updUnit u fun y => { y with deque := y.deque.filter fun e => e.1 != n }
  | _ => s

/-- A graph fails: no further node of it starts, and those not started are discarded (R137). -/
def State.failGraph (s : State) (d g : Nat) : State :=
  match (s.die d).graphs.entry? g with
  | none => s
  | some gr =>
    let ns := (s.die d).window.filter fun e => e.2.graph == g &&
      (match e.2.state with
        | .waiting => true
        | .queued _ => true
        | .held => true
        | _ => false)
    let s := gr.todo.foldl (fun s t => s.unbindVersion d t.version) s
    let s := match gr.mbox with
      | some m => s.updDie d fun x => { x with mboxes := x.mboxes.adj m {} fun b => { b with pending := b.pending - gr.todo.length } }
      | none => s
    let s := ns.foldl (fun s e => s.discardNode d e.1 e.2) s
    let gr' := { gr with status := if gr.status = 0 then 1 else gr.status, todo := [], left := gr.left - gr.todo.length - ns.length }
    s.updDie d fun x => { x with graphs := x.graphs.put g gr' }

/-- A task ends as failed (R136, R137, R229, R232): it drains its jobs, its tiles are freed, its graph fails. -/
def State.killCtx (s : State) (u cid : Nat) : State :=
  match s.byCid? u cid with
  | none => s
  | some c =>
    let s := (s.landAllVecs u cid).updCid u cid fun c => { c.quiesce with status := .ending, killed := true, endPhase := 1 }
    if c.handles.isNone && !c.startup then s.failGraph c.die c.graph else s

/-! ## The end of a task -/

/-- The tiles abandoned at the end of a context: those its task owns and those its rings hold, landing tiles apart, in slot order
(R163). -/
def State.abandoned (s : State) (u : Nat) (c : Ctx) : List TileRef :=
  ((unitPads u).flatMap s.tilesOf).filter fun t =>
    let x := s.slot t
    (x.okind == 1 && x.oid == c.taskId) ||
      (x.okind == 2 && x.chan.isNone && x.oid / 8 == u && (c.rings.look (x.oid % 8) {}).handles.contains (s.handleNow t))

/-- Landing tiles in the context's rings pass back to their channels (R163). -/
def State.returnLandings (s : State) (u : Nat) (c : Ctx) : State :=
  (((unitPads u).flatMap s.tilesOf).filter fun t =>
    let x := s.slot t
    x.okind == 2 && x.chan.isSome && x.oid / 8 == u && (c.rings.look (x.oid % 8) {}).handles.contains (s.handleNow t)).foldl
    (fun s t => s.updSlot t fun x => { x with okind := 3, oid := u * 256 + (x.chan.getD (0, 0, 0)).2.1 }) s

/-- Step 3 of R219: abandoned tiles are released, with one statistics record (R222). Its sum of READS saturates, its count of tiles does not.
DESIGN CHOICE (log 94). -/
def State.releaseAbandoned (s : State) (u : Nat) (c : Ctx) : State :=
  let ts := s.abandoned u c
  let sum := ts.foldl (fun a t => a + (s.slot t).reads) 0
  let s := s.returnLandings u c
  let s := ts.foldl (fun s t => s.release t true false) s
  if ts = [] ∨ c.killed ∨ c.quiet then s
    else s.stat u c 4 1 (ts.length % 65536 + min 65535 sum * 65536) c.pc

/-- The slots that a task's pool table reserves return to their pools (R122, R131). -/
def State.unreserve (s : State) (u : Nat) (pt : Map PtEnt) : State :=
  pt.foldl (fun s e =>
    if !e.2.valid then s
    else s.updPad (padIdx u e.2.level) fun p => { p with resv := p.resv.adj e.2.pool 0 (· - (e.2.resM1 + 1)) }) s

/-- A context leaves its bank or save slot; the accumulator banks it owned are free, and start-up mode ends (R169, R237, R312). -/
def State.dropCtx (s : State) (u : Nat) (c : Ctx) : State :=
  let s := s.updUnit u fun x =>
    { x with ctxs := x.ctxs.filter fun e => e.2.cid != c.cid
             late := x.late.filter fun j => j.cid != c.cid
             accs := x.accs.mapv fun a => if a.owner = some c.cid then { a with owner := none } else a
             filled := if c.startup then [] else x.filled }
  s.updDie (u / 128) fun d => { d with saved := d.saved.filter fun e => e.2.cid != c.cid }

/-- Whether a packet or a message that a context sent before job `jid` is still on its way (R184). -/
def State.airborne (s : State) (cid jid : Nat) : Bool :=
  let mine (c j : Option (Nat × Nat)) : Bool := c.map (·.2) == some cid && (j.map fun x => decide (x.2 < jid)).getD true
  s.ports.any (fun p => (p.2.unacked ++ p.2.queued).any fun x => mine x.cid x.job) || s.msgs.any fun m => mine m.cid m.job

/-- Step 5 of R219: the root is passed when the die's root queue has room and, unless the task has failed, every leaf is placed (R370,
R373), and the context ends. A start-up context has no root. The FLAGS of a task that ends as failed stay out of the graph's record.
DESIGN CHOICE (log 86). -/
def State.endRoot (s : State) (u : Nat) (c : Ctx) : State :=
  if c.startup then s.dropCtx u c
  else if !s.rootRoom c.die || (!c.killed && !c.allPlaced) then s
  else
    let (hdr, recs) := s.taskAudit c (if c.killed then 1 else 0)
    let (s, idx) := s.passRoot c.die c.queue hdr recs (if c.killed then 1 else 0) c.retain
    let s := s.dropCtx u c
    if c.handles.isSome then s.unreserve u c.pt
    else s.updDie c.die fun d =>
      { d with window := match d.window.entry? c.node with
                 | some n => d.window.put c.node { n with state := .ended u }
                 | none => d.window
               graphs := match d.graphs.entry? c.graph with
                 | some g => d.graphs.put c.graph
                     { g with leaf := idx, flags := if c.killed then g.flags else g.flags ||| c.flags.toNat
                              sent := if s.airborne c.cid s.nextJid then c.cid :: g.sent else g.sent }
                 | none => d.graphs }

/-- The jobs of a context. -/
def State.jobsOf (s : State) (u cid : Nat) : List Job := (s.unit u).jobs.filter fun j => j.cid == cid

/-- The trap of a faulted job, as the observing bundle raises it (R228). -/
def Job.trap (j : Job) (t : Trap) : Trap :=
  let y := (encodeSyl j.instr).getD ⟨7, 0, 0⟩
  { t with engine := true, iss := j.addr, slot := j.slot, jobId := j.tag, w := y.w, ext := y.ext, snap := j.snap }

/-- The earliest-issued faulted job among some (R212, R424). -/
def State.faultOf (s : State) (u : Nat) (jids : List Nat) : Option Trap :=
  ((s.unit u).jobs.find? fun j => jids.contains j.jid && j.fault.isSome).bind fun j => j.fault.map j.trap

/-- The live bank of a context (R132): a fault of the end of a task is raised there, where a handler can follow (R225). -/
def UnitSt.liveBankOf (x : UnitSt) (cid : Nat) : Option Nat :=
  (x.bankOf cid).filter fun b => x.liveBanks.contains b && (x.swap.map (·.bank)) != some b

/-- The egress record of a job that crossed (R417). -/
def Job.egress (j : Job) (u task : Nat) : AccRec :=
  { kind := 3, port := if j.kind = .send then 0 else 1, queue := j.queue, mask := j.cmask, amount := j.crossed, taskId := task, unit := u }

/-- A failed task gives its faulted jobs up (R137); the records of those that crossed wait for room in the access log (R417). -/
def State.dropFaulted (s : State) (u : Nat) (c : Ctx) : State :=
  let gone (j : Job) : Bool := j.cid == c.cid && j.fault.isSome
  let owed := ((s.unit u).jobs.filter fun j => gone j && j.crossed != 0).map fun j => j.egress u c.taskId
  { (s.updUnit u fun x => { x with jobs := x.jobs.filter fun j => !gone j }) with sec := { s.sec with logQ := s.sec.logQ ++ owed } }

/-- One cycle of the end of a task (R219 steps 2-5). Step 2 waits for a SPAWN to be accepted or refused as it waits for the engine jobs.
DESIGN CHOICE (log 116). Step 4 discards the pending flags and the loop entries. -/
def State.endStep (s : State) (u : Nat) (c : Ctx) : State :=
  let failed := c.killed || c.quiet
  match c.endPhase with
  | 1 =>
    -- step 2 closes the task's open gathers (R264)
    let s := s.updUnit u fun x =>
      { x with jobs := x.jobs.map fun j => if j.cid == c.cid && j.kind == JobKind.gather then { j with closed := true } else j }
    let s := if failed then s.dropFaulted u c else s
    let s := s.updCid u c.cid Ctx.quiesce
    match s.faultOf u (s.obsAll u c), (s.unit u).liveBankOf c.cid with
    | some t, some b => s.enterTrap u b t c.pc
    | _, _ => if (s.jobsOf u c.cid).isEmpty then s.updCid u c.cid fun c => { c with endPhase := 2 } else s
  | 2 =>
    match c.strict && !failed, s.abandoned u c, (s.unit u).liveBankOf c.cid with
    | true, _ :: _, none => s
    | true, t :: _, some b =>
      let s := s.updCid u c.cid fun c => { c with endPhase := 3 }
      s.enterTrap u b { cause := 0x17, slot := 1, data := s.handleNow t + (s.slot t).reads * 2 ^ 32, w := c.endW } c.pc
    | _, _, _ => (s.releaseAbandoned u c).updCid u c.cid fun c => { c with endPhase := 4, pend := 0, li := [] }
  | 3 => (s.releaseAbandoned u c).updCid u c.cid fun c => { c with endPhase := 4, pend := 0, li := [] }
  | _ => s.endRoot u c

/-! ## Returning from an exception -/

/-- The status a parked context takes when it resumes: the end of its task goes on if it had begun (R227). After a breakpoint the bundle at its
PC is issued without another check (R243), also where the handler has written that PC. DESIGN CHOICE (log 110). -/
def Ctx.resume (c : Ctx) (brk : Bool) : Ctx :=
  { c with status := if c.endPhase = 0 then .live else .ending, pres := none, inRun := false
           brkSkip := if brk then some c.pc else none, last := .idle }

/-- RETURN FROM AN EXCEPTION (R229): the context parked for this handler takes its live bank after a swap, or ends as failed when
its record cannot resume; the handler then completes without TASKEND. -/
def State.returnTrap (s : State) : State :=
  let u := s.curU
  let h := s.cur
  let s := (s.landAllVecs u h.cid).updCur fun c => { c.quiesce with status := .ending, quiet := true, endPhase := 1 }
  match h.handles with
  | some (some cid) =>
    match s.byCid? u cid, (s.unit u).bankOf cid with
    | some p, some b =>
      match p.status with
      | .parked _ res brk _ =>
        if res then ((s.updCid u cid fun c => c.resume brk).trace u s.curB h 6 h.pc p.pc).swapIn u b s.curB else s.killCtx u cid
      | _ => s
    | _, _ => s
  | _ => s

/-! ## Engine jobs -/

/-- Whether a job counts in the 64 of its unit's engine (R132, R231, R257): a SENDT does once it has fired. -/
def Job.engine (j : Job) : Bool :=
  match j.kind, j.instr with
  | .send, .sendt .. => j.phase != 0
  | .copyIn, _ | .gather, _ | .tmove, _ | .ldg, _ | .ovl, _ | .copyOut, _ | .copyAcc, _ | .scatter, _ | .stg, _ | .atomic, _ | .prime, _
  | .mbox, _ | .send, _ => true
  | _, _ => false

/-- Whether a unit's engine holds as many jobs as it can (R257). -/
def State.engineFull (s : State) (u : Nat) : Bool := decide (64 ≤ ((s.unit u).jobs.filter Job.engine).length)

/-- The kinds that bear a job tag: all but vector operations, bank reads and counter adds that wait (R231). -/
def JobKind.tagged : JobKind → Bool
  | .vec | .accrd | .ctradd => false
  | _ => true

/-- The tag of the next job of the context in bank `b` (R231). -/
def Ctx.nextTag (c : Ctx) (b addr : Nat) : Nat := addr % 2 ^ 22 + b * 2 ^ 22 + c.jobCount % 256 * 2 ^ 24

/-- The address of the bundle that is issuing. -/
def State.issAddr (s : State) : Nat := (s.cur.pres.map (·.addr)).getD s.cur.pc

/-- The scalar sources of an operation at issue, in field order (R228). -/
def Ctx.snapOf (c : Ctx) (i : Instr) : List Word := ((i.uses []).rs.take 7).map c.rs

/-- A job of the issuing context for an operation, with what it samples at issue (R28, R145, R231). -/
def State.newJob (s : State) (k : JobKind) (i : Instr) (sem : Nat) : Job :=
  let c := s.cur
  { jid := s.nextJid, cid := c.cid, die := c.die, queue := c.queue, kind := k, instr := i, addr := s.issAddr, slot := i.slot
    tag := c.nextTag s.curB s.issAddr, sem := sem, fps := c.fp, fmt := c.fmt, vsh := c.vsh, mp := c.mp, snap := c.snapOf i
    issued := (s.unit s.curU).cycle }

/-- The semaphore of a copy or store job: 16 stands for the completion mailbox that takes the place of e15 (R135). -/
def State.semFor (s : State) (e : Nat) : Nat :=
  if e = 15 ∧ bit (s.queue s.cur.die s.cur.queue).notify 12 ∧ s.cur.startup = false then 16 else e

/-- What the job of an operation adds to its semaphore's counts (R213). -/
def State.semAdds (s : State) (e : Nat) : List (Nat × Nat) := if s.semFor e = 16 then [] else [(e, 1)]

/-- A job is issued: it enters its unit, its semaphore's PEND and the job count rise (R213, R231). -/
def State.issueJob (s : State) (j : Job) : State :=
  let s := { s with nextJid := s.nextJid + 1 }
  let s := s.updUnit s.curU fun x => { x with jobs := x.jobs ++ [j] }
  s.updCur fun c =>
    { c with jobCount := if j.kind.tagged then c.jobCount + 1 else c.jobCount, semP := if j.sem = 0 ∨ j.sem = 16 then c.semP else c.semP.adj j.sem 0 (· + 1) }

/-- Semaphore `e` of a context moves from PEND to VALUE (R213). -/
def State.semGain (s : State) (u cid e : Nat) : State :=
  if e = 0 ∨ e = 16 then s
  else s.updCid u cid fun c => { c with semV := c.semV.adj e 0 (· + 1), semP := c.semP.adj e 0 (· - 1) }

/-- The semaphore of a job that completes or is given up moves from PEND to VALUE (R213). -/
def State.semDone (s : State) (u : Nat) (j : Job) : State := s.semGain u j.cid j.sem

/-- Takes the leaf index of an operation that is issuing (R370). -/
def State.takeLeaf (s : State) (i : Instr) : State × Nat :=
  let r := s.cur.takeLeaf s.issAddr i.slot i.syl.w i.syl.ext
  (s.setCur r.1, r.2)

/-! ## Landings observed (R371) -/

/-- The arrival that a landing-slot handle names, and its channel: the one in the slot, or a later one by the releases between
(R271). -/
def State.arrivalOf (s : State) (u : Nat) (c : Ctx) (h : Nat) : Option (Nat × Nat) :=
  match s.tile? u c h with
  | none => none
  | some t =>
    let x := s.slot t
    match x.chan with
    | some (cu, ch, k) =>
      if cu ≠ u then none
      else match s.end? u ch with
        | none => none
        | some e =>
          -- the first arrival of the slot not yet counted
          let a := (e.nextIn + (k + e.depth - e.nextIn % e.depth) % e.depth) % 2 ^ 32
          let begun := ((e.landings.entry? a).map (·.begun)).getD false
          let now := if x.okind = 0 then (if begun then a + e.depth else a) else if begun then a else a + 2 ^ 32 - e.depth
          some (ch, (now + (fld h 0 12 + 4095 - x.gen) % 4095 * e.depth) % 2 ^ 32)
    | none => none

/-- The landing that a tile operand names, as an observation. -/
def State.seesTile (s : State) (u : Nat) (c : Ctx) (h : Nat) : List (Nat × Nat) := (s.arrivalOf u c h).toList

/-- The statistics records of a landing that is observed (R222). -/
def State.landingStats (s : State) (u : Nat) (c : Ctx) (ch : Nat) (l : Landing) (slot addr : Nat) : State :=
  let s := if l.filled = 0 then s else s.stat u c 2 slot (ch + l.filled % 1024 * 256) addr
  if l.dup then s.stat u c 3 slot ch addr else s

/-- Whether counter value `a` is at or after `b`, modulo 2^32 (R343). -/
def aheadOf (a b : Nat) : Bool := decide ((a + 2 ^ 32 - b) % 2 ^ 32 < 2 ^ 31)

/-- Whether arrival `a` lies before count `b`, modulo 2^32 (R343). -/
def isBefore (a b : Nat) : Bool := aheadOf b a && a != b

/-- The landings of the channels of a counter that its value counts and that nobody has observed (R349, R371). -/
def Endpoint.counted (e : Endpoint) (c : Nat) : List (Nat × Nat) :=
  (e.ends.filter fun x => x.2.ctr == c).flatMap fun x =>
    (x.2.landings.filter fun l => l.2.done && !l.2.seen && isBefore l.1 x.2.nextIn).map fun l => (x.1, l.1)

/-- One landing is observed by the issuing bundle: its leaf index, and its leaf once it has completed (R371). -/
def State.observe1 (s : State) (slot w ext : Nat) (cn : Nat × Nat) : State :=
  let u := s.curU
  match (s.end? u cn.1).bind fun e => (e.landings.entry? cn.2).map fun l => (e, l) with
  | none =>
    -- an arrival that has not begun is marked as it will land
    let r := s.cur.takeLeaf s.issAddr slot w ext
    match s.end? u cn.1 with
    | none => s
    | some _ => (s.setCur r.1).updEnd u cn.1 fun e =>
      { e with landings := e.landings.put cn.2 { n := cn.2, seen := true, leaf := some (s.cur.cid, r.2) } }
  | some (e, l) =>
    if l.seen then s
    else
      let r := s.cur.takeLeaf s.issAddr slot w ext
      let s := (s.setCur r.1).updEnd u cn.1 fun e =>
        { e with landings := e.landings.put cn.2 { l with seen := true, leaf := some (s.cur.cid, r.2) } }
      if l.done then
        (s.placeLeaf u s.cur.cid r.2 (landingLeaf e cn.1 l s.issAddr slot w ext)).landingStats u s.cur cn.1 l slot s.issAddr
      else s

/-- Insertion of an observation in ascending channel, then arrival (R371). -/
def insObs (x : (Nat × Nat) × Nat × Nat × Nat) : List ((Nat × Nat) × Nat × Nat × Nat) → List ((Nat × Nat) × Nat × Nat × Nat)
  | [] => [x]
  | y :: ys =>
    if x.1 = y.1 then y :: ys
    else if x.1.1 < y.1.1 ∨ x.1.1 = y.1.1 ∧ x.1.2 < y.1.2 then x :: y :: ys
    else y :: insObs x ys

/-! ## The issue of a bundle -/

/-- What one slot of a bundle is, for the examination of R424. -/
structure SlotSem where
  i : Instr
  q : Nat
  /-- semaphores that gain a count or a pending job, with how much (R213) -/
  adds : State → List (Nat × Nat) := fun _ => []
  /-- engine jobs it gives the command port (R257) -/
  port : Nat := 0
  /-- jobs whose fault it observes (step 1) -/
  obs : State → List Nat := fun _ => []
  /-- issue checks in order (step 2) -/
  check : State → Option Trap := fun _ => none
  /-- faults that can arise during a hold -/
  stuck : State → Option Trap := fun _ => none
  /-- whether it must hold (step 3) -/
  hold : State → Bool := fun _ => false
  /-- what a wait does to the machine while it is examined (R350) -/
  hook : State → State := fun s => s
  /-- an effect that starts in the first cycle and holds the bundle until it has taken hold -/
  start : Option (State → State) := none
  /-- landings it observes (R371) -/
  sees : State → List (Nat × Nat) := fun _ => []
  /-- handles of the tiles that it reads consuming, once for each read (R161) -/
  takes : State → List Nat := fun _ => []
  /-- it releases a tile outright (R270): every other slot of its bundle reads first -/
  drops : Bool := false
  /-- its effect (step 4) -/
  eff : State → State

/-- The first answer of a list of checks. -/
def firstTrap : List (Option Trap) → Option Trap
  | [] => none
  | some t :: _ => some t
  | none :: ts => firstTrap ts

/-- A fault of a slot, with what its record says of the slot (R228). -/
def SlotSem.fill (o : SlotSem) (s : State) (t : Trap) : Trap :=
  if t.engine then t
  else { t with slot := o.i.slot, w := o.i.syl.w, ext := o.i.syl.ext, snap := s.cur.snapOf o.i }

/-- Whether the consuming reads `hs` take the last read of the tile of handle `h` (R161). -/
def State.takenUp (s : State) (u : Nat) (hs : List Nat) (h : Nat) : Bool :=
  let x := s.slot (placeOf u h)
  x.gen == fld h 0 12 && x.okind != 0 && x.reads != 0 && decide (x.reads ≤ hs.count h)

/-- The machine in which a slot that reads `own` consuming makes its checks, where slots before it in the bundle read `prev`
consuming: a tile whose last read they take is stale for it (R161, R162, R396). The spec allows either slot to raise the fault; the later one in
header order does here. DESIGN CHOICE (log 73). -/
def State.spent (s : State) (u : Nat) (own : List Nat) : List Nat → State
  | [] => s
  | prev => own.foldl (fun s h => if s.takenUp u prev h then
      s.updSlot (placeOf u h) fun x => { x with gen := x.gen % 4095 + 1, okind := 0, reads := 0 } else s) s

/-- The issue checks of the slots of a bundle, in header order (R424): the first that fails. -/
def State.slotChecks (s : State) : List Nat → List SlotSem → Option Trap
  | _, [] => none
  | prev, o :: os =>
    match o.check (s.spent s.curU (o.takes s) prev) with
    | some t => some (o.fill s t)
    | none => s.slotChecks (prev ++ o.takes s) os

/-- Every slot takes effect in one cycle (R424): a tile whose last read one slot takes is released once every slot has read it. -/
def State.takeEffect (s : State) : List SlotSem → State
  | [] => s
  | [o] => o.eff s
  | os =>
    let u := s.curU
    let hs := os.flatMap fun o => o.takes s
    let lent := hs.eraseDups.filter (s.takenUp u hs)
    let s := lent.foldl (fun s h => s.updSlot (placeOf u h) fun x => { x with reads := x.reads + hs.count h }) s
    let s := (os.filter fun o => !o.drops).foldl (fun s o => o.eff s) s
    let s := (os.filter (·.drops)).foldl (fun s o => o.eff s) s
    lent.foldl (fun s h =>
      if (s.slot (placeOf u h)).gen = fld h 0 12 then (s.updSlot (placeOf u h) fun x => { x with reads := 1 }).consume u h else s) s

/-- Operations of the unit-pad scalar port (R132). -/
def padPort (i : Instr) : Bool :=
  match i with
  | .ldt .. | .ldtr .. | .stt .. | .sttr .. => true
  | _ => false

/-- Operations of the engine command port (R132). -/
def cmdPort (i : Instr) : Bool :=
  match i with
  | .copyin .. | .gpush .. | .gather .. | .tmove .. | .ldg .. | .copyout .. | .copyacc .. | .stg .. | .atom .. | .cas .. | .scatter .. |
    .send .. | .sendt .. | .putr .. | .mbox .. | .prime .. => true
  | _ => false

/-- Whether two slots of a bundle present an operation for one shared port, which admits one a cycle (R132). -/
def twoForPort (os : List SlotSem) : Bool :=
  let two (f : Instr → Bool) : Bool := decide (1 < (os.filter fun o => f o.i).length)
  two padPort || two cmdPort

/-- Whether the semaphores of some slots have room (R213). -/
def semRoom (c : Ctx) (adds : List (Nat × Nat)) : Bool :=
  adds.all fun a => a.1 == 0 ||
    decide (c.semV.look a.1 0 + c.semP.look a.1 0 + ((adds.filter fun b => b.1 == a.1).map (·.2)).foldl (· + ·) 0 ≤ 255)

/-- The address of the next bundle in the sequence from `a`, past line pads, and whether a pad was passed (R56). -/
def skipPads (byteAt : Nat → Option Nat) : Nat → Nat → Nat × Bool
  | 0, a => (a, false)
  | f + 1, a => if byteAt a = some 0 then ((skipPads byteAt f (a / 64 * 64 + 64)).1, true) else (a, false)

/-- Whether a byte of a context's instruction space can be fetched, else the fault (R64, R167, R169, R171). -/
def State.fetchTrap (s : State) (u : Nat) (c : Ctx) (a : Nat) : Option Trap :=
  if c.startup then
    if a < 65536 ∧ ((s.unit u).filled.entry? (a / 64)).isSome then none else some (trapOf 5 1)
  else match (s.die c.die).objs.entry? c.obj with
    | none => some (trapOf 5 0)
    | some o =>
      if a < o.base ∨ o.base + o.len ≤ a then some (trapOf 5 0)
      else if (s.gpoison.entry? ((memKey (regCode (u / 16)) a) / 64)).isSome then some (trapOf 0x30 0)
      else none

/-- Where a byte of a context's instruction space lies. -/
def codeKey (u : Nat) (c : Ctx) (a : Nat) : Nat := if c.startup then memKey (regScratch u) a else memKey (regCode (u / 16)) a

/-- A line that a context has fetched already: in its loop buffer or its fetch queue (R168). -/
def Ctx.line? (c : Ctx) (n : Nat) : Option Bytes := (c.lbuf.entry? n).or (c.fq.entry? n)

/-- A byte of a context's instruction space as the context fetches it, if it can be fetched (R168). -/
def State.codeByte (s : State) (u : Nat) (c : Ctx) (a : Nat) : Option Nat :=
  if (s.fetchTrap u c a).isSome then none
  else some (match c.line? (a / 64) with
    | some l => l.getD (a % 64) 0
    | none => s.mem.read (codeKey u c a)).toNat

/-- The bytes from an address to the end of its line, as the context fetches them (R168). -/
def State.codeLine (s : State) (u : Nat) (c : Ctx) (a : Nat) : Bytes :=
  match c.line? (a / 64) with
  | some l => l.drop (a % 64)
  | none => s.mem.readN (codeKey u c a) (64 - a % 64)

/-- The line after those that a context's queue holds from line `n` on. -/
def nextLine (n : Nat) (q : Map Bytes) : Nat := q.foldl (fun k e => if e.1 = k then k + 1 else k) n

/-- The fetch of a cycle (R168). The queue lets go of the lines before that of the next bundle, and of all its lines when the next
bundle's is in neither queue nor buffer. It then fetches one more line in sequence, up to eight. In the first iteration of the
innermost loop the loop buffer captures the line of the bundle. How far ahead of the bundle the queue has come is the model's choice: one
line a cycle (log 9). -/
def State.fetchLines (s : State) (u : Nat) (c : Ctx) : Ctx :=
  let n := c.pc / 64
  let q : Map Bytes := c.fq.filter fun e => decide (n ≤ e.1)
  let q : Map Bytes := if (q.entry? n).isSome ∨ (c.lbuf.entry? n).isSome then q else []
  let k := nextLine n q
  let q : Map Bytes := if 8 ≤ q.length ∨ (s.fetchTrap u c (if k = n then c.pc else k * 64)).isSome ∨ (q = [] ∧ (c.lbuf.entry? n).isSome) then q
    else q.put k (s.mem.readN (codeKey u c (k * 64)) 64)
  let buf := match c.li, q.entry? n with
    | l :: _, some x => if l.index = 0 ∧ l.start ≤ c.pc ∧ c.pc < l.stop ∧ (c.lbuf.entry? n).isNone then c.lbuf.put n x else c.lbuf
    | _, _ => c.lbuf
  { c with fq := q, lbuf := buf }

/-- The B ops that end a fetch run, whatever the predicate (R64). -/
def endsRun (ss : List Syl) : Bool := ss.any fun y => y.slot == 1 && [0, 1, 2, 3, 4, 5, 6, 7, 0x11, 0x13].contains (fld y.w 26 6)

/-- The fault of the fetch run that begins at `a`: the first byte of it that cannot be fetched (R64). -/
def State.scanRun (s : State) (u : Nat) (c : Ctx) : Nat → Nat → Option Trap
  | 0, _ => none
  | f + 1, a =>
    match s.fetchTrap u c a with
    | some t => some t
    | none =>
      match decodeLine (s.codeLine u c a) with
      | .linePad => none
      -- the bytes of the bundle up to the end of its line are fetched before its length is known to be too great
      | .runsPast => (List.range (64 - a % 64)).findSome? fun i => s.fetchTrap u c (a + i)
      | .bundle stop len ss =>
        match (List.range len).findSome? fun i => s.fetchTrap u c (a + i) with
        | some t => some t
        | none =>
          if stop || endsRun ss || (c.li.head?.map (·.stop)) == some (a + len) then none
          else s.scanRun u c f (a + len)

/-- The handle registers that mp3 names, which an MCALL reads (R253, R335). -/
def Ctx.m3 (c : Ctx) : List Nat :=
  let v := (c.mp.look 3 0).toNat
  [fld v 0 4, fld v 32 4, fld v 64 4, fld v 96 4]

/-- A mask of slots (R68). -/
def maskOf (slots : List Nat) : Nat := slots.eraseDups.foldl (fun a i => a + 2 ^ i) 0

/-- The decode fault of a bundle's syllables, else their operations (R62, R67, R68). Row 7 of R68 names the rules of R67 together:
when a bundle breaks several of them, the mask here holds the slots of each. DESIGN CHOICE (log 72). -/
def decodeBundle (level : Nat) (m3 : List Nat) (grp : List Dest) (ss : List Syl) : Except Trap (List Instr) :=
  let err (r : DecErr) : List Nat := (ss.filter fun y => decodeSyl y == .err r).map (·.slot)
  let ops := ss.filterMap fun y => match decodeSyl y with
    | .ok i => some i
    | .err _ => none
  let priv := if level = 0 then (ss.filter sylPriv).map (·.slot) else []
  let us := ops.map fun i => (i.slot, i.uses m3)
  let wr := us.flatMap fun x => x.2.writes
  let twice := (us.filter fun x => x.2.writes.any fun d => decide (1 < wr.count d)).map (·.1)
  let rd := ((us.flatMap fun x => x.2.rs).filter (· ≠ 0)).eraseDups
  let many := if 8 < rd.length then (us.filter fun x => x.2.rs.any (· ≠ 0)).map (·.1) else []
  let wrs := (us.flatMap fun x => x.2.ws).filter (· ≠ 0)
  let manyW := if 4 < wrs.eraseDups.length then (us.filter fun x => x.2.ws.any (· ≠ 0)).map (·.1) else []
  let banksM := (us.filter fun x => x.1 == 5).flatMap fun x => x.2.banks
  let banksO := (us.filter fun x => x.1 == 6).flatMap fun x => x.2.banks
  let bank := if banksM.any fun b => banksO.contains b then [5, 6] else []
  let rule := twice ++ many ++ manyW ++ bank
  let dep := (us.filter fun x => x.2.reads.any fun d => grp.contains d).map (·.1)
  let fault (cause reason : Nat) (m : List Nat) : Except Trap (List Instr) :=
    .error { cause := cause, reason := reason, dreason := reason, mask := maskOf m }
  if err .reservedOp ≠ [] then fault 2 1 (err .reservedOp)
  else if err .undefinedFn ≠ [] then fault 2 2 (err .undefinedFn)
  else if priv ≠ [] then fault 4 3 priv
  else if err .reservedField ≠ [] then fault 3 4 (err .reservedField)
  else if err .wrongX ≠ [] then fault 3 5 (err .wrongX)
  else if rule ≠ [] then fault 3 6 rule
  else if dep ≠ [] then fault 3 8 dep
  else .ok ops

/-- Whether an operation's transfer is taken in this bundle, before it issues (R208). A live LBREAK does not count in the straddle test.
DESIGN CHOICE (log 89). -/
def willJump (c : Ctx) : Instr → Bool
  | .br q _ | .brExt q _ _ | .call q _ | .callExt q _ _ | .brs q _ | .calls q _ => c.rq q
  | .loop q sa _ => c.rq q && c.rs sa == 0
  | .loopi q n _ => c.rq q && n == 0
  | .loopiExt q n _ e => c.rq q && n == 0 && e == 0
  | .loopr q sa epi _ => c.rq q && c.rs sa == 0 && epi == 0
  | _ => false

/-- Operations that end their group (R204). -/
def endsGroup : Instr → Bool
  | .loop .. | .loopi .. | .loopiExt .. | .loopr .. | .lbreak .. | .yield .. => true
  | _ => false

/-- The iteration boundary test of R208 on the loop stack: the context after it, the next address, and whether a boundary was met. -/
def boundary (addr : Nat) (c : Ctx) (nx : Nat) : List Loop → Ctx × Nat × Bool
  | [] => ({ c with li := [] }, nx, false)
  | l :: ls =>
    if l.start ≤ addr ∧ addr < l.stop ∧ nx = l.stop then
      let i := l.index + 1
      let c := if l.rot then
          let c := { c with rot := (c.rot + 7) % 8 }
          c.write (c.dq 8) (if i < l.kern then 1 else 0) 0
        else c
      if i < l.total then ({ c with li := { l with index := i } :: ls }, l.start, true)
      else
        let r := boundary addr c nx ls
        (r.1, r.2.1, true)
    else ({ c with li := l :: ls }, nx, false)

/-- Whether a context may issue once it is live (R133). -/
def Ctx.startable (c : Ctx) : Bool :=
  match c.status with
  | .live => true
  | .ending => true
  | _ => false

/-- Whether the shadow of a unit may become live: it is empty or holds a context that can issue. -/
def UnitSt.shadowOk (x : UnitSt) : Bool := ((x.ctxs.entry? x.shadow).map Ctx.startable).getD true

/-- The current context leaves its live bank for the shadow, whose context takes the bank (R133): its results land first (R65). -/
def State.leave (s : State) : State :=
  let u := s.curU
  let s := (s.landAllVecs u s.cur.cid).updCur fun c => { c.quiesce with preempt := false, swapDue := false, stall := 0 }
  let tgt := (((s.unit u).ctxs.entry? (s.unit u).shadow).map (·.pc)).getD s.cur.pc
  (s.trace u s.curB s.cur 6 s.cur.pc tgt).swapIn u (s.unit u).shadow s.curB

/-- Whether the current context may leave its bank: no shape write is in its shadow, no swap is in progress, an unreserved save slot
is free (R236, R250). -/
def State.mayLeave (s : State) : Bool :=
  let u := s.curU
  !s.cur.shapeOpen && (s.unit u).swap.isNone && s.cur.startable && (s.die (u / 128)).freeSave.isSome

/-- Pre-emption lands (R133, R138). It stays pending while the shadow holds a context that cannot issue. -/
def State.preemptLands (s : State) : State :=
  if s.cur.preempt && s.mayLeave && (s.unit s.curU).shadowOk then s.leave else s

/-- Whether the shadow of a unit holds a context that can issue. -/
def UnitSt.shadowWaits (x : UnitSt) : Bool := ((x.ctxs.entry? x.shadow).map Ctx.startable).getD false

/-- A stall swap that fell due before it could land does so at a group boundary (R133, R250). -/
def State.stallLands (s : State) : State :=
  if s.cur.swapDue && s.mayLeave && (s.unit s.curU).shadowWaits then s.leave else s

/-- One more cycle in which the current context was held: from the 257th on a stall swap is due while the shadow holds a context that can
issue (R133). -/
def State.noteStall (s : State) : State :=
  let x := s.unit s.curU
  s.updCur fun c => if c.last = .held then
      { c with stall := c.stall + 1
               swapDue := c.swapDue || (decide (256 ≤ c.stall) && x.shadowWaits && (s.die (s.curU / 128)).freeSave.isSome) }
    else c

/-- The sequencer's part of a bundle that has issued: transfers, loops, group ends, traps that follow the bundle, the next PC
(R61, R204-R209, R217, R219, R229, R241). -/
def State.finishBundle (s : State) (p : Pres) (ops : List Instr) : State :=
  let u := s.curU
  let b := s.curB
  let c0 := s.cur
  let c := { c0 with bundleNo := c0.bundleNo + 1, pres := none, after := .none, last := .issued, stall := 0, brkSkip := none }
  -- results of this bundle were issued under its own number
  let (taken, nx0, c) : Bool × Nat × Ctx := match c0.after with
    | .jump t => (true, t, c)
    | .pushLoop l => (false, p.addr + p.len, { c with li := l :: c.li })
    | .lbreak => (true, (c.li.head?.map (·.stop)).getD (p.addr + p.len), { c with li := c.li.tail })
    | _ => (false, p.addr + p.len, c)
  let r := skipPads (s.codeByte u c) 65536 nx0
  let pad := r.2 && !taken
  let (c, nx, bound) := boundary p.addr c r.1 c.li
  let brk := match c0.after with
    | .lbreak => true
    | _ => false
  let ends := p.stop || taken || bound || pad || brk || ops.any endsGroup
  let c := if ends then { c with grp := [], grpFrom := none }
    else { c with grp := c.grp ++ ops.flatMap fun i => (i.uses c.m3).writes }
  -- a run ends with a bundle that ends at END of the innermost loop, whether or not that is a boundary (R64)
  let inRun := !(ends || (c0.li.head?.map (·.stop)) == some (p.addr + p.len) || ops.any fun i => willJump c i || endsRun [i.syl])
  let c := { c with
    pc := if c.fencing.isSome then p.addr else nx
    fencing := c.fencing.map fun f => { f with next := nx }
    inRun := inRun
    -- a loop that ends, or one that starts, gives up the loop buffer (R168, R208)
    lbuf := if c.li.length = c0.li.length then c.lbuf else [] }
  let s := s.setCur c
  let s := if taken then s.trace u b c 4 p.addr nx else s
  match c0.after with
  | .taskend =>
    let w := ((ops.find? fun i => i.slot == 1).map fun i => i.syl.w).getD 0
    let s := s.updCur fun c => { c with pc := p.addr, status := .ending, endPhase := 1, endW := w }
    (s.trace u b c 3 p.addr p.addr).preemptLands.stallLands
  | .trapinsn imm =>
    s.enterTrap u b { cause := 0x21, slot := 1, data := imm, w := ((ops.find? fun i => i.slot == 1).map fun i => i.syl.w).getD 0 } p.addr
  | .arith pend => s.enterTrap u b { cause := 0x20, slot := 1, data := pend
                                     w := ((ops.find? fun i => i.slot == 1).map fun i => i.syl.w).getD 0 } p.addr
  | .eret => s.returnTrap
  | .yield | .lbreak => s.preemptLands.stallLands
  | _ => if bound then s.preemptLands.stallLands else if ends then s.stallLands else s

/-- The context as the first presentation of its next bundle finds it: due results and shadowed writes have landed (R65, R66). -/
def Ctx.begin (c : Ctx) : Ctx :=
  match c.pres with
  | some _ => c
  | none => (c.landWhere fun f => decide (f.due ≤ c.bundleNo)).settle

/-- The machine as the first presentation of the current context's next bundle finds it: results whose bound has come have landed
(R65, R66, R284). -/
def State.begin (s : State) : State :=
  let c := s.cur
  if c.pres.isSome then s
  else (s.landVecs s.curU c.cid fun j => decide (j.due ≤ c.bundleNo) || j.regLanded c).updCur Ctx.begin

/-- Runs the bundle under presentation, whose slots are `ops` in header order, through the four steps of R424. Predicates are read
again in each cycle of a hold (R60, R65): a slot whose predicate turns 1 then joins the bundle, and its checks of step 2 are not made.
DESIGN CHOICE (log 74). The leaves of the landings that its slots observe are placed before its slots take effect: MOVS of LEAFIDX counts them
(R202). DESIGN CHOICE (log 104). -/
def State.runBundle (ops : List SlotSem) (s : State) : State :=
  let s := s.begin
  let c := s.cur
  let size := 1 + (ops.map fun o => o.i.syl.bytes.length).foldl (· + ·) 0
  let p := c.pres.getD { addr := c.pc, stop := true, len := size, leaf0 := c.leafNext }
  let s := s.setCur { c with pres := some p, grpFrom := c.grpFrom.or (some p.addr) }
  let u := s.curU
  let live := ops.filter fun o => c.rq o.q
  let trap (t : Trap) : State := (s.updCur fun c => { c with pc := p.addr }).enterTrap u s.curB t p.addr
  match if p.started then none else s.faultOf u (live.flatMap fun o => o.obs s) with
  | some t => trap t
  | none =>
    let checks := if p.checked then none else s.slotChecks [] live
    match checks with
    | some t => trap t
    | none =>
      let straddle := !p.checked && (match c.li with
        | l :: _ => decide (l.start ≤ p.addr ∧ p.addr < l.stop ∧ l.stop < p.addr + p.len) &&
            !(live.any fun o => willJump c o.i)
        | [] => false)
      if straddle then trap { cause := 7 }
      else match firstTrap (live.map fun o => (o.stuck s).map (o.fill s)) with
        | some t => trap t
        | none =>
          let s := live.foldl (fun s o => o.hook s) s
          let starts := live.filter fun o => o.start.isSome
          let s := if p.started then s else starts.foldl (fun s o => (o.start.getD id) s) s
          let started := p.started || !starts.isEmpty
          let busy := ((s.unit u).jobs.filter Job.engine).length + (live.map (·.port)).foldl (· + ·) 0
          let hold := live.any (fun o => o.hold s) || !semRoom s.cur (live.flatMap fun o => o.adds s) ||
            (live.any (fun o => o.port != 0) && decide (64 < busy))
          if hold || (twoForPort live && !p.entered) then
            s.updCur fun c => { c with pres := some { p with checked := true, started := started, entered := !hold || p.entered }
                                       last := if hold then .held else .entering }
          else
            let obs := (live.flatMap fun o => (o.sees s).map fun x => (x, o.i.slot, o.i.syl.w, o.i.syl.ext)).foldl
              (fun l x => insObs x l) []
            let s := obs.foldl (fun s x => s.observe1 x.2.1 x.2.2.1 x.2.2.2 x.1) s
            let s := s.takeEffect live
            s.finishBundle p (ops.map (·.i))

end Sys2Proof.Machine
end

