-- ==== Sys2Proof/Machine/Scalar.lean ====
section
/-!
DEFINITION. The scalar class: the A slot (08_scalar_class.md R190-R202).
-/
namespace Sys2Proof.Machine

/-! ## Results -/

/-- A scalar result and its flags. -/
abbrev Res := Word × Nat

/-- The signed value of a word. -/
def sv (a : Word) : Int := a.toInt

/-- An integer as a word, modulo 2^64. -/
def wd (x : Int) : Word := BitVec.ofInt 64 x

/-- MUL: the low half of the signed product; IOV when the product is out of range (R194). -/
def mulRes (a b : Word) : Res :=
  let p := sv a * sv b
  (wd p, if p < -(2 ^ 63) ∨ 2 ^ 63 ≤ p then fIOV else 0)

/-- MULH: the high half of the signed product (R194). -/
def mulhRes (a b : Word) : Word := wd (sv a * sv b / 2 ^ 64)

/-- MULHN: the high half of the unsigned product (R194). -/
def mulhnRes (a b : Word) : Word := BitVec.ofNat 64 (a.toNat * b.toNat / 2 ^ 64)

/-- Quotient and remainder of the signed forms, and whether the quotient overflows (R195). -/
def divS (a b : Word) : Word × Word × Bool :=
  if sv a = -(2 ^ 63) ∧ sv b = -1 then (a, 0, true)
  else (wd (Int.tdiv (sv a) (sv b)), wd (sv a - Int.tdiv (sv a) (sv b) * sv b), false)

/-- DIV (R195). -/
def divRes (a b : Word) : Res :=
  if b = 0 then (BitVec.allOnes 64, fDZ) else ((divS a b).1, if (divS a b).2.2 then fIOV else 0)

/-- REM (R195). -/
def remRes (a b : Word) : Res := if b = 0 then (a, fDZ) else ((divS a b).2.1, 0)

/-- DIVN (R195). -/
def divnRes (a b : Word) : Res :=
  if b = 0 then (BitVec.allOnes 64, fDZ) else (BitVec.ofNat 64 (a.toNat / b.toNat), 0)

/-- REMN (R195). -/
def remnRes (a b : Word) : Res := if b = 0 then (a, fDZ) else (BitVec.ofNat 64 (a.toNat % b.toNat), 0)

/-- SHL by bits [5:0] of the second operand (R194). -/
def shlRes (a b : Word) : Word := a <<< (b.toNat % 64)

/-- SHR (R194). -/
def shrRes (a b : Word) : Word := a >>> (b.toNat % 64)

/-- SAR (R194). -/
def sarRes (a b : Word) : Word := wd (sv a / 2 ^ (b.toNat % 64))

/-- The number of leading zero bits (R194). -/
def clzNat (a : Word) : Nat := if a = 0 then 64 else 63 - Nat.log2 a.toNat

/-- The number of trailing zero bits among those from bit `i` up (R194). -/
def ctzGo (a : Nat) : Nat → Nat → Nat
  | 0, i => i
  | f + 1, i => if bit a i then i else ctzGo a f (i + 1)

/-- The number of trailing zero bits (R194). -/
def ctzNat (a : Word) : Nat := ctzGo a.toNat 64 0

/-- A condition of CMP and CMPI (R198). -/
def cond (k : Nat) (a b : Word) : Bool :=
  match k with
  | 0 => a == b
  | 1 => a != b
  | 2 => decide (sv a < sv b)
  | 3 => decide (sv a ≤ sv b)
  | 4 => decide (a.toNat < b.toNat)
  | 5 => decide (a.toNat ≤ b.toNat)
  | 6 => (a &&& b) != 0
  | _ => (a &&& b) == 0

/-- Immediate `imm11`, sign-extended (R196). -/
def imm11W (imm : Nat) : Word := wd (sext 11 imm)

/-- Immediate ext ‖ imm11, sign-extended (R59, R196). -/
def immExtW (imm ext : Nat) : Word := wd (sext 43 (imm + ext * 2 ^ 11))

/-- The field of `len` bits at `pos` (R200). -/
def bfxVal (a : Word) (pos len : Nat) : Nat := fld a.toNat pos len

/-- BFI: `len` low bits of `a` inserted at `pos` of `d` (R200). -/
def bfiRes (d a : Word) (pos len : Nat) : Word :=
  BitVec.ofNat 64 (fld d.toNat 0 pos + fld a.toNat 0 len * 2 ^ pos + d.toNat / 2 ^ (pos + len) * 2 ^ (pos + len))

/-- The index of loop-stack level `k`; 0 when it is not active (R202, R206). -/
def Ctx.loopIndex (c : Ctx) (k : Nat) : Nat := ((c.li[k]?).map (·.index)).getD 0

/-- A special register (R202). -/
def State.special (s : State) (k : Nat) : Nat :=
  let c := s.cur
  match k with
  | 8 => c.rot
  | 9 => c.flags.toNat
  | 10 => s.curB
  | 11 => s.curU
  | 12 => s.chipId
  | 13 => (s.unit s.curU).cycle
  | 14 => c.placed
  | 15 => c.taskId
  | k => c.loopIndex k

/-! ## Slots -/

/-- A scalar operation: one register result with bound `l` (R66, R192, R193). -/
def alu (i : Instr) (q sd l : Nat) (f : State → Res) : SlotSem :=
  { i := i, q := q, eff := fun s => let r := f s
                                    s.updCur fun c => c.write (c.ds sd) r.1.toNat l r.2 }

/-- A compare: a condition and its complement into two predicates, bound 1 (R198). -/
def compare (i : Instr) (q qt qf : Nat) (f : State → Bool) : SlotSem :=
  { i := i, q := q, eff := fun s => let r := f s
                                    s.updCur fun c => (c.write (c.dq qt) (if r then 1 else 0) 1).write (c.dq qf) (if r then 0 else 1) 1 }

/-- A bundle of one slot (R424). -/
def State.issue1 (s : State) (o : SlotSem) : Host.Outcome State Fault Refusal := .next (s.runBundle [o])

/-- The slot of ADD (R194): the sum modulo 2^64. -/
def semAdd (qp sd sa sb : Nat) : SlotSem :=
  alu (.add qp sd sa sb) qp sd 1 fun s => (s.cur.rs sa + s.cur.rs sb, 0)

/-- ADD (R194): the sum modulo 2^64. -/
def execAdd (qp sd sa sb : Nat) (s : State) : Host.Outcome State Fault Refusal := s.issue1 (semAdd qp sd sa sb)

/-- The slot of SUB (R194): the difference modulo 2^64. -/
def semSub (qp sd sa sb : Nat) : SlotSem :=
  alu (.sub qp sd sa sb) qp sd 1 fun s => (s.cur.rs sa - s.cur.rs sb, 0)

/-- SUB (R194): the difference modulo 2^64. -/
def execSub (qp sd sa sb : Nat) (s : State) : Host.Outcome State Fault Refusal := s.issue1 (semSub qp sd sa sb)

/-- The slot of AND (R194). -/
def semAnd (qp sd sa sb : Nat) : SlotSem :=
  alu (.and qp sd sa sb) qp sd 1 fun s => (s.cur.rs sa &&& s.cur.rs sb, 0)

/-- AND (R194). -/
def execAnd (qp sd sa sb : Nat) (s : State) : Host.Outcome State Fault Refusal := s.issue1 (semAnd qp sd sa sb)

/-- The slot of OR (R194). -/
def semOr (qp sd sa sb : Nat) : SlotSem :=
  alu (.or qp sd sa sb) qp sd 1 fun s => (s.cur.rs sa ||| s.cur.rs sb, 0)

/-- OR (R194). -/
def execOr (qp sd sa sb : Nat) (s : State) : Host.Outcome State Fault Refusal := s.issue1 (semOr qp sd sa sb)

/-- The slot of XOR (R194). -/
def semXor (qp sd sa sb : Nat) : SlotSem :=
  alu (.xor qp sd sa sb) qp sd 1 fun s => (s.cur.rs sa ^^^ s.cur.rs sb, 0)

/-- XOR (R194). -/
def execXor (qp sd sa sb : Nat) (s : State) : Host.Outcome State Fault Refusal := s.issue1 (semXor qp sd sa sb)

/-- The slot of SHL (R194). -/
def semShl (qp sd sa sb : Nat) : SlotSem :=
  alu (.shl qp sd sa sb) qp sd 1 fun s => (shlRes (s.cur.rs sa) (s.cur.rs sb), 0)

/-- SHL (R194). -/
def execShl (qp sd sa sb : Nat) (s : State) : Host.Outcome State Fault Refusal := s.issue1 (semShl qp sd sa sb)

/-- The slot of SHR (R194). -/
def semShr (qp sd sa sb : Nat) : SlotSem :=
  alu (.shr qp sd sa sb) qp sd 1 fun s => (shrRes (s.cur.rs sa) (s.cur.rs sb), 0)

/-- SHR (R194). -/
def execShr (qp sd sa sb : Nat) (s : State) : Host.Outcome State Fault Refusal := s.issue1 (semShr qp sd sa sb)

/-- The slot of SAR (R194). -/
def semSar (qp sd sa sb : Nat) : SlotSem :=
  alu (.sar qp sd sa sb) qp sd 1 fun s => (sarRes (s.cur.rs sa) (s.cur.rs sb), 0)

/-- SAR (R194). -/
def execSar (qp sd sa sb : Nat) (s : State) : Host.Outcome State Fault Refusal := s.issue1 (semSar qp sd sa sb)

/-- The slot of MUL (R194): bound 3. -/
def semMul (qp sd sa sb : Nat) : SlotSem :=
  alu (.mul qp sd sa sb) qp sd 3 fun s => mulRes (s.cur.rs sa) (s.cur.rs sb)

/-- MUL (R194): bound 3. -/
def execMul (qp sd sa sb : Nat) (s : State) : Host.Outcome State Fault Refusal := s.issue1 (semMul qp sd sa sb)

/-- The slot of MULH (R194): bound 3. -/
def semMulh (qp sd sa sb : Nat) : SlotSem :=
  alu (.mulh qp sd sa sb) qp sd 3 fun s => (mulhRes (s.cur.rs sa) (s.cur.rs sb), 0)

/-- MULH (R194): bound 3. -/
def execMulh (qp sd sa sb : Nat) (s : State) : Host.Outcome State Fault Refusal := s.issue1 (semMulh qp sd sa sb)

/-- The slot of MULHN (R194): bound 3. -/
def semMulhn (qp sd sa sb : Nat) : SlotSem :=
  alu (.mulhn qp sd sa sb) qp sd 3 fun s => (mulhnRes (s.cur.rs sa) (s.cur.rs sb), 0)

/-- MULHN (R194): bound 3. -/
def execMulhn (qp sd sa sb : Nat) (s : State) : Host.Outcome State Fault Refusal := s.issue1 (semMulhn qp sd sa sb)

/-- The slot of DIV (R195): bound 18. -/
def semDiv (qp sd sa sb : Nat) : SlotSem :=
  alu (.div qp sd sa sb) qp sd 18 fun s => divRes (s.cur.rs sa) (s.cur.rs sb)

/-- DIV (R195): bound 18. -/
def execDiv (qp sd sa sb : Nat) (s : State) : Host.Outcome State Fault Refusal := s.issue1 (semDiv qp sd sa sb)

/-- The slot of DIVN (R195): bound 18. -/
def semDivn (qp sd sa sb : Nat) : SlotSem :=
  alu (.divn qp sd sa sb) qp sd 18 fun s => divnRes (s.cur.rs sa) (s.cur.rs sb)

/-- DIVN (R195): bound 18. -/
def execDivn (qp sd sa sb : Nat) (s : State) : Host.Outcome State Fault Refusal := s.issue1 (semDivn qp sd sa sb)

/-- The slot of REM (R195): bound 18. -/
def semRem (qp sd sa sb : Nat) : SlotSem :=
  alu (.rem qp sd sa sb) qp sd 18 fun s => remRes (s.cur.rs sa) (s.cur.rs sb)

/-- REM (R195): bound 18. -/
def execRem (qp sd sa sb : Nat) (s : State) : Host.Outcome State Fault Refusal := s.issue1 (semRem qp sd sa sb)

/-- The slot of REMN (R195): bound 18. -/
def semRemn (qp sd sa sb : Nat) : SlotSem :=
  alu (.remn qp sd sa sb) qp sd 18 fun s => remnRes (s.cur.rs sa) (s.cur.rs sb)

/-- REMN (R195): bound 18. -/
def execRemn (qp sd sa sb : Nat) (s : State) : Host.Outcome State Fault Refusal := s.issue1 (semRemn qp sd sa sb)

/-- The slot of MIN (R194). -/
def semMin (qp sd sa sb : Nat) : SlotSem :=
  alu (.min qp sd sa sb) qp sd 1 fun s => (if sv (s.cur.rs sa) ≤ sv (s.cur.rs sb) then s.cur.rs sa else s.cur.rs sb, 0)

/-- MIN (R194). -/
def execMin (qp sd sa sb : Nat) (s : State) : Host.Outcome State Fault Refusal := s.issue1 (semMin qp sd sa sb)

/-- The slot of MAX (R194). -/
def semMax (qp sd sa sb : Nat) : SlotSem :=
  alu (.max qp sd sa sb) qp sd 1 fun s => (if sv (s.cur.rs sb) ≤ sv (s.cur.rs sa) then s.cur.rs sa else s.cur.rs sb, 0)

/-- MAX (R194). -/
def execMax (qp sd sa sb : Nat) (s : State) : Host.Outcome State Fault Refusal := s.issue1 (semMax qp sd sa sb)

/-- The slot of MINN (R194). -/
def semMinn (qp sd sa sb : Nat) : SlotSem :=
  alu (.minn qp sd sa sb) qp sd 1 fun s => (if (s.cur.rs sa).toNat ≤ (s.cur.rs sb).toNat then s.cur.rs sa else s.cur.rs sb, 0)

/-- MINN (R194). -/
def execMinn (qp sd sa sb : Nat) (s : State) : Host.Outcome State Fault Refusal := s.issue1 (semMinn qp sd sa sb)

/-- The slot of MAXN (R194). -/
def semMaxn (qp sd sa sb : Nat) : SlotSem :=
  alu (.maxn qp sd sa sb) qp sd 1 fun s => (if (s.cur.rs sb).toNat ≤ (s.cur.rs sa).toNat then s.cur.rs sa else s.cur.rs sb, 0)

/-- MAXN (R194). -/
def execMaxn (qp sd sa sb : Nat) (s : State) : Host.Outcome State Fault Refusal := s.issue1 (semMaxn qp sd sa sb)

/-- The slot of CLZ (R194). -/
def semClz (qp sd sa : Nat) : SlotSem :=
  alu (.clz qp sd sa) qp sd 1 fun s => (BitVec.ofNat 64 (clzNat (s.cur.rs sa)), 0)

/-- CLZ (R194). -/
def execClz (qp sd sa : Nat) (s : State) : Host.Outcome State Fault Refusal := s.issue1 (semClz qp sd sa)

/-- The slot of CTZ (R194). -/
def semCtz (qp sd sa : Nat) : SlotSem :=
  alu (.ctz qp sd sa) qp sd 1 fun s => (BitVec.ofNat 64 (ctzNat (s.cur.rs sa)), 0)

/-- CTZ (R194). -/
def execCtz (qp sd sa : Nat) (s : State) : Host.Outcome State Fault Refusal := s.issue1 (semCtz qp sd sa)

/-- The slot of POPC (R194). -/
def semPopc (qp sd sa : Nat) : SlotSem :=
  alu (.popc qp sd sa) qp sd 1 fun s => (BitVec.ofNat 64 (ones 64 (s.cur.rs sa).toNat), 0)

/-- POPC (R194). -/
def execPopc (qp sd sa : Nat) (s : State) : Host.Outcome State Fault Refusal := s.issue1 (semPopc qp sd sa)

/-- The slot of ANDN (R194). -/
def semAndn (qp sd sa sb : Nat) : SlotSem :=
  alu (.andn qp sd sa sb) qp sd 1 fun s => (s.cur.rs sa &&& ~~~(s.cur.rs sb), 0)

/-- ANDN (R194). -/
def execAndn (qp sd sa sb : Nat) (s : State) : Host.Outcome State Fault Refusal := s.issue1 (semAndn qp sd sa sb)

/-- The slot of ORN (R194). -/
def semOrn (qp sd sa sb : Nat) : SlotSem :=
  alu (.orn qp sd sa sb) qp sd 1 fun s => (s.cur.rs sa ||| ~~~(s.cur.rs sb), 0)

/-- ORN (R194). -/
def execOrn (qp sd sa sb : Nat) (s : State) : Host.Outcome State Fault Refusal := s.issue1 (semOrn qp sd sa sb)

/-- The slot of ADDI (R196): imm11 sign-extended. -/
def semAddi (qp sd sa imm11 : Nat) : SlotSem :=
  alu (.addi qp sd sa imm11) qp sd 1 fun s => (s.cur.rs sa + imm11W imm11, 0)

/-- ADDI (R196): imm11 sign-extended. -/
def execAddi (qp sd sa imm11 : Nat) (s : State) : Host.Outcome State Fault Refusal := s.issue1 (semAddi qp sd sa imm11)

/-- The slot of ADDI_EXT (R196): ext ‖ imm11 sign-extended. -/
def semAddiExt (qp sd sa imm11 ext : Nat) : SlotSem :=
  alu (.addiExt qp sd sa imm11 ext) qp sd 1 fun s => (s.cur.rs sa + immExtW imm11 ext, 0)

/-- ADDI_EXT (R196): ext ‖ imm11 sign-extended. -/
def execAddiExt (qp sd sa imm11 ext : Nat) (s : State) : Host.Outcome State Fault Refusal := s.issue1 (semAddiExt qp sd sa imm11 ext)

/-- The slot of ANDI (R196): imm11 sign-extended. -/
def semAndi (qp sd sa imm11 : Nat) : SlotSem :=
  alu (.andi qp sd sa imm11) qp sd 1 fun s => (s.cur.rs sa &&& imm11W imm11, 0)

/-- ANDI (R196): imm11 sign-extended. -/
def execAndi (qp sd sa imm11 : Nat) (s : State) : Host.Outcome State Fault Refusal := s.issue1 (semAndi qp sd sa imm11)

/-- The slot of ANDI_EXT (R196): ext ‖ imm11 sign-extended. -/
def semAndiExt (qp sd sa imm11 ext : Nat) : SlotSem :=
  alu (.andiExt qp sd sa imm11 ext) qp sd 1 fun s => (s.cur.rs sa &&& immExtW imm11 ext, 0)

/-- ANDI_EXT (R196): ext ‖ imm11 sign-extended. -/
def execAndiExt (qp sd sa imm11 ext : Nat) (s : State) : Host.Outcome State Fault Refusal := s.issue1 (semAndiExt qp sd sa imm11 ext)

/-- The slot of ORI (R196): imm11 sign-extended. -/
def semOri (qp sd sa imm11 : Nat) : SlotSem :=
  alu (.ori qp sd sa imm11) qp sd 1 fun s => (s.cur.rs sa ||| imm11W imm11, 0)

/-- ORI (R196): imm11 sign-extended. -/
def execOri (qp sd sa imm11 : Nat) (s : State) : Host.Outcome State Fault Refusal := s.issue1 (semOri qp sd sa imm11)

/-- The slot of ORI_EXT (R196): ext ‖ imm11 sign-extended. -/
def semOriExt (qp sd sa imm11 ext : Nat) : SlotSem :=
  alu (.oriExt qp sd sa imm11 ext) qp sd 1 fun s => (s.cur.rs sa ||| immExtW imm11 ext, 0)

/-- ORI_EXT (R196): ext ‖ imm11 sign-extended. -/
def execOriExt (qp sd sa imm11 ext : Nat) (s : State) : Host.Outcome State Fault Refusal := s.issue1 (semOriExt qp sd sa imm11 ext)

/-- The slot of XORI (R196): imm11 sign-extended. -/
def semXori (qp sd sa imm11 : Nat) : SlotSem :=
  alu (.xori qp sd sa imm11) qp sd 1 fun s => (s.cur.rs sa ^^^ imm11W imm11, 0)

/-- XORI (R196): imm11 sign-extended. -/
def execXori (qp sd sa imm11 : Nat) (s : State) : Host.Outcome State Fault Refusal := s.issue1 (semXori qp sd sa imm11)

/-- The slot of XORI_EXT (R196): ext ‖ imm11 sign-extended. -/
def semXoriExt (qp sd sa imm11 ext : Nat) : SlotSem :=
  alu (.xoriExt qp sd sa imm11 ext) qp sd 1 fun s => (s.cur.rs sa ^^^ immExtW imm11 ext, 0)

/-- XORI_EXT (R196): ext ‖ imm11 sign-extended. -/
def execXoriExt (qp sd sa imm11 ext : Nat) (s : State) : Host.Outcome State Fault Refusal := s.issue1 (semXoriExt qp sd sa imm11 ext)

/-- The slot of SHLI (R196): imm11 sign-extended. -/
def semShli (qp sd sa imm11 : Nat) : SlotSem :=
  alu (.shli qp sd sa imm11) qp sd 1 fun s => (shlRes (s.cur.rs sa) (imm11W imm11), 0)

/-- SHLI (R196): imm11 sign-extended. -/
def execShli (qp sd sa imm11 : Nat) (s : State) : Host.Outcome State Fault Refusal := s.issue1 (semShli qp sd sa imm11)

/-- The slot of SHLI_EXT (R196): ext ‖ imm11 sign-extended. -/
def semShliExt (qp sd sa imm11 ext : Nat) : SlotSem :=
  alu (.shliExt qp sd sa imm11 ext) qp sd 1 fun s => (shlRes (s.cur.rs sa) (immExtW imm11 ext), 0)

/-- SHLI_EXT (R196): ext ‖ imm11 sign-extended. -/
def execShliExt (qp sd sa imm11 ext : Nat) (s : State) : Host.Outcome State Fault Refusal := s.issue1 (semShliExt qp sd sa imm11 ext)

/-- The slot of SHRI (R196): imm11 sign-extended. -/
def semShri (qp sd sa imm11 : Nat) : SlotSem :=
  alu (.shri qp sd sa imm11) qp sd 1 fun s => (shrRes (s.cur.rs sa) (imm11W imm11), 0)

/-- SHRI (R196): imm11 sign-extended. -/
def execShri (qp sd sa imm11 : Nat) (s : State) : Host.Outcome State Fault Refusal := s.issue1 (semShri qp sd sa imm11)

/-- The slot of SHRI_EXT (R196): ext ‖ imm11 sign-extended. -/
def semShriExt (qp sd sa imm11 ext : Nat) : SlotSem :=
  alu (.shriExt qp sd sa imm11 ext) qp sd 1 fun s => (shrRes (s.cur.rs sa) (immExtW imm11 ext), 0)

/-- SHRI_EXT (R196): ext ‖ imm11 sign-extended. -/
def execShriExt (qp sd sa imm11 ext : Nat) (s : State) : Host.Outcome State Fault Refusal := s.issue1 (semShriExt qp sd sa imm11 ext)

/-- The slot of SARI (R196): imm11 sign-extended. -/
def semSari (qp sd sa imm11 : Nat) : SlotSem :=
  alu (.sari qp sd sa imm11) qp sd 1 fun s => (sarRes (s.cur.rs sa) (imm11W imm11), 0)

/-- SARI (R196): imm11 sign-extended. -/
def execSari (qp sd sa imm11 : Nat) (s : State) : Host.Outcome State Fault Refusal := s.issue1 (semSari qp sd sa imm11)

/-- The slot of SARI_EXT (R196): ext ‖ imm11 sign-extended. -/
def semSariExt (qp sd sa imm11 ext : Nat) : SlotSem :=
  alu (.sariExt qp sd sa imm11 ext) qp sd 1 fun s => (sarRes (s.cur.rs sa) (immExtW imm11 ext), 0)

/-- SARI_EXT (R196): ext ‖ imm11 sign-extended. -/
def execSariExt (qp sd sa imm11 ext : Nat) (s : State) : Host.Outcome State Fault Refusal := s.issue1 (semSariExt qp sd sa imm11 ext)

/-- The slot of MULI (R196): imm11 sign-extended. -/
def semMuli (qp sd sa imm11 : Nat) : SlotSem :=
  alu (.muli qp sd sa imm11) qp sd 3 fun s => mulRes (s.cur.rs sa) (imm11W imm11)

/-- MULI (R196): imm11 sign-extended. -/
def execMuli (qp sd sa imm11 : Nat) (s : State) : Host.Outcome State Fault Refusal := s.issue1 (semMuli qp sd sa imm11)

/-- The slot of MULI_EXT (R196): ext ‖ imm11 sign-extended. -/
def semMuliExt (qp sd sa imm11 ext : Nat) : SlotSem :=
  alu (.muliExt qp sd sa imm11 ext) qp sd 3 fun s => mulRes (s.cur.rs sa) (immExtW imm11 ext)

/-- MULI_EXT (R196): ext ‖ imm11 sign-extended. -/
def execMuliExt (qp sd sa imm11 ext : Nat) (s : State) : Host.Outcome State Fault Refusal := s.issue1 (semMuliExt qp sd sa imm11 ext)

/-- The slot of MOVI (R197): imm16 zero-extended. -/
def semMovi (qp sd imm16 : Nat) : SlotSem :=
  alu (.movi qp sd imm16) qp sd 1 fun _ => (BitVec.ofNat 64 imm16, 0)

/-- MOVI (R197): imm16 zero-extended. -/
def execMovi (qp sd imm16 : Nat) (s : State) : Host.Outcome State Fault Refusal := s.issue1 (semMovi qp sd imm16)

/-- The slot of MOVI_EXT (R197): ext ‖ imm16 zero-extended. -/
def semMoviExt (qp sd imm16 ext : Nat) : SlotSem :=
  alu (.moviExt qp sd imm16 ext) qp sd 1 fun _ => (BitVec.ofNat 64 (imm16 + ext * 2 ^ 16), 0)

/-- MOVI_EXT (R197): ext ‖ imm16 zero-extended. -/
def execMoviExt (qp sd imm16 ext : Nat) (s : State) : Host.Outcome State Fault Refusal := s.issue1 (semMoviExt qp sd imm16 ext)

/-- The slot of MOVHI (R197): bits [63:48] of sd. -/
def semMovhi (qp sd imm16 : Nat) : SlotSem :=
  alu (.movhi qp sd imm16) qp sd 1 fun s => (BitVec.ofNat 64 ((s.cur.rs sd).toNat % 2 ^ 48 + imm16 * 2 ^ 48), 0)

/-- MOVHI (R197): bits [63:48] of sd. -/
def execMovhi (qp sd imm16 : Nat) (s : State) : Host.Outcome State Fault Refusal := s.issue1 (semMovhi qp sd imm16)

/-- The slot of CMP (R198). -/
def semCmp (qp qt qf sa sb cond : Nat) : SlotSem :=
  compare (.cmp qp qt qf sa sb cond) qp qt qf fun s => Machine.cond cond (s.cur.rs sa) (s.cur.rs sb)

/-- CMP (R198). -/
def execCmp (qp qt qf sa sb cond : Nat) (s : State) : Host.Outcome State Fault Refusal := s.issue1 (semCmp qp qt qf sa sb cond)

/-- The slot of CMPI (R198): imm5 sign-extended. -/
def semCmpi (qp qt qf sa imm5 cond : Nat) : SlotSem :=
  compare (.cmpi qp qt qf sa imm5 cond) qp qt qf fun s => Machine.cond cond (s.cur.rs sa) (wd (sext 5 imm5))

/-- CMPI (R198): imm5 sign-extended. -/
def execCmpi (qp qt qf sa imm5 cond : Nat) (s : State) : Host.Outcome State Fault Refusal := s.issue1 (semCmpi qp qt qf sa imm5 cond)

/-- The slot of CMPI_EXT (R198): ext ‖ imm5 sign-extended. -/
def semCmpiExt (qp qt qf sa imm5 cond ext : Nat) : SlotSem :=
  compare (.cmpiExt qp qt qf sa imm5 cond ext) qp qt qf fun s =>
    Machine.cond cond (s.cur.rs sa) (wd (sext 37 (imm5 + ext * 2 ^ 5)))

/-- CMPI_EXT (R198): ext ‖ imm5 sign-extended. -/
def execCmpiExt (qp qt qf sa imm5 cond ext : Nat) (s : State) : Host.Outcome State Fault Refusal := s.issue1 (semCmpiExt qp qt qf sa imm5 cond ext)

/-- The slot of SEL (R199). -/
def semSel (qp sd sa sb qs : Nat) : SlotSem :=
  alu (.sel qp sd sa sb qs) qp sd 1 fun s => (if s.cur.rq qs then s.cur.rs sa else s.cur.rs sb, 0)

/-- SEL (R199). -/
def execSel (qp sd sa sb qs : Nat) (s : State) : Host.Outcome State Fault Refusal := s.issue1 (semSel qp sd sa sb qs)

/-- The slot of BFX (R200): a field, zero-extended. -/
def semBfx (qp sd sa pos lenm1 : Nat) : SlotSem :=
  alu (.bfx qp sd sa pos lenm1) qp sd 1 fun s => (BitVec.ofNat 64 (bfxVal (s.cur.rs sa) pos (lenm1 + 1)), 0)

/-- BFX (R200): a field, zero-extended. -/
def execBfx (qp sd sa pos lenm1 : Nat) (s : State) : Host.Outcome State Fault Refusal := s.issue1 (semBfx qp sd sa pos lenm1)

/-- The slot of BFXS (R200): a field, sign-extended. -/
def semBfxs (qp sd sa pos lenm1 : Nat) : SlotSem :=
  alu (.bfxs qp sd sa pos lenm1) qp sd 1 fun s => (wd (sext (lenm1 + 1) (bfxVal (s.cur.rs sa) pos (lenm1 + 1))), 0)

/-- BFXS (R200): a field, sign-extended. -/
def execBfxs (qp sd sa pos lenm1 : Nat) (s : State) : Host.Outcome State Fault Refusal := s.issue1 (semBfxs qp sd sa pos lenm1)

/-- The slot of BFI (R200): a field inserted. -/
def semBfi (qp sd sa pos lenm1 : Nat) : SlotSem :=
  alu (.bfi qp sd sa pos lenm1) qp sd 1 fun s => (bfiRes (s.cur.rs sd) (s.cur.rs sa) pos (lenm1 + 1), 0)

/-- BFI (R200): a field inserted. -/
def execBfi (qp sd sa pos lenm1 : Nat) (s : State) : Host.Outcome State Fault Refusal := s.issue1 (semBfi qp sd sa pos lenm1)

/-- The slot of LEA (R201). -/
def semLea (qp sd sa sb shift : Nat) : SlotSem :=
  alu (.lea qp sd sa sb shift) qp sd 1 fun s => (s.cur.rs sa + s.cur.rs sb <<< shift, 0)

/-- LEA (R201). -/
def execLea (qp sd sa sb shift : Nat) (s : State) : Host.Outcome State Fault Refusal := s.issue1 (semLea qp sd sa sb shift)

/-- The slot of MOVS (R202): a special register as it stands at issue. -/
def semMovs (qp sd special : Nat) : SlotSem :=
  alu (.movs qp sd special) qp sd 1 fun s => (BitVec.ofNat 64 (s.special special), 0)

/-- MOVS (R202): a special register as it stands at issue. -/
def execMovs (qp sd special : Nat) (s : State) : Host.Outcome State Fault Refusal := s.issue1 (semMovs qp sd special)

end Sys2Proof.Machine
end

