-- ==== Sys2Proof/Machine/Control.lean ====
section
/-!
DEFINITION. The control class: B ops 0x00 to 0x14 (09_control_class.md R203-R222; 07 R181, R184-R186).
-/
namespace Sys2Proof.Machine

/-! ## Transfers and loops -/

/-- The address after the bundle that is issuing. -/
def State.issNext (s : State) : Nat := s.issAddr + (s.cur.pres.map (·.len)).getD 5

/-- What the bundle asks of the sequencer. -/
def State.ask (s : State) (a : After) : State := s.updCur fun c => { c with after := a }

/-- A branch target: PC + displacement, modulo 2^64 (R205). -/
def State.target (s : State) (disp : Int) : Nat := wrapN 64 ((s.issAddr : Int) + disp)

/-- The link write of CALL and CALLS, bound 1 (R205). -/
def State.linkWrite (s : State) : State := s.updCur fun c => c.write (.s 23) s.issNext 1

/-- A transfer, with the link when `lnk` (R205). -/
def transfer (i : Instr) (q : Nat) (lnk : Bool) (tgt : State → Nat) : SlotSem :=
  { i := i, q := q, eff := fun s => let t := tgt s
                                    (if lnk then s.linkWrite else s).ask (.jump t) }

/-- The checks of a loop start (R207). -/
def loopCheck (c : Ctx) (len : Nat) : Option Trap :=
  if len = 0 then some (trapOf 3 4)
  else if 1024 < len then some (trapOf 7 0)
  else if 6 ≤ c.li.length then some (trapOf 6 0)
  else none

/-- A loop start: `count` iterations and `epi` more (R206, R207); `rot` for LOOPR, which writes q8; its write lands after
those of the bundle's other slots. DESIGN CHOICE (log 93). -/
def loopStart (i : Instr) (q len epi : Nat) (rot : Bool) (count : State → Nat) : SlotSem :=
  { i := i, q := q
    check := fun s => loopCheck s.cur len
    eff := fun s =>
      let k := count s
      let n := s.issNext
      let s' := if rot then s.updCur fun c => c.write (c.dq 8) (if 0 < k then 1 else 0) 1 else s
      if k + epi = 0 then s'.ask (.jump (n + len))
      else s'.ask (.pushLoop ⟨n, n + len, k + epi, k, 0, rot⟩) }

/-! ## Predicates and format -/

/-- The functions of PLOG (R210). -/
def plogVal (fn : Nat) (a b : Bool) : Bool :=
  match fn with
  | 0 => a && b
  | 1 => a || b
  | 2 => a != b
  | 3 => a && !b
  | 4 => a || !b
  | 5 => !a
  | 6 => true
  | _ => false

/-- Whether FMT may hold a value (R28). -/
def fmtOk (v : Nat) : Bool :=
  decide (fld v 0 5 < 0x18) && decide (fld v 5 5 < 0x18) && decide (fld v 10 5 < 0x18) && decide (fld v 15 3 < 5) &&
    fld v 19 1 == 0 && fld v 28 4 == 0

/-- A write of FMT, seen from the fourth bundle on (R28, R211). -/
def fmtWrite (i : Instr) (q : Nat) (v : State → Nat) : SlotSem :=
  { i := i, q := q
    check := fun s => if fmtOk (v s) then none else some (trapOf 3 4)
    eff := fun s => let x := v s
                    s.updCur fun c => c.shadowed (.fmt (BitVec.ofNat 32 x)) }

/-! ## Waits -/

/-- The chunks that a WAITC names (R215). -/
def waitChunks (g : Nat) (mask : Word) : List Nat := (onesAt 64 mask.toNat).map (64 * g + ·)

/-- A blot landing's deadline starts, if it has not (R350). -/
def State.startDeadline (s : State) (u ch n : Nat) : State :=
  s.updEnd u ch fun e =>
    if !e.blot then e
    else
      let l := (e.landings.entry? n).getD { n := n }
      if l.dl.isSome || l.done then e else { e with landings := e.landings.put n { l with dl := some e.deadline } }

/-- Channels of the unit's endpoint whose landings advance counter `c` (R343). -/
def Endpoint.chansOf (e : Endpoint) (c : Nat) : List (Nat × ChanEnd) := e.ends.filter fun x => x.2.ctr == c

/-- WAITC while it holds: it starts the deadline of the landing it names, and the tile's stamp notes the wait (R245, R350). -/
def waitcHook (h : Nat) (ks : List Nat) (s : State) : State :=
  let u := s.curU
  if ks = [] then s
  else
    let s := match s.arrivalOf u s.cur h with
      | some (ch, n) => s.startDeadline u ch n
      | none => s
    match s.handle u s.cur h with
    | .ok t => if ks.any fun k => !(s.slot t).arrived k then s.noteHold u s.cur t else s
    | .pending t => if (s.slot t).okind = 0 then s.noteHold u s.cur t else s
    | .bad _ => s

/-- Whether a WAITC must hold: a chunk it names has not arrived (R215, R271). -/
def waitcHold (h : Nat) (ks : List Nat) (s : State) : Bool :=
  match s.handle s.curU s.cur h with
  | .ok t => ks.any fun k => !(s.slot t).arrived k
  | .pending _ => !ks.isEmpty
  | .bad _ => false

/-- The faulted producers that a WAITC observes: a job of the context whose faulting chunk, the lowest that has not arrived, is at or
below a chunk it names (R258). -/
def waitcObs (s : State) (h : Nat) (ks : List Nat) : List Nat :=
  match s.handle s.curU s.cur h with
  | .ok t =>
    match (List.range (s.slot t).chunks).find? fun k => !(s.slot t).arrived k with
    | some f => if ks.any (f ≤ ·) then
        ((s.jobsOf s.curU s.cur.cid).filter fun j => j.fault.isSome && j.dst == some t).map (·.jid) else []
    | none => []
  | _ => []

/-- WAITC (R215). -/
def waitcSem (i : Instr) (q h g sa : Nat) : SlotSem :=
  let ks := fun s : State => waitChunks g (s.cur.rs sa)
  { i := i, q := q
    obs := fun s => waitcObs s (s.cur.rh h) (ks s)
    check := fun s => s.handleTrap s.curU s.cur (s.cur.rh h)
    hook := fun s => waitcHook (s.cur.rh h) (ks s) s
    hold := fun s => waitcHold (s.cur.rh h) (ks s) s
    sees := fun s => if ks s = [] then [] else s.seesTile s.curU s.cur (s.cur.rh h)
    eff := fun s => if ks s ≠ [] ∧ (s.arrivalOf s.curU s.cur (s.cur.rh h)).isSome then s.orEflags s.curU s.cur.cid else s }

/-- The value of counter `c` of the context's endpoint (R216). -/
def State.counter (s : State) (c : Nat) : Nat :=
  match s.endpointOf s.curU s.cur with
  | some e => e.ctrs.look c 0
  | none => 0

/-- CTRWAIT (R216, R350, R351, R371). -/
def ctrwaitSem (i : Instr) (q c sa : Nat) : SlotSem :=
  let thr := fun s : State => (s.cur.rs sa).toNat % 2 ^ 32
  { i := i, q := q
    check := fun s => if (s.endpointOf s.curU s.cur).isNone then some (trapOf 3 4) else none
    hook := fun s => match s.endpointOf s.curU s.cur with
      | some e => (e.chansOf c).foldl (fun s x => s.startDeadline s.curU x.1 x.2.nextIn) s
      | none => s
    hold := fun s => decide (s.counter c < thr s)
    sees := fun s => match s.endpointOf s.curU s.cur with
      | some e => e.counted c
      | none => []
    eff := fun s => match s.endpointOf s.curU s.cur with
      | some e => if (e.chansOf c).isEmpty then s else s.orEflags s.curU s.cur.cid
      | none => s }

/-- SEMWAIT (R212, R214): a faulted job that names the semaphore is observed. -/
def semwaitSem (i : Instr) (q e n : Nat) : SlotSem :=
  { i := i, q := q
    obs := fun s => s.obsSem s.curU s.cur e
    hook := fun s => if n ≤ s.cur.semV.look e 0 then s
      else ((s.obsSem s.curU s.cur e).filterMap fun j => (s.job? s.curU j).bind (·.dst)).foldl
        (fun s t => if (s.slot t).whole then s else s.noteHold s.curU s.cur t) s
    hold := fun s => decide (s.cur.semV.look e 0 < n)
    eff := fun s => s.updCur fun c => { c with semV := c.semV.adj e 0 (· - n) } }

/-! ## Fences -/

/-- The stall that a fence begins as it issues: it waits for the jobs and results of the bundles before its own (R217, R218). -/
def State.fencing (s : State) (i : Instr) (word : Option (Dest × Nat)) : Fencing :=
  { addr := s.issAddr, w := i.syl.w, next := 0, jid := s.nextJid, bundle := s.cur.bundleNo, word := word, te := s.cur.fmt }

/-- A context whose TFENCE ends: results of the bundles before it have landed, and the pending set is cleared (R53, R217). -/
def Ctx.tfenced (c : Ctx) (bundle : Nat) : Ctx := { c.landWhere fun f => decide (f.bundle < bundle) with pend := 0 }

/-- TFENCE (R53, R217): it issues, and then stalls its context until every earlier job has completed; enabled pending flags then trap and
the pending set is cleared. -/
def tfenceSem (i : Instr) (q : Nat) : SlotSem :=
  { i := i, q := q
    obs := fun s => s.obsAll s.curU s.cur
    eff := fun s =>
      if (s.jobsOf s.curU s.cur.cid).isEmpty then s.updCur fun c =>
        let d := c.landWhere fun f => decide (f.bundle < c.bundleNo)
        { c.tfenced c.bundleNo with after := if trapping d.pend c.fmt = 0 then c.after else .arith d.pend.toNat }
      else s.updCur fun c => { c with fencing := some (s.fencing i none) } }

/-- Whether an access that a context issued before job `jid` is still on its way: a job, a packet of a port, a message (R184). -/
def State.unperformed (s : State) (u cid jid : Nat) : Bool :=
  ((s.jobsOf u cid).any fun j => decide (j.jid < jid)) || s.airborne cid jid

/-- The fence status word (R186). -/
def fenceWord (ref dead : Nat) : Nat :=
  min 65535 ref * 2 ^ 32 + min 65535 dead * 2 ^ 16 + (if ref = 0 then 0 else 2) + (if dead = 0 then 0 else 1)

/-- The end of a FENCE (R184-R186, R218): its status word, SCOPEMISS for any relaxed read before it whose release it does not include, the
counts cleared. The word enters the completion record of the graph of the context's task, where it has one. -/
def State.fenced (s : State) (sd : Dest) (scope bound : Nat) : State :=
  let c := s.cur
  let w := fenceWord c.refCnt c.deadCnt
  let miss := c.rlx.any fun t => !tagIncludes t.2 scope s.curU
  let s := c.rlx.foldl (fun s t => s.acquire s.curU c.cid scope t.1 t.2 true) s
  let s := s.updCur fun c =>
    { ((if miss then c.setFlags fSCOPEMISS else c).write sd w bound) with refCnt := 0, deadCnt := 0 }
  if c.handles.isSome || c.startup then s
  else s.updDie c.die fun d =>
    { d with graphs := match d.graphs.entry? c.graph with
        | some g => d.graphs.put c.graph { g with fences := g.fences ||| w }
        | none => d.graphs }

/-- FENCE (R184-R186, R218): it issues, and then stalls its context until every earlier access has been performed or has failed. -/
def fenceSem (i : Instr) (q sd scope : Nat) : SlotSem :=
  { i := i, q := q
    obs := fun s => s.obsAll s.curU s.cur
    eff := fun s =>
      if s.unperformed s.curU s.cur.cid s.nextJid then
        s.updCur fun c => { c with fencing := some (s.fencing i (some (c.ds sd, scope))) }
      else (s.mark s.curU s.cur.cid s.nextJid scope none).fenced (s.cur.ds sd) scope 1 }

/-! ## The task -/

/-- SPAWNs of a context neither accepted nor refused (R231). -/
def State.spawnsOf (s : State) (u cid : Nat) : Nat := ((s.jobsOf u cid).filter fun j => j.kind == JobKind.spawn).length

/-- SPAWN (R220): a job that reads the header at offset s[sa] of a record; a ninth is held (R231). -/
def spawnSem (i : Instr) (q f sa e ov : Nat) : SlotSem :=
  { i := i, q := q
    adds := fun _ => [(e, 1)]
    hold := fun s => decide (8 ≤ s.spawnsOf s.curU s.cur.cid)
    eff := fun s => s.issueJob { s.newJob .spawn i e with a := f, b := (s.cur.rs sa).toNat, c := ov } }

/-- STATPOP (R222): the oldest record of the issuing task, or zeros. -/
def statpopSem (i : Instr) (q sd sd2 : Nat) : SlotSem :=
  { i := i, q := q
    eff := fun s =>
      let x := s.unit s.curU
      let r := x.stats.find? fun r => r.taskId == s.cur.taskId
      let w := (r.map StatRec.words).getD (0, 0)
      let s := match r with
        | some r => s.setUnit s.curU { x with stats := x.stats.erase r }
        | none => s
      s.updCur fun c => (c.write (c.ds sd) w.1 1).write (c.ds sd2) w.2 1 }

/-! ## Slots and meanings -/

/-- The slot of BR (R205). -/
def semBr (qp disp21 : Nat) : SlotSem := transfer (.br qp disp21) qp false fun s => s.target (sext 21 disp21)
/-- BR (R205). -/
def execBr (qp disp21 : Nat) (s : State) : Host.Outcome State Fault Refusal := s.issue1 (semBr qp disp21)

/-- The slot of BR_EXT (R205). -/
def semBrExt (qp disp21 ext : Nat) : SlotSem :=
  transfer (.brExt qp disp21 ext) qp false fun s => s.target (sext 53 (disp21 + ext * 2 ^ 21))
/-- BR_EXT (R205). -/
def execBrExt (qp disp21 ext : Nat) (s : State) : Host.Outcome State Fault Refusal := s.issue1 (semBrExt qp disp21 ext)

/-- The slot of CALL (R205). -/
def semCall (qp disp21 : Nat) : SlotSem := transfer (.call qp disp21) qp true fun s => s.target (sext 21 disp21)
/-- CALL (R205). -/
def execCall (qp disp21 : Nat) (s : State) : Host.Outcome State Fault Refusal := s.issue1 (semCall qp disp21)

/-- The slot of CALL_EXT (R205). -/
def semCallExt (qp disp21 ext : Nat) : SlotSem :=
  transfer (.callExt qp disp21 ext) qp true fun s => s.target (sext 53 (disp21 + ext * 2 ^ 21))
/-- CALL_EXT (R205). -/
def execCallExt (qp disp21 ext : Nat) (s : State) : Host.Outcome State Fault Refusal := s.issue1 (semCallExt qp disp21 ext)

/-- The slot of BRS (R205). -/
def semBrs (qp sa : Nat) : SlotSem := transfer (.brs qp sa) qp false fun s => (s.cur.rs sa).toNat
/-- BRS (R205). -/
def execBrs (qp sa : Nat) (s : State) : Host.Outcome State Fault Refusal := s.issue1 (semBrs qp sa)

/-- The slot of CALLS (R205). -/
def semCalls (qp sa : Nat) : SlotSem := transfer (.calls qp sa) qp true fun s => (s.cur.rs sa).toNat
/-- CALLS (R205). -/
def execCalls (qp sa : Nat) (s : State) : Host.Outcome State Fault Refusal := s.issue1 (semCalls qp sa)

/-- The slot of LOOP (R207). -/
def semLoop (qp sa len : Nat) : SlotSem := loopStart (.loop qp sa len) qp len 0 false fun s => (s.cur.rs sa).toNat
/-- LOOP (R207). -/
def execLoop (qp sa len : Nat) (s : State) : Host.Outcome State Fault Refusal := s.issue1 (semLoop qp sa len)

/-- The slot of LOOPI (R207). -/
def semLoopi (qp cnt10 len : Nat) : SlotSem := loopStart (.loopi qp cnt10 len) qp len 0 false fun _ => cnt10
/-- LOOPI (R207). -/
def execLoopi (qp cnt10 len : Nat) (s : State) : Host.Outcome State Fault Refusal := s.issue1 (semLoopi qp cnt10 len)

/-- The slot of LOOPI_EXT (R207). -/
def semLoopiExt (qp cnt10 len ext : Nat) : SlotSem :=
  loopStart (.loopiExt qp cnt10 len ext) qp len 0 false fun _ => cnt10 + ext * 2 ^ 10
/-- LOOPI_EXT (R207). -/
def execLoopiExt (qp cnt10 len ext : Nat) (s : State) : Host.Outcome State Fault Refusal := s.issue1 (semLoopiExt qp cnt10 len ext)

/-- The slot of LOOPR (R207). -/
def semLoopr (qp sa epi len : Nat) : SlotSem :=
  loopStart (.loopr qp sa epi len) qp len epi true fun s => (s.cur.rs sa).toNat
/-- LOOPR (R207). -/
def execLoopr (qp sa epi len : Nat) (s : State) : Host.Outcome State Fault Refusal := s.issue1 (semLoopr qp sa epi len)

/-- The slot of LBREAK (R209). -/
def semLbreak (qp : Nat) : SlotSem :=
  { i := .lbreak qp, q := qp, check := fun s => if s.cur.li.isEmpty then some (trapOf 6 0) else none
    eff := fun s => s.ask .lbreak }
/-- LBREAK (R209). -/
def execLbreak (qp : Nat) (s : State) : Host.Outcome State Fault Refusal := s.issue1 (semLbreak qp)

/-- The slot of PLOG (R210). -/
def semPlog (qp qd qa qb fn : Nat) : SlotSem :=
  { i := .plog qp qd qa qb fn, q := qp
    eff := fun s => let v := plogVal fn (s.cur.rq qa) (s.cur.rq qb)
                    s.updCur fun c => c.write (c.dq qd) (if v then 1 else 0) 1 }
/-- PLOG (R210). -/
def execPlog (qp qd qa qb fn : Nat) (s : State) : Host.Outcome State Fault Refusal := s.issue1 (semPlog qp qd qa qb fn)

/-- The slot of FMTSET (R211). -/
def semFmtset (qp sa : Nat) : SlotSem := fmtWrite (.fmtset qp sa) qp fun s => (s.cur.rs sa).toNat % 2 ^ 32
/-- FMTSET (R211). -/
def execFmtset (qp sa : Nat) (s : State) : Host.Outcome State Fault Refusal := s.issue1 (semFmtset qp sa)

/-- The slot of FMTSETI (R211). -/
def semFmtseti (qp fmt : Nat) : SlotSem := fmtWrite (.fmtseti qp fmt) qp fun _ => fmt
/-- FMTSETI (R211). -/
def execFmtseti (qp fmt : Nat) (s : State) : Host.Outcome State Fault Refusal := s.issue1 (semFmtseti qp fmt)

/-- The slot of SEMWAIT (R214). -/
def semSemwait (qp e n : Nat) : SlotSem := semwaitSem (.semwait qp e n) qp e n
/-- SEMWAIT (R214). -/
def execSemwait (qp e n : Nat) (s : State) : Host.Outcome State Fault Refusal := s.issue1 (semSemwait qp e n)

/-- The slot of SEMSIG (R213, R214). -/
def semSemsig (qp e n : Nat) : SlotSem :=
  { i := .semsig qp e n, q := qp, adds := fun _ => [(e, n)]
    eff := fun s => s.updCur fun c => { c with semV := c.semV.adj e 0 (· + n) } }
/-- SEMSIG (R214). -/
def execSemsig (qp e n : Nat) (s : State) : Host.Outcome State Fault Refusal := s.issue1 (semSemsig qp e n)

/-- The slot of WAITC (R215). -/
def semWaitc (qp h g sa : Nat) : SlotSem := waitcSem (.waitc qp h g sa) qp h g sa
/-- WAITC (R215). -/
def execWaitc (qp h g sa : Nat) (s : State) : Host.Outcome State Fault Refusal := s.issue1 (semWaitc qp h g sa)

/-- The slot of CTRWAIT (R216). -/
def semCtrwait (qp c sa : Nat) : SlotSem := ctrwaitSem (.ctrwait qp c sa) qp c sa
/-- CTRWAIT (R216). -/
def execCtrwait (qp c sa : Nat) (s : State) : Host.Outcome State Fault Refusal := s.issue1 (semCtrwait qp c sa)

/-- The slot of TFENCE (R217). -/
def semTfence (qp : Nat) : SlotSem := tfenceSem (.tfence qp) qp
/-- TFENCE (R217). -/
def execTfence (qp : Nat) (s : State) : Host.Outcome State Fault Refusal := s.issue1 (semTfence qp)

/-- The slot of FENCE (R218). -/
def semFence (qp sd scope : Nat) : SlotSem := fenceSem (.fence qp sd scope) qp sd scope
/-- FENCE (R218). -/
def execFence (qp sd scope : Nat) (s : State) : Host.Outcome State Fault Refusal := s.issue1 (semFence qp sd scope)

/-- The slot of TASKEND (R219). -/
def semTaskend (qp : Nat) : SlotSem := { i := .taskend qp, q := qp, eff := fun s => s.ask .taskend }
/-- TASKEND (R219). -/
def execTaskend (qp : Nat) (s : State) : Host.Outcome State Fault Refusal := s.issue1 (semTaskend qp)

/-- The slot of SPAWN (R220). -/
def semSpawn (qp f sa e : Nat) : SlotSem := spawnSem (.spawn qp f sa e) qp f sa e 0
/-- SPAWN (R220). -/
def execSpawn (qp f sa e : Nat) (s : State) : Host.Outcome State Fault Refusal := s.issue1 (semSpawn qp f sa e)

/-- The slot of SPAWN_OVERLAP (R220). -/
def semSpawnOverlap (qp f sa e ov : Nat) : SlotSem := spawnSem (.spawnOverlap qp f sa e ov) qp f sa e ov
/-- SPAWN_OVERLAP (R220). -/
def execSpawnOverlap (qp f sa e ov : Nat) (s : State) : Host.Outcome State Fault Refusal :=
  s.issue1 (semSpawnOverlap qp f sa e ov)

/-- The slot of YIELD (R221). -/
def semYield (qp : Nat) : SlotSem := { i := .yield qp, q := qp, eff := fun s => s.ask .yield }
/-- YIELD (R221). -/
def execYield (qp : Nat) (s : State) : Host.Outcome State Fault Refusal := s.issue1 (semYield qp)

/-- The slot of STATPOP (R222). -/
def semStatpop (qp sd sd2 : Nat) : SlotSem := statpopSem (.statpop qp sd sd2) qp sd sd2
/-- STATPOP (R222). -/
def execStatpop (qp sd sd2 : Nat) (s : State) : Host.Outcome State Fault Refusal := s.issue1 (semStatpop qp sd sd2)

end Sys2Proof.Machine
end

