-- ==== Sys2Proof/Machine/Jobs.lean ====
section
/-!
DEFINITION. Engine jobs between issue and completion: the mapping of a shape sample, its checks, the elements a job reads and
writes, the order of the jobs of one context, the inline reduce, and what completion does (11_descriptor_class.md R247, R252;
12 R258; 13 R274-R283; 07 R180-R185; 05 R135).
-/
namespace Sys2Proof.Machine

/-! ## Shape samples -/

/-- An element of a job: its index, row and column in the tile, its byte offset in the record, the bytes it lies in, and its
first bit in them. -/
structure El where
  idx : Nat
  row : Nat
  col : Nat
  off : Int
  size : Nat
  bit : Nat
  deriving DecidableEq, Repr

/-- Extent of dimension `k` of a sample (R247). -/
def shDim (m : Map Word) (k : Nat) : Nat := if k < shF m 3 then shF m (4 + k) else 1

/-- Coordinate `k` of tile element `(r, c)` of a sample, whose row lies `ro` rows on (R247, R263, R279). -/
def shCoord (m : Map Word) (ro : Int) (c k : Nat) : Int :=
  let x := sext 64 (shF m (12 + k))
  if k = 0 then x + (if shF m 19 = 0 then (c : Int) else ro)
  else if k = 1 then x + (if shF m 19 = 0 then ro else (c : Int))
  else x

/-- Whether tile element `(r, c)` lies inside the tensor (R247). -/
def shInside (m : Map Word) (ro : Int) (c : Nat) : Bool :=
  [0, 1, 2, 3].all fun k => decide (0 ≤ shCoord m ro c k) && decide (shCoord m ro c k < shDim m k)

/-- Rows and columns of a sample's tile. -/
def shCols (m : Map Word) : Nat := shF m 17

/-- Length in bytes of a sample's tile (R160). -/
def shLen (m : Map Word) : Nat := tileLenOf (shF m 16) (shF m 17) (shF m 2)

/-- Tile element `i` of a sample when it is inside the tensor (R247); `rowOf` gives the row of a gather or scatter, none for a row
that reaches no tensor row. -/
def elAt (m : Map Word) (rowOf : Nat → Option Int) (i : Nat) : Option El :=
  let r := i / shCols m
  let c := i % shCols m
  match rowOf r with
  | none => none
  | some ro =>
    if !shInside m ro c then none
    else
      let w := shWidth m
      let base : Int := shF m 1
      let from' (ks : List Nat) : Int :=
        (ks.filter (· < shF m 3)).foldl (fun a k => a + shCoord m ro c k * (shF m (8 + k) : Int)) base
      if 8 ≤ w then some ⟨i, r, c, from' [0, 1, 2, 3], w / 8, 0⟩
      else
        let b := 8 * from' [1, 2, 3] + shCoord m ro c 0 * w
        let k := (b % 8).toNat
        some ⟨i, r, c, b / 8, (k + w + 7) / 8, k⟩

/-- The rows of a copy: each tile row is its own. -/
def ownRows (r : Nat) : Option Int := some r

/-- The checks of R252 on a sample, in order; the tile's length may not pass `lim`, when given. -/
def shapeTrap (m : Map Word) (lim : Option Nat) : Option Trap :=
  let w := shWidth m
  let rank := shF m 3
  let ks := [0, 1, 2, 3].filter (· < rank)
  let bad (n : Nat) := n = 0 ∨ 65536 < n
  if shF m 0 = 0 ∨ 15 < shF m 0 ∨ 0x17 < shF m 2 ∨ rank = 0 ∨ 4 < rank ∨ (ks.any fun k => shF m (4 + k) == 0) ∨ 1 < shF m 19 ∨
      (shF m 19 = 1 ∧ w < 8) ∨ bad (shF m 16) ∨ bad (shF m 17) then some (trapOf 0x13 2)
  else if 8 ≤ w ∧ shF m 1 % (w / 8) ≠ 0 then some (trapOf 0x13 0)
  else if 8 ≤ w ∧ (shF m 8 = 0 ∨ ks.any fun k => shF m (8 + k) % (w / 8) != 0) then some (trapOf 0x13 1)
  else if w < 8 ∧ (shF m 8 ≠ 0 ∨ shF m 12 * w % 8 ≠ 0 ∨ shF m 17 * w % 8 ≠ 0) then some (trapOf 0x13 1)
  else match lim with
    | some n => if n < shLen m then some (trapOf 0x15 0) else none
    | none => none

/-- The shape digest (R364). -/
def shapeDigest (m : Map Word) : Bytes := digest 8 ((List.range 20).flatMap fun f => leBytes 8 (shF m f))

/-- The descriptor of a sample's image tile (R367). -/
def shDesc (m : Map Word) : Bytes := tileDesc (shF m 16 - 1) (shF m 17 - 1) (shF m 2) (shF m 18 % 2 ^ 32) (shLen m)

/-- The memory-image digest of values by element index (R367). -/
def imageDigest (m : Map Word) (vals : Map Nat) : Bytes :=
  digest 0xD (shDesc m ++ (chunkDigests (pack (shWidth m) ((List.range (shCount m)).map fun i => vals.look i 0))).flatten)

/-! ## Elements of a job -/

/-- The context of a job. -/
def State.jobCtx (s : State) (u : Nat) (j : Job) : Ctx := (s.byCid? u j.cid).getD { cid := 0 }

/-- Who a job acts for; a scalar store issued under TOUCHSEAL has `closed` set and may write only sealed pages (R275); an AUDREF reaches
the sealed pages of every owner (R412). -/
def State.whoJob (s : State) (u : Nat) (j : Job) : Who :=
  { s.whoCtx u (s.jobCtx u j) with
    onlySealed := j.closed && (j.kind == JobKind.stg || j.kind == JobKind.atomic)
    referee := j.kind == JobKind.audit && j.c == 1 }

/-- The rows that a gather's pushes have chosen; a closed gather's other rows are clipped (R263). -/
def Job.rowOf (j : Job) (r : Nat) : Option Int :=
  match j.kind with
  | .gather | .scatter => j.rows[r]?
  | _ => some r

/-- Whether element `i` of a gather has been fetched (R264). -/
def Job.gotten (j : Job) (i : Nat) : Bool :=
  decide (i / shCols j.shape < j.drained) || decide (i % shCols j.shape < (j.got.look (i / shCols j.shape) ([], false)).1.length)

/-- Requests of a gather count by push, those of a routine by operand tile: `performed` marks its B (R154). -/
def Job.salt (j : Job) (e : El) : Nat :=
  if j.kind = .gather then e.row + 1 else if j.kind = .routine ∧ j.performed then 1 else 0

/-- A span added to those that a job has read. -/
def addSpan (l : List (Nat × Nat)) : List Nat → List (Nat × Nat)
  | [] => l
  | k :: ks => match l with
    | r :: rs => addSpan (if r.1 + r.2 = k then (r.1, r.2 + 1) :: rs else (k, 1) :: l) ks
    | [] => addSpan [(k, 1)] ks

/-- The bytes that a job finds at places of global memory: of a record rewritten since it read part of it, those of the old one (R176). -/
def State.readAs (s : State) (j : Job) (ks : List Nat) : Bytes :=
  if j.view = [] then s.mem.readAt ks else ks.map fun k => j.view.look k (s.mem.read k)

/-- One element checked, translated and read: its bits, and whether its page is sealed. -/
def State.readEl (s : State) (u : Nat) (j : Job) (e : El) : State × Job × Except Trap (Nat × Bool) :=
  let (s, r) := s.element (s.whoJob u j) j.fps (shF j.shape 0) e.off e.size .read
  let w := shWidth j.shape
  match r with
  | .error t => (s, j, .error { t with row := if t.cause = 0x30 then e.idx * w / 4096 else e.row
                                       col := if t.cause = 0x30 then 0 else e.col })
  | .ok (ks, sl) =>
    let (s, j) := s.countAccess j (j.salt e) ks
    (s, { j with seen := addSpan j.seen ks }, .ok (leVal (s.readAs j ks) / 2 ^ e.bit % 2 ^ w, sl))

/-- Bytes that a job reads through its footprint record, eight at a time (R146, R382); the first argument bounds the pieces. -/
def State.jobRead (s : State) (u : Nat) (j : Job) : Nat → Nat → Nat → State × Job × Except Trap Bytes
  | 0, _, _ => (s, j, .ok [])
  | f + 1, off, n =>
    if n = 0 then (s, j, .ok [])
    else
      let k := min 8 n
      match s.element (s.whoJob u j) j.fps j.ch (Int.ofNat off) k .read with
      | (s, .error t) => (s, j, .error t)
      | (s, .ok (ks, _)) =>
        let (s, j) := s.countAccess j 0 ks
        let bs := s.mem.readAt ks
        let (s, j, r) := s.jobRead u j f (off + k) (n - k)
        (s, j, r.map fun x => bs ++ x)

/-- Some elements read in order: their bits, zero where an element is not inside. -/
def State.readEls (s : State) (u : Nat) (j : Job) : List Nat → State × Job × Except Trap (List Nat × Bool)
  | [] => (s, j, .ok ([], false))
  | i :: is =>
    match elAt j.shape j.rowOf i with
    | none =>
      let (s, j, r) := s.readEls u j is
      (s, j, r.map fun x => (0 :: x.1, x.2))
    | some e =>
      match s.readEl u j e with
      | (s, j, .error t) => (s, j, .error t)
      | (s, j, .ok (v, sl)) =>
        let (s, j, r) := s.readEls u j is
        (s, j, r.map fun x => (v :: x.1, sl || x.2))

/-- The elements that lie in chunk `k` of a sample's tile, and the first bit of the first of them. -/
def chunkEls (m : Map Word) (k : Nat) : List Nat :=
  let w := shWidth m
  let lo := k * 4096 / w
  let hi := min (shCount m) (cdiv ((k + 1) * 4096) w)
  (List.range (hi - lo)).map (lo + ·)

/-- The bytes of chunk `k` from the bits of its elements (R30, R160). -/
def chunkOf (m : Map Word) (k : Nat) (vals : List Nat) : Bytes :=
  let w := shWidth m
  let lo := k * 4096 / w
  leBytes (min 512 (shLen m - 512 * k)) (packVal w vals / 2 ^ (k * 4096 - lo * w))

/-- Chunk `k` of a copy-in or gather read from memory. -/
def State.readChunk (s : State) (u : Nat) (j : Job) (k : Nat) : State × Job × Except Trap (Bytes × Bool) :=
  let (s, j, r) := s.readEls u j (chunkEls j.shape k)
  (s, j, r.map fun x => (chunkOf j.shape k x.1, x.2))

/-- The chunks that hold no inside element (R166). -/
def clipped (m : Map Word) : List Nat :=
  (List.range (chunksOf (shLen m))).filter fun k => (chunkEls m k).all fun i => (elAt m ownRows i).isNone

/-! ## The order of the jobs of one context -/

/-- The kind of the access that a job makes to global memory. -/
def Job.access (j : Job) : Kind :=
  match j.kind with
  | .atomic => .atomic
  | .copyOut | .copyAcc | .scatter | .stg => .write
  | .ovl => .exec
  | _ => .read

/-- A byte by its virtual address, told apart from every place in memory. -/
def vaKey (va : Nat) : Nat := 2 ^ 100 + va

/-- What one element reaches, for the order of R180: the virtual addresses of its bytes, which the jobs of one context share, and
their places when they translate; an element that would fault now is known by its addresses alone. -/
def State.elKeys (s : State) (u : Nat) (j : Job) (rec' : Nat) (off : Int) (size : Nat) (kind : Kind) : List Span :=
  (vaKey (wrapN 80 ((fpOf j.fps rec').base + off)), size) ::
    match (s.element (s.whoJob u j) j.fps rec' off size kind).2 with
    | .ok r => r.1.map fun k => (k, 1)
    | .error _ => []

/-- What a run of bytes of a record reaches, eight bytes at a time. -/
def State.runKeys (s : State) (u : Nat) (j : Job) (rec' off n : Nat) : List Span :=
  (List.range (cdiv n 8)).flatMap fun i => s.elKeys u j rec' (Int.ofNat (off + 8 * i)) (min 8 (n - 8 * i)) .read

/-- The bytes of an image of MPROG after its 8-byte header, whose LEN is `l`: image and signature (R112). -/
def imageRest (l : Nat) : Nat := cdiv l 8 * 8 + 4627

/-- Bytes of a job's record as they stand now, zeros where they cannot be read. -/
def State.peek (s : State) (u : Nat) (j : Job) (off n : Nat) : Bytes :=
  match (s.jobRead u j (n / 8 + 1) off n).2.2 with
  | .ok b => b
  | .error _ => zeros n

/-- The landing table of a replay's request and the bytes that it names: offset and length of each run (R384). -/
def State.landRuns (s : State) (u : Nat) (j : Job) (b : Bytes) : List (Nat × Nat) :=
  let x := s.die (u / 128)
  let n := if leAt b 48 8 = 0 then 0 else leAt b 56 4
  match x.tree.find? fun t => t.queue == leAt b 0 2 && t.session == (s.queue (u / 128) (leAt b 0 2)).sess && t.idx == leAt b 8 8 with
  | none => []
  | some t => match x.objs.find? fun o => o.2.refs.contains j.queue && o.2.digest == slice t.hdr 0 64 with
    | none => []
    | some (_, o) => (List.range n).flatMap fun i =>
      let e := s.peek u j (leAt b 48 8 + 32 * i) 32
      (leAt b 48 8 + 32 * i, 32) :: match o.chans.find? fun r => r.ch == leAt e 0 1 with
        | some r => let l := tileLenOf r.rows r.cols r.fmt
                    [(leAt e 8 8, l), (leAt e 16 8, chunksOf l)]
        | none => []

/-- What a job of the tree engine reads and what it writes in its record, by its request as it stands: offset and length of each run. A
replay writes what it has found that it captures, and may fill its buffer before (R383-R385, R423). -/
def State.auditRuns (s : State) (u : Nat) (j : Job) : List (Nat × Nat) × List (Nat × Nat) :=
  let b := s.peek u j j.a 64
  match j.c with
  | 0 => ([(j.a, 64)], [(leAt b 32 8, 192)])
  | 1 =>
    let e := s.peek u j (leAt b 0 8) 32
    ([(j.a, 64), (leAt b 0 8, 448 + ([16, 20, 24, 28].map fun o => leAt e o 4).foldl (· + ·) 0)], [(leAt b 8 8, 64)])
  | _ => ((j.a, 64) :: s.landRuns u j b, [(leAt b 32 8, j.cap.getD (leAt b 40 8))])

/-- What element `i` of a job's tile reaches, for the order of R180. -/
def State.elSpans (s : State) (u : Nat) (j : Job) (i : Nat) : List Span :=
  match elAt j.shape j.rowOf i with
  | some e => s.elKeys u j (shF j.shape 0) e.off e.size j.access
  | none => []

/-- The accesses that a job has yet to make to global memory, by the number of their element (R180): of a job of the tree engine, 0 what it
reads and 1 what it writes. -/
def State.jobEls (s : State) (u : Nat) (j : Job) : List (Nat × List Span) :=
  let of' (j : Job) (i : Nat) : Nat × List Span := (i, s.elSpans u j i)
  let sent := j.air.map fun a => (a.idx, a.spans)
  match j.kind with
  | .gather => ((List.range (j.rows.length * shCols j.shape)).filter fun i => !j.gotten i).map (of' j)
  | .copyIn =>
    (((j.tds.flatMap fun w => (List.range w.cells.length).filter fun k => (w.cells[k]?).elim false Option.isNone)).filter fun k =>
        (j.fetched.entry? k).isNone).flatMap fun k =>
      (chunkEls j.shape k).map (of' j)
  | .copyOut | .copyAcc | .scatter => sent ++ j.rest.map (of' j)
  | .routine =>
    (if j.tilesA = [] then
        ((List.range (shCount j.shape)).filter fun i => (j.stored.entry? i).isNone).map (of' j)
      else []) ++
    (if j.tilesB = [] then
        ((List.range (shCount j.shape2)).filter fun i => (j.readBefore.entry? i).isNone).map (of' { j with shape := j.shape2 })
      else [])
  | .ovl => ((List.range j.c).drop j.next).map fun i => (i, s.elKeys u j j.ch (Int.ofNat (j.a + 64 * i)) 64 j.access)
  | .ldg | .stg | .atomic => if sent ≠ [] then sent else [(0, s.elKeys u j j.ch (Int.ofNat j.a) j.arr j.access)]
  | .mprog =>
    let hdr := s.peek u j j.a 8
    let n := if leAt hdr 0 1 ≠ j.c ∨ leAt hdr 1 3 ≠ 0 ∨ 16384 < leAt hdr 4 4 then 8 else 8 + imageRest (leAt hdr 4 4)
    if j.performed then [] else [(0, s.runKeys u j j.ch j.a n)]
  | .audConfig => [(0, s.runKeys u j j.ch j.a 64)]
  | .spawn => [(0, s.runKeys u j j.a j.b 64)]
  | .audit =>
    let keys (r : List (Nat × Nat)) : List Span := r.flatMap fun x => s.runKeys u j j.ch x.1 x.2
    let r := s.auditRuns u j
    [(0, keys r.1), (1, keys r.2)]
  | _ => []

/-- The places that a job has yet to reach in global memory. -/
def State.jobKeys (s : State) (u : Nat) (j : Job) : List Span := (s.jobEls u j).flatMap (·.2)

/-- Whether the accesses of an element of a job write. -/
def Job.writesEl (j : Job) (e : Nat) : Bool := j.kind.out || (j.kind == .audit && e == 1)

/-- The jobs of the same context issued before a job and not yet performed, latest first. -/
def State.earlier (s : State) (u : Nat) (j : Job) : List Job :=
  ((s.unit u).jobs.filter fun i => i.cid == j.cid && decide (i.jid < j.jid) && !i.performed).reverse

/-- The accesses of earlier jobs that must take effect before others (each given as whether it writes and where), oldest job first, each
job with the elements that count: those that clash with the others, and those that clash with one of these (R180). -/
def State.before (s : State) (u : Nat) (ws : List (Bool × List Span)) (js : List Job) : List (Job × List Nat) :=
  (js.foldl (fun (acc : List (Job × List Nat) × List (Bool × List Span)) i =>
    let es := (s.jobEls u i).filter fun e => acc.2.any fun x => clash (i.writesEl e.1) x.1 e.2 x.2
    if es = [] then acc else ((i, es.map (·.1)) :: acc.1, es.map (fun e => (i.writesEl e.1, e.2)) ++ acc.2)) ([], ws)).1

/-- Whether an earlier acquire of the context has yet to read: later jobs wait for it (R183). -/
def State.acquiring (s : State) (u : Nat) (j : Job) : Bool :=
  (s.earlier u j).any fun i => i.kind == JobKind.atomic && decide (i.phase % 2 = 1)

/-! ## What out jobs do -/

/-- The reduce kinds that R276 allows on a format. -/
def reduceOk (fmt : Nat) : Bool := [0, 1, 2, 8, 9, 0xA].contains fmt

/-- Element `(r, c)` of an accumulator bank as an exact value (R312). -/
def State.accVal (s : State) (u n r c : Nat) : XR :=
  let v := leVal (s.mem.readN (memKey (regAcc u n) ((r * 128 + c) * 4)) 4)
  if ((s.unit u).accs.look n {}).int then .ofInt (sext 32 v) else fltVal f32 v

/-- How far an out job comes: all of it, not now, or to a fault. -/
inductive Perf where
  | done (s : State) (j : Job)
  | wait
  | fault (s : State) (j : Job) (t : Trap)

/-- Whether a tile that a job reads is sealed. -/
def State.srcSealed (s : State) (j : Job) : Bool := (j.src.map fun t => (s.slot t).sealed).getD false

/-- Places of an element on a page that is not sealed, for a job whose source is sealed: bytes that cross (R275, R414); none for an
element that would fault. -/
def State.crossEl (s : State) (u : Nat) (j : Job) (e : El) : Option (List Nat) :=
  match (s.element (s.whoJob u j) j.fps (shF j.shape 0) e.off e.size .write).2 with
  | .ok (ks, _) => some (ks.filter fun k => (s.regionsAt k).isEmpty)
  | .error _ => none

/-- The bytes that elements cross, up to the first that would fault: each byte once, though elements of less than a byte share it
(R414). -/
def State.crossEls (s : State) (u : Nat) (j : Job) (last : Option Nat) : List Nat → Nat
  | [] => 0
  | i :: is =>
    match elAt j.shape j.rowOf i with
    | none => s.crossEls u j last is
    | some e => match s.crossEl u j e with
      | none => 0
      | some ks =>
        let new := if shWidth j.shape < 8 then ks.filter fun k => last != some k else ks
        new.length + s.crossEls u j (ks.getLast?.or last) is

/-- The bytes of a job's crossing (R414). -/
def State.crossing (s : State) (u : Nat) (j : Job) : Nat :=
  if (j.kind = .copyOut ∨ j.kind = .scatter) ∧ s.srcSealed j then s.crossEls u j none j.rest else 0

/-- Whether a crossing of `b` bytes is refused by a meter (R416). -/
def State.crossRefused (s : State) (b : Nat) : Bool :=
  b != 0 && s.sec.regions.any fun r => r.2.rate == 0 || decide (r.2.burst < b)

/-- One element of an out job checked and sent to its home (R146, R276-R279); `v` is the element's bits from its source. -/
def State.sendEl (s : State) (u : Nat) (j : Job) (e : El) (red v : Nat) : State × Job × Except Trap Air :=
  -- a lane for the faults of R147, the chunk for an uncorrectable error (R171)
  let lane (t : Trap) : Trap :=
    if t.cause = 0x30 then { t with row := e.idx * shWidth j.shape / 4096, col := 0 } else { t with row := e.row, col := e.col }
  let who := s.whoJob u j
  let (s, rd) : State × Option Trap := if red = 0 then (s, none) else
    match s.element who j.fps (shF j.shape 0) e.off e.size .read with
    | (s, .error t) => (s, some t)
    | (s, .ok _) => (s, none)
  match rd with
  | some t => (s, j, .error (lane t))
  | none =>
    match s.element who j.fps (shF j.shape 0) e.off e.size .write with
    | (s, .error t) => (s, j, .error (lane t))
    | (s, .ok (ks, _)) =>
      let (s, j) := s.countAccess j 0 ks
      (s, j, .ok ⟨e.idx, ks, e.bit, v⟩)

/-- Elements of an out job in row-major order, until one faults (R274): each is written as it is sent, or, when `fly` holds, stays on its
way. `val` reads an element's source, which may have become uncorrectable since the issue (R171). They begin at `next`; all that is
left, when they are written. -/
def State.writeEls (s : State) (u : Nat) (j : Job) (fly : Bool) (val : State → El → Except Trap (Flagged Nat)) : List Nat → Perf
  | [] => .done s { j with performed := !fly }
  | i :: is =>
    let step (j : Job) : Job := { j with next := i + 1 }
    match elAt j.shape j.rowOf i with
    | none => s.writeEls u (step j) fly val is
    | some e =>
      match val s e with
      | .error t => .fault s { j with next := i } t
      | .ok x =>
        match s.sendEl u { j with flags := j.flags ||| x.2 } e (redOf j.instr) x.1 with
        | (s, _, .error t) => .fault s { j with next := i } t
        | (s, j, .ok a) =>
          let (s, j) := if fly then (s, { j with air := a :: j.air }) else s.writeEl j a
          s.writeEls u (step j) fly val is

/-- A scalar store or an atomic checked and sent to its home (R281-R283); an atomic on a sealed page sets TOUCHSEAL (R244). -/
def State.sendScalar (s : State) (u : Nat) (j : Job) : Except (State × Trap) (State × Job × List Nat) :=
  match s.element (s.whoJob u j) j.fps j.ch j.a j.arr j.access with
  | (s, .error t) => .error (s, t)
  | (s, .ok (ks, sl)) =>
    let (s, j) := s.countAccess j 0 ks
    .ok (if j.kind = .atomic then s.updCid u j.cid fun c => { c with touchSeal := c.touchSeal || sl } else s, j, ks)

/-- A scalar store or an atomic performed, or sent on its way (R281-R283). -/
def State.doScalar (s : State) (u : Nat) (j : Job) (fly : Bool) : Perf :=
  match s.sendScalar u j with
  | .error (s, t) => .fault s j t
  | .ok (s, j, ks) =>
    if fly then .done s { j with air := [⟨0, ks, 0, 0⟩] }
    else let (s, j) := s.land u j ⟨0, ks, 0, 0⟩
         .done s { j with performed := true }

/-- The out format, rounding and saturation of an FMT sample (R27). -/
def fmtFO (v : BitVec 32) : Nat := fld v.toNat 10 5
/-- The rounding of an FMT sample. -/
def fmtRM (v : BitVec 32) : Nat := fld v.toNat 15 3
/-- The SAT bit of an FMT sample. -/
def fmtSAT (v : BitVec 32) : Bool := bit v.toNat 18

/-- What an element of a copy-out or scatter reads of its tile, or MEMUE with the chunk that has become uncorrectable (R171). -/
def State.srcEl (s : State) (j : Job) (vals : List Nat) (e : El) : Except Trap (Flagged Nat) :=
  let w := shWidth j.shape
  let bad := j.src.bind fun t => (chunkRange (e.idx * w / 8) (cdiv (e.idx * w % 8 + w) 8)).find? fun k => bit (s.slot t).poison k
  match bad with
  | some k => .error { cause := 0x30, row := k }
  | none => .ok (nth vals e.idx, 0)

/-- Elements of a copy-out, copy-out from a bank or scatter written or sent on their way; what they read of the tile or bank is as it stands
now (R276-R279). -/
def State.writeSome (s : State) (u : Nat) (j : Job) (fly : Bool) (is : List Nat) : Perf :=
  match j.kind with
  | .copyAcc =>
    s.writeEls u j fly (fun s e => .ok (convert (fmtFO j.fmt) (fmtRM j.fmt) (fmtSAT j.fmt) (s.accVal u j.bank e.row e.col))) is
  | _ =>
    let vals := match j.src with
      | some t => elems (shWidth j.shape) (shCount j.shape) (s.mem.readN (s.slotKey t) (shLen j.shape))
      | none => []
    s.writeEls u j fly (fun s e => s.srcEl j vals e) is

/-- Elements `is` of an out job performed as far as it comes by itself (R276-R282), or, when `fly` holds, sent on their way. -/
def State.perform1 (s : State) (u : Nat) (j : Job) (fly : Bool) (is : List Nat) : Perf :=
  match j.kind with
  | .stg | .atomic => s.doScalar u j fly
  | _ =>
    let b := s.crossing u j
    if b ≤ j.paid then s.writeSome u j fly is
    else if !s.crossRefused b then .wait
    else
      -- the crossing is refused at its first byte on an unsealed page
      let cross (i : Nat) : Option El := (elAt j.shape j.rowOf i).filter fun e => (s.crossEl u j e).getD [] != []
      match s.writeSome u j fly (is.takeWhile fun i => (cross i).isNone), is.findSome? cross with
      | .done s' j', some e =>
        .fault s' { j' with performed := false, next := e.idx }
          { cause := 0x10, reason := 1, row := e.row, col := e.col, vaddr := wrapN 80 ((fpOf j.fps (shF j.shape 0)).base + e.off) }
      | p, _ => p

/-! ## Writes on their way -/

/-- The scope of an atomic, and whether it would write now: a location in PLACE 6 is reached at system scope, and a CAS that fails writes
nothing (R182, R185, R282); its word. -/
def State.atomScope (s : State) (u : Nat) (j : Job) : Nat × Bool × Nat :=
  match (s.element (s.whoJob u j) j.fps j.ch j.a j.arr .atomic).2 with
  | .ok (ks, _) =>
    (if ks.headD 0 / 2 ^ 52 = regHost then 4 else j.bank, (atomResult j.instr (8 * j.arr) (leVal (s.mem.readAt ks)) j.b j.c).1.isSome,
      ks.headD 0 / 8)
  | .error _ => (j.bank, true, 0)

/-- The entries that the accesses of a job walk through are as its context must find them (R150, R173); the accesses then reach what the
tables now say. -/
def State.showWalks (s : State) (u : Nat) (j : Job) (ks : List Span) : State × List Span :=
  if s.aloft = [] then (s, ks)
  else
    let vas := ks.filter fun k => decide (2 ^ 100 ≤ k.1)
    let w := s.whoJob u j
    let s := s.landSeen (·.seenBy u j.cid) (placeSpans (vas.flatMap fun k => s.walkKeys w (k.1 - 2 ^ 100) k.2) 8)
    (s, vas.flatMap fun k => k :: match (s.xlateN w j.access (k.1 - 2 ^ 100) k.2).2 with
      | .ok r => placeSpans r.1 1
      | .error _ => [])

/-- Whether a job's write changes the tag of its word (R185): any but that of a relaxed or an acquire atomic. -/
def Job.retags (j : Job) : Bool := (j.kind.out || j.kind == .audit) && (j.kind != .atomic || decide (2 ≤ j.phase))

/-- Whether a job's access to the bytes of another context's job on its way comes behind it: it must find that write, or it writes over a
relaxed atomic whose tag a FENCE has read (R173, R182, R185). -/
def Job.follows (j : Job) (u : Nat) (i : Job) : Bool := i.seenBy u j.cid || (i.tagRead && j.retags)

/-- Elements `is` of an out job, the next ones, are sent on their way when all pass their checks now, behind what its context sees on its way;
none when they cannot be: one would fault, its crossing is not paid for, an acquire comes before it or it is one (R146, R173, R183, R415). -/
def State.loftEls (s : State) (u : Nat) (j : Job) (is : List Nat) : Option State :=
  if !j.kind.out || j.fault.isSome || s.acquiring u j || (j.kind == .atomic && decide (j.phase % 2 = 1)) then none
  else
    let s := (s.showWalks u j (s.jobKeys u j)).1
    match s.perform1 u ((s.job? u j.jid).getD j) true is with
    | .done s k =>
      let s := s.putJob u { k with performed := k.air == [] && k.rest == [] }
      some ((s.aloft.filter fun i => i.2.jid != j.jid && j.follows u i.2).foldl (fun s i => s.orderAir i.2 (u, j)) s)
    | _ => none

/-- An out job is sent on its way, as far as it is not. -/
def State.loft (s : State) (u : Nat) (j : Job) : Option State :=
  if j.performed || (j.air != [] && j.rest == []) then some s else s.loftEls u j j.rest

/-- Every access of a context before job `jid` is performed, or its writes are on their way and stand as performed at a scope below package;
none while that cannot be (R173, R183, R184). A release among them needs those before it at its own scope. DEDUCED (log 77). -/
def State.stand (s : State) (u cid jid sc : Nat) (word : Option Nat) : Option State :=
  let js := ((s.unit u).jobs.filter fun i => i.cid == cid && decide (i.jid < jid) && !i.performed)
  if 3 ≤ sc ∧ js ≠ [] then none
  else (js.foldl (fun (o : Option State) i => o.bind fun s =>
    let (rs, _, _) := s.atomScope u i
    if i.kind = .atomic ∧ 2 ≤ i.phase ∧ i.air = [] then
      if 3 ≤ rs ∧ (((s.unit u).jobs.any fun k => k.cid == cid && decide (k.jid < i.jid) && !k.performed) || s.airborne cid i.jid) then none
      else (s.mark u cid i.jid rs none).loft u i
    else s.loft u i) (some s)).map fun s => s.mark u cid jid sc word

/-- What a release waits for, when it would write now: the earlier accesses of its context stand as performed at its scope; none while they
do not (R183). -/
def State.released (s : State) (u : Nat) (j : Job) : Option State :=
  let (sc, writes, word) := s.atomScope u j
  if j.kind ≠ .atomic ∨ j.phase < 2 ∨ !writes then some s
  else if 3 ≤ sc ∧ s.airborne j.cid j.jid then none
  else s.stand u j.cid j.jid sc (some word)

/-- Accesses of earlier jobs that must come first, oldest first: they are sent on their way and, when `now` holds, or for a release, arrive
(R180); none when one of them cannot be sent. -/
def State.force (s : State) (u : Nat) (now : Bool) : List (Job × List Nat) → Option State
  | [] => some s
  | i :: is =>
    ((if i.1.air = [] then s.released u i.1 else some s).bind fun s => s.loft u ((s.job? u i.1.jid).getD i.1)).bind fun s =>
      let ks := ((s.job? u i.1.jid).map fun j => (j.air.filter fun a => i.2.contains a.idx).flatMap Air.spans).getD []
      (if now || (i.1.kind == .atomic && decide (2 ≤ i.1.phase)) then State.landOver (s.aloft.length + 1) s u i.1.jid ks else s).force u now is

/-- A FENCE takes the acquire role for the relaxed atomics before it that it lets pass (R184, R185): it reads the tag of their word, as the
writes on their way before them leave it, and what is on its way to the same bytes otherwise comes behind them if it changes that tag. -/
def State.promote (s : State) (u cid jid : Nat) : State :=
  (s.aloft.filter fun i => i.2.cid == cid && decide (i.2.jid < jid) && i.2.kind == JobKind.atomic && i.2.phase == 0 && !i.2.tagRead).foldl
    (fun s i =>
      let key := ((i.2.air.head?).map fun a => a.keys.headD 0).getD 0
      let ks := i.2.air.flatMap Air.spans
      let after := ((s.job? u i.2.jid).getD i.2).after
      let t := (s.aloft.filter fun o => after.contains o.2.jid).foldl (fun t o => State.landOver (s.aloft.length + 1) t o.1 o.2.jid ks) s
      let s := if key / 2 ^ 52 = regHost then s else s.noteRead u cid (key / 8) (t.tagOf (key / 8))
      let s := s.updJob u i.2.jid fun j => { j with tagRead := true }
      s.aloft.foldl (fun s o => if o.2.cid != cid && o.2.retags && o.2.airOver ks != [] then s.orderAir i.2 o else s) s) s

/-- A cycle of the stall of a fence (R217, R218): the fault of an earlier job is raised at the fence, else the fence ends once what it
waits for is over. Other slots of its bundle have taken effect, so after ERET the stall goes on where it was. DEDUCED (log 75). -/
def State.fenceStep (s : State) (f : Fencing) : State :=
  let u := s.curU
  let c := s.cur
  let js := (s.jobsOf u c.cid).filter fun j => decide (j.jid < f.jid)
  match s.faultOf u (js.map (·.jid)) with
  | some t => s.enterTrap u s.curB t f.addr
  | none =>
    let go (c : Ctx) : Ctx := { c with pc := f.next, fencing := none, stall := 0, last := .idle }
    match f.word with
    | none =>
      if !js.isEmpty then (s.updCur fun c => { c with last := .held }).noteStall
      else
        let d := c.landWhere fun x => decide (x.bundle < f.bundle)
        let s := s.updCur fun c => go (c.tfenced f.bundle)
        if trapping d.pend f.te = 0 then s
        else s.enterTrap u s.curB { cause := 0x20, slot := 1, data := d.pend.toNat, w := f.w } f.addr
    | some (sd, scope) =>
      match (if s.airborne c.cid f.jid then none else s.stand u c.cid f.jid scope none) with
      | none => (s.updCur fun c => { c with last := .held }).noteStall
      | some s => ((s.promote u c.cid f.jid).fenced sd scope 0).updCur go

/-- What must come before an access of a job at some places has been performed (R173, R180, R183); none when it cannot be yet. -/
def State.ready (s : State) (u : Nat) (j : Job) (ks : List Span) : Option State :=
  if s.acquiring u j then none
  else
    let (s, ks) := s.showWalks u j ks
    let ws := if j.kind = .audit then (s.jobEls u j).map fun e => (e.1 == 1, e.2) else [(j.kind.out, ks)]
    let s := s.landSeen (fun i => i.cid != j.cid && j.follows u i) (ks.filter fun k => decide (k.1 < 2 ^ 100))
    (s.force u true (s.before u ws (s.earlier u j))).bind fun s => s.released u j

/-- An out job performed in its order: what is on its way arrives, and then the rest is performed. -/
def State.perform (s : State) (u : Nat) (j : Job) : Perf :=
  let s := if j.air = [] then s else State.landOver (s.aloft.length + 1) s u j.jid (j.air.flatMap Air.spans)
  let j := if j.air = [] then j else (s.job? u j.jid).getD j
  if j.performed then .done s j
  else match s.ready u j (s.jobKeys u j) with
    | none => .wait
    | some s => let j := (s.job? u j.jid).getD j
                s.perform1 u j false j.rest

/-- Element `k` of an out job by itself at its home: those before it in the order of R274 have passed their checks as well and are on their
way (R180, R423). None when it cannot be now, or is there. -/
def State.arriveEl (s : State) (u : Nat) (j : Job) (k : Nat) : Option State :=
  let arrive (s : State) : State :=
    let ks := ((s.job? u j.jid).map fun j => (j.air.filter fun a => a.idx == k).flatMap Air.spans).getD []
    State.landOver (s.aloft.length + 1) s u j.jid ks
  if j.performed then none
  else if j.air.any fun a => a.idx == k then some (arrive s)
  else match j.kind with
    | .stg | .atomic => match k, s.perform u j with
      | 0, .done s j => some (s.putJob u j)
      | _, _ => none
    | _ =>
      let is := j.rest.takeWhile (decide <| · ≤ k)
      if !is.contains k || s.acquiring u j then none
      else (s.force u false (s.before u [(true, is.flatMap fun i => s.elSpans u j i)] (s.earlier u j))).bind fun s =>
        (s.ready u j (s.elSpans u j k)).bind fun s => (s.loftEls u ((s.job? u j.jid).getD j) is).map arrive

/-- Element `k` of a job that reads a tile's elements read ahead of the others of its chunk or block: the job finds there what it has read
(R180, R423). Of a routine the even numbers are those of operand A, the odd ones those of B. -/
def State.readAhead (s : State) (u : Nat) (j : Job) (k : Nat) : Option State :=
  let (i, m) := if j.kind ≠ .routine then (k, j.shape) else if k % 2 = 0 then (k / 2, j.shape) else (k / 2, j.shape2)
  let jm := { j with shape := m }
  match (elAt m j.rowOf i).filter fun _ => decide (i < shCount m) with
  | none => none
  | some e => (s.ready u j (s.elSpans u jm i)).bind fun s =>
    match s.element (s.whoJob u j) j.fps (shF m 0) e.off e.size .read with
    | (_, .error _) => none
    | (s, .ok (ks, _)) =>
      let (s, j) := s.countAccess ((s.job? u j.jid).getD j) (Job.salt jm e) ks
      some (s.putJob u { j with seen := addSpan j.seen ks, view := s.holdBytes ks j.view })

/-! ## Completion -/

/-- The completion message of a job (R135). -/
def jobMessage (u : Nat) (c : Ctx) (j : Job) (moved seq : Nat) : Bytes :=
  layout 64 [(0, leBytes 4 j.tag), (4, leBytes 4 c.taskId), (8, leBytes 8 j.addr), (16, leBytes 2 u),
    (18, leBytes 1 (fld j.instr.syl.w 26 6)), (20, leBytes 4 moved), (24, leBytes 4 seq)]

/-- The egress record of a job that crossed is written before the job completes; none while the access log has no room (R417). -/
def State.logEgress (s : State) (u : Nat) (j : Job) : Option State :=
  if j.crossed = 0 then some s else s.logRecord (j.egress u (s.jobCtx u j).taskId)

/-- A job completes: its flags, its leaf, its semaphore or its message, and it leaves the unit (R135, R213, R258, R274). Whether it posts a
message is settled at its issue, where the message goes at its completion. DESIGN CHOICE (log 87). -/
def State.finishJob (s : State) (u : Nat) (j : Job) (leaf : Option LeafRec) (moved seq : Nat) : State :=
  let c := s.jobCtx u j
  let s := s.jobFlags u j j.flags
  let s := match leaf with
    | some l => s.jobLeaf u j l
    | none => s
  let s := s.semDone u j
  let n := (s.queue j.die j.queue).notify
  let s := if j.sem = 16 then
      s.post { die := fld n 10 2, mb := fld n 0 10, bytes := jobMessage u c j moved seq, sup := (s.queue j.die j.queue).sup, cid := some (u, j.cid), job := none }
    else s
  s.dropJob u j.jid

/-- A job stops at a fault (R258, R274); a crossing is measured again when it goes on (R415). -/
def State.stopJob (s : State) (u : Nat) (j : Job) (t : Trap) : State := s.putJob u { j with fault := some t, paid := 0 }

/-- An event of a job of a unit: nothing when there is no such job, or it is faulted, or the unit is frozen (R170). -/
def State.onJob (s : State) (u jid : Nat) (f : Job → Option State) : Host.Outcome State Fault Refusal :=
  match s.job? u jid with
  | none => .next s
  | some j => if j.fault.isSome || (s.unit u).freeze != 0 then .next s else .next ((f j).getD s)

end Sys2Proof.Machine
end

