-- ==== Sys2Proof/Machine/Copy.lean ====
section
/-!
DEFINITION. The copy class: the L slot, and the progress of the jobs it issues (12_copy_class.md R257-R272; 10 R244).
-/
namespace Sys2Proof.Machine

/-- A supervisor operation at task level raises PRIV whatever its predicate; else it issues (R68). -/
def State.issuePriv (s : State) (o : SlotSem) : Host.Outcome State Fault Refusal :=
  if s.cur.level = 0 then
    .next (s.enterTrap s.curU s.curB { cause := 4, reason := 3, dreason := 3, mask := 2 ^ o.i.slot } s.cur.pc)
  else s.issue1 o

/-! ## Allocation -/

/-- The pool-table entry `pool` of the issuing context. -/
def State.ptOf (s : State) (pool : Nat) : PtEnt := s.cur.pt.look pool {}

/-- A slot taken for `hd` with `reads` consuming reads (R260): the handle lands two bundles on. -/
def State.take (s : State) (hd pool reads : Nat) (t : TileRef) : State :=
  let gen := (s.slot t).gen
  (s.allocSlot s.curU s.cur pool reads s.issAddr t).updCur fun c =>
    { c.write (c.dh hd) (handleOf t gen) 2 with
      pt := c.pt.adj pool {} fun p => { p with inUse := p.inUse + 1 } }

/-- ALLOC and ALLOCR (R260): held until a slot of the reservation is free. -/
def allocSem (i : Instr) (q hd pool : Nat) (reads : State → Nat) : SlotSem :=
  { i := i, q := q
    check := fun s => if 255 < reads s then some (trapOf 3 4)
      else if (s.ptOf pool).valid then none else some (trapOf 0x18 0)
    hold := fun s => (s.allocReady s.curU (s.ptOf pool)).isNone
    eff := fun s => match s.allocReady s.curU (s.ptOf pool) with
      | some t => s.take hd pool (reads s) t
      | none => s }

/-- The slot of ALLOC (R260). -/
def semAlloc (qp hd pool reads : Nat) : SlotSem := allocSem (.alloc qp hd pool reads) qp hd pool fun _ => reads
/-- ALLOC (R260). -/
def execAlloc (qp hd pool reads : Nat) (s : State) : Host.Outcome State Fault Refusal := s.issue1 (semAlloc qp hd pool reads)

/-- The slot of ALLOCR (R260). -/
def semAllocr (qp hd pool sa : Nat) : SlotSem := allocSem (.allocr qp hd pool sa) qp hd pool fun s => (s.cur.rs sa).toNat
/-- ALLOCR (R260). -/
def execAllocr (qp hd pool sa : Nat) (s : State) : Host.Outcome State Fault Refusal := s.issue1 (semAllocr qp hd pool sa)

/-- The slot of ALLOCT (R260): it never holds, and says in `qs` whether it took a slot. -/
def semAlloct (qp hd pool reads qs : Nat) : SlotSem :=
  { i := .alloct qp hd pool reads qs, q := qp
    check := fun s => if (s.ptOf pool).valid then none else some (trapOf 0x18 0)
    eff := fun s => match s.allocReady s.curU (s.ptOf pool) with
      | some t => (s.take hd pool reads t).updCur fun c => c.write (c.dq qs) 1 2
      | none => s.updCur fun c => (c.write (c.dh hd) 0 2).write (c.dq qs) 0 2 }
/-- ALLOCT (R260). -/
def execAlloct (qp hd pool reads qs : Nat) (s : State) : Host.Outcome State Fault Refusal :=
  s.issue1 (semAlloct qp hd pool reads qs)

/-! ## Producers -/

/-- The slot a destination handle names, when its checks pass. -/
def State.dst (s : State) (h : Nat) : TileRef := (s.tile? s.curU s.cur (s.cur.rh h)).getD ⟨0, 0⟩

/-- The checks of a producer that samples a shape (R258). -/
def shapedTrap (s : State) (hd sh : Nat) : Option Trap :=
  firstTrap [s.dstTrap s.curU s.cur (s.cur.rh hd), shapeTrap (s.cur.sample sh) (some (s.slotSize (s.dst hd)))]

/-- Metadata of a producer from its shape sample (R258). -/
def State.produceAs (s : State) (t : TileRef) (m : Map Word) : State :=
  s.produce t (shF m 16 - 1) (shF m 17 - 1) (shF m 2) (shF m 18 % 2 ^ 32)

/-- The digest of a tile that a job is to produce: no chunk of it has landed yet (R258, R369). -/
def SlotSt.toLand (x : SlotSt) (t : TileRef) : List TdWait := [⟨4, t, x.desc, List.replicate x.chunks none⟩]

/-- The chunks of its tile that an in job has still to land. -/
def Job.left (j : Job) : List Nat :=
  match j.tds with
  | w :: _ => (List.range w.cells.length).filter fun k => (w.cells[k]?).elim false Option.isNone
  | [] => []

/-- An in job lands a chunk of these bytes and this count; with the last one its accesses have been performed. -/
def Job.land (j : Job) (k : Nat) (bs : Bytes) (v : Nat) : Job :=
  let ws := j.tds.map fun (w : TdWait) => { w with cells := w.cells.set k (some (digestCD bs, v)) }
  let j := { j with tds := ws, fetched := j.fetched.del k }
  { j with performed := j.left == [] }

/-- The slot of COPYIN (R262): chunks without an inside element arrive at once (R166). -/
def semCopyin (qp hd sh e : Nat) : SlotSem :=
  { i := .copyin qp hd sh e, q := qp, port := 1, adds := fun s => s.semAdds e
    check := fun s => shapedTrap s hd sh
    eff := fun s =>
      let t := s.dst hd
      let m := s.cur.sample sh
      let i : Instr := .copyin qp hd sh e
      let (s, lf) := s.takeLeaf i
      let s := s.produceAs t m
      let j := { s.newJob .copyIn i (s.semFor e) with dst := some t, shape := m, leaf := some lf, tds := (s.slot t).toLand t }
      let bs (k : Nat) : Bytes := zeros (min 512 (shLen m - 512 * k))
      let s := s.issueJob ((clipped m).foldl (fun j k => j.land k (bs k) 1) j)
      (clipped m).foldl (fun s k => s.writeChunk t k (bs k) 1) s }
/-- COPYIN (R262). -/
def execCopyin (qp hd sh e : Nat) (s : State) : Host.Outcome State Fault Refusal := s.issue1 (semCopyin qp hd sh e)

/-- The gather jobs of the issuing context on a slot. -/
def State.gathers (s : State) (t : TileRef) : List Job :=
  (s.jobsOf s.curU s.cur.cid).filter fun j => j.kind == JobKind.gather && j.dst == some t

/-- The open gather job of the issuing context on the tile of a handle (R263). -/
def State.openGather (s : State) (h : Nat) : Option Job :=
  match s.tile? s.curU s.cur (s.cur.rh h) with
  | some t => (s.gathers t).find? fun j => !j.closed
  | none => none

/-- An element of row `r` of a gather has been fetched. -/
def Job.gotEl (j : Job) (r v : Nat) (sl : Bool) : Job :=
  let g := j.got.look r ([], false)
  { j with got := j.got.put r (g.1 ++ [v], g.2 || sl) }

/-- The elements of row `r` of a gather fetched in order, until one faults; with the last the row's index has left the queue (R264). -/
def State.readRow (s : State) (u : Nat) (j : Job) (r : Nat) : List Nat → State × Job × Option Trap
  | [] => (s, { j with drained := r + 1 }, none)
  | i :: is => match elAt j.shape j.rowOf i with
    | none => s.readRow u (j.gotEl r 0 false) r is
    | some e => match s.readEl u j e with
      | (s, j, .error t) => (s, j, some t)
      | (s, j, .ok (v, sl)) => s.readRow u (j.gotEl r v sl) r is

/-- The next row of a gather fetched, as far as it comes; none while an earlier access must come first (R180, R264). -/
def State.fetchRow (s : State) (u : Nat) (j : Job) : Option (State × Job × Option Trap) :=
  let r := j.drained
  let is := ((List.range (shCols j.shape)).map (r * shCols j.shape + ·)).drop (j.got.look r ([], false)).1.length
  (s.ready u j (is.flatMap fun i => match elAt j.shape j.rowOf i with
    | some e => s.elKeys u j (shF j.shape 0) e.off e.size .read
    | none => [])).map fun s => s.readRow u j r is

/-- The gathers of a unit with rows that the engine can fetch now (R264). -/
def State.drainable (s : State) (u : Nat) : List Job :=
  (s.unit u).jobs.filter fun j => j.kind == JobKind.gather && j.fault.isNone && decide (j.drained < j.rows.length) && (s.fetchRow u j).isSome

/-- Indices in the gather address queue of a unit, which its contexts share (R264). Those of a job that has stopped at its fault, or whose next
row must come after an access of its context, are not in it. DEDUCED (log 97): else they would hold other contexts. -/
def State.gatherQueue (s : State) (u : Nat) : Nat := (s.drainable u).foldl (fun n j => n + (j.rows.length - j.drained)) 0

/-- The slot of GPUSH (R263, R264): held while the unit's gather address queue is full. -/
def semGpush (qp hd sa last : Nat) : SlotSem :=
  { i := .gpush qp hd sa last, q := qp
    obs := fun s => match s.tile? s.curU s.cur (s.cur.rh hd) with
      | some t => (s.gathers t).map (·.jid)
      | none => []
    check := fun s => firstTrap [s.handleTrap s.curU s.cur (s.cur.rh hd),
      match s.openGather hd with
      | none => some (trapOf 3 4)
      | some j => if shF j.shape 16 ≤ j.rows.length then some (trapOf 3 4) else none]
    hold := fun s => decide (64 ≤ s.gatherQueue s.curU)
    eff := fun s => match s.openGather hd with
      | some j => let v := (s.cur.rs sa).toInt
                  s.updJob s.curU j.jid fun j => { j with rows := j.rows ++ [v], closed := last == 1 }
      | none => s }
/-- GPUSH (R263). -/
def execGpush (qp hd sa last : Nat) (s : State) : Host.Outcome State Fault Refusal := s.issue1 (semGpush qp hd sa last)

/-- The slot of GATHER (R263). -/
def semGather (qp hd sh e : Nat) : SlotSem :=
  { i := .gather qp hd sh e, q := qp, port := 1, adds := fun s => s.semAdds e
    check := fun s => firstTrap [shapedTrap s hd sh, if shF (s.cur.sample sh) 19 = 1 then some (trapOf 0x13 2) else none]
    eff := fun s =>
      let t := s.dst hd
      let m := s.cur.sample sh
      let i : Instr := .gather qp hd sh e
      let (s, lf) := s.takeLeaf i
      let s := s.produceAs t m
      s.issueJob { s.newJob .gather i (s.semFor e) with dst := some t, shape := m, leaf := some lf, tds := (s.slot t).toLand t } }
/-- GATHER (R263). -/
def execGather (qp hd sh e : Nat) (s : State) : Host.Outcome State Fault Refusal := s.issue1 (semGather qp hd sh e)

/-- The slot of TMOVE (R265). -/
def semTmove (qp hd hs c e : Nat) : SlotSem :=
  { i := .tmove qp hd hs c e, q := qp, port := 1, adds := fun s => s.semAdds e
    obs := fun s => let h := s.cur.rh hs
                    s.obsRead s.curU s.cur h (s.allChunks s.curU s.cur h)
    check := fun s => firstTrap [s.dstTrap s.curU s.cur (s.cur.rh hd),
      s.readTrap s.curU s.cur (s.cur.rh hs) (s.allChunks s.curU s.cur (s.cur.rh hs)),
      if s.slotSize (s.dst hd) < (s.slot (s.dst hs)).len then some (trapOf 0x15 0) else none]
    sees := fun s => s.seesTile s.curU s.cur (s.cur.rh hs)
    takes := fun s => marked c (s.cur.rh hs)
    eff := fun s =>
      let t := s.dst hd
      let f := s.dst hs
      let h := s.cur.rh hs
      let x := s.slot f
      let i : Instr := .tmove qp hd hs c e
      let (s, lf) := s.takeLeaf i
      let s := s.produce t x.rows x.cols x.fmt x.seq
      let j := { s.newJob .tmove i (s.semFor e) with
                 dst := some t, src := some f, leaf := some lf, digA := x.td, closed := c == 1, tds := (s.slot t).toLand t }
      (s.issueJob j).readTile s.curU s.cur.cid f h c }
/-- TMOVE (R265). -/
def execTmove (qp hd hs c e : Nat) (s : State) : Host.Outcome State Fault Refusal := s.issue1 (semTmove qp hd hs c e)

/-! ## Scalar loads -/

/-- The bound of a pad scalar load (R66). -/
def padBound (level : Nat) : Nat := if level = 0 then 4 else if level = 1 then 32 else 96

/-- A value of `n` bytes, sign-extended when `sg` is 1 (R266). -/
def loadVal (n sg : Nat) (bs : Bytes) : Nat := if sg = 1 then wrapN 64 (sext (8 * n) (leVal bs)) else leVal bs

/-- A pad scalar load of `n` bytes at an offset (R266, R267); `c` marks a consuming read. -/
def padLoad (i : Instr) (q sd hs n sg c : Nat) (off : State → Nat) : SlotSem :=
  let ks := fun s : State => chunkRange (off s) n
  { i := i, q := q
    obs := fun s => s.obsRead s.curU s.cur (s.cur.rh hs) (ks s)
    check := fun s =>
      let h := s.cur.rh hs
      firstTrap [s.handleTrap s.curU s.cur h,
        if off s % n ≠ 0 then some (trapOf 0x13 0) else none,
        if s.operandLen s.curU s.cur h < off s + n then some (trapOf 0x15 0) else none,
        s.readTrap s.curU s.cur h (ks s)]
    sees := fun s => s.seesTile s.curU s.cur (s.cur.rh hs)
    takes := fun s => marked c (s.cur.rh hs)
    eff := fun s =>
      let t := s.dst hs
      let h := s.cur.rh hs
      let v := loadVal n sg (s.mem.readN (s.slotKey t + off s) n)
      let sl := (s.slot t).sealed
      let s := s.updCur fun x => { x.write (x.ds sd) v (padBound (padLevel t.pad)) with touchSeal := x.touchSeal || sl }
      s.readTile s.curU s.cur.cid t h c }

/-- The slot of LDT (R266). -/
def semLdt (qp sd hs sz sg imm9 : Nat) : SlotSem :=
  padLoad (.ldt qp sd hs sz sg imm9) qp sd hs (2 ^ sz) sg 0 fun _ => imm9 * 2 ^ sz
/-- LDT (R266). -/
def execLdt (qp sd hs sz sg imm9 : Nat) (s : State) : Host.Outcome State Fault Refusal := s.issue1 (semLdt qp sd hs sz sg imm9)

/-- The slot of LDTR (R266). -/
def semLdtr (qp sd hs sz sg sb : Nat) : SlotSem :=
  padLoad (.ldtr qp sd hs sz sg sb) qp sd hs (2 ^ sz) sg 0 fun s => (s.cur.rs sb).toNat
/-- LDTR (R266). -/
def execLdtr (qp sd hs sz sg sb : Nat) (s : State) : Host.Outcome State Fault Refusal := s.issue1 (semLdtr qp sd hs sz sg sb)

/-- The slot of TREAD (R267). -/
def semTread (qp sd hs c sb : Nat) : SlotSem :=
  padLoad (.tread qp sd hs c sb) qp sd hs 8 0 c fun s => (s.cur.rs sb).toNat
/-- TREAD (R267). -/
def execTread (qp sd hs c sb : Nat) (s : State) : Host.Outcome State Fault Refusal := s.issue1 (semTread qp sd hs c sb)

/-- The checks at issue of a global scalar access of `n` bytes at offset `off` of record `f` (R268, R281). -/
def globalTrap (c : Ctx) (f off n : Nat) : Option Trap :=
  let r := fpOf c.fp f
  if (r.base + off) % n ≠ 0 then some { cause := 0x13, vaddr := wrapN 80 (r.base + off : Nat) }
  else if f = 0 ∨ r.len = 0 then some { cause := 0x11, vaddr := wrapN 80 (r.base + off : Nat) }
  else none

/-- The slot of LDG (R268). -/
def semLdg (qp sd f sa sz sg e : Nat) : SlotSem :=
  { i := .ldg qp sd f sa sz sg e, q := qp, port := 1, adds := fun _ => [(e, 1)]
    check := fun s => globalTrap s.cur f (s.cur.rs sa).toNat (2 ^ sz)
    eff := fun s =>
      let d := s.cur.ds sd
      let j := { s.newJob .ldg (.ldg qp sd f sa sz sg e) e with ch := f, a := (s.cur.rs sa).toNat, b := sg, arr := 2 ^ sz }
      let s := s.updCur fun c => c.claim d
      s.issueJob { j with dreg := some (d, s.cur.ticket) } }
/-- LDG (R268). -/
def execLdg (qp sd f sa sz sg e : Nat) (s : State) : Host.Outcome State Fault Refusal := s.issue1 (semLdg qp sd f sa sz sg e)

/-! ## Release, metadata, landing handles -/

/-- The jobs of the issuing context that produce the tile of a handle. -/
def State.producers (s : State) (h : Nat) : List Job :=
  match s.tile? s.curU s.cur h with
  | some t => (s.jobsOf s.curU s.cur.cid).filter fun j => j.dst == some t || (j.kind == JobKind.vec && j.tilesA.contains t)
  | none => []

/-- The slot of TREL (R269). -/
def semTrel (qp hs : Nat) : SlotSem :=
  { i := .trel qp hs, q := qp
    obs := fun s => (s.producers (s.cur.rh hs)).map (·.jid)
    check := fun s => match s.handle s.curU s.cur (s.cur.rh hs) with
      | .bad t => some t
      | .pending _ => some (trapOf 0x14 2)
      | .ok t => if (s.slot t).okind = 1 then none else some (trapOf 0x14 2)
    hold := fun s => !(s.producers (s.cur.rh hs)).isEmpty
    drops := true
    eff := fun s => s.release (s.dst hs) false true }
/-- TREL (R269). -/
def execTrel (qp hs : Nat) (s : State) : Host.Outcome State Fault Refusal := s.issue1 (semTrel qp hs)

/-- What TINFO reads of a slot (R270). -/
def tinfoVal (x : SlotSt) (sel : Nat) : Nat :=
  if sel = 0 then
    x.gen + x.reads * 2 ^ 12 + x.okind * 2 ^ 20 + (if x.sealed then 2 ^ 22 else 0) + x.fmt * 2 ^ 24 + (if x.produced then 2 ^ 29 else 0)
  else if sel = 1 then x.rows + x.cols * 2 ^ 16 + x.seq * 2 ^ 32
  else if sel ≤ 9 then (List.range 64).foldl (fun a i => a + if x.arrived (64 * (sel - 2) + i) then 2 ^ i else 0) 0
  else if sel = 10 then x.oid + x.chunks * 2 ^ 32
  else (x.valids.filter (· = 0)).length % 1024 + (if x.poison = 0 then 0 else 2 ^ 16)

/-- What TINFO reads through a handle: every ARRIVAL bit of a pending landing reads as clear (R271). -/
def State.tinfo (s : State) (h sel : Nat) : Nat :=
  match s.handle s.curU s.cur h with
  | .ok t => tinfoVal (s.slot t) sel
  | .pending t => if 2 ≤ sel ∧ sel ≤ 9 then 0 else tinfoVal (s.slot t) sel
  | .bad _ => 0

/-- The slot of TINFO (R270), bound 4. -/
def semTinfo (qp sd hs sl : Nat) : SlotSem :=
  { i := .tinfo qp sd hs sl, q := qp
    check := fun s => s.handleTrap s.curU s.cur (s.cur.rh hs)
    eff := fun s => let v := s.tinfo (s.cur.rh hs) sl
                    s.updCur fun c => c.write (c.ds sd) v 4 }
/-- TINFO (R270). -/
def execTinfo (qp sd hs sl : Nat) (s : State) : Host.Outcome State Fault Refusal := s.issue1 (semTinfo qp sd hs sl)

/-- The handle that arrival `n` of a channel end will bear (R271). -/
def ChanEnd.landHandle (e : ChanEnd) (n : Nat) : Nat :=
  let k := n % e.depth
  handleOf (e.slots.getD k ⟨0, 0⟩) ((nth e.g0 k + 4094 + n / e.depth) % 4095 + 1)

/-- The slot of LANDH (R271), bound 2. -/
def semLandh (qp hd ch sa : Nat) : SlotSem :=
  { i := .landh qp hd ch sa, q := qp
    check := fun s => if (s.chanEnd? s.curU s.cur ch).isNone then some (trapOf 0x1D 0) else none
    eff := fun s => match s.chanEnd? s.curU s.cur ch with
      | some e => let v := e.landHandle ((s.cur.rs sa).toNat % 2 ^ 32)
                  s.updCur fun c => c.write (c.dh hd) v 2
      | none => s }
/-- LANDH (R271). -/
def execLandh (qp hd ch sa : Nat) (s : State) : Host.Outcome State Fault Refusal := s.issue1 (semLandh qp hd ch sa)

/-! ## Filling the instruction scratchpad -/

/-- Whether OVL's s[sb] is legal (R272). The offset that must be a multiple of 64 is that in the scratchpad; one in the record may be any.
DESIGN CHOICE (log 123). -/
def ovlOk (v : Nat) : Bool :=
  let off := fld v 0 16
  let n := fld v 16 16
  off % 64 == 0 && decide (1 ≤ n) && decide (n ≤ 1024) && decide (off + 64 * n ≤ 65536) && v / 2 ^ 39 == 0

/-- The slot of OVL (R272). -/
def semOvl (qp f sa sb e : Nat) : SlotSem :=
  { i := .ovl qp f sa sb e, q := qp, port := 1, adds := fun _ => [(e, 1)]
    check := fun s => if ovlOk (s.cur.rs sb).toNat then none else some (trapOf 3 4)
    eff := fun s =>
      let v := (s.cur.rs sb).toNat
      let u := s.curU / 128 * 128 + fld v 32 7
      let j := { s.newJob .ovl (.ovl qp f sa sb e) e with
                 ch := f, a := (s.cur.rs sa).toNat, b := fld v 0 16, c := fld v 16 16, bank := u }
      (s.issueJob j).updUnit u fun x =>
        { x with filled := x.filled.filter fun l => decide (l.1 < j.b / 64) || decide (j.b / 64 + j.c ≤ l.1) } }
/-- OVL (R272). -/
def execOvl (qp f sa sb e : Nat) (s : State) : Host.Outcome State Fault Refusal := s.issuePriv (semOvl qp f sa sb e)

/-! ## Progress of in jobs -/

/-- One chunk of a tile move: the source's bytes, whether it is sealed, and the count, or MEMUE (R171, R265). -/
def State.moveChunk (s : State) (j : Job) (k : Nat) : Except Trap (Bytes × Bool × Nat) :=
  match j.src with
  | none => .ok ([], false, 0)
  | some f =>
    let x := s.slot f
    if bit x.poison k then .error { cause := 0x30, row := k }
    else .ok (s.mem.readN (s.slotKey f + 512 * k) (min 512 (x.len - 512 * k)), x.sealed, x.valid.look k 0)

/-- Chunk `k` of a copy-in or tile move as it would be written now: its bytes, whether they are sealed, its count (R166, R265). -/
def State.fetchChunk (s : State) (u : Nat) (j : Job) (k : Nat) : State × Job × Except Trap (Bytes × Bool × Nat) :=
  if j.kind = .tmove then (s, j, s.moveChunk j k)
  else
    let (s, j, r) := s.readChunk u j k
    (s, j, r.map fun x => (x.1, x.2, 1))

/-- The places chunk `k` of a job reads. -/
def State.chunkKeys (s : State) (u : Nat) (j : Job) (k : Nat) : List Span :=
  if j.kind = .tmove then [] else
    (chunkEls j.shape k).flatMap fun i => match elAt j.shape j.rowOf i with
      | some e => s.elKeys u j (shF j.shape 0) e.off e.size .read
      | none => []

/-- The chunks of an in job below `k` that have to be fetched before it arrives, so that none of them faults after it (R258). -/
def Job.below (j : Job) (k : Nat) : List Nat := j.left.filter fun i => decide (i < k) && (j.fetched.entry? i).isNone

/-- Chunks of an in job fetched and kept until they arrive; none when one of them would fault (R258). -/
def State.prefetch (s : State) (u : Nat) (j : Job) : List Nat → Option (State × Job)
  | [] => some (s, j)
  | k :: ks => match s.fetchChunk u j k with
    | (_, _, .error _) => none
    | (s, j, .ok x) => s.prefetch u { j with fetched := j.fetched.put k x } ks

/-- A fetched chunk of an in job is written with its digest and its count (R164, R258). -/
def State.landFetched (s : State) (u : Nat) (j : Job) (t : TileRef) (k : Nat) : State × Job :=
  let (bs, sl, v) := (j.fetched.entry? k).getD ([], false, 0)
  let j := j.land k bs v
  let s := ((s.putJob u j).writeChunk t k bs v).updSlot t fun x => { x with sealed := x.sealed || sl }
  (s, j)

/-! ## Gathers -/

/-- Whether every row that chunk `k` of a gather overlaps has been fetched or is clipped (R263, R264). -/
def Job.gathered (j : Job) (k : Nat) : Bool :=
  (chunkEls j.shape k).all fun i => j.gotten i || (j.closed && decide (j.rows.length ≤ i / shCols j.shape))

/-- Chunk `k` of a gather: zeros for clipped rows. -/
def Job.gatherChunk (j : Job) (k : Nat) : Bytes × Bool × Nat :=
  let row (i : Nat) : List Nat × Bool := j.got.look (i / shCols j.shape) ([], false)
  let is := chunkEls j.shape k
  (chunkOf j.shape k (is.map fun i => nth (row i).1 (i % shCols j.shape)), is.any fun i => (row i).2, 1)

/-- Chunk `k` of a gather is written. -/
def State.landGather (s : State) (u : Nat) (j : Job) (t : TileRef) (k : Nat) : State × Job :=
  s.landFetched u { j with fetched := j.fetched.put k (j.gatherChunk k) } t k

/-- A gather takes the next index from the queue and fetches its row (R264). At a fault it stops, with every chunk below written (R258). -/
def State.drainJob (s : State) (u : Nat) (j : Job) : State :=
  match s.fetchRow u j with
  | none => s
  | some (s, j, none) => s.putJob u j
  | some (s, j, some f) =>
    let r := (j.left.takeWhile j.gathered).foldl (fun (r : State × Job) k => (j.dst.map fun t => r.1.landGather u r.2 t k).getD r) (s, j)
    r.1.stopJob u r.2 f

/-- The engine takes one index a cycle from a unit's gather address queue, that of the earliest job whose row it can fetch (R264). -/
def State.drainGather (s : State) (u : Nat) : State :=
  match (s.drainable u).head? with
  | some j => s.drainJob u j
  | none => s

/-- Chunk `k` of a job arrives with those below it fetched, so that none at or below it faults any more (R164, R258); a gather writes its
rows in push order (R264). -/
def State.arrive (s : State) (u : Nat) (j : Job) (k : Nat) : Option State :=
  match j.dst with
  | none => none
  | some t =>
    if j.kind = .gather then if j.left.head? = some k ∧ j.gathered k then some (s.landGather u j t k).1 else none
    else
      let ks := j.below k ++ if (j.fetched.entry? k).isSome then [] else [k]
      if !j.left.contains k then none
      else (s.ready u j (ks.flatMap (s.chunkKeys u j))).bind fun s => (s.prefetch u j ks).map fun r =>
        (r.1.landFetched u r.2 t k).1

/-- Part of a job by itself: below 65536 a chunk of the tile that it produces, from 65536 on the access of one element to global memory, read
ahead or performed at its home. DESIGN CHOICE (log 125). -/
def State.partOf (s : State) (u : Nat) (j : Job) (k : Nat) : Option State :=
  match j.kind with
  | .copyIn | .gather => if k < 65536 then s.arrive u j k else s.readAhead u j (k - 65536)
  | .tmove => if k < 65536 then s.arrive u j k else none
  | .routine => if k < 65536 ∨ j.phase ≠ 1 then none else s.readAhead u j (k - 65536)
  | .copyOut | .copyAcc | .scatter | .stg | .atomic => if k < 65536 then none else s.arriveEl u j (k - 65536)
  | _ => none

/-- CHUNK_ARRIVES (R164, R258), and the accesses of a job that come by themselves (R180). -/
def execChunkArrives (u j k : Nat) (s : State) : Host.Outcome State Fault Refusal := s.onJob u j fun j => s.partOf u j k

/-- The leaf of a producing job: TD and the counts of its tile as the job landed it (R369). -/
def Job.inLeaf (j : Job) : LeafRec :=
  let l : LeafRec := match j.kind with
    | .copyIn => { j.leafRec 5 with c := shapeDigest j.shape }
    | .gather => { j.leafRec 6 with c := shapeDigest j.shape, aux := digest 0xC (j.rows.flatMap fun r => leBytes 8 (wrapN 64 r)) }
    | _ => { j.leafRec 7 with a := j.digA, sflags := if j.closed then 2 else 0 }
  match j.tds with
  | w :: _ => { l with res := w.value.getD noDigest }.withValid ((w.cells.filterMap id).map Prod.snd)
  | [] => l

/-- TILE_JOB_COMPLETE (R258): every chunk has landed, and TD with the last (R265, R365). -/
def execTileJobComplete (u j : Nat) (s : State) : Host.Outcome State Fault Refusal :=
  s.onJob u j fun j => match j.kind, j.dst with
    | .copyIn, some t | .gather, some t | .tmove, some t =>
      if j.left != [] || (j.kind == JobKind.gather && !j.closed) then none
      else some (s.finishJob u j (some j.inLeaf) (s.slot t).len (s.slot t).seq)
    | _, _ => none

/-- A global load performed: its value, its page's SEAL, or its fault (R268). -/
def State.doLdg (s : State) (u : Nat) (j : Job) : Perf :=
  match s.element (s.whoJob u j) j.fps j.ch j.a j.arr .read with
  | (s, .error t) => .fault s j t
  | (s, .ok (ks, sl)) =>
    let (s, j) := s.countAccess j 0 ks
    let v := loadVal j.arr j.b (s.mem.readAt ks)
    let s := s.updCid u j.cid fun c =>
      let c := match j.dreg with
        | some (d, tk) => c.engineWrite d tk v
        | none => c
      { c with touchSeal := c.touchSeal || sl }
    .done s j

/-- LDG_COMPLETE (R192, R268). -/
def execLdgComplete (u j : Nat) (s : State) : Host.Outcome State Fault Refusal :=
  s.onJob u j fun j =>
    if j.kind ≠ .ldg then none
    else match s.ready u j (s.jobKeys u j) with
      | none => none
      | some s => match s.doLdg u j with
        | .done s j => some (s.finishJob u j none 0 0)
        | _ => none

/-- The lines of an OVL from `next` on until one faults (R169, R272). -/
def State.doOvl (s : State) (u : Nat) (j : Job) : List Nat → Perf
  | [] => .done s j
  | i :: is =>
    match s.element (s.whoJob u j) j.fps j.ch (Int.ofNat (j.a + 64 * i)) 64 .exec with
    | (s, .error t) => .fault s { j with next := i } t
    | (s, .ok (ks, _)) =>
      let (s, j) := s.countAccess j 0 ks
      let at' := j.b + 64 * i
      let s := { s with mem := s.mem.writeN (memKey (regScratch j.bank) at') (s.mem.readAt ks) }
      let s := s.updUnit j.bank fun x => { x with filled := x.filled.put (at' / 64) () }
      s.doOvl u { j with next := i + 1 } is

/-- An OVL from the line it has reached. -/
def State.runOvl (s : State) (u : Nat) (j : Job) : Perf := s.doOvl u j ((List.range j.c).drop j.next)

/-- OVL_COMPLETE (R272). -/
def execOvlComplete (u j : Nat) (s : State) : Host.Outcome State Fault Refusal :=
  s.onJob u j fun j =>
    if j.kind ≠ .ovl then none
    else match s.ready u j (s.jobKeys u j) with
      | none => none
      | some s => match s.runOvl u j with
        | .done s j => some (s.finishJob u j none 0 0)
        | _ => none

/-- Whether a job names a slot as its destination or as a source. -/
def Job.names (j : Job) (t : TileRef) : Bool :=
  j.dst == some t || j.src == some t || j.src2 == some t || j.aux == some t || j.tilesA.contains t || j.tilesB.contains t ||
    j.tiles3.contains (some t)

end Sys2Proof.Machine
end

