-- ==== Sys2Proof/Machine/Store.lean ====
section
/-!
DEFINITION. The store class: the O slot's copy-outs, stores and atomics, and the completion of its jobs
(13_store_class.md R273-R283).
-/
namespace Sys2Proof.Machine

/-! ## Accumulator banks as operands -/

/-- The physical bank of the issuing context's bank `n`. -/
def State.acc (s : State) (n : Nat) : Nat := (s.unit s.curU).physAcc s.cur n

/-- The state of the issuing context's bank `n`. -/
def State.accSt (s : State) (n : Nat) : AccSt := (s.unit s.curU).accs.look (s.acc n) {}

/-- The bank digest from the TYPE and the bytes of the 128 rows (R364). -/
def bankDigest (int : Bool) (bs : Bytes) : Bytes := digest 0xA ((if int then (1 : Byte) else 0) :: (chunkDigests bs).flatten)

/-- The digest of a bank of zeros (R366). -/
def zeroBank (int : Bool) : Bytes :=
  digest 0xA ((if int then (1 : Byte) else 0) :: (List.replicate 128 (digestCD [])).flatten)

/-- BD of a bank: that of a cleared bank until an engine sets it (R312, R366). -/
def AccSt.digest (a : AccSt) : Bytes := a.bd.getD (zeroBank a.int)

/-- The routine that holds the issuing context's bank `n`, to observe its fault (R313). -/
def State.accObs (s : State) (n : Nat) : List Nat :=
  ((s.jobsOf s.curU s.cur.cid).filter fun j => j.kind == JobKind.routine && j.bank == s.acc n && decide (n < s.cur.banks)).map (·.jid)

/-- IOPND for a bank that the task does not hold (R312). -/
def State.accHeld (s : State) (n : Nat) : Option Trap := if n < s.cur.banks then none else some (trapOf 3 4)

/-- ACCBUSY (R313). -/
def State.accBusy (s : State) (n : Nat) : Option Trap := if (s.accSt n).busy then some (trapOf 0x19 0) else none

/-- ACCPOISON (R314). -/
def State.accPoison (s : State) (n : Nat) : Option Trap := if (s.accSt n).poison then some (trapOf 0x1A 0) else none

/-! ## Copy-out, copy-out from a bank, scatter -/


/-- The slot of COPYOUT (R276). -/
def semCopyout (qp hs sh c red e : Nat) : SlotSem :=
  { i := .copyout qp hs sh c red e, q := qp, port := 1, adds := fun s => s.semAdds e
    obs := fun s => let h := s.cur.rh hs
                    s.obsRead s.curU s.cur h (s.allChunks s.curU s.cur h)
    check := fun s =>
      let h := s.cur.rh hs
      let m := s.cur.sample sh
      firstTrap [s.readTrap s.curU s.cur h (s.allChunks s.curU s.cur h), shapeTrap m (some (s.slot (s.dst hs)).len),
        if red ≠ 0 ∧ reduceOk (shF m 2) = false then some (trapOf 3 4) else none]
    sees := fun s => s.seesTile s.curU s.cur (s.cur.rh hs)
    takes := fun s => marked c (s.cur.rh hs)
    eff := fun s =>
      let t := s.dst hs
      let h := s.cur.rh hs
      let i : Instr := .copyout qp hs sh c red e
      let m := s.cur.sample sh
      let (s, lf) := s.takeLeaf i
      let j := { s.newJob .copyOut i (s.semFor e) with
                 src := some t, shape := m, leaf := some lf, digA := (s.slot t).td, closed := c == 1, seq := (s.slot t).seq }
      (s.issueJob j).readTile s.curU s.cur.cid t h c }
/-- COPYOUT (R276). -/
def execCopyout (qp hs sh c red e : Nat) (s : State) : Host.Outcome State Fault Refusal := s.issue1 (semCopyout qp hs sh c red e)

/-- The slot of COPYACC (R278). -/
def semCopyacc (qp acc sh e : Nat) : SlotSem :=
  { i := .copyacc qp acc sh e, q := qp, port := 1, adds := fun s => s.semAdds e
    obs := fun s => s.accObs acc
    check := fun s =>
      let m := s.cur.sample sh
      let fo := fmtFO s.cur.fmt
      firstTrap [s.accHeld acc, if 0x10 ≤ fo ∧ fo ≤ 0x15 then some (trapOf 3 4) else none, s.accBusy acc, s.accPoison acc,
        if 128 < shF m 16 ∨ 128 < shF m 17 ∨ shF m 2 ≠ fo then some (trapOf 0x13 2) else none, shapeTrap m none]
    eff := fun s =>
      let i : Instr := .copyacc qp acc sh e
      let m := s.cur.sample sh
      let (s, lf) := s.takeLeaf i
      s.issueJob { s.newJob .copyAcc i (s.semFor e) with
                   shape := m, bank := s.acc acc, leaf := some lf, digA := (s.accSt acc).digest
                   seq := shF m 18 % 2 ^ 32 } }
/-- COPYACC (R278). -/
def execCopyacc (qp acc sh e : Nat) (s : State) : Host.Outcome State Fault Refusal := s.issue1 (semCopyacc qp acc sh e)

/-- The row indices that a scatter's index tile holds: signed 32-bit values (R279). -/
def scatterRows (bs : Bytes) (n : Nat) : List Int := (List.range n).map fun r => sext 32 (leAt bs (4 * r) 4)

/-- The slot of SCATTER (R279). -/
def semScatter (qp hs hi sh c ci red e : Nat) : SlotSem :=
  { i := .scatter qp hs hi sh c ci red e, q := qp, port := 1, adds := fun s => s.semAdds e
    obs := fun s =>
      let h := s.cur.rh hs
      let g := s.cur.rh hi
      s.obsRead s.curU s.cur h (s.allChunks s.curU s.cur h) ++ s.obsRead s.curU s.cur g (s.allChunks s.curU s.cur g)
    check := fun s =>
      let h := s.cur.rh hs
      let g := s.cur.rh hi
      let m := s.cur.sample sh
      firstTrap [s.handleTrap s.curU s.cur h, s.handleTrap s.curU s.cur g,
        memueFirst [s.readTrap s.curU s.cur h (s.allChunks s.curU s.cur h), s.readTrap s.curU s.cur g (s.allChunks s.curU s.cur g)],
        shapeTrap m (some (s.slot (s.dst hs)).len), if red ≠ 0 ∧ reduceOk (shF m 2) = false then some (trapOf 3 4) else none,
        if shF m 19 = 1 then some (trapOf 0x13 2) else none,
        if (s.slot (s.dst hi)).len < 4 * shF m 16 then some (trapOf 0x15 0) else none]
    sees := fun s => s.seesTile s.curU s.cur (s.cur.rh hs) ++ s.seesTile s.curU s.cur (s.cur.rh hi)
    takes := fun s => marked c (s.cur.rh hs) ++ marked ci (s.cur.rh hi)
    eff := fun s =>
      let t := s.dst hs
      let x := s.dst hi
      let h := s.cur.rh hs
      let g := s.cur.rh hi
      let i : Instr := .scatter qp hs hi sh c ci red e
      let m := s.cur.sample sh
      let (s, lf) := s.takeLeaf i
      let j := { s.newJob .scatter i (s.semFor e) with
                 src := some t, src2 := some x, shape := m, leaf := some lf, digA := (s.slot t).td, digB := (s.slot x).td
                 rows := scatterRows (s.tileBytes x) (shF m 16), seq := (s.slot t).seq }
      ((s.issueJob j).readTile s.curU s.cur.cid t h c).readTile s.curU s.cur.cid x g ci }
/-- SCATTER (R279). -/
def execScatter (qp hs hi sh c ci red e : Nat) (s : State) : Host.Outcome State Fault Refusal :=
  s.issue1 (semScatter qp hs hi sh c ci red e)

/-! ## Scalar stores into pads -/

/-- The tile at position `t` of a ring operand, with the K index that it starts at. -/
def State.ringSpan (s : State) (byCols : Bool) (t : TileRef) : List TileRef → Nat → List Nat
  | [], _ => []
  | x :: xs, k0 =>
    let kt := if byCols then (s.slot x).cols + 1 else (s.slot x).rows + 1
    (if x = t then [k0] else []) ++ s.ringSpan byCols t xs (k0 + kt)

/-- Whether a routine has yet to read chunk `k` of a tile (R280): of a ring tile an element of a block to come, of a scale tile the scale
of one; a side list is read to the end of the routine. -/
def State.routineReads (s : State) (t : TileRef) (k : Nat) (j : Job) : Bool :=
  let (m, n, kk) := (fld (j.mp.look 2 0).toNat 0 7 + 1, fld (j.mp.look 2 0).toNat 8 7 + 1, fld (j.mp.look 2 0).toNat 16 16 + 1)
  let next := 32 * j.next
  let data (byCols : Bool) (fmt other : Nat) (ts : List TileRef) : Bool := (s.ringSpan byCols t ts 0).any fun k0 =>
    let kt := if byCols then (s.slot t).cols + 1 else (s.slot t).rows + 1
    let w := widthOf fmt
    (List.range (other * kt)).any fun i =>
      (chunkRange (i * w / 8) (cdiv (i * w % 8 + w) 8)).contains k && decide (next ≤ k0 + if byCols then i % kt else i / other)
  let scale (x : Option TileRef) (at' : Nat → Nat → Nat) (c : Nat) : Bool := x == some t && (List.range (cdiv kk 32)).any fun b =>
    decide (j.next ≤ b) && (List.range c).any fun i => at' b i / 512 == k
  data (j.ch != 5) (fld j.fmt.toNat 0 5) m j.tilesA || data false (fld j.fmt.toNat 5 5) n j.tilesB ||
    scale (j.tiles3.getD 0 none) (fun b i => i * cdiv kk 32 + b) m || scale (j.tiles3.getD 1 none) (fun b i => b * n + i) n ||
    j.tiles3.getD 2 none == some t || j.tiles3.getD 3 none == some t

/-- Whether a job has yet to read chunk `k` of a tile (R280). -/
def State.stillReads (s : State) (t : TileRef) (k : Nat) (j : Job) : Bool :=
  match j.kind with
  | .tmove => j.src == some t && j.left.contains k && (j.fetched.entry? k).isNone
  | .copyOut | .scatter => j.src == some t && !j.performed && j.rest.any fun i =>
      (elAt j.shape j.rowOf i).isSome && (chunkRange (i * shWidth j.shape / 8) (cdiv (i * shWidth j.shape % 8 + shWidth j.shape) 8)).contains k
  | .send =>
    if j.phase = 0 ∧ j.src.isNone then s.tile? s.curU (s.jobCtx s.curU j) j.a == some t else j.src == some t && decide (j.done ≤ k)
  | .prime => j.src == some t
  | .routine => s.routineReads t k j
  | .accrd => j.aux == some t && decide (512 * k < 8 * (fld j.vsh.toNat 7 11 + 1))
  | _ => false

/-- The operations of the issuing context that have yet to read some chunks of a tile, for which a write of them is held; it observes
their faults (R212, R261, R280, R289). -/
def State.readersOf (s : State) (t : TileRef) (ks : List Nat) : List Job :=
  (s.jobsOf s.curU s.cur.cid).filter fun j => ks.any fun k => s.stillReads t k j

/-- STT and STTR: `n` bytes of s[sa] at an offset of a tile (R280). -/
def padStore (i : Instr) (q sa hs n : Nat) (off : State → Nat) : SlotSem :=
  let ks := fun s : State => chunkRange (off s) n
  { i := i, q := q
    obs := fun s => s.obsRead s.curU s.cur (s.cur.rh hs) (ks s) ++ (s.readersOf (s.dst hs) (ks s)).map (·.jid)
    check := fun s =>
      let h := s.cur.rh hs
      firstTrap [match s.handle s.curU s.cur h with
          | .bad t => some t
          | .pending _ => some (trapOf 0x14 2)
          | .ok t => if (s.slot t).okind = 1 then none else some (trapOf 0x14 2),
        if off s % n ≠ 0 then some (trapOf 0x13 0) else none,
        if s.operandLen s.curU s.cur h < off s + n then some (trapOf 0x15 0) else none,
        s.readTrap s.curU s.cur h (ks s)]
    hold := fun s => s.readersOf (s.dst hs) (ks s) != []
    eff := fun s =>
      let t := s.dst hs
      let k := off s / 512
      let ts := s.cur.touchSeal
      let s := { s with mem := s.mem.writeN (s.slotKey t + off s) (leBytes n ((s.cur.rs sa).toNat % 2 ^ (8 * n))) }
      let cd := digestCD (chunkBytes (s.tileBytes t) k)
      s.updSlot t fun x =>
        let x := { x with cds := x.cds.put k cd, sealed := x.sealed || ts }
        { x with td := if x.whole then x.tdNow else x.td } }

/-- The slot of STT (R280). -/
def semStt (qp sa hs sz imm9 : Nat) : SlotSem := padStore (.stt qp sa hs sz imm9) qp sa hs (2 ^ sz) fun _ => imm9 * 2 ^ sz
/-- STT (R280). -/
def execStt (qp sa hs sz imm9 : Nat) (s : State) : Host.Outcome State Fault Refusal := s.issue1 (semStt qp sa hs sz imm9)

/-- The slot of STTR (R280). -/
def semSttr (qp sa hs sz sb : Nat) : SlotSem := padStore (.sttr qp sa hs sz sb) qp sa hs (2 ^ sz) fun s => (s.cur.rs sb).toNat
/-- STTR (R280). -/
def execSttr (qp sa hs sz sb : Nat) (s : State) : Host.Outcome State Fault Refusal := s.issue1 (semSttr qp sa hs sz sb)

/-! ## Global scalar stores and atomics -/

/-- The slot of STG (R281). -/
def semStg (qp sb f sa sz e : Nat) : SlotSem :=
  { i := .stg qp sb f sa sz e, q := qp, port := 1, adds := fun _ => [(e, 1)]
    check := fun s => globalTrap s.cur f (s.cur.rs sa).toNat (2 ^ sz)
    eff := fun s => s.issueJob { s.newJob .stg (.stg qp sb f sa sz e) e with
      ch := f, a := (s.cur.rs sa).toNat, b := (s.cur.rs sb).toNat, arr := 2 ^ sz, closed := s.cur.touchSeal } }
/-- STG (R281). -/
def execStg (qp sb f sa sz e : Nat) (s : State) : Host.Outcome State Fault Refusal := s.issue1 (semStg qp sb f sa sz e)

/-- ATOM and CAS: a job on a location of `n` bytes, with what it compares with (R282, R283). -/
def atomSem (i : Instr) (q sd f sa sb scope order n e : Nat) (cmp : State → Nat) : SlotSem :=
  { i := i, q := q, port := 1, adds := fun _ => [(e, 1)]
    check := fun s => globalTrap s.cur f (s.cur.rs sa).toNat n
    eff := fun s =>
      let d := s.cur.ds sd
      let j := { s.newJob .atomic i e with
                 ch := f, a := (s.cur.rs sa).toNat, b := (s.cur.rs sb).toNat, c := cmp s, arr := n, phase := order, bank := scope
                 closed := s.cur.touchSeal }
      let s := s.updCur fun c => c.claim d
      s.issueJob { j with dreg := some (d, s.cur.ticket) } }

/-- The slot of ATOM (R282). -/
def semAtom (qp sd f sa sb aop scope order size e : Nat) : SlotSem :=
  atomSem (.atom qp sd f sa sb aop scope order size e) qp sd f sa sb scope order (4 + 4 * size) e fun _ => 0
/-- ATOM (R282). -/
def execAtom (qp sd f sa sb aop scope order size e : Nat) (s : State) : Host.Outcome State Fault Refusal :=
  s.issue1 (semAtom qp sd f sa sb aop scope order size e)

/-- The slot of CAS (R282). -/
def semCas (qp sd f sa sb scope order size e : Nat) : SlotSem :=
  atomSem (.cas qp sd f sa sb scope order size e) qp sd f sa sb scope order (4 + 4 * size) e fun s => (s.cur.rs sd).toNat
/-- CAS (R282). -/
def execCas (qp sd f sa sb scope order size e : Nat) (s : State) : Host.Outcome State Fault Refusal :=
  s.issue1 (semCas qp sd f sa sb scope order size e)

/-! ## Completion and faults -/

/-- The consume marks of an operation as SFLAGS (R368). -/
def sflagsOf : Instr → Nat
  | .copyout _ _ _ c _ _ => 2 * c
  | .scatter _ _ _ _ c ci _ _ => 2 * c + 4 * ci
  | _ => 0

/-- The leaf of an out job (R369). -/
def Job.outLeaf (j : Job) : Option LeafRec :=
  let before := if redOf j.instr = 0 then [] else imageDigest j.shape j.readBefore
  let after := imageDigest j.shape j.stored
  match j.kind with
  | .copyOut => some { j.leafRec 8 with sflags := sflagsOf j.instr, a := j.digA, b := before, c := shapeDigest j.shape, res := after }
  | .scatter => some { j.leafRec 9 with
      sflags := sflagsOf j.instr, a := j.digA, b := j.digB, c := shapeDigest j.shape, aux := before, res := after }
  | .copyAcc => some { j.leafRec 3 with fmt := j.fmt.toNat, a := j.digA, c := shapeDigest j.shape, res := after }
  | _ => none

/-- The register result of an atomic that completes (R181, R192, R282). -/
def State.deliverReg (s : State) (u : Nat) (j : Job) : State :=
  match j.dreg with
  | some (d, tk) => s.updCid u j.cid fun c => c.engineWrite d tk j.res
  | none => s

/-- OUT_JOB_COMPLETE (R274): the job performs what it has yet to, in its order, and completes. -/
def execOutJobComplete (u j : Nat) (s : State) : Host.Outcome State Fault Refusal :=
  s.onJob u j fun j =>
    if !j.kind.out then none
    else match s.perform u j with
      | .done s j => (s.logEgress u j).map fun s => (s.deliverReg u j).finishJob u j j.outLeaf (j.stored.length * shWidth j.shape / 8) j.seq
      | _ => none

/-- A copy-in or tile move stops at its lowest missing chunk, when that chunk faults (R258). -/
def State.stopIn (s : State) (u : Nat) (j : Job) : Option State :=
  match j.dst with
  | none => none
  | some t => match j.left.filter fun k => (j.fetched.entry? k).isNone with
    | [] => none
    | k :: _ => match s.fetchChunk u j k with
      | (s, j, .error f) =>
        -- every chunk below the faulting one is written
        let r := j.left.foldl (fun (r : State × Job) i => if (r.2.fetched.entry? i).isSome then r.1.landFetched u r.2 t i else r) (s, j)
        some (r.1.stopJob u r.2 f)
      | _ => none

/-- A job stops where its performing faults, with what it did before that kept. -/
def Perf.stop (u : Nat) : Perf → Option State
  | .fault s j t => some (s.stopJob u j t)
  | _ => none

end Sys2Proof.Machine
end

