-- ==== Sys2Proof/Machine/Vector.lean ====
section
/-!
DEFINITION. The vector class: the V slot and the landing of its results (14_vector_class.md R284-R305; 02 R41-R51).
A result is computed at issue, which is what the unit's order of acceptance gives; it becomes readable when it lands.
-/
namespace Sys2Proof.Machine

/-! ## Element arithmetic -/

/-- Format code of a V element type (R74). -/
def tyCode (ty : Nat) : Nat := [0x00, 0x01, 0x02, 0x20, 0x08, 0x09, 0x0A, 0x21].getD ty 0

/-- Metadata FMT of a result code (R288). -/
def metaFmt (c : Nat) : Nat := if c = 0x20 then 0x18 else if c = 0x21 then 0x19 else c

/-- The float format of a type code, for a float type. -/
def isFlt (c : Nat) : Bool := (fltOf c).isSome

/-- The canonical NaN of a code (R32). -/
def nanOf (c : Nat) : Nat := (fltOf c).bind (·.nan) |>.getD 0

/-- An exact integer wrapped into an integer type, with IOV (R291). -/
def wrapI (c : Nat) (v : Int) : Flagged Nat :=
  let (lo, hi) := (intRange c).getD (0, 0)
  (wrapN (widthOf c) v, if v < lo ∨ hi < v then fIOV else 0)

/-- An exact value with flags, rounded once (R44). -/
def finish (c rm : Nat) (sat : Bool) (x : Flagged XR) : Flagged Nat :=
  let r := convert c rm sat x.1
  (r.1, r.2 ||| x.2)

/-- x × y + z exactly, with the flags of its special values; `rdn` is rounding toward minus infinity. -/
def fma (rdn : Bool) (x y z : XR) : Flagged XR :=
  let p := XR.mul x y
  let t := XR.add rdn p.1 z
  (t.1, p.2 ||| t.2)

/-- VADD (R291). -/
def vAdd (c rm a b : Nat) : Flagged Nat :=
  if isFlt c then finish c rm false (XR.add (rm == 3) (elemVal c a) (elemVal c b)) else wrapI c (intVal c a + intVal c b)

/-- VSUB (R291). -/
def vSub (c rm a b : Nat) : Flagged Nat :=
  if isFlt c then finish c rm false (XR.add (rm == 3) (elemVal c a) (elemVal c b).neg) else wrapI c (intVal c a - intVal c b)

/-- VMUL and VSCALE (R291, R298). -/
def vMul (c rm a b : Nat) : Flagged Nat :=
  if isFlt c then finish c rm false (XR.mul (elemVal c a) (elemVal c b)) else wrapI c (intVal c a * intVal c b)

/-- VFMA (R291). -/
def vFma (c rm a b d : Nat) : Flagged Nat :=
  if isFlt c then finish c rm false (fma (rm == 3) (elemVal c a) (elemVal c b) (elemVal c d))
  else wrapI c (intVal c a * intVal c b + intVal c d)

/-- The lesser or the greater of two elements, its bits copied (R292). -/
def vPick (c : Nat) (greatest : Bool) (a b : Nat) : Nat :=
  if isFlt c then
    let x := elemVal c a
    let y := elemVal c b
    if x = .nan ∨ y = .nan then nanOf c else if XR.below x y = greatest then b else a
  else if decide (intVal c a < intVal c b) = greatest then b else a

/-- Numeric order of values other than NaN; the two zeros are equal (R294). -/
def XR.less : XR → XR → Bool
  | .fin a da _, .fin b db _ => decide (a * (db : Int) < b * (da : Int))
  | .inf s, y => s && y != .inf true
  | _, .inf s => !s
  | _, _ => false

/-- The conditions of VCMP on an ordered pair of truths: less, equal (R294). -/
def condOf (fn : Nat) (lt eq : Bool) : Bool :=
  match fn with
  | 0 => eq
  | 1 => !eq
  | 2 => lt
  | 3 => lt || eq
  | 4 => !lt && !eq
  | _ => !lt

/-- VCMP: all ones or all zeros (R294). -/
def vCmp (c fn a b : Nat) : Nat :=
  let r : Bool := if isFlt c then
      let x := elemVal c a
      let y := elemVal c b
      if x = .nan ∨ y = .nan then fn == 1
      else condOf fn (XR.less x y) (!XR.less x y && !XR.less y x)
    else condOf fn (decide (intVal c a < intVal c b)) (intVal c a == intVal c b)
  if r then 2 ^ widthOf c - 1 else 0

/-- VSHL (R293). -/
def vShl (c a b : Nat) : Nat := a * 2 ^ (b % widthOf c) % 2 ^ widthOf c

/-- VSHR (R293): arithmetic for signed types. -/
def vShr (c a b : Nat) : Nat := wrapN (widthOf c) (intVal c a / (2 ^ (b % widthOf c) : Nat))

/-- VABS (R295). -/
def vAbs (c a : Nat) : Flagged Nat :=
  let w := widthOf c
  if isFlt c then (if elemVal c a = .nan then nanOf c else a % 2 ^ (w - 1), 0)
  else wrapI c (intVal c a).natAbs

/-- VNEG (R295). -/
def vNeg (c a : Nat) : Flagged Nat :=
  let w := widthOf c
  if isFlt c then (if elemVal c a = .nan then nanOf c else a ^^^ 2 ^ (w - 1), 0)
  else wrapI c (-(intVal c a))

/-- Element `i` of VIOTA (R296). -/
def vIota (c rm i : Nat) : Flagged Nat := if isFlt c then convert c rm false (.ofInt i) else wrapI c i

/-- One element of VMACC, whose chunk counts `v` contributors of `e` expected (R302). -/
def vMacc (c rm e v a d : Nat) : Flagged Nat :=
  if v = 0 then (d, fBLOT) else finish c rm false (XR.add (rm == 3) (elemVal c d) ((elemVal c a).scale e v))

/-- A row or column summed in the order of R41: the FP32 or INT32 accumulator. -/
def vSum (c : Nat) (xs : List Nat) : Flagged Nat :=
  if isFlt c then sumFloat 0 (xs.map fun x => (elemVal c x, 0)) else sumInt 0 (xs.map (intVal c))

/-- A row of products summed in the order of R41 (R300). -/
def vDotSum (c : Nat) (xs : List (Nat × Nat)) : Flagged Nat :=
  if isFlt c then sumFloat 0 (xs.map fun x => XR.mul (elemVal c x.1) (elemVal c x.2))
  else sumInt 0 (xs.map fun x => intVal c x.1 * intVal c x.2)

/-- The result of a reduction: the FP32 accumulator rounded to a float type, or the INT32 accumulator (R300). -/
def vRed (c rm : Nat) (r : Flagged Nat) : Flagged Nat :=
  if isFlt c then finish c rm false (fltVal f32 r.1, r.2) else r

/-- The greatest of some elements (R300). -/
def vGreatest (c : Nat) : List Nat → Nat
  | [] => 0
  | x :: xs => xs.foldl (vPick c true) (vPick c true x x)

/-! ## Lists of elements -/

/-- Elements with the flags that making them set. -/
def collect (xs : List (Flagged Nat)) : List Nat × Nat := (xs.map (·.1), xs.foldl (fun a x => a ||| x.2) 0)

/-- The rows of an R × C list. -/
def rowsOf (r c : Nat) (xs : List Nat) : List (List Nat) := (List.range r).map fun i => (xs.drop (i * c)).take c

/-- The columns of an R × C list. -/
def colsOf (r c : Nat) (xs : List Nat) : List (List Nat) := (List.range c).map fun j => (List.range r).map fun i => nth xs (i * c + j)

/-! ## Quantisation -/

/-- Quantisation limits of a destination code (R51). -/
def symmetric (dst : Nat) : Bool := dst != 0xA && dst != 0xC

/-- Whether a code's lowest pattern is an escape (R34). -/
def escapes (dst : Nat) : Bool := dst == 0x16 || dst == 0x17

/-- The value of a finite element as a rational; none otherwise. -/
def XR.rat : XR → Option (Int × Nat)
  | .fin n d _ => some (n, d)
  | _ => none

/-- The table entry (s, b) of a channel, as FP32 codes, with flags (R51). -/
def calibrate (dst : Nat) (xs : List XR) : (Nat × Nat) × Nat :=
  let fs := xs.filter fun x => x.rat.isSome
  match fs with
  | [] => ((0, 0), 0)
  | x0 :: _ =>
    if symmetric dst then
      let qmax : Nat := if dst = 8 then 32767 else if dst = 9 ∨ dst = 0x16 then 127 else 7
      let m := fs.foldl (fun (a : Int × Nat) x => match x with
        | .fin n d _ => if a.1 * d < n.natAbs * a.2 then ((n.natAbs : Int), d) else a
        | _ => a) ((0 : Int), 1)
      let r := toFlt f32 0 false (.fin m.1 (m.2 * qmax) false)
      ((r.1, 0), r.2)
    else
      let lo := fs.foldl (fun a x => if XR.below x a then x else a) x0
      let hi := fs.foldl (fun a x => if XR.below a x then x else a) x0
      let b := (toFlt f32 0 false lo).1
      match lo, hi with
      | .fin n1 d1 _, .fin n2 d2 _ =>
        let (n, d) := qadd n2 d2 (-n1) d1
        if n = 0 then ((0, b), fCONST)
        else
          let r := toFlt f32 0 false (.fin n (d * (2 ^ widthOf dst - 1)) false)
          ((r.1, b), r.2)
      | _, _ => ((0, b), 0)

/-- The integer q of an element under an entry, with IV, before the range test (R304). -/
def quantInt (dst rm : Nat) (lo hi : Int) (sb : Nat × Nat) (xb : Nat) (x : XR) : Int × Nat :=
  let s := fltVal f32 sb.1
  let b := fltVal f32 sb.2
  let _ := dst
  if x = .nan ∨ s = .nan ∨ b = .nan then (0, fIV)
  else match x with
    | .inf neg => (if neg then lo else hi, fIV)
    | _ =>
      match x, s, b with
      | .fin xn xd _, .fin sn sd _, .fin bn bd _ =>
        if sn = 0 then (0, 0)
        else
          let (n, d) := qadd xn xd (-bn) bd
          let n' := n * sd * (if sn < 0 then -1 else 1)
          (roundInt rm n' (d * sn.natAbs), 0)
      | _, _, _ => if s.isZero then (0, 0) else (Config.freeQuotient xb sb.1 sb.2, 0)

/-- What VQNT makes of its elements: codes, side-list entries (index, value), flags (R304). -/
structure Quant where
  codes : List Nat := []
  side : List (Nat × Int) := []
  flags : Nat := 0
  deriving DecidableEq, Repr

/-- One element quantised (R304). -/
def Quant.add (dst rm : Nat) (cal : Bool) (q : Quant) (i : Nat) (sb : Nat × Nat) (xb : Nat) (x : XR) : Quant :=
  let (lo, hi) := (intRange dst).getD (0, 0)
  let w := widthOf dst
  let (v, f) := quantInt dst rm lo hi sb xb x
  if lo ≤ v ∧ v ≤ hi then { q with codes := q.codes ++ [wrapN w v], flags := q.flags ||| f }
  else if escapes dst && cal && decide (v.natAbs ≤ 2 ^ 23 - 1) && decide (q.side.length < 256) then
    { codes := q.codes ++ [2 ^ (w - 1)], side := q.side ++ [(i, v)], flags := q.flags ||| f }
  else
    { q with codes := q.codes ++ [wrapN w (if v < lo then lo else hi)]
             flags := q.flags ||| f ||| fSAT ||| (if escapes dst && cal then fESCOVF else 0) }

/-- The channel of element `i`: its column, or its row when AXIS is 1 (R304). -/
def chanOf (axis c i : Nat) : Nat := if axis = 1 then i / c else i % c

/-- The entries (s, b) of a rescale table (R50). -/
def tableEntries (n : Nat) (bs : Bytes) : List (Nat × Nat) := (List.range n).map fun j => (leAt bs (8 * j) 4, leAt bs (8 * j + 4) 4)

/-- The bytes of a side list (R34). -/
def sideBytes (es : List (Nat × Int)) : Bytes := es.flatMap fun e => leBytes 8 (e.1 % 2 ^ 16 + wrapN 24 e.2 * 2 ^ 16)

/-- The check of a side list against the escapes of a tile's elements (R35): whether it fails. -/
def escapeBad (src : Nat) (codes : List Nat) (side : Bytes) : Bool :=
  let w := widthOf src
  let at' := (List.range codes.length).filter fun i => nth codes i == 2 ^ (w - 1)
  let es := (List.range (side.length / 8)).map fun k => leAt side (8 * k) 8
  escapes src && (es.length != at'.length || (at'.zip es).any fun p => p.2 % 2 ^ 16 != p.1 || p.2 / 2 ^ 40 != 0)

/-- The values of the escapes of a side list, in order (R34). -/
def sideVals (side : Bytes) : List Int := (List.range (side.length / 8)).map fun k => sext 24 (leAt side (8 * k + 2) 3)

/-- The values of codes, an escape taking the next value of the side list (R34). -/
def codeVals (src : Nat) : List Nat → List Int → List Int
  | [], _ => []
  | c :: cs, es =>
    if escapes src && c == 2 ^ (widthOf src - 1) then es.headD 0 :: codeVals src cs es.tail else intVal src c :: codeVals src cs es

/-- s × x + b rounded once (R50, R305, R332). -/
def rescale (fo rm : Nat) (sat : Bool) (x : XR) (sb : Nat × Nat) : Flagged Nat :=
  finish fo rm sat (fma (rm == 3) x (fltVal f32 sb.1) (fltVal f32 sb.2))

/-! ## An operation of the vector unit -/

/-- What an operation reads: the elements of ha, hb and hd, the counts of ha's chunks by element, the bytes of hb and of the side
list. -/
structure VIn where
  r : Nat
  c : Nat
  a : List Nat
  b : List Nat
  d : List Nat
  av : List Nat
  bb : Bytes
  sb : Bytes
  deriving DecidableEq, Repr

/-- What an operation makes: elements of hd, flags, and for VQNT the bytes of the table and of the side list. -/
structure VOut where
  d : List Nat
  flags : Nat
  table : Option Bytes := none
  side : Option Bytes := none
  deriving DecidableEq, Repr

/-- A V operation: its registers, widths, shapes and function. -/
structure VOp where
  i : Instr
  q : Nat
  hd : Nat := 0
  ha : Option Nat := none
  hb : Option Nat := none
  side : Option Nat := none
  ca : Nat := 0
  cb : Nat := 0
  inPlace : Bool := false
  /-- width of the elements of ha, hb and of the result -/
  wa : Nat
  wb : Nat
  wd : Nat
  /-- elements of ha and bytes of hb read from an R × C shape -/
  na : Nat → Nat → Nat := fun r c => r * c
  bytesB : Nat → Nat → Nat
  /-- rows and columns of the result, and its FMT -/
  shape : Nat → Nat → Nat × Nat := fun r c => (r, c)
  fmt : Nat
  lanes : Nat
  keepsSeal : Bool := false
  /-- hb and the side list are produced (VQNT): bytes that their slots must hold -/
  outB : Option (Nat → Nat → Nat) := none
  outSide : Bool := false
  /-- checks after the form rule, and after every chunk read has arrived -/
  extra : State → Option Trap := fun _ => none
  late : State → VIn → Option Trap := fun _ _ => none
  run : VIn → VOut

/-- Rows and columns of VSH (R255). -/
def Ctx.vshRC (c : Ctx) : Nat × Nat := (fld c.vsh.toNat 0 7 + 1, fld c.vsh.toNat 7 11 + 1)

/-- Lanes by element width (R66, R284); 256 below 8 bits, where the spec gives no count (a VCVT between two codes narrower than 8 bits, R290).
DESIGN CHOICE (log 101). -/
def lanesOf (w : Nat) : Nat := if w = 32 then 64 else if w = 16 then 128 else 256

/-- Whether an earlier vector operation has still to land chunk `k` of a slot (R289). -/
def State.vPending (s : State) (t : TileRef) (k : Nat) : Bool :=
  (s.jobsOf s.curU s.cur.cid).any fun j => j.covers t k

/-- The ARRIVAL and POISON checks of a V operation: a chunk still to be landed by an earlier one counts as set (R289). -/
def State.vReadTrap (s : State) (h bytes : Nat) : Option Trap :=
  let ks := chunkRange 0 bytes
  match s.handle s.curU s.cur h with
  | .bad t => some t
  | .pending _ => ks.head?.map fun k => { cause := 0x16, row := k }
  | .ok t =>
    let x := s.slot t
    match ks.find? fun k => bit x.poison k with
    | some k => some { cause := 0x30, row := k }
    | none => (ks.find? fun k => !x.arrived k && !s.vPending t k).map fun k => { cause := 0x16, row := k }

/-- Faulted producers that a V operation's read observes (R258). -/
def State.vObs (s : State) (h bytes : Nat) : List Nat :=
  match s.handle s.curU s.cur h with
  | .ok t => s.obsRead s.curU s.cur h ((chunkRange 0 bytes).filter fun k => !s.vPending t k)
  | _ => []

/-- The elements and bytes of one source. -/
def State.srcBytes (s : State) (h n : Nat) : Bytes :=
  match s.tile? s.curU s.cur h with
  | some t => s.mem.readN (s.slotKey t) n
  | none => []

/-- Bytes of a number of elements. -/
def nbytes (n w : Nat) : Nat := cdiv (n * w) 8

/-- Handles that a V operation reads, with the bytes it reads of each. -/
def VOp.reads (o : VOp) (s : State) : List (Nat × Nat) :=
  let (r, c) := s.cur.vshRC
  let h (n : Nat) := s.cur.rh n
  (o.ha.map fun x => (h x, nbytes (o.na r c) o.wa)).toList ++
    (if o.outB.isSome then [] else (o.hb.map fun x => (h x, o.bytesB r c)).toList) ++
    (if o.inPlace then [(h o.hd, nbytes (r * c) o.wd)] else []) ++
    (if o.outSide then [] else (o.side.map fun x => (h x, s.operandLen s.curU s.cur (h x))).toList)

/-- What a V operation reads, as its elements. -/
def VOp.input (o : VOp) (s : State) : VIn :=
  let (r, c) := s.cur.vshRC
  let h (n : Nat) := s.cur.rh n
  let el (x : Option Nat) (n w : Nat) : List Nat := match x with
    | some k => elems w n (s.srcBytes (h k) (nbytes n w))
    | none => []
  let av : List Nat := match o.ha.bind fun k => s.tile? s.curU s.cur (h k) with
    | some t => (List.range (r * c)).map fun i =>
        let k := i * o.wa / 4096
        if s.vPending t k then 1 else (s.slot t).valid.look k 0
    | none => []
  { r := r, c := c, a := el o.ha (o.na r c) o.wa, b := el o.hb (8 * o.bytesB r c / o.wb) o.wb
    d := if o.inPlace then el (some o.hd) (r * c) o.wd else [], av := av
    bb := match o.hb with
      | some k => s.srcBytes (h k) (o.bytesB r c)
      | none => []
    sb := match o.side with
      | some k => if o.outSide then [] else s.srcBytes (h k) (s.operandLen s.curU s.cur (h k))
      | none => [] }

/-- The checks of R287 from the handles to the chunks read, in order. -/
def VOp.check (o : VOp) (s : State) : Option Trap :=
  let u := s.curU
  let c := s.cur
  let (r, k) := c.vshRC
  let h (n : Nat) := c.rh n
  let scalar := match o.i with
    | .vsums .. => true
    | _ => false
  let outs : List (Nat × Nat) := (if o.inPlace || scalar then [] else
      [(h o.hd, nbytes ((o.shape r k).1 * (o.shape r k).2) o.wd)]) ++
    (match o.outB, o.hb with
      | some f, some x => [(h x, f r k)]
      | _, _ => []) ++ (if o.outSide then (o.side.map fun x => (h x, 2048)).toList else [])
  let named := (o.reads s).map (·.1) ++ outs.map (·.1)
  let form (x : Nat) : Option Trap := match s.handle u c x with
    | .pending t | .ok t => if (s.slot t).produced then some (trapOf 3 4) else none
    | .bad t => some t
  let formIn : Option Trap := match s.handle u c (h o.hd) with
    | .ok t => if (s.slot t).okind ≠ 1 then some (trapOf 0x14 2) else if (s.slot t).produced then none else some (trapOf 3 4)
    | .pending _ => some (trapOf 0x14 2)
    | .bad t => some t
  let twice := (outs.map fun x => s.tile? u c x.1)
  firstTrap (named.map (s.handleTrap u c) ++ outs.map (fun x => form x.1) ++ [if o.inPlace then formIn else none,
      if twice.eraseDups.length < twice.length then some (trapOf 3 4) else none, o.extra s] ++
    (o.reads s).map (fun x => if s.operandLen u c x.1 < x.2 then some (trapOf 0x15 0) else none) ++
    outs.map (fun x => match s.tile? u c x.1 with
      | some t => if s.slotSize t < x.2 then some (trapOf 0x15 0) else none
      | none => none) ++
    [match o.side with
      | some x => if !o.outSide && (let n := s.operandLen u c (h x); decide (n % 8 ≠ 0 ∨ 2048 < n)) then some (trapOf 0x15 0) else none
      | none => none] ++
    [memueFirst ((o.reads s).map fun x => s.vReadTrap x.1 x.2), o.late s (o.input s)])

/-- Whether a V operation reads chunk `k` of a slot as written: it has arrived, or an earlier one lands it (R289). -/
def State.vKnown (s : State) (t : TileRef) (k : Nat) : Bool := (s.slot t).arrived k || s.vPending t k

/-- A digest of a tile as a V operation reads it: its chunks that are written; the others are known once they arrive (R370). -/
def State.vDig (s : State) (pos : Nat) (t : TileRef) : TdWait :=
  let x := s.slot t
  { pos := pos, tile := t, desc := x.desc
    cells := (List.range x.chunks).map fun k =>
      if s.vKnown t k then some (x.cds.look k (zeros 32), if s.vPending t k then 1 else x.valid.look k 0) else none }

/-- The chunks of a slot that an in-place result of `n` chunks lands: its own, and those past it but for one that has still to arrive
(R288). -/
def State.vChunks (s : State) (t : TileRef) (n : Nat) : List Nat :=
  (List.range (s.slot t).chunks).filter fun k => decide (k < n) || s.vKnown t k

/-- Bytes written over the first chunks of a slot, with their digests; they become readable when the operation lands. In place, the
ARRIVAL bits of the chunks `clear` are cleared (R288). -/
def State.vWrite (s : State) (t : TileRef) (bs : Bytes) (clear : List Nat) : State :=
  let s := { s with mem := s.mem.writeN (s.slotKey t) bs }
  let n := cdiv bs.length 512
  let all := s.mem.readN (s.slotKey t) (s.slot t).len
  let cds := (List.range n).map fun k => (k, digestCD (chunkBytes all k))
  s.updSlot t fun x =>
    { x with cds := cds.foldl (fun m p => m.put p.1 p.2) x.cds
             arrival := clear.foldl (fun a k => if bit a k then a - 2 ^ k else a) x.arrival }

/-- The effect of a V operation at issue: its outputs, its consuming reads, and the job that lands them. -/
def VOp.eff (o : VOp) (s : State) : State :=
  let u := s.curU
  let cid := s.cur.cid
  let (r, c) := s.cur.vshRC
  let h (n : Nat) := s.cur.rh n
  let vin := o.input s
  let out := o.run vin
  let slotA := o.ha.bind fun x => s.tile? u s.cur (h x)
  let slotB := o.hb.bind fun x => s.tile? u s.cur (h x)
  let hA := (o.ha.map h).getD 0
  let hB := (o.hb.map h).getD 0
  let seq := (slotA.map fun t => (s.slot t).seq).getD 0
  let sealedOf (t : Option TileRef) : Bool := (t.map fun t => (s.slot t).sealed).getD false
  let hd := s.tile? u s.cur (h o.hd)
  let sl := o.keepsSeal && (sealedOf slotA || sealedOf slotB || (o.inPlace && sealedOf hd) ||
    sealedOf (if o.outSide then none else o.side.bind fun x => s.tile? u s.cur (h x)))
  let bound := cdiv (r * c) o.lanes + 6
  let vmacc := match o.i with
    | .vmacc .. => true
    | _ => false
  let tds := (slotA.map fun t => s.vDig 0 t).toList ++ (if o.outB.isSome then [] else (slotB.map fun t => s.vDig 1 t).toList) ++
    (if o.inPlace then (hd.map fun t => s.vDig 2 t).toList else []) ++ if vmacc then (slotA.map fun t => s.vDig 3 t).toList else []
  let sideT := if o.outSide then o.side.bind fun x => s.tile? u s.cur (h x) else none
  let (s, lf) := s.takeLeaf o.i
  let j0 := { s.newJob .vec o.i 0 with
              leaf := some lf, due := s.cur.bundleNo + bound, flags := out.flags
              c := (if slotA.isSome then 2 * o.ca else 0) + (if slotB.isSome then 4 * o.cb else 0)
              tds := tds }
  let s := s.updUnit u fun x => { x with vecLeft := cdiv (r * c) o.lanes }
  match o.i with
  | .vsums _ sd _ sdhi _ _ =>
    let d := s.cur.ds (sd + 16 * sdhi)
    let v := nth out.d 0
    let sv := sealedOf slotA
    let s := s.updCur fun c => { c.write d v bound out.flags with touchSeal := c.touchSeal || sv }
    let s := s.issueJob (Job.resolve { j0 with image := leBytes 8 v, dreg := some (d, s.cur.bundleNo) })
    match slotA with
    | some t => s.readTile u cid t hA o.ca
    | none => s
  | _ =>
    match hd with
    | none => s
    | some t =>
      let bs := pack o.wd out.d
      let s := if o.inPlace then s else s.produce t ((o.shape r c).1 - 1) ((o.shape r c).2 - 1) o.fmt seq
      let ks := if o.inPlace then s.vChunks t (cdiv bs.length 512) else List.range (cdiv bs.length 512)
      let s := (s.vWrite t bs (if o.inPlace then ks else [])).updSlot t fun x => { x with sealed := sl }
      let put (s : State) (x : Option TileRef) (bs : Option Bytes) (fmt n : Nat) : State × List TileRef :=
        match x, bs with
        | some t, some b =>
          if b.length = 0 then (s, [])
          else (((s.produce t 0 (n - 1) fmt seq).vWrite t b []).updSlot t fun x => { x with sealed := sl }, [t])
        | _, _ => (s, [])
      let (s, ts) := put s (if o.outB.isSome then slotB else none) out.table 0x1B ((out.table.getD []).length / 8)
      let (s, us) := put s sideT out.side 0x1A ((out.side.getD []).length / 8)
      let x := s.slot t
      let res : TdWait := { pos := 4, tile := t, desc := x.desc
                            cells := (List.range x.chunks).map fun k => if ks.contains k then some (x.cds.look k (zeros 32), 1) else none }
      let s := s.issueJob (Job.resolve { j0 with
        dst := some t, tilesA := ts ++ us, lands := ks.foldl setBit 0, digB := (ts.head?.map fun x => (s.slot x).tdNow).getD [], tds := tds ++ [res] })
      let s := match sideT, out.side, o.side with
        | some t, some [], some x => (s.release t false true).updCur fun c => c.write (c.dh x) 0 bound
        | _, _, _ => s
      let s := match slotA with
        | some t => s.readTile u cid t hA o.ca
        | none => s
      match slotB with
      | some t => if o.outB.isSome then s else s.readTile u cid t hB o.cb
      | none => s

/-- The slot of a V operation (R284-R289): held until the unit's lanes are free, and in place until earlier readers have read. -/
def VOp.sem (o : VOp) : SlotSem :=
  { i := o.i, q := o.q
    obs := fun s => ((o.reads s).flatMap fun x => s.vObs x.1 x.2) ++
      (if o.inPlace then (match s.tile? s.curU s.cur (s.cur.rh o.hd) with
        | some t => (s.readersOf t (s.vChunks t (cdiv (nbytes (s.cur.vshRC.1 * s.cur.vshRC.2) o.wd) 512))).map (·.jid)
        | none => []) else [])
    check := o.check
    hold := fun s => (s.unit s.curU).vecLeft != 0 ||
      (o.inPlace && (match s.tile? s.curU s.cur (s.cur.rh o.hd) with
        | some t => s.readersOf t (s.vChunks t (cdiv (nbytes (s.cur.vshRC.1 * s.cur.vshRC.2) o.wd) 512)) != []
        | none => false))
    sees := fun s => (o.reads s).flatMap fun x => s.seesTile s.curU s.cur x.1
    takes := fun s => (o.ha.toList.flatMap fun x => marked o.ca (s.cur.rh x)) ++
      if o.outB.isSome then [] else o.hb.toList.flatMap fun x => marked o.cb (s.cur.rh x)
    eff := o.eff }

/-- An operation of ha and hb, both of the operation's type, into hd (R290). -/
def vBin (i : Instr) (q hd ha hb ty ca cb : Nat) (f : Nat → Nat → Nat → Flagged Nat) : VOp :=
  let c := tyCode ty
  let w := widthOf c
  { i := i, q := q, hd := hd, ha := some ha, hb := some hb, ca := ca, cb := cb, wa := w, wb := w, wd := w
    bytesB := fun r k => nbytes (r * k) w, fmt := metaFmt c, lanes := lanesOf w
    run := fun x => let (d, fl) := collect ((x.a.zip x.b).map fun p => f c p.1 p.2)
                    { d := d, flags := fl } }

/-- An operation of ha alone, into hd (R290). -/
def vUn (i : Instr) (q hd ha ty ca : Nat) (f : VIn → List (Flagged Nat)) : VOp :=
  let c := tyCode ty
  let w := widthOf c
  { i := i, q := q, hd := hd, ha := some ha, ca := ca, wa := w, wb := 8, wd := w, bytesB := fun _ _ => 0
    fmt := metaFmt c, lanes := lanesOf w
    run := fun x => let (d, fl) := collect (f x)
                    { d := d, flags := fl } }

/-- A reduction of ha: by rows or by columns; integer sums give i32 (R300). -/
def vReduce (o : VOp) (ty : Nat) (rows sums : Bool) (f : VIn → List (Flagged Nat)) : VOp :=
  let c := tyCode ty
  let rc := if sums && !isFlt c then 0x20 else c
  { o with wd := widthOf rc, fmt := metaFmt rc, shape := fun r k => if rows then (r, 1) else (1, k)
           run := fun x => let (d, fl) := collect (f x)
                           { d := d, flags := fl } }

/-! ## The operations -/

/-- The slot of VADD (R291). -/
def semVadd (qp hd ha hb ty ca cb fn : Nat) : SlotSem :=
  (vBin (.vadd qp hd ha hb ty ca cb fn) qp hd ha hb ty ca cb fun c => vAdd c fn).sem
/-- VADD (R291). -/
def execVadd (qp hd ha hb ty ca cb fn : Nat) (s : State) : Host.Outcome State Fault Refusal := s.issue1 (semVadd qp hd ha hb ty ca cb fn)

/-- The slot of VSUB (R291). -/
def semVsub (qp hd ha hb ty ca cb fn : Nat) : SlotSem :=
  (vBin (.vsub qp hd ha hb ty ca cb fn) qp hd ha hb ty ca cb fun c => vSub c fn).sem
/-- VSUB (R291). -/
def execVsub (qp hd ha hb ty ca cb fn : Nat) (s : State) : Host.Outcome State Fault Refusal := s.issue1 (semVsub qp hd ha hb ty ca cb fn)

/-- The slot of VMUL (R291). -/
def semVmul (qp hd ha hb ty ca cb fn : Nat) : SlotSem :=
  (vBin (.vmul qp hd ha hb ty ca cb fn) qp hd ha hb ty ca cb fun c => vMul c fn).sem
/-- VMUL (R291). -/
def execVmul (qp hd ha hb ty ca cb fn : Nat) (s : State) : Host.Outcome State Fault Refusal := s.issue1 (semVmul qp hd ha hb ty ca cb fn)

/-- The slot of VFMA (R291). -/
def semVfma (qp hd ha hb ty ca cb fn : Nat) : SlotSem :=
  let o := vBin (.vfma qp hd ha hb ty ca cb fn) qp hd ha hb ty ca cb fun _ a _ => (a, 0)
  { o with inPlace := true
           run := fun x => let (d, fl) := collect (((x.a.zip x.b).zip x.d).map fun p => vFma (tyCode ty) fn p.1.1 p.1.2 p.2)
                           { d := d, flags := fl } : VOp }.sem
/-- VFMA (R291). -/
def execVfma (qp hd ha hb ty ca cb fn : Nat) (s : State) : Host.Outcome State Fault Refusal := s.issue1 (semVfma qp hd ha hb ty ca cb fn)

/-- The slot of VMIN (R292). -/
def semVmin (qp hd ha hb ty ca cb : Nat) : SlotSem :=
  (vBin (.vmin qp hd ha hb ty ca cb) qp hd ha hb ty ca cb fun c a b => (vPick c false a b, 0)).sem
/-- VMIN (R292). -/
def execVmin (qp hd ha hb ty ca cb : Nat) (s : State) : Host.Outcome State Fault Refusal := s.issue1 (semVmin qp hd ha hb ty ca cb)

/-- The slot of VMAX (R292). -/
def semVmax (qp hd ha hb ty ca cb : Nat) : SlotSem :=
  (vBin (.vmax qp hd ha hb ty ca cb) qp hd ha hb ty ca cb fun c a b => (vPick c true a b, 0)).sem
/-- VMAX (R292). -/
def execVmax (qp hd ha hb ty ca cb : Nat) (s : State) : Host.Outcome State Fault Refusal := s.issue1 (semVmax qp hd ha hb ty ca cb)

/-- The slot of VAND (R293). -/
def semVand (qp hd ha hb ty ca cb : Nat) : SlotSem :=
  (vBin (.vand qp hd ha hb ty ca cb) qp hd ha hb ty ca cb fun _ a b => (a &&& b, 0)).sem
/-- VAND (R293). -/
def execVand (qp hd ha hb ty ca cb : Nat) (s : State) : Host.Outcome State Fault Refusal := s.issue1 (semVand qp hd ha hb ty ca cb)

/-- The slot of VOR (R293). -/
def semVor (qp hd ha hb ty ca cb : Nat) : SlotSem :=
  (vBin (.vor qp hd ha hb ty ca cb) qp hd ha hb ty ca cb fun _ a b => (a ||| b, 0)).sem
/-- VOR (R293). -/
def execVor (qp hd ha hb ty ca cb : Nat) (s : State) : Host.Outcome State Fault Refusal := s.issue1 (semVor qp hd ha hb ty ca cb)

/-- The slot of VXOR (R293). -/
def semVxor (qp hd ha hb ty ca cb : Nat) : SlotSem :=
  (vBin (.vxor qp hd ha hb ty ca cb) qp hd ha hb ty ca cb fun _ a b => (a ^^^ b, 0)).sem
/-- VXOR (R293). -/
def execVxor (qp hd ha hb ty ca cb : Nat) (s : State) : Host.Outcome State Fault Refusal := s.issue1 (semVxor qp hd ha hb ty ca cb)

/-- The slot of VSHL (R293). -/
def semVshl (qp hd ha hb ty ca cb : Nat) : SlotSem :=
  (vBin (.vshl qp hd ha hb ty ca cb) qp hd ha hb ty ca cb fun c a b => (vShl c a b, 0)).sem
/-- VSHL (R293). -/
def execVshl (qp hd ha hb ty ca cb : Nat) (s : State) : Host.Outcome State Fault Refusal := s.issue1 (semVshl qp hd ha hb ty ca cb)

/-- The slot of VSHR (R293). -/
def semVshr (qp hd ha hb ty ca cb : Nat) : SlotSem :=
  (vBin (.vshr qp hd ha hb ty ca cb) qp hd ha hb ty ca cb fun c a b => (vShr c a b, 0)).sem
/-- VSHR (R293). -/
def execVshr (qp hd ha hb ty ca cb : Nat) (s : State) : Host.Outcome State Fault Refusal := s.issue1 (semVshr qp hd ha hb ty ca cb)

/-- The slot of VCMP (R294). -/
def semVcmp (qp hd ha hb ty ca cb fn : Nat) : SlotSem :=
  (vBin (.vcmp qp hd ha hb ty ca cb fn) qp hd ha hb ty ca cb fun c a b => (vCmp c fn a b, 0)).sem
/-- VCMP (R294). -/
def execVcmp (qp hd ha hb ty ca cb fn : Nat) (s : State) : Host.Outcome State Fault Refusal := s.issue1 (semVcmp qp hd ha hb ty ca cb fn)

/-- The slot of VSEL (R294): hd is the mask. -/
def semVsel (qp hd ha hb ty ca cb : Nat) : SlotSem :=
  let o := vBin (.vsel qp hd ha hb ty ca cb) qp hd ha hb ty ca cb fun _ a _ => (a, 0)
  { o with inPlace := true, keepsSeal := true
           run := fun x => { d := ((x.a.zip x.b).zip x.d).map fun p => if p.2 = 0 then p.1.2 else p.1.1, flags := 0 } : VOp }.sem
/-- VSEL (R294). -/
def execVsel (qp hd ha hb ty ca cb : Nat) (s : State) : Host.Outcome State Fault Refusal := s.issue1 (semVsel qp hd ha hb ty ca cb)

/-- The slot of VABS (R295). -/
def semVabs (qp hd ha ty ca : Nat) : SlotSem :=
  (vUn (.vabs qp hd ha ty ca) qp hd ha ty ca fun x => x.a.map (vAbs (tyCode ty))).sem
/-- VABS (R295). -/
def execVabs (qp hd ha ty ca : Nat) (s : State) : Host.Outcome State Fault Refusal := s.issue1 (semVabs qp hd ha ty ca)

/-- The slot of VNEG (R295). -/
def semVneg (qp hd ha ty ca : Nat) : SlotSem :=
  (vUn (.vneg qp hd ha ty ca) qp hd ha ty ca fun x => x.a.map (vNeg (tyCode ty))).sem
/-- VNEG (R295). -/
def execVneg (qp hd ha ty ca : Nat) (s : State) : Host.Outcome State Fault Refusal := s.issue1 (semVneg qp hd ha ty ca)

/-- The slot of VMOV (R295). -/
def semVmov (qp hd ha ty ca : Nat) : SlotSem :=
  { vUn (.vmov qp hd ha ty ca) qp hd ha ty ca (fun x => x.a.map fun a => (a, 0)) with keepsSeal := true : VOp }.sem
/-- VMOV (R295). -/
def execVmov (qp hd ha ty ca : Nat) (s : State) : Host.Outcome State Fault Refusal := s.issue1 (semVmov qp hd ha ty ca)

/-- An operation that reads no tile: element `k` of hd from its index (R296). -/
def vGen (i : Instr) (q hd ty : Nat) (f : Nat → Flagged Nat) : VOp :=
  let c := tyCode ty
  let w := widthOf c
  { i := i, q := q, hd := hd, wa := 8, wb := 8, wd := w, na := fun _ _ => 0, bytesB := fun _ _ => 0
    fmt := metaFmt c, lanes := lanesOf w
    run := fun x => let (d, fl) := collect ((List.range (x.r * x.c)).map f)
                    { d := d, flags := fl } }

/-- The slot of VFILL (R296). -/
def semVfill (qp hd ty : Nat) : SlotSem := (vGen (.vfill qp hd ty) qp hd ty fun _ => (0, 0)).sem
/-- VFILL (R296). -/
def execVfill (qp hd ty : Nat) (s : State) : Host.Outcome State Fault Refusal := s.issue1 (semVfill qp hd ty)

/-- The slot of VFILL_EXT (R296). -/
def semVfillExt (qp hd ty ext : Nat) : SlotSem :=
  (vGen (.vfillExt qp hd ty ext) qp hd ty fun _ => (ext % 2 ^ widthOf (tyCode ty), 0)).sem
/-- VFILL_EXT (R296). -/
def execVfillExt (qp hd ty ext : Nat) (s : State) : Host.Outcome State Fault Refusal := s.issue1 (semVfillExt qp hd ty ext)

/-- The slot of VBROW (R297). -/
def semVbrow (qp hd ha ty ca : Nat) : SlotSem :=
  { vUn (.vbrow qp hd ha ty ca) qp hd ha ty ca (fun x => (List.range (x.r * x.c)).map fun i => (nth x.a (i % x.c), 0)) with
    na := fun _ c => c, keepsSeal := true : VOp }.sem
/-- VBROW (R297). -/
def execVbrow (qp hd ha ty ca : Nat) (s : State) : Host.Outcome State Fault Refusal := s.issue1 (semVbrow qp hd ha ty ca)

/-- The slot of VBCOL (R297). -/
def semVbcol (qp hd ha ty ca : Nat) : SlotSem :=
  { vUn (.vbcol qp hd ha ty ca) qp hd ha ty ca (fun x => (List.range (x.r * x.c)).map fun i => (nth x.a (i / x.c), 0)) with
    na := fun r _ => r, keepsSeal := true : VOp }.sem
/-- VBCOL (R297). -/
def execVbcol (qp hd ha ty ca : Nat) (s : State) : Host.Outcome State Fault Refusal := s.issue1 (semVbcol qp hd ha ty ca)

/-- The slot of VTRANS (R297): ha is read as C rows of R elements. -/
def semVtrans (qp hd ha ty ca : Nat) : SlotSem :=
  { vUn (.vtrans qp hd ha ty ca) qp hd ha ty ca
      (fun x => (List.range (x.r * x.c)).map fun i => (nth x.a (i % x.c * x.r + i / x.c), 0)) with
    keepsSeal := true : VOp }.sem
/-- VTRANS (R297). -/
def execVtrans (qp hd ha ty ca : Nat) (s : State) : Host.Outcome State Fault Refusal := s.issue1 (semVtrans qp hd ha ty ca)

/-- The slot of VSFU (R299): 16 lanes. -/
def semVsfu (qp hd ha ty ca fn func : Nat) : SlotSem :=
  { vUn (.vsfu qp hd ha ty ca fn func) qp hd ha ty ca
      (fun x => x.a.map fun a => finish (tyCode ty) fn false (sfu func (elemVal (tyCode ty) a))) with
    lanes := 16 : VOp }.sem
/-- VSFU (R299). -/
def execVsfu (qp hd ha ty ca fn func : Nat) (s : State) : Host.Outcome State Fault Refusal := s.issue1 (semVsfu qp hd ha ty ca fn func)

/-- The slot of VRSUM (R300). -/
def semVrsum (qp hd ha ty ca fn : Nat) : SlotSem :=
  (vReduce (vUn (.vrsum qp hd ha ty ca fn) qp hd ha ty ca fun _ => []) ty true true fun x =>
    (rowsOf x.r x.c x.a).map fun l => vRed (tyCode ty) fn (vSum (tyCode ty) l)).sem
/-- VRSUM (R300). -/
def execVrsum (qp hd ha ty ca fn : Nat) (s : State) : Host.Outcome State Fault Refusal := s.issue1 (semVrsum qp hd ha ty ca fn)

/-- The slot of VRMAX (R300). -/
def semVrmax (qp hd ha ty ca : Nat) : SlotSem :=
  (vReduce (vUn (.vrmax qp hd ha ty ca) qp hd ha ty ca fun _ => []) ty true false fun x =>
    (rowsOf x.r x.c x.a).map fun l => (vGreatest (tyCode ty) l, 0)).sem
/-- VRMAX (R300). -/
def execVrmax (qp hd ha ty ca : Nat) (s : State) : Host.Outcome State Fault Refusal := s.issue1 (semVrmax qp hd ha ty ca)

/-- The slot of VCSUM (R300). -/
def semVcsum (qp hd ha ty ca fn : Nat) : SlotSem :=
  (vReduce (vUn (.vcsum qp hd ha ty ca fn) qp hd ha ty ca fun _ => []) ty false true fun x =>
    (colsOf x.r x.c x.a).map fun l => vRed (tyCode ty) fn (vSum (tyCode ty) l)).sem
/-- VCSUM (R300). -/
def execVcsum (qp hd ha ty ca fn : Nat) (s : State) : Host.Outcome State Fault Refusal := s.issue1 (semVcsum qp hd ha ty ca fn)

/-- The slot of VCMAX (R300). -/
def semVcmax (qp hd ha ty ca : Nat) : SlotSem :=
  (vReduce (vUn (.vcmax qp hd ha ty ca) qp hd ha ty ca fun _ => []) ty false false fun x =>
    (colsOf x.r x.c x.a).map fun l => (vGreatest (tyCode ty) l, 0)).sem
/-- VCMAX (R300). -/
def execVcmax (qp hd ha ty ca : Nat) (s : State) : Host.Outcome State Fault Refusal := s.issue1 (semVcmax qp hd ha ty ca)

/-- The slot of VDOT (R300). -/
def semVdot (qp hd ha hb ty ca cb fn : Nat) : SlotSem :=
  (vReduce (vBin (.vdot qp hd ha hb ty ca cb fn) qp hd ha hb ty ca cb fun _ a _ => (a, 0)) ty true true fun x =>
    ((rowsOf x.r x.c x.a).zip (rowsOf x.r x.c x.b)).map fun l => vRed (tyCode ty) fn (vDotSum (tyCode ty) (l.1.zip l.2))).sem
/-- VDOT (R300). -/
def execVdot (qp hd ha hb ty ca cb fn : Nat) (s : State) : Host.Outcome State Fault Refusal := s.issue1 (semVdot qp hd ha hb ty ca cb fn)

/-- The slot of VMACC (R302): the expected count lies in bytes 0-3 of hb. -/
def semVmacc (qp hd ha hb ty ca cb fn : Nat) : SlotSem :=
  let o := vBin (.vmacc qp hd ha hb ty ca cb fn) qp hd ha hb ty ca cb fun _ a _ => (a, 0)
  { o with inPlace := true, wb := 32, bytesB := fun _ _ => 4
           late := fun _ x => if leAt x.bb 0 4 = 0 ∨ 255 < leAt x.bb 0 4 then some (trapOf 3 4) else none
           run := fun x =>
             let e := leAt x.bb 0 4
             let (d, fl) := collect (((x.a.zip x.d).zip x.av).map fun p => vMacc (tyCode ty) fn e p.2 p.1.1 p.1.2)
             { d := d, flags := fl } : VOp }.sem
/-- VMACC (R302). -/
def execVmacc (qp hd ha hb ty ca cb fn : Nat) (s : State) : Host.Outcome State Fault Refusal := s.issue1 (semVmacc qp hd ha hb ty ca cb fn)

/-- The slot of VCVT (R303). -/
def semVcvt (qp hd ha ca fn src dst sat inter : Nat) : SlotSem :=
  { i := .vcvt qp hd ha ca fn src dst sat inter, q := qp, hd := hd, ha := some ha, ca := ca
    wa := widthOf src, wb := 8, wd := widthOf dst, bytesB := fun _ _ => 0, fmt := metaFmt dst
    lanes := lanesOf (max (widthOf src) (widthOf dst)), keepsSeal := true
    run := fun x => let (d, fl) := collect (x.a.map (convertElem src dst fn (sat == 1)))
                    { d := d, flags := fl } : VOp }.sem
/-- VCVT (R303). -/
def execVcvt (qp hd ha ca fn src dst sat inter : Nat) (s : State) : Host.Outcome State Fault Refusal :=
  s.issue1 (semVcvt qp hd ha ca fn src dst sat inter)

/-- What VQNT makes of its input (R51, R304). -/
def quantise (ty fn dst axis cal : Nat) (x : VIn) : VOut :=
  let xs := x.a.map (elemVal (tyCode ty))
  let chans := if axis = 1 then rowsOf x.r x.c x.a else colsOf x.r x.c x.a
  let made := chans.map fun l => calibrate dst (l.map (elemVal (tyCode ty)))
  let tab := if cal = 1 then tableEntries chans.length x.bb else made.map (·.1)
  let f0 := if cal = 1 then 0 else made.foldl (fun a m => a ||| m.2) 0
  let q := ((List.range x.a.length).zip xs).foldl (fun q p =>
    q.add dst fn (cal == 1) p.1 (tab.getD (chanOf axis x.c p.1) (0, 0)) (nth x.a p.1) p.2) ({} : Quant)
  { d := q.codes, flags := q.flags ||| f0
    table := if cal = 1 then none else some (tab.flatMap fun e => leBytes 4 e.1 ++ leBytes 4 e.2)
    side := if escapes dst then some (sideBytes q.side) else none }

/-- The slot of VQNT (R304): half the lanes of its source type. -/
def semVqnt (qp hd ha hb ty ca cb fn dst axis side cal : Nat) : SlotSem :=
  let w := widthOf (tyCode ty)
  let tb (r c : Nat) : Nat := 8 * (if axis = 1 then r else c)
  { i := .vqnt qp hd ha hb ty ca cb fn dst axis side cal, q := qp, hd := hd, ha := some ha, hb := some hb, ca := ca, cb := cb
    side := if escapes dst then some side else none
    wa := w, wb := 64, wd := widthOf dst, bytesB := tb, fmt := dst, lanes := lanesOf w / 2, keepsSeal := true
    outB := if cal = 1 then none else some tb, outSide := escapes dst
    extra := fun s => if escapes dst && decide (65536 < s.cur.vshRC.1 * s.cur.vshRC.2) then some (trapOf 3 4) else none
    run := quantise ty fn dst axis cal : VOp }.sem
/-- VQNT (R304). -/
def execVqnt (qp hd ha hb ty ca cb fn dst axis side cal : Nat) (s : State) : Host.Outcome State Fault Refusal :=
  s.issue1 (semVqnt qp hd ha hb ty ca cb fn dst axis side cal)

/-- What VDQNT makes of its input (R50, R305). -/
def dequantise (ty fn src axis sat : Nat) (x : VIn) : VOut :=
  let vs := codeVals src x.a (sideVals x.sb)
  let tab := tableEntries (if axis = 1 then x.r else x.c) x.bb
  let (d, fl) := collect (((List.range vs.length).zip vs).map fun p =>
    rescale (tyCode ty) fn (sat == 1) (.ofInt p.2) (tab.getD (chanOf axis x.c p.1) (0, 0)))
  { d := d, flags := fl }

/-- SEQ of the tile a handle register names. -/
def State.seqOf (s : State) (n : Nat) : Option Nat := (s.tile? s.curU s.cur (s.cur.rh n)).map fun t => (s.slot t).seq

/-- The slot of VDQNT (R305). -/
def semVdqnt (qp hd ha hb ty ca cb fn src axis side sat : Nat) : SlotSem :=
  let w := widthOf (tyCode ty)
  { i := .vdqnt qp hd ha hb ty ca cb fn src axis side sat, q := qp, hd := hd, ha := some ha, hb := some hb, ca := ca, cb := cb
    side := if escapes src && side != 0 then some side else none
    wa := widthOf src, wb := 64, wd := w, bytesB := fun r c => 8 * (if axis = 1 then r else c), fmt := metaFmt (tyCode ty)
    lanes := lanesOf w, keepsSeal := true
    late := fun s x =>
      if s.seqOf hb ≠ s.seqOf ha ∨ (escapes src && side != 0 && s.seqOf side != s.seqOf ha) then some (trapOf 0x1B 0)
      else if escapeBad src x.a x.sb then some (trapOf 0x1C 0) else none
    run := dequantise ty fn src axis sat : VOp }.sem
/-- VDQNT (R305). -/
def execVdqnt (qp hd ha hb ty ca cb fn src axis side sat : Nat) (s : State) : Host.Outcome State Fault Refusal :=
  s.issue1 (semVdqnt qp hd ha hb ty ca cb fn src axis side sat)

/-- The slot of VSCALE (R298): row r by element r of hb. -/
def semVscale (qp hd ha hb ty ca cb fn : Nat) : SlotSem :=
  let o := vBin (.vscale qp hd ha hb ty ca cb fn) qp hd ha hb ty ca cb fun _ a _ => (a, 0)
  { o with bytesB := fun r _ => nbytes r o.wb
           run := fun x =>
             let (d, fl) := collect (((List.range x.a.length).zip x.a).map fun p => vMul (tyCode ty) fn p.2 (nth x.b (p.1 / x.c)))
             { d := d, flags := fl } : VOp }.sem
/-- VSCALE (R298). -/
def execVscale (qp hd ha hb ty ca cb fn : Nat) (s : State) : Host.Outcome State Fault Refusal := s.issue1 (semVscale qp hd ha hb ty ca cb fn)

/-- The slot of VIOTA (R296). -/
def semViota (qp hd ty fn : Nat) : SlotSem := (vGen (.viota qp hd ty fn) qp hd ty fun i => vIota (tyCode ty) fn i).sem
/-- VIOTA (R296). -/
def execViota (qp hd ty fn : Nat) (s : State) : Host.Outcome State Fault Refusal := s.issue1 (semViota qp hd ty fn)

/-- The slot of VSUMS (R301): the FP32 accumulator's bits, or the INT32 accumulator sign-extended. -/
def semVsums (qp sd ha sdhi ty ca : Nat) : SlotSem :=
  { vUn (.vsums qp sd ha sdhi ty ca) qp 0 ha ty ca (fun x =>
      let r := vSum (tyCode ty) x.a
      [(if isFlt (tyCode ty) then r.1 else wrapN 64 (sext 32 r.1), r.2)]) with hd := 0 : VOp }.sem
/-- VSUMS (R301). -/
def execVsums (qp sd ha sdhi ty ca : Nat) (s : State) : Host.Outcome State Fault Refusal := s.issue1 (semVsums qp sd ha sdhi ty ca)

/-- VECTOR_RESULT_LANDS (R288): the oldest vector operation of a context, in the order of acceptance (R284). -/
def execVectorResultLands (u j : Nat) (s : State) : Host.Outcome State Fault Refusal :=
  s.onJob u j fun j =>
    if j.kind ≠ .vec || (s.unit u).jobs.any (fun i => i.kind == JobKind.vec && decide (i.jid < j.jid)) then none
    else some (s.landVec u j)

end Sys2Proof.Machine
end

