-- ==== Sys2Proof/Machine/Link.lean ====
section
/-!
DEFINITION. The Serif link: routes, ports, the exact class with its window and go-back, dead ports, notices that wait, and the
acceptance of received packets (18_channel_class.md R340-R342; 07 R186; 21 R391).
-/
namespace Sys2Proof.Machine

/-! ## The bytes of a packet (R1, R341) -/

/-- The 32-byte header of a packet, every field little-endian (R1, R341). -/
def packetHeader (p : Packet) : Bytes :=
  layout 32 [(0, leBytes 1 p.kind), (1, leBytes 1 (p.blot.toNat + 2 * (p.red % 4) + 8 * p.sealed.toNat)), (2, leBytes 3 (p.dstChip % 2 ^ 20)),
    (5, leBytes 3 (p.srcChip % 2 ^ 20)), (8, leBytes 1 p.dstEp), (9, leBytes 1 p.ch), (10, leBytes 1 p.srcEp), (11, leBytes 1 p.valid),
    (12, leBytes 4 p.n), (16, leBytes 2 (p.chunk % 2 ^ 9)), (18, leBytes 2 p.lseq), (20, leBytes 4 p.tseq), (24, leBytes 8 p.tag)]

/-- A packet's bytes as they leave: a data packet has its chunk and the chunk's digest, a mailbox packet 64 bytes, the others a header
only (R341). -/
def packetBytes (p : Packet) : Bytes :=
  packetHeader p ++ if p.kind = 0 then padTo 512 p.payload ++ padTo 32 p.digest else if p.kind = 5 then padTo 64 p.payload else []

/-- The packet in bytes that arrive: none when the receiver discards it, for a reserved type or a wrong length (R341). -/
def packetOf (b : Bytes) : Option Packet :=
  let t := leAt b 0 1
  let f := leAt b 1 1
  if 7 < t ∨ b.length ≠ 32 + (if t = 0 then 544 else if t = 5 then 64 else 0) then none
  else some { kind := t, blot := bit f 0, red := fld f 1 2, sealed := bit f 3, dstChip := fld (leAt b 2 3) 0 20
              srcChip := fld (leAt b 5 3) 0 20, dstEp := leAt b 8 1, ch := leAt b 9 1, srcEp := leAt b 10 1, valid := leAt b 11 1
              n := leAt b 12 4, chunk := fld (leAt b 16 2) 0 9, lseq := leAt b 18 2, tseq := leAt b 20 4, tag := leAt b 24 8
              payload := if t = 0 then slice b 32 512 else if t = 5 then slice b 32 64 else []
              digest := if t = 0 then slice b 544 32 else [] }

/-- Whether packets of a kind and class bear link sequence numbers (R342). -/
def numbered (p : Packet) : Bool := (p.kind == 0 && !p.blot) || (decide (3 ≤ p.kind) && decide (p.kind ≤ 7))

/-- A slot-ready or bind notice, which never fails (R342). -/
def isNotice (p : Packet) : Bool := p.kind == 3 || p.kind == 7

/-- The port that a die's route table gives for a chip (R340). -/
def State.routeOf (s : State) (d chip : Nat) : Option Nat := (s.die d).routes.entry? chip

/-- LINKDEAD: no route, or its port is dead (R362). -/
def State.routeTrap (s : State) (d chip : Nat) : Option Trap :=
  match s.routeOf d chip with
  | none => some (trapOf 0x31 1)
  | some p => if (s.port p).dead then some (trapOf 0x31 0) else none

/-- Packets leave at cycle `now` while the window of 64 has room (R342). -/
def PortSt.fill (now : Nat) : Nat → PortSt → PortSt
  | 0, x => x
  | f + 1, x =>
    if 64 ≤ x.unacked.length then x
    else match x.queued with
      | [] => x
      | o :: os =>
        let o := { o with p := { o.p with lseq := x.nextSeq }, sentAt := now }
        PortSt.fill now f { x with queued := os, unacked := x.unacked ++ [o], wire := x.wire ++ [o.p]
                                   nextSeq := (x.nextSeq + 1) % 2 ^ 16 }

/-- Whether a refusal waits for the window of a port (R342). -/
def PortSt.refusing (x : PortSt) : Bool := x.queued.any fun o => o.p.kind == 6

/-- Packets leave while the window has room; acknowledgements follow the refusals that they must not overtake (R342, R391). -/
def PortSt.pump (now : Nat) (x : PortSt) : PortSt :=
  let x := PortSt.fill now x.queued.length x
  if x.refusing then x else { x with wire := x.wire ++ x.acks, acks := [] }

/-- The cycle of the die that owns a port (R342). -/
def State.portNow (s : State) (port : Nat) : Nat := (s.die (port / 5)).cycle

/-- A context's dead-link count rises (R186). -/
def State.deadLink (s : State) (x : Option (Nat × Nat)) : State :=
  match x with
  | some (u, cid) => s.updCid u cid fun c => { c with deadCnt := c.deadCnt + 1 }
  | none => s

/-- A packet fails with its port: its send completes as failed and counts once, its message ends, its add counts (R186, R342,
R362); a refusal is lost. -/
def State.failPkt (s : State) (o : OutPkt) : State :=
  match o.job with
  | some (u, jid) =>
    match s.job? u jid with
    | none => s
    | some j =>
      let s := if j.failed then s else s.deadLink (some (u, j.cid))
      if j.kind = .mbox then s.finishJob u j none 0 0 else s.updJob u jid fun j => { j with failed := true }
  | none => s.deadLink o.cid

/-- A packet given to a port (R342, R354); a dead port fails it. -/
def State.emit (s : State) (port : Nat) (o : OutPkt) : State :=
  if (s.port port).dead then s.failPkt o
  else if numbered o.p then s.updPort port fun x => PortSt.pump (s.portNow port) { x with queued := x.queued ++ [o] }
  else s.updPort port fun x => { x with wire := x.wire ++ [o.p] }

/-- A notice leaves if its route and port allow it, else it waits (R342). -/
def State.notify (s : State) (d : Nat) (p : Packet) : State :=
  match s.routeOf d p.dstChip with
  | some q => if (s.port q).dead || !(s.die d).waiting.isEmpty && (s.die d).waiting.any (fun w => w.dstChip == p.dstChip) then
      s.updDie d fun x => { x with waiting := x.waiting ++ [p] }
    else s.emit q { p := p, die := d }
  | none => s.updDie d fun x => { x with waiting := x.waiting ++ [p] }

/-- The waiting notices of a die, in order: each leaves or goes on waiting (R342). -/
def State.flushWaiting (s : State) (d : Nat) : State :=
  let ws := (s.die d).waiting
  ws.foldl (fun s p => s.notify d p) (s.updDie d fun x => { x with waiting := [] })

/-- A port is declared dead: its exact packets fail, its notices wait to be sent again (R342). -/
def State.portDead (s : State) (port : Nat) : State :=
  let x := s.port port
  let out := x.unacked ++ x.queued
  let s := s.updPort port fun x => { x with dead := true, training := false, unacked := [], queued := [], acks := [] }
  let s := (out.filter fun o => !isNotice o.p).foldl (fun s o => s.failPkt o) s
  let ns := out.filter fun o => isNotice o.p
  [0, 1, 2, 3].foldl (fun s d => s.updDie d fun x => { x with waiting := (ns.filter fun o => o.die == d).map (·.p) ++ x.waiting }) s

/-- The sender goes back to a packet and resends from it, and what it resends has left anew; after 32 rounds without an acknowledgement the port is dead (R342). -/
def State.goBack (s : State) (port lseq now : Nat) : State :=
  let x := s.port port
  if x.rounds = 32 then s.portDead port
  else s.updPort port fun x =>
    let again := x.unacked.dropWhile fun o => o.p.lseq != lseq
    { x with rounds := x.rounds + 1, waitFrom := now
             unacked := (x.unacked.takeWhile fun o => o.p.lseq != lseq) ++ again.map fun o => { o with sentAt := now }
             wire := x.wire ++ again.map (·.p) }

/-- Whether LSEQ `a` is at or before `b` (R342). -/
def seqLe (a b : Nat) : Bool := decide ((b + 2 ^ 16 - a) % 2 ^ 16 < 2 ^ 15)

/-- What an acknowledgement of a packet tells: a message or an add that it covers was accepted (R391). -/
def State.ackPkt (s : State) (o : OutPkt) : State :=
  match o.job with
  | some (u, jid) =>
    match s.job? u jid with
    | some j => if j.kind = .mbox then s.finishJob u j none 0 0 else s
    | none => s
  | none => s

/-- SERIF_ACK: packets up to the one named are delivered (R342). -/
def execSerifAck (port lseq : Nat) (s : State) : Host.Outcome State Fault Refusal :=
  let x := s.port port
  if x.dead || !(x.unacked.any fun o => o.p.lseq == lseq) then .next s
  else
    let done := x.unacked.filter fun o => seqLe o.p.lseq lseq
    let s := s.updPort port fun x => PortSt.pump (s.portNow port)
      { x with rounds := 0, unacked := x.unacked.filter fun o => !seqLe o.p.lseq lseq }
    .next (done.foldl (fun s o => s.ackPkt o) s)

/-- SERIF_NACK: the sender goes back to the packet named (R342). -/
def execSerifNack (port lseq : Nat) (s : State) : Host.Outcome State Fault Refusal :=
  let x := s.port port
  if x.dead || !(x.unacked.any fun o => o.p.lseq == lseq) then .next s
  else .next (s.goBack port lseq (max x.waitFrom (s.portNow port)))

/-- RETRANSMIT_TIMEOUT: the oldest unacknowledged packet has waited 8,192 cycles of the sending die since it last left (R342). -/
def execRetransmitTimeout (port now : Nat) (s : State) : Host.Outcome State Fault Refusal :=
  let x := s.port port
  match x.unacked with
  | o :: _ =>
    let now := max now (s.portNow port)
    if x.dead || decide (now < o.sentAt + 8192) then .next s else .next (s.goBack port o.p.lseq now)
  | [] => .next s

/-- LOSS_OF_SIGNAL_CHANGES: the count toward a dead port starts, or starts again at 0 (R342). -/
def execLossOfSignalChanges (port : Nat) (on : Bool) (now : Nat) (s : State) : Host.Outcome State Fault Refusal :=
  .next (s.updPort port fun x => { x with los := if on then (match x.los with
                                                  | some t => some t
                                                  | none => some now) else none })

/-- LOSS_OF_SIGNAL_DEAD: the signal has been lost for 2^20 consecutive cycles of the die that owns the port (R342). -/
def execLossOfSignalDead (port now : Nat) (s : State) : Host.Outcome State Fault Refusal :=
  match (s.port port).los with
  | some t => if (s.port port).dead || decide (now < t + 2 ^ 20) then .next s else .next (s.portDead port)
  | none => .next s

/-- LINK_TRAINING_COMPLETE: a retrained port is live, and waiting notices leave (R342, R407). Its sequence numbers start again
(log 22). -/
def execLinkTrainingComplete (port : Nat) (s : State) : Host.Outcome State Fault Refusal :=
  if !(s.port port).training then .next s
  else
    let s := s.updPort port fun x =>
      { x with dead := false, training := false, nextSeq := 0, expSeq := 0, nackSent := false, rounds := 0, acks := [], los := none }
    .next ([0, 1, 2, 3].foldl State.flushWaiting s)

/-! ## Received packets -/

/-- An acknowledgement or a negative acknowledgement of the packet with a number (R341, R342). -/
def answer (kind : Nat) (s : State) (p : Packet) (lseq : Nat) : Packet :=
  { kind := kind, blot := false, dstChip := p.srcChip, srcChip := s.chipId, dstEp := p.srcEp, srcEp := p.dstEp, ch := p.ch, lseq := lseq }

/-- An answer leaves by the port the packet arrived on, an acknowledgement behind a refusal that waits for the window (R342, R391). -/
def State.reply (s : State) (port : Nat) (p : Packet) : State :=
  if p.kind = 1 ∧ (s.port port).refusing then s.updPort port fun x => { x with acks := x.acks ++ [p] } else s.emit port { p := p }

/-- Whether a data packet's recomputed chunk digest equals the one carried (R342). -/
def digestOk (p : Packet) : Bool := p.kind != 0 || digestCD p.payload == p.digest

/-- A numbered packet arrives: accepted when it passes its check and is next in sequence, and then acknowledged after what it
does (R342, R391). -/
def State.receive (s : State) (port : Nat) (p : Packet) (act : State → State) : State :=
  let x := s.port port
  if x.dead || p.dstChip != s.chipId then s
  else if !digestOk p then s.reply port (answer 2 s p p.lseq)
  else if p.lseq = x.expSeq then
    let s := act (s.updPort port fun x => { x with expSeq := (x.expSeq + 1) % 2 ^ 16, nackSent := false })
    s.reply port (answer 1 s p p.lseq)
  else if seqLe p.lseq x.expSeq then s.reply port (answer 1 s p p.lseq)
  else if x.nackSent then s
  else (s.updPort port fun x => { x with nackSent := true }).reply port (answer 2 s p x.expSeq)

/-- A refusal of a received packet leaves by its port of arrival, ahead of the acknowledgement; its TAG is zero (R341, R342, R391). -/
def State.refuse (s : State) (port : Nat) (p : Packet) : State :=
  s.emit port { p := { kind := 6, blot := false, dstChip := p.srcChip, srcChip := s.chipId, dstEp := p.srcEp, srcEp := p.dstEp
                       ch := p.ch, n := p.n } }

/-- A refused store counts at the next FENCE of its context (R186). -/
def State.countRefused (s : State) (cid : Option (Nat × Nat)) : State :=
  match cid with
  | some (u, c) => s.updCid u c fun x => { x with refCnt := x.refCnt + 1 }
  | none => s

/-- A store of a context is refused (R134, R186, R391): a message's job ends; a send whose landing the peer refuses has failed, and counts
once. -/
def State.refused (s : State) (job cid : Option (Nat × Nat)) : State :=
  match job.bind fun n => (s.job? n.1 n.2).map fun j => (n.1, j) with
  | some (u, j) =>
    if j.kind = .mbox then (s.countRefused cid).finishJob u j none 0 0
    else if j.failed then s
    else (s.countRefused cid).updJob u j.jid fun j => { j with failed := true }
  | none => s.countRefused cid

/-- The first packet of a list that a refusal answers, taken as resolved: data, an add or a message of its endpoints, channel and number. The
packets of a send still await their acknowledgement (R354). -/
def markRefused (p : Packet) : List OutPkt → List OutPkt × Option OutPkt
  | [] => ([], none)
  | o :: os =>
    if (o.p.kind = 0 ∨ o.p.kind = 4 ∨ o.p.kind = 5) ∧ o.cid.isSome ∧ o.p.ch = p.ch ∧ o.p.n = p.n ∧ o.p.srcEp = p.dstEp ∧
        o.p.dstEp = p.srcEp then
      ({ o with job := if o.p.kind = 0 then o.job else none, cid := none } :: os, some o)
    else
      let r := markRefused p os
      (o :: r.1, r.2)

/-- REFUSAL (R186, R391). -/
def execRefusal (port : Nat) (p : Packet) (s : State) : Host.Outcome State Fault Refusal :=
  if p.kind ≠ 6 then .next s
  else .next (s.receive port p fun s =>
    let r := markRefused p (s.port port).unacked
    match r.2 with
    | some o => (s.updPort port fun x => { x with unacked := r.1 }).refused o.job o.cid
    | none => s)

end Sys2Proof.Machine
end

