-- ==== Sys2Proof/Machine/Channel.lean ====
section
/-!
DEFINITION. The channel class: sends, counters, priming, landings with their deadlines and inline reduce, notices, and the return
of a slot's storage (18_channel_class.md R343-R362; 06 R161).
-/
namespace Sys2Proof.Machine

/-! ## Checks -/

/-- CHANNEL reasons 0 and 3 (R347). -/
def State.chanTrap (s : State) (ch : Nat) : Option Trap :=
  match s.chanEnd? s.curU s.cur ch with
  | none => some (trapOf 0x1D 0)
  | some e => if e.mismatch then some (trapOf 0x1D 3) else none

/-- LINKDEAD for the peer chip of a channel (R362). -/
def State.peerTrap (s : State) (ch : Nat) : Option Trap :=
  (s.chanEnd? s.curU s.cur ch).bind fun e => s.routeTrap s.cur.die e.peerChip

/-- FMT, rows and columns of the tile a handle names; those of its channel for an arrival that has not begun (R271). -/
def State.shapeOf (s : State) (u : Nat) (c : Ctx) (h : Nat) : Option (Nat × Nat × Nat) :=
  match s.handle u c h with
  | .ok t => let x := s.slot t
             some (x.fmt, x.rows + 1, x.cols + 1)
  | .pending t => (s.slot t).chan.bind fun k => (s.end? u k.2.1).map fun e => (e.fmt, e.rows, e.cols)
  | .bad _ => none

/-- CHANNEL reason 1: the tile does not suit the channel (R347). -/
def State.fitTrap (s : State) (u : Nat) (c : Ctx) (ch h : Nat) : Option Trap :=
  match s.chanEnd? u c ch, s.shapeOf u c h with
  | some e, some x => if x = (e.fmt, e.rows, e.cols) then none else some (trapOf 0x1D 1)
  | _, _ => none

/-- The checks of a tile to be sent: its handle, its channel, its chunks (R354). -/
def State.sentTrap (s : State) (u : Nat) (c : Ctx) (ch h : Nat) : Option Trap :=
  firstTrap [s.handleTrap u c h, s.fitTrap u c ch h, s.readTrap u c h (s.allChunks u c h)]

/-- CHANNEL reason 2: the operation does not suit the channel's reduce (R347). -/
def State.reduceTrap (s : State) (ch : Nat) (putr : Bool) : Option Trap :=
  (s.chanEnd? s.curU s.cur ch).bind fun e => if (e.red != 0) == putr then none else some (trapOf 0x1D 2)

/-- Whether no remote slot is allowed for the next arrival (R348, R354). -/
def State.remoteFull (s : State) (ch : Nat) : Bool :=
  match s.chanEnd? s.curU s.cur ch with
  | some e => !isBefore e.issued e.ready
  | none => false

/-! ## Sends -/

/-- The unfired SENDTs of a unit (R356). -/
def State.sendtQueue (s : State) (u : Nat) : List Job :=
  (s.unit u).jobs.filter fun j => j.kind == JobKind.send && j.phase == 0 && match j.instr with
    | .sendt .. => true
    | _ => false

/-- A send takes its leaf index and its arrival number and enters the link engine (R354, R370): handle `h`, mark `c`. A SENDT, which is
not `early`, reads no tile before it fires (R356). -/
def State.issueSend (s : State) (i : Instr) (ch h c sem b m : Nat) (early : Bool) : State :=
  match s.chanEnd? s.curU s.cur ch with
  | none => s
  | some e =>
    let src := if early then s.tile? s.curU s.cur h else none
    let (s, lf) := s.takeLeaf i
    let j := { s.newJob .send i sem with
               ch := ch, arr := e.issued, src := src, a := h, b := b, c := m, closed := c == 1, leaf := some lf
               bank := (s.routeOf s.cur.die e.peerChip).getD 0 }
    (s.updEnd s.curU ch fun e => { e with issued := (e.issued + 1) % 2 ^ 32 }).issueJob j

/-- SEND, SENDT and PUTR (R354): `early` when the tile is checked and consumed at issue, `b` the threshold or the tag, `m` the
counter. -/
def sendSem (i : Instr) (q ch hs c e : Nat) (putr early : Bool) (b : State → Nat) (m : Nat) : SlotSem :=
  { i := i, q := q, port := if early then 1 else 0, adds := fun _ => [(e, 1)]
    obs := fun s => let h := s.cur.rh hs
                    if early then s.obsRead s.curU s.cur h (s.allChunks s.curU s.cur h) else []
    check := fun s => firstTrap [s.chanTrap ch, s.peerTrap ch,
      if early then s.sentTrap s.curU s.cur ch (s.cur.rh hs) else none, s.reduceTrap ch putr]
    stuck := fun s => s.peerTrap ch
    hold := fun s => s.remoteFull ch || (!early && decide (64 ≤ (s.sendtQueue s.curU).length))
    sees := fun s => s.seesTile s.curU s.cur (s.cur.rh hs)
    takes := fun s => if early then marked c (s.cur.rh hs) else []
    eff := fun s =>
      let h := s.cur.rh hs
      let v := b s
      let t := s.tile? s.curU s.cur h
      let s := s.issueSend i ch h c e v m early
      match t with
      | some t => if early then s.readTile s.curU s.cur.cid t h c else s
      | none => s }

/-- The slot of SEND (R355). -/
def semSend (qp ch hs c e : Nat) : SlotSem := sendSem (.send qp ch hs c e) qp ch hs c e false true (fun _ => 0) 0
/-- SEND (R355). -/
def execSend (qp ch hs c e : Nat) (s : State) : Host.Outcome State Fault Refusal := s.issue1 (semSend qp ch hs c e)

/-- The slot of SENDT (R356). -/
def semSendt (qp ch hs c e thr ctr : Nat) : SlotSem :=
  sendSem (.sendt qp ch hs c e thr ctr) qp ch hs c e false false (fun _ => thr) ctr
/-- SENDT (R356). -/
def execSendt (qp ch hs c e thr ctr : Nat) (s : State) : Host.Outcome State Fault Refusal :=
  s.issue1 (semSendt qp ch hs c e thr ctr)

/-- The contribution tag of a PUTR (R357). -/
def State.putTag (s : State) (sa : Nat) : Nat :=
  (((s.graphOf s.cur).map (·.seq)).getD 0) % 2 ^ 16 + s.cur.nodeIdx % 2 ^ 16 * 2 ^ 16 + (s.cur.rs sa).toNat % 2 ^ 32 * 2 ^ 32

/-- The slot of PUTR (R357). -/
def semPutr (qp ch hs c sa : Nat) : SlotSem := sendSem (.putr qp ch hs c sa) qp ch hs c 0 true true (fun s => s.putTag sa) 0
/-- PUTR (R357). -/
def execPutr (qp ch hs c sa : Nat) (s : State) : Host.Outcome State Fault Refusal := s.issue1 (semPutr qp ch hs c sa)

/-- Whether a job is a PUTR. -/
def Job.putr (j : Job) : Bool := match j.instr with
  | .putr .. => true
  | _ => false

/-- The link engine reads chunk `k` of a firing send into a packet (R341, R354); FIRED counts the send with the first (R343). -/
def State.sendChunk (s : State) (u : Nat) (j : Job) (k : Nat) : State :=
  match j.src, s.end? u j.ch with
  | some t, some e =>
    let x := s.slot t
    let bs := chunkBytes (s.tileBytes t) k
    let p : Packet :=
      { kind := 0, blot := e.blot, red := e.red, sealed := x.sealed, dstChip := e.peerChip, srcChip := s.chipId, dstEp := e.peerEp
        ch := j.ch, srcEp := ((s.unit u).endpoint.map (·.ep)).getD 0, valid := j.stored.look k 0, n := j.arr, chunk := k
        tseq := x.seq, tag := if j.putr then j.b else 0, payload := padTo 512 bs, digest := x.cds.look k (zeros 32) }
    let s := s.updEnd u j.ch fun e => { e with fired := if k = 0 then (e.fired + 1) % 2 ^ 32 else e.fired }
    (s.emit j.bank { p := p, die := j.die, job := some (u, j.jid), cid := some (u, j.cid) }).updJob u j.jid
      fun j => { j with done := k + 1 }
  | _, _ => s

/-- Once every chunk has been read the tile returns to its task, unless it was released or another send still reads it (R354). -/
def State.handBack (s : State) (u : Nat) (j : Job) : State :=
  match j.src with
  | none => s
  | some t =>
    let x := s.slot t
    let more := (s.unit u).jobs.any fun i =>
      i.jid != j.jid && i.kind == JobKind.send && i.src == some t && i.phase == 1 && decide (i.done < i.stored.length)
    if x.okind = 3 ∧ x.chan.isNone ∧ !more then s.updSlot t fun x => { x with okind := 1, oid := (s.jobCtx u j).taskId } else s

/-- A send fires: its tile is held by the channel and its chunks are read into packets; those of a sealed tile wait for their
meters one by one, and a later send of the end waits for the first of them (R343, R354, R414, R415). -/
def State.fireTile (s : State) (u : Nat) (j : Job) (t : TileRef) : Option State :=
  let x := s.slot t
  match (List.range x.chunks).find? fun k => bit x.poison k with
  | some k => some (s.stopJob u j { cause := 0x30, row := k })
  | none =>
    if x.sealed && s.crossRefused 512 then some (s.stopJob u j (trapOf 0x10 1))
    else
      let s := if x.okind = 1 then s.updSlot t fun x => { x with okind := 3, oid := u * 256 + j.ch } else s
      let j := { j with phase := 1, src := some t, digA := x.td, digX := x.vd, stored := (List.range x.chunks).zip x.valids }
      let s := s.putJob u j
      if x.sealed then some s
      else some (((List.range x.chunks).foldl (fun s k => s.sendChunk u j k) s).handBack u j)

/-- Whether a send may fire: every earlier send of its end has fired, the peer has a slot for it, and no earlier acquire has yet to read
(R183, R354). -/
def State.mayFire (s : State) (u : Nat) (j : Job) : Bool :=
  match s.end? u j.ch with
  | some e => j.kind == JobKind.send && j.phase == 0 && e.fired == j.arr && isBefore j.arr e.ready && !s.acquiring u j
  | none => false

/-- SEND_FIRE (R354, R355, R361). -/
def execSendFire (u j : Nat) (s : State) : Host.Outcome State Fault Refusal :=
  s.onJob u j fun j => match s.mayFire u j, j.instr, j.src with
    | true, .sendt .., _ => none
    | true, _, some t => s.fireTile u j t
    | _, _, _ => none

/-- SENDT_FIRE (R356): the counter meets the threshold; the tile is checked and consumed now. -/
def execSendtFire (u j : Nat) (s : State) : Host.Outcome State Fault Refusal :=
  s.onJob u j fun j => match s.mayFire u j, j.instr with
    | true, .sendt .. =>
      let c := s.jobCtx u j
      let v := ((s.unit u).endpoint.map fun e => e.ctrs.look j.c 0).getD 0
      if v < j.b then none
      else match s.sentTrap u c j.ch j.a, s.tile? u c j.a with
        | some t, _ => some (s.stopJob u j t)
        | none, some t =>
          match s.fireTile u j t with
          | some s' => if (s'.job? u j.jid).any fun j => j.fault.isSome then some s'
            else some (s'.readTile u j.cid t j.a (if j.closed then 1 else 0))
          | none => none
        | none, none => none
    | _, _ => none

/-- Whether a packet of a job is still on its way. -/
def State.packetsOf (s : State) (u jid : Nat) : Bool :=
  s.ports.any fun p => (p.2.unacked ++ p.2.queued).any fun o => o.job == some (u, jid)

/-- The leaf of a send (R368, R369). -/
def sendLeaf (e : ChanEnd) (j : Job) : LeafRec :=
  let l : LeafRec := { j.leafRec (if j.putr then 0xB else 0xA) with
    sflags := if j.closed then 2 else 0, peer := e.peerChip + j.ch * 2 ^ 20, arr := j.arr, a := j.digA
    c := if j.putr then leBytes 8 j.b else [], aux := j.digX, res := j.digA }
  l.withValid (j.stored.map (·.2))

/-- SEND_COMPLETE (R354, R362): every packet is acknowledged, has left, or has failed. -/
def execSendComplete (u j : Nat) (s : State) : Host.Outcome State Fault Refusal :=
  s.onJob u j fun j => match s.end? u j.ch with
    | some e =>
      if j.kind == JobKind.send && j.phase == 1 && decide (j.stored.length ≤ j.done) && !s.packetsOf u j.jid then
        (s.logEgress u j).map fun s => s.finishJob u j (some (sendLeaf e j)) 0 0
      else none
    | none => none

/-! ## Counters and messages -/

/-- A counter of a unit's endpoint rises (R343). -/
def State.ctrAdd (s : State) (u c n : Nat) : State :=
  s.updUnit u fun x => { x with endpoint := x.endpoint.map fun e => { e with ctrs := e.ctrs.adj c 0 fun v => (v + n) % 2 ^ 32 } }

/-- The add of a CTRADD on a channel leaves (R341, R359). -/
def State.sendAdd (s : State) (u : Nat) (j : Job) : State :=
  match s.end? u j.ch with
  | some e =>
    let p : Packet :=
      { kind := 4, blot := false, dstChip := e.peerChip, srcChip := s.chipId, dstEp := e.peerEp, ch := j.ch
        srcEp := ((s.unit u).endpoint.map (·.ep)).getD 0, n := j.a, tag := j.b }
    s.emit j.bank { p := p, die := j.die, cid := some (u, j.cid) }
  | none => s

/-- The message of an MBOX leaves, to a mailbox of this module or to another chip (R360). -/
def State.sendMessage (s : State) (u : Nat) (j : Job) : State :=
  let s := s.putJob u { j with phase := 1 }
  let chip := fld j.a 0 20
  let id := some (u, j.jid)
  let who := some (u, j.cid)
  if chip = s.chipId then
    s.post { die := fld j.a 30 2, mb := fld j.a 20 10, bytes := j.image, sup := (s.queue j.die j.queue).sup, cid := who, job := id
             sealed := j.closed }
  else s.emit j.bank
    { p := { kind := 5, blot := false, dstChip := chip, srcChip := s.chipId, n := fld j.a 20 10 + fld j.a 30 2 * 2 ^ 10, payload := j.image }
      die := j.die, job := id, cid := who }

/-- The adds and messages that an acquire has kept back leave once it has read (R183). -/
def State.leaveWaiting (s : State) (u : Nat) : State :=
  (s.unit u).jobs.foldl (fun s j =>
    if s.acquiring u j then s
    else if j.kind = .ctradd then (s.dropJob u j.jid).sendAdd u j
    else if j.kind = .mbox ∧ j.phase = 0 then s.sendMessage u j
    else s) s

/-- The slot of CTRADD on a channel (R359): the add leaves at once, unless an earlier acquire has yet to read (R183), and is held where
it lands. -/
def semCtraddRemote (qp ch sa : Nat) : SlotSem :=
  { i := .ctraddRemote qp ch sa, q := qp
    check := fun s => firstTrap [s.chanTrap ch, s.peerTrap ch]
    eff := fun s => match s.chanEnd? s.curU s.cur ch with
      | none => s
      | some e =>
        let j := { s.newJob .ctradd (.ctraddRemote qp ch sa) 0 with
                   ch := ch, a := (s.cur.rs sa).toNat % 2 ^ 32, b := e.issued, bank := (s.routeOf s.cur.die e.peerChip).getD 0 }
        if s.acquiring s.curU j then s.issueJob j else s.sendAdd s.curU j }
/-- CTRADD on a channel (R359). -/
def execCtraddRemote (qp ch sa : Nat) (s : State) : Host.Outcome State Fault Refusal := s.issue1 (semCtraddRemote qp ch sa)

/-- The slot of CTRADD on a counter of the endpoint (R359). -/
def semCtraddLocal (qp c sa : Nat) : SlotSem :=
  { i := .ctraddLocal qp c sa, q := qp
    check := fun s => if (s.endpointOf s.curU s.cur).isNone then some (trapOf 3 4) else none
    eff := fun s => s.ctrAdd s.curU c ((s.cur.rs sa).toNat % 2 ^ 32) }
/-- CTRADD on a counter of the endpoint (R359). -/
def execCtraddLocal (qp c sa : Nat) (s : State) : Host.Outcome State Fault Refusal := s.issue1 (semCtraddLocal qp c sa)

/-- The slot of MBOX (R360): the message leaves with the bytes its tile holds at issue. No path but a crossing carries the bytes of a sealed
tile off the module (R414): MBOX of one to another chip raises IOPND with reason 4. DESIGN CHOICE (log 50). -/
def semMbox (qp hs c sa e : Nat) : SlotSem :=
  { i := .mbox qp hs c sa e, q := qp, port := 1, adds := fun _ => [(e, 1)]
    obs := fun s => s.obsRead s.curU s.cur (s.cur.rh hs) [0]
    check := fun s =>
      let h := s.cur.rh hs
      let v := (s.cur.rs sa).toNat
      firstTrap [s.handleTrap s.curU s.cur h, if s.operandLen s.curU s.cur h < 64 then some (trapOf 0x15 0) else none,
        s.readTrap s.curU s.cur h [0], if v / 2 ^ 32 ≠ 0 then some (trapOf 3 4) else none,
        if fld v 0 20 = s.chipId then none else s.routeTrap s.cur.die (fld v 0 20),
        if fld v 0 20 ≠ s.chipId ∧ (s.slot (s.dst hs)).sealed then some (trapOf 3 4) else none]
    sees := fun s => s.seesTile s.curU s.cur (s.cur.rh hs)
    takes := fun s => marked c (s.cur.rh hs)
    eff := fun s =>
      let h := s.cur.rh hs
      let t := s.dst hs
      let v := (s.cur.rs sa).toNat
      let u := s.curU
      let j := { s.newJob .mbox (.mbox qp hs c sa e) e with
                 a := v, image := s.mem.readN (s.slotKey t) 64, closed := (s.slot t).sealed, bank := (s.routeOf s.cur.die (fld v 0 20)).getD 0 }
      let s := (s.issueJob j).readTile u s.cur.cid t h c
      if s.acquiring u j then s else s.sendMessage u j }
/-- MBOX (R360). -/
def execMbox (qp hs c sa e : Nat) (s : State) : Host.Outcome State Fault Refusal := s.issue1 (semMbox qp hs c sa e)

/-! ## Landing slots -/

/-- The landing slot of arrival `n`. -/
def ChanEnd.slotOf (e : ChanEnd) (n : Nat) : TileRef := e.slots.getD (n % e.depth) ⟨0, 0⟩

/-- Whether the slot of arrival `n` awaits it: the arrival before it in that slot, if there was one, has landed and its storage has
returned (R348, R271). Numbers before 0 count as landed, also where they wrap (R343). -/
def State.slotFree (s : State) (e : ChanEnd) (n : Nat) : Bool :=
  let x := s.slot (e.slotOf n)
  let prev := (n + 2 ^ 32 - e.depth) % 2 ^ 32
  x.okind == 0 && !x.busy && (isBefore prev e.nextIn || ((e.landings.entry? prev).map (·.done)).getD false)

/-- Slots that are ready for their arrivals, in arrival order, send their notices (R348). -/
def State.grant (s : State) (u ch : Nat) : Nat → State
  | 0 => s
  | f + 1 =>
    match (s.unit u).endpoint, s.end? u ch with
    | some ep, some e =>
      let n := e.readySent
      let primed := ((e.landings.entry? n).map (·.reads.isSome)).getD false
      if s.slotFree e n && (e.red == 0 || primed) then
        let s := s.updEnd u ch fun e => { e with readySent := (n + 1) % 2 ^ 32 }
        let p : Packet := { kind := 3, blot := false, dstChip := e.peerChip, srcChip := s.chipId, dstEp := e.peerEp, ch := ch, srcEp := ep.ep }
        (s.notify (u / 128) p).grant u ch f
      else s
    | _, _ => s

/-- The slot of PRIME (R358). -/
def semPrime (qp ch hs c reads : Nat) : SlotSem :=
  { i := .prime qp ch hs c reads, q := qp, port := if hs = 0 then 0 else 1
    obs := fun s => if hs = 0 then [] else let h := s.cur.rh hs
                                           s.obsRead s.curU s.cur h (s.allChunks s.curU s.cur h)
    check := fun s => firstTrap [s.chanTrap ch, match s.chanEnd? s.curU s.cur ch with
      | some e => if (e.red == 0) != (hs == 0) then some (trapOf 3 4)
        else if hs = 0 then none else s.sentTrap s.curU s.cur ch (s.cur.rh hs)
      | none => none]
    hold := fun s => match s.chanEnd? s.curU s.cur ch with
      | some e => hs != 0 && !s.slotFree e e.primed
      | none => false
    sees := fun s => if hs = 0 then [] else s.seesTile s.curU s.cur (s.cur.rh hs)
    takes := fun s => if hs = 0 then [] else marked c (s.cur.rh hs)
    eff := fun s => match s.chanEnd? s.curU s.cur ch with
      | none => s
      | some e =>
        if hs = 0 then s.updEnd s.curU ch fun e => { e with lreads := reads }
        else
          let t := s.dst hs
          let h := s.cur.rh hs
          let j := { s.newJob .prime (.prime qp ch hs c reads) 0 with ch := ch, arr := e.primed, src := some t, b := reads }
          let s := s.updEnd s.curU ch fun e => { e with primed := (e.primed + 1) % 2 ^ 32 }
          (s.issueJob j).readTile s.curU s.cur.cid t h c }
/-- PRIME (R358). -/
def execPrime (qp ch hs c reads : Nat) (s : State) : Host.Outcome State Fault Refusal := s.issue1 (semPrime qp ch hs c reads)

/-- The first poisoned chunk of a prime's source (R171). -/
def State.primeBad (s : State) (j : Job) : Option Trap :=
  j.src.bind fun t => ((List.range (s.slot t).chunks).find? fun k => bit (s.slot t).poison k).map fun k => { cause := 0x30, row := k }

/-- PRIME_COMPLETE (R358): bytes, digests and counts enter the slot with ARRIVAL clear, and the slot is ready. -/
def execPrimeComplete (u j : Nat) (s : State) : Host.Outcome State Fault Refusal :=
  s.onJob u j fun j => match j.kind, j.src, s.end? u j.ch with
    | .prime, some t, some e =>
      if (s.primeBad j).isSome || s.acquiring u j then none
      else
        let x := s.slot t
        let d := e.slotOf j.arr
        let s := { s with mem := s.mem.writeN (s.slotKey d) (s.tileBytes t) }
        let s := s.updSlot d fun y => { y with valid := x.valid, cds := x.cds, arrival := 0, poison := 0 }
        let s := s.updEnd u j.ch fun e =>
          { e with landings := e.landings.adj j.arr { n := j.arr } fun l => { l with reads := some j.b, primedTD := x.td } }
        some ((s.grant u j.ch 16).finishJob u j none 0 0)
    | _, _, _ => none

/-! ## Landings -/

/-- The first packet of an arrival, or its deadline, sets the slot's metadata (R349, R350). -/
def State.landBegin (s : State) (u ch n seq : Nat) (sl : Bool) : State :=
  match s.end? u ch with
  | none => s
  | some e =>
    let l := (e.landings.entry? n).getD { n := n }
    let now := (s.unit u).cycle
    let s := s.updSlot (e.slotOf n) fun x =>
      { x with fmt := e.fmt, rows := e.rows - 1, cols := e.cols - 1, seq := seq, sealed := sl, okind := 3, oid := u * 256 + ch
               reads := if e.red = 0 then e.lreads else l.reads.getD e.lreads, arrival := 0
               valid := if e.red = 0 then [] else x.valid, cds := if e.red = 0 then [] else x.cds
               poison := if e.red = 0 then 0 else x.poison, td := [], produced := true, aUnit := u, allocAddr := 0, stamps := false
               tAlloc := now, tFirst := 0, tLast := 0, tRead := none }
    s.updEnd u ch fun e =>
      { e with landings := e.landings.put n { l with begun := true, dl := if e.blot then some (l.dl.getD e.deadline) else none } }

/-- Flags of landings enter the endpoint's EFLAGS (R351). -/
def State.orEndpoint (s : State) (u f : Nat) : State :=
  s.updUnit u fun x => { x with endpoint := x.endpoint.map fun e => { e with eflags := e.eflags ||| f } }

/-- The inline reduce of one chunk: the bytes and flags of each primed element reduced with the arriving one (R357, R277). -/
def reduceChunk (fmt red : Nat) (p a : Bytes) : Bytes × Nat :=
  let w := widthOf fmt
  let n := p.length * 8 / w
  let r := ((elems w n p).zip (elems w n a)).map fun x => reduceVal fmt red x.1 x.2
  (pack w (r.map (·.1)), r.foldl (fun f x => f ||| x.2) 0)

/-- A chunk of a landing: the payload and its count, or none for a chunk lost, failed or past the deadline (R349, R350, R357). -/
def State.landChunk (s : State) (u ch n k : Nat) (pay : Option (Bytes × Nat)) : State :=
  match s.end? u ch with
  | none => s
  | some e =>
    let t := e.slotOf n
    let x := s.slot t
    let l := (e.landings.entry? n).getD { n := n }
    if l.done || x.arrived k then s
    else
      let old := chunkBytes (s.tileBytes t) k
      let have' := x.valid.look k 0
      let note (s : State) (d : Bytes) (lost : Nat) : State := s.updEnd u ch fun e =>
        { e with landings := e.landings.put n { l with cds := l.cds.put k (digestCD d), filled := l.filled + lost } }
      match pay with
      | some (bs, v) =>
        if e.red = 0 then note (s.writeChunk t k (bs.take old.length) v) bs 0
        else
          let r := reduceChunk e.fmt e.red old (bs.take old.length)
          note ((s.writeChunk t k r.1 (min 255 (have' + v))).orEndpoint u r.2) bs 0
      | none =>
        let lost := if l.dup then 0 else 1
        if e.red = 0 then note (s.writeChunk t k (zeros old.length) 0) [] lost else note (s.writeChunk t k old have') [] lost

/-- A data packet of a channel end (R349, R350, R357); `bad` for a blot packet that failed its checks. -/
def State.landData (s : State) (u ch : Nat) (p : Packet) (bad : Bool) : State :=
  match s.end? u ch with
  | none => s
  | some e =>
    let l := (e.landings.entry? p.n).getD { n := p.n }
    if l.done || !isBefore p.n e.readySent || !aheadOf p.n e.nextIn then s
    else
      let s :=
        if l.begun then s
        else
          let s := s.landBegin u ch p.n p.tseq p.sealed
          if e.red = 0 then s
          else
            let dup := e.tags.contains p.tag
            let s := s.updEnd u ch fun e =>
              let e := { e with landings := e.landings.adj p.n { n := p.n } fun l => { l with tag := p.tag, dup := dup } }
              if dup then e else { e with tags := (e.tags ++ [p.tag]).drop (e.tags.length - 15) }
            if dup then
              (List.range (chunksOf e.len)).foldl (fun s k => s.landChunk u ch p.n k none) (s.orEndpoint u fDUPDROP)
            else s
      if ((s.end? u ch).bind fun e => e.landings.entry? p.n).any fun l => l.dup then s
      else if chunksOf e.len ≤ p.chunk then s
      else s.landChunk u ch p.n p.chunk (if bad then none else some (p.payload, p.valid))

/-- The unit whose endpoint has a number, among those that hold a channel when one is named (R341). -/
def State.unitOfEp (s : State) (ep ch : Nat) : Option Nat :=
  (s.units.find? fun x => x.2.endpoint.any fun e => e.ep == ep && (e.ends.entry? ch).isSome).map (·.1)

/-- A data packet reaches the unit of its end: in a freeze it waits, as every engine and digest lane of the unit does (R170). -/
def State.landAt (s : State) (p : Packet) (bad : Bool) : State :=
  match s.unitOfEp p.dstEp p.ch with
  | none => s
  | some u =>
    if (s.unit u).freeze ≠ 0 ∨ (s.unit u).landQ ≠ [] then s.updUnit u fun x => { x with landQ := x.landQ ++ [(p, bad)] }
    else s.landData u p.ch p bad

/-- The packets that waited for the end of a freeze land (R170). -/
def State.landHeld (s : State) (u : Nat) : State :=
  let q := (s.unit u).landQ
  if q = [] then s
  else q.foldl (fun s x => s.landData u x.1.ch x.1 x.2) (s.updUnit u fun x => { x with landQ := [] })

/-- SERIF_DATA (R342, R349, R350). An exact packet for an end that is not bound is refused. DEDUCED (log 95). -/
def execSerifData (port : Nat) (p : Packet) (s : State) : Host.Outcome State Fault Refusal :=
  let land (bad : Bool) (s : State) : State := s.landAt p bad
  if p.kind ≠ 0 then .next s
  else if p.blot then
    if (s.port port).dead || p.dstChip != s.chipId then .next s else .next (land (!digestOk p) s)
  else .next (s.receive port p fun s => if (s.unitOfEp p.dstEp p.ch).isNone then s.refuse port p else land false s)

/-- FEC_FAILURE (R342): an exact packet is answered with a negative acknowledgement; the chunk of a blot packet is lost (R350). -/
def execFecFailure (port : Nat) (p : Packet) (s : State) : Host.Outcome State Fault Refusal :=
  if (s.port port).dead || p.dstChip != s.chipId then .next s
  else if numbered p then .next (s.reply port (answer 2 s p p.lseq))
  else if p.kind = 0 then .next (s.landAt p true)
  else .next s

/-- A landing with its digests is complete: its leaf is placed where it has been observed, with its records (R369, R222). -/
def State.landEnd (s : State) (u ch : Nat) (e : ChanEnd) (l : Landing) : State :=
  let s := s.updEnd u ch fun e => { e with landings := e.landings.put l.n l }
  match l.leaf with
  | none => s
  | some (cid, i) =>
    match s.byCid? u cid with
    | none => s
    | some c =>
      let lf := c.leaves.look i ⟨0, 7, 0, 0, none⟩
      (s.placeLeaf u cid i (landingLeaf e ch l lf.addr lf.slot lf.w lf.ext)).landingStats u c ch l lf.slot lf.addr

/-- A landing whose chunks have all arrived completes: its digests, its leaf and its records (R349, R369, R222). -/
def State.landDone (s : State) (u ch : Nat) (l : Landing) : State :=
  match s.end? u ch with
  | none => s
  | some e =>
    let t := e.slotOf l.n
    let s := s.updSlot t fun x => { x with td := x.tdNow }
    let x := s.slot t
    let got := (List.range x.chunks).map fun k => l.cds.look k (digestCD [])
    s.landEnd u ch e { l with
      done := true, dl := none, vals := validStats x.valids
      parts := [if e.red = 0 then [] else l.primedTD, tdOf x.desc got, if e.red = 0 then [] else leBytes 8 l.tag, x.vd, x.td] }

/-- Completed landings are counted in arrival order (R349). -/
def State.countLandings (s : State) (u ch : Nat) : Nat → State
  | 0 => s
  | f + 1 =>
    match s.end? u ch with
    | none => s
    | some e =>
      if ((e.landings.entry? e.nextIn).map (·.done)).getD false then
        ((s.updEnd u ch fun e => { e with nextIn := (e.nextIn + 1) % 2 ^ 32 }).ctrAdd u e.ctr 1).countLandings u ch f
      else s

/-- Counter adds whose landings have been counted are applied (R359). -/
def State.applyAdds (s : State) (u ch : Nat) : State :=
  match s.end? u ch with
  | none => s
  | some e =>
    let due := e.adds.filter fun a => aheadOf e.nextIn a.1
    due.foldl (fun s a => s.ctrAdd u e.ctr a.2)
      (s.updEnd u ch fun e => { e with adds := e.adds.filter fun a => !aheadOf e.nextIn a.1 })

/-- LANDING_COMPLETE (R349, R359). -/
def execLandingComplete (u ch : Nat) (s : State) : Host.Outcome State Fault Refusal :=
  match s.end? u ch with
  | none => .next s
  | some e =>
    if (s.unit u).freeze ≠ 0 then .next s
    else
    let ls := (e.landings.map (·.2)).filter fun l => l.begun && !l.done && (s.slot (e.slotOf l.n)).whole
    let s := ls.foldl (fun s l => s.landDone u ch l) s
    .next ((s.countLandings u ch (e.landings.length + 1)).applyAdds u ch)

/-- BLOT_DEADLINE (R350): the chunks that have not arrived are written as zeros with count 0. -/
def execBlotDeadline (u ch : Nat) (s : State) : Host.Outcome State Fault Refusal :=
  match s.end? u ch with
  | none => .next s
  | some e =>
    match (e.landings.map (·.2)).find? fun l => l.dl == some 0 && !l.done && (l.begun || (s.slotFree e l.n && isBefore l.n e.readySent)) with
    | none => .next s
    | some l =>
      if (s.unit u).freeze ≠ 0 then .next s
      else
        let s := if l.begun then s else s.landBegin u ch l.n 0 false
        .next ((List.range (chunksOf e.len)).foldl (fun s k => s.landChunk u ch l.n k none) s)

/-! ## Control packets -/

/-- SLOT_READY (R348). For an end not yet bound whose bind notice the link engine holds, it is held behind that notice: DEDUCED
(log 24). -/
def execSlotReady (port : Nat) (p : Packet) (s : State) : Host.Outcome State Fault Refusal :=
  if p.kind ≠ 3 then .next s
  else .next (s.receive port p fun s => match s.unitOfEp p.dstEp p.ch with
    | some u => s.updEnd u p.ch fun e => { e with ready := (e.ready + 1) % 2 ^ 32 }
    | none =>
      if (s.die (port / 5)).held.any fun h => h.dstEp == p.dstEp && h.ch == p.ch then
        s.updDie (port / 5) fun d => { d with held := d.held ++ [p] }
      else s)

/-- COUNTER_ADD (R359, R391). -/
def execCounterAdd (port : Nat) (p : Packet) (s : State) : Host.Outcome State Fault Refusal :=
  if p.kind ≠ 4 then .next s
  else .next (s.receive port p fun s => match s.unitOfEp p.dstEp p.ch with
    | some u => (s.updEnd u p.ch fun e => { e with adds := e.adds ++ [(p.tag % 2 ^ 32, p.n)] }).applyAdds u p.ch
    | none => s.refuse port p)

/-- The declaration of an end in a bind notice, DEPTH apart (R345). -/
def ChanEnd.decl (e : ChanEnd) : Nat :=
  e.fmt + (e.rows - 1) * 2 ^ 5 + (e.cols - 1) * 2 ^ 12 + (if e.blot then 2 ^ 28 else 0) + e.red * 2 ^ 29

/-- A peer's declaration is applied to a bound end (R344, R345). -/
def State.applyNotice (s : State) (u ch : Nat) (p : Packet) : State :=
  s.updEnd u ch fun e =>
    if fld p.tag 0 31 = e.decl then { e with usable := true, ready := if e.red = 0 then fld p.tag 31 5 else 0 }
    else { e with mismatch := true }

/-- A notice that was held for an end is applied once the end is bound (R345, log 24). -/
def State.applyHeld (s : State) (u ch : Nat) (p : Packet) : State :=
  if p.kind = 3 then s.updEnd u ch fun e => { e with ready := (e.ready + 1) % 2 ^ 32 } else s.applyNotice u ch p

/-- BIND_NOTICE (R345): applied, or held, up to 256 per endpoint, until the end is bound. -/
def execBindNotice (port : Nat) (p : Packet) (s : State) : Host.Outcome State Fault Refusal :=
  if p.kind ≠ 7 then .next s
  else .next (s.receive port p fun s => match s.unitOfEp p.dstEp p.ch with
    | some u => s.applyNotice u p.ch p
    | none =>
      let n := (([0, 1, 2, 3].flatMap fun d => (s.die d).held).filter fun h => h.dstEp == p.dstEp && h.kind == 7).length
      if n < 256 then s.updDie (port / 5) fun d => { d with held := d.held ++ [p] } else s)

/-! ## The return of storage -/

/-- Whether a read of a slot by a job, or a job that writes it, is still in flight (R161). -/
def Job.onSlot (j : Job) (t : TileRef) : Bool :=
  match j.kind with
  | .send => j.src == some t && !(j.phase == 1 && decide (j.stored.length ≤ j.done))
  | .copyOut | .scatter => j.names t && !j.performed
  | _ => j.names t

/-- Whether a leaf of a unit still waits for a chunk of a slot's tile (R370). -/
def UnitSt.awaits (x : UnitSt) (t : TileRef) : Bool :=
  (x.jobs ++ x.late).any fun j => (j.kind == JobKind.vec || j.kind == JobKind.accrd) && j.tds.any fun w => w.tile == t

/-- SLOT_STORAGE_RETURNS (R161, R348): a landing slot then becomes ready and sends its notice. A leaf that waits for a chunk of the tile keeps
the storage as a read in flight does (R370). -/
def execSlotStorageReturns (pad slot : Nat) (s : State) : Host.Outcome State Fault Refusal :=
  let t : TileRef := ⟨pad, slot⟩
  let x := s.slot t
  let landed : Bool := match x.chan with
    | some (u, ch, k) => match s.end? u ch with
      | some e => !e.landings.any fun l => l.1 % e.depth == k && l.2.begun && !l.2.done
      | none => true
    | none => true
  let frozen : Bool := decide (pad < 512) && (s.unit pad).freeze != 0
  if frozen ∨ x.okind ≠ 0 ∨ !x.busy ∨ !landed ∨ s.units.any (fun u => u.2.awaits t || u.2.jobs.any fun j => j.onSlot t) then .next s
  else
    let s := s.updSlot t fun x => { x with busy := false }
    match x.chan with
    | none => .next s
    | some (u, ch, k) =>
      let s := s.updEnd u ch fun e =>
        { e with landings := e.landings.filter fun l => !(l.1 % e.depth == k && l.2.done && l.2.seen && isBefore l.1 e.nextIn) }
      .next (s.grant u ch 16)

end Sys2Proof.Machine
end

