-- ==== Sys2Proof/Machine/Matrix.lean ====
section
/-!
DEFINITION. The matrix class: rings, accumulator banks, routines and their blocks, microprogram images
(16_matrix_class.md R310-R333; 02 R34-R42).
-/
namespace Sys2Proof.Machine

/-! ## Rings -/

/-- Ring `n` of a context. -/
def Ctx.ring (c : Ctx) (n : Nat) : Ring := c.rings.look n {}

/-- Entry `i` of a ring, counted from its head. -/
def Ring.nthEntry (r : Ring) (i : Nat) : Nat := r.entries.look ((r.head + i) % 16) 0

/-- A handle's slot. -/
def slotOfHandle (u h : Nat) : TileRef := ⟨padIdx u (fld h 30 2), fld h 26 4 * 16384 + fld h 12 14⟩

/-- One pop: a consuming read, after which a tile still held passes back to its task or its channel (R317). -/
def State.pop1 (s : State) (u cid n : Nat) : State :=
  match s.byCid? u cid with
  | none => s
  | some c =>
    let r := c.ring n
    let h := r.nthEntry 0
    let t := slotOfHandle u h
    let live := (s.slot t).gen == fld h 0 12 && (s.slot t).okind != 0
    let s := s.updCid u cid fun c => { c with rings := c.rings.put n { r with head := (r.head + 1) % 16, count := r.count - 1 } }
    if !live then s
    else
      let s := s.readTile u cid t h 1
      let x := s.slot t
      if x.gen ≠ fld h 0 12 ∨ x.okind ≠ 2 then s
      else match x.chan with
        | some (_, ch, _) => s.updSlot t fun x => { x with okind := 3, oid := u * 256 + ch }
        | none => s.updSlot t fun x => { x with okind := 1, oid := c.taskId }

/-- `k` pops from a ring's head (R317). -/
def State.pops (s : State) (u cid n : Nat) : Nat → State
  | 0 => s
  | k + 1 => (s.pop1 u cid n).pops u cid n k

/-- The slot of RINGPUSH (R316). -/
def semRingpush (qp ring hs : Nat) : SlotSem :=
  { i := .ringpush qp ring hs, q := qp
    check := fun s => firstTrap [match s.handle s.curU s.cur (s.cur.rh hs) with
        | .bad t => some t
        | .pending _ => none
        | .ok t => if (s.slot t).okind = 2 then some (trapOf 0x14 2) else none,
      if (s.cur.ring ring).count = 16 then some (trapOf 3 4) else none]
    eff := fun s =>
      let h := s.cur.rh hs
      let u := s.curU
      let s := match s.handle u s.cur h with
        | .ok t => s.updSlot t fun x => { x with okind := 2, oid := u * 8 + ring }
        | _ => s
      s.updCur fun c =>
        let r := c.ring ring
        { c with rings := c.rings.put ring { r with entries := r.entries.put ((r.head + r.count) % 16) h, count := r.count + 1 } } }
/-- RINGPUSH (R316). -/
def execRingpush (qp ring hs : Nat) (s : State) : Host.Outcome State Fault Refusal := s.issue1 (semRingpush qp ring hs)

/-- The slot of RINGDROP (R317). -/
def semRingdrop (qp ring n : Nat) : SlotSem :=
  { i := .ringdrop qp ring n, q := qp
    check := fun s => let r := s.cur.ring ring
                      if r.count < n ∨ 0 < r.claim then some (trapOf 3 4) else none
    eff := fun s => s.pops s.curU s.cur.cid ring n }
/-- RINGDROP (R317). -/
def execRingdrop (qp ring n : Nat) (s : State) : Host.Outcome State Fault Refusal := s.issue1 (semRingdrop qp ring n)

/-- What RINGINFO reads (R318). -/
def Ring.info (r : Ring) : Nat :=
  r.count + r.claim * 2 ^ 5 + r.head * 2 ^ 10 + (if r.count = 0 then 0 else r.nthEntry 0 * 2 ^ 32)

/-- The slot of RINGINFO (R318), bound 1. -/
def semRinginfo (qp sd ring : Nat) : SlotSem :=
  { i := .ringinfo qp sd ring, q := qp
    eff := fun s => let v := (s.cur.ring ring).info
                    s.updCur fun c => c.write (c.ds sd) v 1 }
/-- RINGINFO (R318). -/
def execRinginfo (qp sd ring : Nat) (s : State) : Host.Outcome State Fault Refusal := s.issue1 (semRinginfo qp sd ring)

/-! ## Banks -/

/-- Where a bank's DATA lies. -/
def accKey (u n : Nat) : Nat := memKey (regAcc u n) 0

/-- The bytes of a bank. -/
def State.accBytes (s : State) (u n : Nat) : Bytes := s.mem.readN (accKey u n) 65536

/-- A physical bank's state changed by `f`. -/
def State.updAcc (s : State) (u n : Nat) (f : AccSt → AccSt) : State := s.updUnit u fun x => { x with accs := x.accs.adj n {} f }

/-- The ACCRDs and COPYACCs of the issuing context that have yet to read its bank `n` (R313). -/
def State.bankReads (s : State) (n : Nat) : List Job :=
  (s.jobsOf s.curU s.cur.cid).filter fun j =>
    (j.kind == JobKind.accrd || (j.kind == JobKind.copyAcc && !j.performed)) && j.bank == s.acc n

/-- Whether a writer of the issuing context's bank `n` is held for its readers (R313). -/
def State.bankReaders (s : State) (n : Nat) : Bool := s.bankReads n != []

/-- The jobs that an operation writing bank `n` observes: what keeps it busy, and the readers it waits for (R212, R313). -/
def State.writerObs (s : State) (n : Nat) : List Nat := s.accObs n ++ (s.bankReads n).map (·.jid)

/-- A bank after ACCZERO and ACCWR (R329, R330, R366). -/
def State.setBank (s : State) (u n : Nat) (int : Bool) (bs : Bytes) : State :=
  let s := { s with mem := s.mem.writeN (accKey u n) bs }
  s.updAcc u n fun a => { a with int := int, kdone := 0, poison := false, bd := some (bankDigest int (padTo 65536 bs)) }

/-- The slot of ACCZERO (R329). -/
def semAcczero (qp acc ty : Nat) : SlotSem :=
  { i := .acczero qp acc ty, q := qp
    obs := fun s => s.writerObs acc
    check := fun s => firstTrap [s.accHeld acc, s.accBusy acc]
    hold := fun s => s.bankReaders acc
    eff := fun s =>
      let n := s.acc acc
      let s := { s with mem := s.mem.writeN (accKey s.curU n) (zeros 65536) }
      s.updAcc s.curU n fun a => { a with int := ty == 1, kdone := 0, poison := false, bd := some (zeroBank (ty == 1)) } }
/-- ACCZERO (R329). -/
def execAcczero (qp acc ty : Nat) (s : State) : Host.Outcome State Fault Refusal := s.issue1 (semAcczero qp acc ty)

/-- The bytes of a bank with the R × C elements of a tile written over its corner (R330). -/
def overBank (bank : Bytes) (r c : Nat) (tile : Bytes) : Bytes :=
  ((List.range 128).map fun i =>
    let row := (bank.drop (512 * i)).take 512
    if i < r then (tile.drop (4 * c * i)).take (4 * c) ++ row.drop (4 * c) else row).flatten

/-- The slot of ACCWR (R330). -/
def semAccwr (qp acc hs c ty : Nat) : SlotSem :=
  let bytes := fun s : State => 4 * (s.cur.vshRC.1 * s.cur.vshRC.2)
  { i := .accwr qp acc hs c ty, q := qp
    obs := fun s => s.writerObs acc ++ s.obsRead s.curU s.cur (s.cur.rh hs) (chunkRange 0 (bytes s))
    check := fun s =>
      let h := s.cur.rh hs
      firstTrap [s.accHeld acc, s.accBusy acc, if 128 < s.cur.vshRC.2 then some (trapOf 3 4) else none,
        match s.handle s.curU s.cur h with
        | .bad t => some t
        | .ok t => if (s.slot t).sealed then some (trapOf 3 4) else none
        | .pending _ => none,
        if s.operandLen s.curU s.cur h < bytes s then some (trapOf 0x15 0) else none,
        s.readTrap s.curU s.cur h (chunkRange 0 (bytes s))]
    hold := fun s => s.bankReaders acc
    sees := fun s => s.seesTile s.curU s.cur (s.cur.rh hs)
    takes := fun s => marked c (s.cur.rh hs)
    eff := fun s =>
      let u := s.curU
      let n := s.acc acc
      let t := s.dst hs
      let h := s.cur.rh hs
      let (r, k) := s.cur.vshRC
      let bs := overBank (s.accBytes u n) r k (s.mem.readN (s.slotKey t) (bytes s))
      (s.setBank u n (ty == 1) bs).readTile u s.cur.cid t h c }
/-- ACCWR (R330). -/
def execAccwr (qp acc hs c ty : Nat) (s : State) : Host.Outcome State Fault Refusal := s.issue1 (semAccwr qp acc hs c ty)

/-- The slot of ACCMOV (R331). -/
def semAccmov (qp accd accs : Nat) : SlotSem :=
  { i := .accmov qp accd accs, q := qp
    obs := fun s => s.writerObs accd ++ s.accObs accs
    check := fun s => firstTrap [s.accHeld accd, s.accHeld accs, s.accBusy accd, s.accBusy accs, s.accPoison accd, s.accPoison accs]
    hold := fun s => s.bankReaders accd
    eff := fun s =>
      let u := s.curU
      let d := s.acc accd
      let f := s.acc accs
      let a := s.accSt accs
      let s := { s with mem := s.mem.writeN (accKey u d) (s.accBytes u f) }
      s.updAcc u d fun x => { x with int := a.int, kdone := a.kdone, bd := a.bd } }
/-- ACCMOV (R331). -/
def execAccmov (qp accd accs : Nat) (s : State) : Host.Outcome State Fault Refusal := s.issue1 (semAccmov qp accd accs)

/-- The slot of ACCRD (R332). -/
def semAccrd (qp hd acc ht fo rm sat ct : Nat) : SlotSem :=
  let tks := fun s : State => chunkRange 0 (8 * s.cur.vshRC.2)
  { i := .accrd qp hd acc ht fo rm sat ct, q := qp
    obs := fun s => s.accObs acc ++ (if ht = 0 then [] else s.obsRead s.curU s.cur (s.cur.rh ht) (tks s))
    check := fun s =>
      let (r, c) := s.cur.vshRC
      firstTrap [s.accHeld acc, s.accBusy acc, s.accPoison acc, if 128 < c then some (trapOf 3 4) else none,
        s.handleTrap s.curU s.cur (s.cur.rh hd),
        if ht = 0 then none else s.handleTrap s.curU s.cur (s.cur.rh ht),
        s.dstTrap s.curU s.cur (s.cur.rh hd),
        if s.slotSize (s.dst hd) < nbytes (r * c) (widthOf fo) then some (trapOf 0x15 0) else none,
        if ht ≠ 0 ∧ s.operandLen s.curU s.cur (s.cur.rh ht) < 8 * c then some (trapOf 0x15 0) else none,
        if ht = 0 then none else s.readTrap s.curU s.cur (s.cur.rh ht) (tks s)]
    sees := fun s => if ht = 0 then [] else s.seesTile s.curU s.cur (s.cur.rh ht)
    takes := fun s => if ht = 0 then [] else marked ct (s.cur.rh ht)
    eff := fun s =>
      let (r, c) := s.cur.vshRC
      let t := s.dst hd
      let aux := if ht = 0 then none else s.tile? s.curU s.cur (s.cur.rh ht)
      let seq := (aux.map fun t => (s.slot t).seq).getD 0
      let tds := (aux.map fun t => s.vDig 1 t).toList
      let h := s.cur.rh ht
      let i : Instr := .accrd qp hd acc ht fo rm sat ct
      let (s, lf) := s.takeLeaf i
      let j := { s.newJob .accrd i 0 with
                 dst := some t, aux := aux, bank := s.acc acc, a := fo, b := rm, c := sat, closed := ct == 1, leaf := some lf
                 digA := (s.accSt acc).digest, tds := tds }
      let s := ((s.produce t (r - 1) (c - 1) fo seq).updSlot t fun x => { x with sealed := false }).issueJob j.resolve
      match aux with
      | some x => s.readTile s.curU s.cur.cid x h ct
      | none => s }
/-- ACCRD (R332). -/
def execAccrd (qp hd acc ht fo rm sat ct : Nat) (s : State) : Host.Outcome State Fault Refusal :=
  s.issue1 (semAccrd qp hd acc ht fo rm sat ct)

/-- ACCRD_COMPLETE (R332): the bank is converted, the chunks land, the flags are set and the leaf is added. -/
def execAccrdComplete (u j : Nat) (s : State) : Host.Outcome State Fault Refusal :=
  s.onJob u j fun j => match j.kind, j.dst with
    | .accrd, some t =>
      let r := fld j.vsh.toNat 0 7 + 1
      let c := fld j.vsh.toNat 7 11 + 1
      let tab := match j.aux with
        | some x => tableEntries c (s.mem.readN (s.slotKey x) (8 * c))
        | none => []
      let out := collect ((List.range (r * c)).map fun i =>
        rescale j.a j.b (j.c == 1) (s.accVal u j.bank (i / c) (i % c)) (tab.getD (i % c) (0x3F800000, 0)))
      let s := s.writeTile t (pack (widthOf j.a) out.1) fun _ => 1
      let j := { j with flags := j.flags ||| out.2 }
      some ((s.finishJob u j none 0 0).placeOrWait u { j with image := (s.slot t).td })
    | _, _ => none

/-! ## Routines -/

/-- Image `i` of the microprogram store of a unit (R326): the standard routines at reset. -/
def UnitSt.image (x : UnitSt) (i : Nat) : Option Image :=
  match x.store.entry? i with
  | some m => some m
  | none => if i < 8 then some ⟨Config.standardImage i, sha3_512 (Config.standardImage i)⟩ else none

/-- Image `i` of the store of unit `u`. -/
def State.imageOf (s : State) (u i : Nat) : Option Image := (s.unit u).image i

/-- Whether an image is the standard routine of its index. -/
def standard (i : Nat) (m : Image) : Bool := decide (i < 8) && m.digest == sha3_512 (Config.standardImage i)

/-- The formats a routine accepts (R327); every format code for an index without an entry there. -/
def accepts (ri f : Nat) : Bool :=
  match ri with
  | 1 => decide (0x10 ≤ f) && decide (f ≤ 0x15)
  | 2 => decide (8 ≤ f) && decide (f ≤ 0xC)
  | 3 => (decide (8 ≤ f) && decide (f ≤ 0xC)) || f == 0x16 || f == 0x17
  | 4 => decide (0xD ≤ f) && decide (f ≤ 0xF)
  | 0 | 5 | 6 | 7 => decide (f < 8)
  | _ => decide (f < 0x18)

/-- Whether a routine's bank is INT32 (R326, R327). -/
def intBank (ri : Nat) : Bool := ri == 2 || ri == 3

/-- Entries of mp3 that a routine uses (R327): A scale, B scale, A side list, B side list. -/
def usesOf (ri : Nat) : List Nat := if ri = 1 then [0, 1] else if ri = 3 then [2, 3] else if ri < 8 then [] else [0, 1, 2, 3]

/-- What an MCALL samples: its routine, zero-first, formats, sizes and sources (R253, R320). -/
structure Call where
  ri : Nat
  z : Bool
  fa : Nat
  fb : Nat
  m : Nat
  n : Nat
  k : Nat
  src0 : Nat
  src1 : Nat
  /-- handles of the ring tiles of A and of B, and of the mp3 tiles used -/
  as : List Nat
  bs : List Nat
  xs : List (Nat × Nat)
  deriving DecidableEq, Repr

/-- The ring tiles an operand claims: handles from entry `i` until their K extents reach `k`; a handle that fails its check ends
the walk (R320, R321). -/
def State.ringWalk (s : State) (r : Ring) (byCols : Bool) (k : Nat) : Nat → Nat → Nat → List Nat
  | 0, _, _ => []
  | f + 1, i, k0 =>
    if k ≤ k0 ∨ r.count ≤ i then []
    else
      let h := r.nthEntry i
      match s.shapeOf s.curU s.cur h with
      | none => [h]
      | some (_, rows, cols) => h :: s.ringWalk r byCols k f (i + 1) (k0 + if byCols then cols else rows)

/-- What an MCALL of the issuing context samples now. -/
def State.callOf (s : State) (ri z : Nat) : Call :=
  let c := s.cur
  let mp (n : Nat) : Nat := (c.mp.look n 0).toNat
  let k := fld (mp 2) 16 16 + 1
  let src0 := mp 0 % 16
  let src1 := mp 1 % 16
  let ring (n : Nat) : Ring := c.ring (n % 8)
  let as := if 8 ≤ src0 then [] else s.ringWalk (ring src0) (ri != 5) k 17 (ring src0).claim 0
  let skip := if src0 = src1 then as.length else 0
  let bs := if 8 ≤ src1 then [] else s.ringWalk (ring src1) false k 17 ((ring src1).claim + skip) 0
  { ri := ri, z := z == 1, fa := fld c.fmt.toNat 0 5, fb := fld c.fmt.toNat 5 5, m := fld (mp 2) 0 7 + 1, n := fld (mp 2) 8 7 + 1
    k := k, src0 := src0, src1 := src1, as := as, bs := bs
    xs := ((usesOf ri).map fun i => (i, fld (mp 3) (32 * i) 4)).filterMap fun x => if x.2 = 0 then none else some (x.1, c.rh x.2) }

/-- Whether the tiles of a ring operand suit it: shapes, K extents in blocks of 32 but for the last, K in all (R320). -/
def State.ringOk (s : State) (hs : List Nat) (byCols : Bool) (other k : Nat) : Bool :=
  let xs := hs.map fun h => match s.shapeOf s.curU s.cur h with
    | some (_, rows, cols) => if byCols then (cols, rows) else (rows, cols)
    | none => (0, 0)
  let kts := xs.map (·.1)
  (xs.all fun x => x.2 == other) && kts.foldl (· + ·) 0 == k && (kts.dropLast.all fun x => x % 32 == 0)

/-- Whether one operand breaks R320: `byCols` for an A of M rows, `other` its size across K. -/
def State.operandBad (s : State) (src fmt : Nat) (hs : List Nat) (byCols : Bool) (other k : Nat) : Bool :=
  if 8 ≤ src then
    let m := s.cur.sample (src % 8)
    let want := if byCols then (other, k) else (k, other)
    escapes fmt || (shF m 16, shF m 17) != want || shF m 2 != fmt
  else !s.ringOk hs byCols other k || (escapes fmt && hs.length != 1)

/-- Whether the parameter registers or the FMT sample break the routine's entry: step 5 of R321. -/
def State.callBad (s : State) (x : Call) (acc : Nat) : Bool :=
  let mp (n : Nat) : Nat := (s.cur.mp.look n 0).toNat
  let w2 := mp 2
  let w3 := mp 3
  let used (i : Nat) : Bool := x.xs.any fun e => e.1 == i
  decide (16 ≤ mp 0) || decide (16 ≤ mp 1) || bit w2 7 || bit w2 15 || decide (2 ^ 32 ≤ w2) ||
    w3 != fld w3 0 4 + fld w3 32 4 * 2 ^ 32 + fld w3 64 4 * 2 ^ 64 + fld w3 96 4 * 2 ^ 96 ||
    decide ((if x.ri < 8 then 16 else 2 ^ 64) ≤ mp 4) || decide (256 ≤ mp 6) || !accepts x.ri x.fa || !accepts x.ri x.fb ||
    (x.ri == 3 && !escapes x.fa && !escapes x.fb) || (x.ri == 1 && !(used 0 && used 1)) || (x.ri == 6 && x.n != 1) ||
    (x.ri == 7 && (decide (8 ≤ x.src0) || x.as.length != 1)) || (!x.z && (s.accSt acc).int != intBank x.ri) ||
    s.operandBad x.src0 x.fa x.as (x.ri != 5) x.m x.k || s.operandBad x.src1 x.fb x.bs false x.n x.k

/-- The length that a tile of an operand needs in the sampled format. -/
def State.needLen (s : State) (h fmt : Nat) : Nat :=
  match s.shapeOf s.curU s.cur h with
  | some (_, r, c) => tileLenOf r c fmt
  | none => 0

/-- Whether a format is an MX format, whose data tiles pair with scale tiles (R36). -/
def isMx (f : Nat) : Bool := decide (0x10 ≤ f) && decide (f ≤ 0x15)

/-- Step 6 of R321: lengths of data tiles, scale tiles and side lists (R35, R36). -/
def State.callShort (s : State) (x : Call) : Bool :=
  let len (h : Nat) := s.operandLen s.curU s.cur h
  let nb := cdiv x.k 32
  (x.as.any fun h => decide (len h < s.needLen h x.fa)) || (x.bs.any fun h => decide (len h < s.needLen h x.fb)) ||
    (x.xs.any fun e => decide (e.1 < 2) && isMx (if e.1 = 0 then x.fa else x.fb) && decide (len e.2 < (if e.1 = 0 then x.m else x.n) * nb)) ||
    (x.xs.any fun e => decide (2 ≤ e.1) && (len e.2 % 8 != 0 || decide (2048 < len e.2)))

/-- Step 9 of R321: the channel of agmm.f, as for a SEND of A (R328, R361, R362). -/
def State.agmmTrap (s : State) (x : Call) : Option Trap :=
  let ch := fld (s.cur.mp.look 6 0).toNat 0 8
  if x.ri ≠ 7 then none
  else firstTrap [s.chanTrap ch, s.peerTrap ch,
    (s.chanEnd? s.curU s.cur ch).bind fun e => if e.fmt = x.fa then none else some (trapOf 0x1D 1),
    s.fitTrap s.curU s.cur ch (nth x.as 0), s.reduceTrap ch false]

/-- The issue checks of MCALL, steps 2 to 9 of R321. -/
def State.mcallTrap (s : State) (ri acc z : Nat) : Option Trap :=
  let x := s.callOf ri z
  let tiles := x.as ++ x.bs ++ x.xs.map (·.2)
  let shape (src : Nat) : Option Trap := if 8 ≤ src then shapeTrap (s.cur.sample (src % 8)) none else none
  firstTrap ([if (s.imageOf s.curU ri).isNone then some (trapOf 0x1E 0) else none, s.accHeld acc, s.accBusy acc, s.accPoison acc] ++
    tiles.map (s.handleTrap s.curU s.cur) ++
    [if s.callBad x acc then some (trapOf 3 4) else none, if s.callShort x then some (trapOf 0x15 0) else none] ++
    [memueFirst (tiles.map fun h => s.readTrap s.curU s.cur h (s.allChunks s.curU s.cur h)), shape x.src0, shape x.src1, s.agmmTrap x])

/-- The routines of a unit, in the order of acceptance (R310). -/
def State.routines (s : State) (u : Nat) : List Job := (s.unit u).jobs.filter fun j => j.kind == JobKind.routine

/-- Whether an MPROG of the index has yet to replace the image of a unit (R333). -/
def State.mprogPending (s : State) (u ri : Nat) : Bool :=
  s.units.any fun x => x.1 / 128 == u / 128 && x.2.jobs.any fun j =>
    j.kind == JobKind.mprog && j.c == ri && j.fault.isNone && !j.early.contains u

/-- TD of the tile a handle names. -/
def State.tdOfHandle (s : State) (h : Nat) : Bytes := (s.tile? s.curU s.cur h).elim noDigest fun t => (s.slot t).td

/-- The effect of MCALL at issue (R322), and of the forward of agmm.f (R328). -/
def State.mcallEff (s : State) (i : Instr) (ri acc z e : Nat) : State :=
  let u := s.curU
  let x := s.callOf ri z
  let tile (h : Nat) : List TileRef := (s.tile? u s.cur h).toList
  let n := s.acc acc
  let img := (s.imageOf u ri).elim noDigest (·.digest)
  let ent (k : Nat) : Option Nat := (x.xs.find? fun e => e.1 == k).map (·.2)
  let rd := digest 0xB (img ++ ([0, 1, 2, 3].map fun k => (ent k).elim noDigest s.tdOfHandle).flatten)
  let od (hs : List Nat) : Bytes := if hs = [] then [] else digest 9 (hs.map s.tdOfHandle).flatten
  let bd := (s.accSt acc).digest
  let dg := (od x.as, od x.bs)
  let tiles := (x.as.flatMap tile, x.bs.flatMap tile, [0, 1, 2, 3].map fun k => (ent k).bind fun h => s.tile? u s.cur h)
  let sh (src : Nat) : Map Word := if 8 ≤ src then s.cur.sample (src % 8) else []
  let hs := x.as ++ x.bs ++ x.xs.map (·.2)
  let hx := [0, 1, 2, 3].map fun k => (ent k).getD 0
  let s := hs.foldl (fun s h => (s.tile? u s.cur h).elim s (s.noteTileRead u s.cur.cid)) s
  let (s, lf) := s.takeLeaf i
  let j := { s.newJob .routine i e with
             bank := n, ch := ri, closed := x.z, leaf := some lf, tilesA := tiles.1, tilesB := tiles.2.1, tiles3 := tiles.2.2
             shape := sh x.src0, shape2 := sh x.src1, digA := if x.z then [] else bd, digB := dg.1, digC := dg.2, digX := rd, image := img
             rows := hx.map Int.ofNat }
  let s := (s.issueJob j).updAcc u n fun a => { a with busy := true, kdone := 0 }
  let s := s.updCur fun c =>
    let claim (c : Ctx) (src k : Nat) : Ctx := if 8 ≤ src then c else
      { c with rings := c.rings.adj (src % 8) {} fun r => { r with claim := r.claim + k } }
    { claim (claim c x.src0 x.as.length) x.src1 x.bs.length with lastAcc := some n }
  if ri ≠ 7 then s
  else
    let h := nth x.as 0
    let t := s.tile? u s.cur h
    let s := s.issueSend i (fld (s.cur.mp.look 6 0).toNat 0 8) h 1 0 0 0 true
    match t with
    | some t => s.readTile u s.cur.cid t h 1
    | none => s

/-- The slot of MCALL (R310, R320-R322). -/
def semMcall (qp routine acc z e : Nat) : SlotSem :=
  { i := .mcall qp routine acc z e, q := qp, adds := fun _ => [(e, 1)]
    obs := fun s =>
      let x := s.callOf routine z
      s.writerObs acc ++ (x.as ++ x.bs ++ x.xs.map (·.2)).flatMap fun h => s.obsRead s.curU s.cur h (s.allChunks s.curU s.cur h)
    check := fun s => s.mcallTrap routine acc z
    takes := fun s => if routine = 7 then (s.callOf routine z).as.take 1 else []
    hold := fun s => decide (8 ≤ (s.routines s.curU).length) || s.mprogPending s.curU routine || s.bankReaders acc ||
      (routine == 7 && s.engineFull s.curU)
    sees := fun s =>
      let x := s.callOf routine z
      (x.as ++ x.bs ++ x.xs.map (·.2)).flatMap fun h => s.seesTile s.curU s.cur h
    eff := fun s => s.mcallEff (.mcall qp routine acc z e) routine acc z e }
/-- MCALL (R320-R328). -/
def execMcall (qp routine acc z e : Nat) (s : State) : Host.Outcome State Fault Refusal := s.issue1 (semMcall qp routine acc z e)

/-! ## A routine on the array -/

/-- M, N and K of a routine's sample. -/
def Job.mnk (j : Job) : Nat × Nat × Nat :=
  let v := (j.mp.look 2 0).toNat
  (fld v 0 7 + 1, fld v 8 7 + 1, fld v 16 16 + 1)

/-- The format of A or of B in a routine's sample. -/
def Job.opFmt (j : Job) (isB : Bool) : Nat := fld j.fmt.toNat (if isB then 5 else 0) 5

/-- Blocks of a routine. -/
def Job.nblocks (j : Job) : Nat := cdiv j.mnk.2.2 32

/-- The routine that the array may take next: none runs, and no earlier faulted one of its context holds it (R310). -/
def State.nextRoutine (s : State) (u : Nat) : Option Job :=
  let rs := s.routines u
  if rs.any fun j => j.phase == 1 && j.fault.isNone then none
  else rs.find? fun j => j.fault.isNone && !rs.any fun i => i.cid == j.cid && decide (i.jid < j.jid) && i.fault.isSome

/-- A slot's bytes as the elements of a data tile in a routine's format. -/
def State.dataElems (s : State) (t : TileRef) (fmt : Nat) : List Nat :=
  let x := s.slot t
  let n := (x.rows + 1) * (x.cols + 1)
  elems (widthOf fmt) n (s.mem.readN (s.slotKey t) (nbytes n (widthOf fmt)))

/-- The bytes of a side list, none for an absent one. -/
def State.sideOf (s : State) (j : Job) (isB : Bool) : Bytes :=
  match j.tiles3.getD (if isB then 3 else 2) none with
  | some t => s.tileBytes t
  | none => []

/-- Whether the side list of an operand fails R35. -/
def State.sideBad (s : State) (j : Job) (isB : Bool) : Bool :=
  match if isB then j.tilesB else j.tilesA with
  | t :: _ => escapeBad (j.opFmt isB) (s.dataElems t (j.opFmt isB)) (s.sideOf j isB)
  | [] => false

/-- A routine stops with its kept state and leaves the array (R310, R325). -/
def State.stopRoutine (s : State) (u : Nat) (j : Job) (t : Trap) : State :=
  let k := ((s.unit u).accs.look j.bank {}).kdone
  let s := if t.cause = 0x30 then s.updAcc u j.bank fun a => { a with poison := true } else s
  s.stopJob u { j with phase := 0 } { t with kdone := k }

/-- ROUTINE_START (R310, R322, R324): side lists are checked, then zero-first is applied. -/
def execRoutineStart (u j : Nat) (s : State) : Host.Outcome State Fault Refusal :=
  s.onJob u j fun j =>
    if (s.nextRoutine u).map (·.jid) ≠ some j.jid then none
    else if ((s.unit u).accs.look j.bank {}).poison then some (s.stopRoutine u j (trapOf 0x30 0))
    else if j.granted then some (s.putJob u { j with phase := 1 })
    else if s.sideBad j false || s.sideBad j true then some (s.stopRoutine u j (trapOf 0x1C 0))
    else
      let s := if j.closed then
          ({ s with mem := s.mem.writeN (accKey u j.bank) (zeros 65536) } : State).updAcc u j.bank fun a => { a with int := intBank j.ch }
        else s
      some (s.putJob u { j with phase := 1, granted := true })

/-- The ring tile of an operand that holds block `b`, and the first K index of it: none beyond the last. -/
def State.blockTile (s : State) (byCols : Bool) (b : Nat) : List TileRef → Nat → Option (TileRef × Nat)
  | [], _ => none
  | t :: ts, k0 =>
    let x := s.slot t
    let kt := if byCols then x.cols + 1 else x.rows + 1
    if 32 * b < k0 + kt then some (t, k0) else s.blockTile byCols b ts (k0 + kt)

/-- The element numbers of block `b` in a tile with K extent `kt` from K index `k0`, by row or column across K. -/
def blockIdx (byCols : Bool) (other kt k0 k b : Nat) : List (List Nat) :=
  let lo := 32 * b - k0
  let len := min 32 (k - 32 * b)
  (List.range other).map fun m => (List.range len).map fun i => if byCols then m * kt + lo + i else (lo + i) * other + m

/-- The elements of block `b` of a ring operand, or its fault: SEQ at the tile's first block (R37, R324), then poison (R314). -/
def State.ringBlock (s : State) (j : Job) (isB : Bool) (b : Nat) : Except Trap (List (List Int)) :=
  let byCols := !isB && j.ch != 5
  let (m, n, k) := j.mnk
  let fmt := j.opFmt isB
  match s.blockTile byCols b (if isB then j.tilesB else j.tilesA) 0 with
  | none => .ok []
  | some (t, k0) =>
    let x := s.slot t
    let pair : Option TileRef := if isMx fmt then j.tiles3.getD (if isB then 1 else 0) none
      else if escapes fmt then j.tiles3.getD (if isB then 3 else 2) none else none
    let skew : Bool := match pair with
      | some p => 32 * b == k0 && (s.slot p).seq != x.seq
      | none => false
    let idx := blockIdx byCols (if isB then n else m) (if byCols then x.cols + 1 else x.rows + 1) k0 k b
    let w := widthOf fmt
    let bad := idx.flatten.find? fun i => bit x.poison (i * w / 4096)
    if skew then .error (trapOf 0x1B 0)
    else match bad with
      | some i => .error { cause := 0x30, row := i * w / 4096 }
      | none =>
        let es := s.dataElems t fmt
        if intBank j.ch then
          let vs := codeVals fmt es (sideVals (s.sideOf j isB))
          .ok (idx.map fun r => r.map fun i => vs.getD i 0)
        else .ok (idx.map fun r => r.map fun i => ((nth es i : Nat) : Int))

/-- Fetched elements read in row-major order; the first that fails ends it. -/
def State.fetchEls (s : State) (u : Nat) (j : Job) : List Nat → State × Job × Except Trap (Map Nat)
  | [] => (s, j, .ok [])
  | i :: is =>
    match elAt j.shape j.rowOf i with
    | none =>
      let (s, j, r) := s.fetchEls u j is
      (s, j, r.map fun m => m.put i 0)
    | some e =>
      match s.readEl u j e with
      | (s, j, .error t) => (s, j, .error t)
      | (s, j, .ok (v, _)) =>
        let (s, j, r) := s.fetchEls u j is
        (s, j, r.map fun m => m.put i v)

/-- Insertion of a number in rising order. -/
def insNat (x : Nat) : List Nat → List Nat
  | [] => [x]
  | y :: ys => if x ≤ y then x :: y :: ys else y :: insNat x ys

/-- The elements of block `b` of a fetched operand, read now and kept for its digest (R311, R324, R325). -/
def State.fetchBlock (s : State) (u : Nat) (j : Job) (isB : Bool) (b : Nat) : State × Job × Except Trap (List (List Int)) :=
  let byCols := !isB && j.ch != 5
  let (m, n, k) := j.mnk
  let sh := if isB then j.shape2 else j.shape
  let pair : Option TileRef := if isMx (j.opFmt isB) then j.tiles3.getD (if isB then 1 else 0) none else none
  let skew : Bool := match pair with
    | some p => b == 0 && (s.slot p).seq != shF sh 18 % 2 ^ 32
    | none => false
  let idx := blockIdx byCols (if isB then n else m) k 0 k b
  if skew then (s, j, .error (trapOf 0x1B 0))
  else
    let jx := { j with shape := sh, performed := isB }
    match s.fetchEls u jx (idx.flatten.foldr insNat []) with
    | (s, j', .error t) =>
      -- the first failing element of the whole tile, in row-major order
      let rest := (List.range (shCount sh)).filter fun i => ((if isB then j.readBefore else j.stored).entry? i).isNone
      let t := match (s.fetchEls u jx rest).2.2 with
        | .error t => t
        | .ok _ => t
      (s, { j with blocks := j'.blocks, seen := j'.seen }, .error t)
    | (s, j', .ok es) =>
      let keep (m : Map Nat) : Map Nat := es.foldl (fun m e => m.put e.1 e.2) m
      let j := { j with blocks := j'.blocks, seen := j'.seen, stored := if isB then j.stored else keep j.stored
                        readBefore := if isB then keep j.readBefore else j.readBefore }
      let val (i : Nat) : Int := if intBank j.ch then intVal (shF sh 2) (es.look i 0) else ((es.look i 0 : Nat) : Int)
      (s, j, .ok (idx.map fun r => r.map val))

/-- The elements of block `b` of an operand. -/
def State.opBlock (s : State) (u : Nat) (j : Job) (isB : Bool) (b : Nat) : State × Job × Except Trap (List (List Int)) :=
  if (if isB then j.tilesB else j.tilesA) = [] then s.fetchBlock u j isB b else (s, j, s.ringBlock j isB b)

/-- The bytes of scale tile `n` that block `b` uses (R36). -/
def Job.scaleAt (j : Job) (n b : Nat) : List Nat :=
  let (rows, cols, _) := j.mnk
  if n = 0 then (List.range rows).map fun i => i * j.nblocks + b else (List.range cols).map fun i => b * cols + i

/-- A poisoned chunk of a scale tile that holds a scale of block `b`, or of a side list (R314, R325). -/
def State.auxBad (s : State) (j : Job) (b : Nat) : Option Trap :=
  [0, 1, 2, 3].findSome? fun n => match j.tiles3.getD n none with
    | none => none
    | some t =>
      let ks := if n < 2 then (j.scaleAt n b).map (· / 512) else List.range (s.slot t).chunks
      (ks.find? fun k => bit (s.slot t).poison k).map fun k => { cause := 0x30, row := k }

/-- Both operands of a block, or the block's fault: A before B, then the scale tiles. -/
def State.blockIn (s : State) (u : Nat) (j : Job) (b : Nat) : State × Job × Except Trap (List (List Int) × List (List Int)) :=
  match s.opBlock u j false b with
  | (s, j, .error t) => (s, j, .error t)
  | (s, j, .ok a) =>
    match s.opBlock u j true b with
    | (s, j, .error t) => (s, j, .error t)
    | (s, j, .ok bb) => match s.auxBad j b with
      | some t => (s, j, .error t)
      | none => (s, j, .ok (a, bb))

/-- The scale of block `b` for row or column `i`: an E8M0 code (R36). -/
def State.scaleOf (s : State) (j : Job) (isB : Bool) (b i : Nat) : Nat :=
  match j.tiles3.getD (if isB then 1 else 0) none with
  | some t => leVal (s.mem.readN (s.slotKey t + (if isB then b * j.mnk.2.1 + i else i * j.nblocks + b)) 1)
  | none => 127

/-- A block sum times the scale of code `e` (R36). -/
def mxScale (e : Nat) (x : XR) : XR :=
  if e = 0xFF then .nan else if 127 ≤ e then x.scale (2 ^ (e - 127)) 1 else x.scale 1 (2 ^ (127 - e))

/-- The product of two elements of a float, MX or LNS routine. -/
def product (ri fa fb : Nat) (a b : Int) : Flagged XR :=
  if ri = 4 then (lnsProd fa a.toNat fb b.toNat, 0) else XR.mul (elemVal fa a.toNat) (elemVal fb b.toNat)

/-- One element of a bank after a block of a standard routine (R36, R39, R41, R42). -/
def blockElem (ri fa fb ea eb : Nat) (xs ys : List Int) (acc : Nat) : Flagged Nat :=
  if intBank ri then accAddInt acc (((xs.zip ys).map fun p => p.1 * p.2).foldl (· + ·) 0)
  else
    let v := blockSum ((xs.zip ys).map fun p => product ri fa fb p.1 p.2)
    accAdd acc (if ri = 1 then (mxScale eb (mxScale ea v.1), v.2) else v)

/-- A routine's block summed into its bank: rows below M, columns below N (R322). -/
def State.sumBlock (s : State) (u : Nat) (j : Job) (b : Nat) (xs ys : List (List Int)) : State × Nat :=
  let (m, n, _) := j.mnk
  let std := j.ch < 8 ∧ j.image = sha3_512 (Config.standardImage j.ch)
  let nat (zs : List (List Int)) : List (List Nat) := zs.map fun r => r.map fun z => wrapN 32 z
  let vend (e old : Nat) : Flagged Nat :=
    let v := Config.vendorBlock j.image j.fmt.toNat (j.mp.look 2 0).toNat (j.mp.look 4 0).toNat (nat xs) (nat ys) b e old
    (v % 2 ^ 32, v / 2 ^ 32 % 2 ^ 11)
  (List.range m).foldl (fun acc r =>
    let key := accKey u j.bank + 512 * r
    let old := elems 32 n (acc.1.mem.readN key (4 * n))
    let new := (List.range n).map fun c =>
      if std then blockElem j.ch (j.opFmt false) (j.opFmt true) (s.scaleOf j false b r) (s.scaleOf j true b c) (xs.getD r []) (ys.getD c [])
        (nth old c)
      else vend (r * 128 + c) (nth old c)
    let out := collect new
    ({ acc.1 with mem := acc.1.mem.writeN key (pack 32 out.1) }, acc.2 ||| out.2)) (s, 0)

/-- Whether an operand is fetched from global memory. -/
def Job.fetches (j : Job) : Bool := j.tilesA == [] || j.tilesB == []

/-- What must come before the next block of a routine that fetches: earlier writes of the context to what it reads from there on, and
earlier acquires (R180, R183). -/
def State.blockReady (s : State) (u : Nat) (j : Job) : Option State := if j.fetches then s.ready u j (s.jobKeys u j) else some s

/-- ROUTINE_BLOCK_COMPLETE (R322): the next block of the running routine, unless it would fault. -/
def execRoutineBlockComplete (u j : Nat) (s : State) : Host.Outcome State Fault Refusal :=
  s.onJob u j fun j =>
    if j.kind ≠ .routine ∨ j.phase ≠ 1 ∨ j.nblocks ≤ j.next then none
    else (s.blockReady u j).bind fun s => match s.blockIn u j j.next with
      | (s, j, .ok (xs, ys)) =>
        let (s, f) := s.sumBlock u j j.next xs ys
        let s := s.updAcc u j.bank fun a => { a with kdone := min j.mnk.2.2 (32 * (j.next + 1)) }
        some (s.putJob u { j with next := j.next + 1, flags := j.flags ||| f })
      | _ => none

/-- ROUTINE_FAULT (R325): the next block of the running routine faults. -/
def execRoutineFault (u j : Nat) (s : State) : Host.Outcome State Fault Refusal :=
  s.onJob u j fun j =>
    if j.kind ≠ .routine ∨ j.phase ≠ 1 ∨ j.nblocks ≤ j.next then none
    else (s.blockReady u j).bind fun s => match s.blockIn u j j.next with
      | (s, j, .error t) => some (s.stopRoutine u j t)
      | _ => none

/-- The digest of an operand: the ring's list, or TD of the fetched tile (R364). -/
def fetchedTD (m : Map Word) (vals : Map Nat) : Bytes :=
  tdOf (shDesc m) (chunkDigests (pack (shWidth m) ((List.range (shCount m)).map fun i => vals.look i 0)))

/-- Consuming reads of the mp3 tiles whose bits are set in mp4 (R323). -/
def State.eat3 (s : State) (u : Nat) (j : Job) : State :=
  let bits := (j.mp.look 4 0).toNat
  [0, 1, 2, 3].foldl (fun s i =>
    match bit bits i, j.tiles3.getD i none with
    | true, some t => s.readTile u j.cid t (j.rows.getD i 0).toNat 1
    | _, _ => s) s

/-- ROUTINE_RETIRE (R323, R366, R369). -/
def execRoutineRetire (u j : Nat) (s : State) : Host.Outcome State Fault Refusal :=
  s.onJob u j fun j =>
    if j.kind ≠ .routine ∨ j.phase ≠ 1 ∨ j.next < j.nblocks then none
    else
      let r0 := (j.mp.look 0 0).toNat % 8
      let r1 := (j.mp.look 1 0).toNat % 8
      let na := j.tilesA.length
      let nb := j.tilesB.length
      let s := (s.pops u j.cid r0 na).pops u j.cid r1 nb
      let less (c : Ctx) (n k : Nat) : Ctx := if k = 0 then c else
        { c with rings := c.rings.adj n {} fun r => { r with claim := r.claim - k } }
      let s := (s.updCid u j.cid fun c => less (less c r0 na) r1 nb).eat3 u j
      let int := ((s.unit u).accs.look j.bank {}).int
      let bd := bankDigest int (s.accBytes u j.bank)
      let s := s.updAcc u j.bank fun a => { a with busy := false, bd := some bd }
      some (s.finishJob u j (some { j.leafRec 1 with
        routine := j.ch, sflags := (if j.closed then 1 else 0) + (if na = 0 then 0 else 2) + (if nb = 0 then 0 else 4)
        fmt := j.fmt.toNat, mp2 := (j.mp.look 2 0).toNat % 2 ^ 32, mp4 := (j.mp.look 4 0).toNat % 2 ^ 32
        a := if na = 0 then fetchedTD j.shape j.stored else j.digB, b := if nb = 0 then fetchedTD j.shape2 j.readBefore else j.digC
        c := j.digA, aux := j.digX, res := bd }) 0 0)

/-- BANK_UNCORRECTABLE (R314): the bank is poisoned, a routine on it stops, a copy-out of it stops, and an ACCRD's tile is poisoned
in the one chunk that the error would have filled, which the event does not name: a free value (R332, log 23). -/
def execBankUncorrectable (u n : Nat) (s : State) : Host.Outcome State Fault Refusal :=
  let s := s.updAcc u n fun a => { a with poison := true }
  .next ((s.unit u).jobs.foldl (fun s j =>
    if j.bank ≠ n ∨ j.fault.isSome then s
    else match j.kind, j.dst with
      | .routine, _ => if j.phase = 1 then s.stopRoutine u j (trapOf 0x30 0) else s
      | .copyAcc, _ => if j.performed then s else s.stopJob u j (trapOf 0x30 0)
      | .accrd, some t => s.updSlot t fun x => { x with poison := setBit x.poison (Config.bankErrorAt j.jid % x.chunks) }
      | _, _ => s) s)

/-! ## Installing routines -/

/-- An MPROG enters the supervisor's jobs (R333). -/
def State.issueMprog (s : State) (i : Instr) (index f sa e : Nat) : State :=
  s.issueJob { s.newJob .mprog i e with ch := f, a := (s.cur.rs sa).toNat, c := index }

/-- The MPROG of the issuing bundle that has still to complete. -/
def State.mprogHere (s : State) : Option Job :=
  (s.jobsOf s.curU s.cur.cid).find? fun j => j.kind == JobKind.mprog && j.sem == 0 && j.addr == s.issAddr && match j.instr with
    | .mprog .. => true
    | _ => false

/-- The slot of MPROG without an extension: its bundle is held until it completes, and raises its fault (R333, R424). -/
def semMprog (qp index f sa : Nat) : SlotSem :=
  { i := .mprog qp index f sa, q := qp
    stuck := fun s => if (s.cur.pres.map (·.started)).getD false then s.mprogHere.bind fun j => j.fault.map j.trap else none
    start := some fun s =>
      let s := match s.mprogHere with
        | some j => s.dropJob s.curU j.jid
        | none => s
      s.issueMprog (.mprog qp index f sa) index f sa 0
    hold := fun s => s.mprogHere.isSome
    eff := fun s => s }
/-- MPROG (R333). -/
def execMprog (qp index f sa : Nat) (s : State) : Host.Outcome State Fault Refusal := s.issuePriv (semMprog qp index f sa)

/-- The slot of MPROG with a semaphore (R333). -/
def semMprogExt (qp index f sa e : Nat) : SlotSem :=
  { i := .mprogExt qp index f sa e, q := qp, adds := fun _ => [(e, 1)]
    eff := fun s => s.issueMprog (.mprogExt qp index f sa e) index f sa e }
/-- MPROG with a semaphore (R333). -/
def execMprogExt (qp index f sa e : Nat) (s : State) : Host.Outcome State Fault Refusal := s.issuePriv (semMprogExt qp index f sa e)

/-- Bytes read through a record as reads, eight at a time, on pages that also allow execution (R146, R150, R333). -/
def State.readCode (s : State) (u : Nat) (j : Job) : Nat → Nat → Nat → State × Job × Except Trap Bytes
  | 0, _, _ => (s, j, .ok [])
  | f + 1, off, n =>
    if n = 0 then (s, j, .ok [])
    else
      let k := min 8 n
      match s.element (s.whoJob u j) j.fps j.ch (Int.ofNat off) k .read with
      | (s, .error t) => (s, j, .error t)
      | (s, .ok (ks, _)) =>
        match s.element (s.whoJob u j) j.fps j.ch (Int.ofNat off) k .exec with
        | (s, .error t) => (s, j, .error t)
        | (s, .ok _) =>
          let (s, j) := s.countAccess j 0 ks
          let bs := s.mem.readAt ks
          let (s, j, r) := s.readCode u j f (off + k) (n - k)
          (s, j, r.map fun x => bs ++ x)

/-- The image that an MPROG reads, or its fault (R112, R333). -/
def State.readImage (s : State) (u : Nat) (j : Job) : State × Job × Except Trap Image :=
  match s.readCode u j 2 j.a 8 with
  | (s, j, .error t) => (s, j, .error t)
  | (s, j, .ok hdr) =>
    let l := leAt hdr 4 4
    if leAt hdr 0 1 ≠ j.c ∨ leAt hdr 1 3 ≠ 0 ∨ 16384 < l then (s, j, .error (trapOf 0x1E 2))
    else
      let p := cdiv l 8 * 8
      match s.readCode u j (p / 8 + 1) (j.a + 8) p with
      | (s, j, .error t) => (s, j, .error t)
      | (s, j, .ok img) =>
        match s.readCode u j 580 (j.a + 8 + p) 4627 with
        | (s, j, .error t) => (s, j, .error t)
        | (s, j, .ok sig) =>
          if ebarisVerify (hdr ++ img) sig then (s, j, .ok ⟨img.take l, sha3_512 (img.take l)⟩)
          else (s, j, .error (trapOf 0x1E 1))

/-- Whether a routine of an index is queued or running on a unit (R333). -/
def UnitSt.runs (x : UnitSt) (ri : Nat) : Bool := x.jobs.any fun i => i.kind == JobKind.routine && i.ch == ri

/-- The units of the die of `u` that may take the image of an MPROG now replace theirs; the units that hold it (R333). -/
def State.install (s : State) (u ri : Nat) (m : Image) (held : List Nat) : State × List Nat :=
  let us := ((List.range 128).map (u / 128 * 128 + ·)).filter fun v => !held.contains v && !(s.unit v).runs ri
  (us.foldl (fun s v => s.updUnit v fun x => { x with store := x.store.put ri m }) s, held ++ us)

/-- MPROG_COMPLETE (R333): the image is read once; units without a routine of the index replace theirs, and the job completes when every
unit of the die holds it. -/
def execMprogComplete (u j : Nat) (s : State) : Host.Outcome State Fault Refusal :=
  s.onJob u j fun j =>
    if j.kind ≠ .mprog then none
    else
      let got : Option (State × Job) :=
        if j.performed then some (s, j)
        else (s.ready u j (s.jobKeys u j)).bind fun s => match s.readImage u j with
          | (s, j, .ok m) => some (s, { j with performed := true, image := m.bytes, digA := m.digest })
          | _ => none
      got.map fun r =>
        let (s, held) := r.1.install u r.2.c ⟨r.2.image, r.2.digA⟩ r.2.early
        let j := { r.2 with early := held }
        if 128 ≤ held.length then s.finishJob u j none 0 0 else s.putJob u j

end Sys2Proof.Machine
end

