-- ==== Sys2Proof/Machine/Audit.lean ====
section
/-!
DEFINITION. The audit class: marks, roots, seals, configuration and tree comparison, and the die's root log
(19_audit_class.md R374-R383).
-/
namespace Sys2Proof.Machine

/-! ## Marks and roots -/

/-- The slot of AUDMARK (R379): its leaf is placed at once. -/
def semAudmark (qp sa sb : Nat) : SlotSem :=
  { i := .audmark qp sa sb, q := qp
    eff := fun s =>
      let i : Instr := .audmark qp sa sb
      let c := s.cur
      let bs := leBytes 8 (c.rs sa).toNat ++ leBytes 8 (c.rs sb).toNat
      let a := s.issAddr
      let (s, n) := s.takeLeaf i
      s.placeLeaf s.curU c.cid n { type := 0x0D, slot := 1, addr := a, w := i.syl.w, ext := i.syl.ext, c := bs } }
/-- AUDMARK (R379). -/
def execAudmark (qp sa sb : Nat) (s : State) : Host.Outcome State Fault Refusal := s.issue1 (semAudmark qp sa sb)

/-- Leaf indices assigned before the bundle under presentation (R380). -/
def Ctx.leaves0 (c : Ctx) : Nat := (c.pres.map (·.leaf0)).getD c.leafNext

/-- Whether the leaves below `n` are all placed. -/
def Ctx.placedBelow (c : Ctx) (n : Nat) : Bool :=
  (List.range n).all fun i => match c.leaves.entry? i with
    | some l => l.record.isSome
    | none => false

/-- The 64 bytes that AUDROOT produces (R380). -/
def State.audrootBytes (s : State) (sl : Nat) : Bytes :=
  let c := s.cur
  let q := s.queue c.die c.queue
  match sl with
  | 0 => rootOfList (leafDigests (c.leafRecords c.leaves0))
  | 1 => ((s.die c.die).sess.look q.sess {}).roots.getLastD noDigest
  | _ => padTo 64 q.lastSeal

/-- The slot of AUDROOT (R380): sel 0 is held until every leaf assigned before it is placed, and observes the jobs that owe one. -/
def semAudroot (qp hd sl : Nat) : SlotSem :=
  { i := .audroot qp hd sl, q := qp
    obs := fun s => if sl ≠ 0 then [] else
      ((s.jobsOf s.curU s.cur.cid).filter fun j => match j.leaf with
        | some n => decide (n < s.cur.leaves0)
        | none => false).map (·.jid)
    check := fun s => s.dstTrap s.curU s.cur (s.cur.rh hd)
    hold := fun s => sl == 0 && !s.cur.placedBelow s.cur.leaves0
    eff := fun s =>
      let t := s.dst hd
      let bs := s.audrootBytes sl
      (s.produce t 0 63 0xA 0).writeTile t bs fun _ => 1 }
/-- AUDROOT (R380). -/
def execAudroot (qp hd sl : Nat) (s : State) : Host.Outcome State Fault Refusal := s.issue1 (semAudroot qp hd sl)

/-! ## The root log -/

/-- Units of a root log that hold records (R376). -/
def AudCfg.units (a : AudCfg) : Nat := 2 ^ a.log * 1024 - 1

/-- Bytes written by die `d` into its root log from unit `n` on (R376), an access of the die's engine (R154). -/
def State.writeLog (s : State) (d : Nat) (a : AudCfg) (n : Nat) (bs : Bytes) : State :=
  match placeKey a.place (a.pa + 64 * n) with
  | some k =>
    let ks := (List.range bs.length).map (k + ·)
    ((s.showWrite (·.seenByDie d) ks).keepOld ks).dieWrite d ks bs
  | none => s

/-- READ of a root log, which the host writes (R376). -/
def State.logRead (s : State) (a : AudCfg) : Nat :=
  match placeKey a.place a.pa with
  | some k => leVal (s.mem.readN (k + 8) 8)
  | none => 0

/-- The first unit of a record (R376). -/
def logLead (kind status queue units n session : Nat) : Bytes :=
  layout 64 [(0, leBytes 1 kind), (1, leBytes 1 status), (2, leBytes 2 queue), (4, leBytes 4 units), (8, leBytes 8 n),
    (16, leBytes 8 session)]

/-- A record appended to a die's root log, after a pad where it would cross the ring's end; none while READ has not passed the units
it takes (R376). The read of READ that finds room counts (R154). WRITE advances once the record is written. -/
def State.appendLog (s : State) (d : Nat) (a : AudCfg) (rec' : Bytes) : Option State :=
  let w := (s.die d).logWrite
  let n := rec'.length / 64
  let pos := w % a.units
  let pad := if a.units < pos + n then a.units - pos else 0
  if a.units < (w + 2 ^ 64 - s.logRead a) % 2 ^ 64 + pad + n then none
  else
    let s := s.countVA d (placeKey a.place a.pa).toList
    let s := if pad = 0 then s else s.writeLog d a (1 + pos) (logLead 0 0 0 pad 0 0)
    let s := s.writeLog d a (1 + (w + pad) % a.units) rec'
    let w := (w + pad + n) % 2 ^ 64
    some ((s.updDie d fun x => { x with logWrite := w }).writeLog d a 0 (leBytes 8 w))

/-- The session header of a seal (R375). -/
def sessionHeader (chip queue die session n sealNo : Nat) : Bytes :=
  layout 64 [(0, leBytes 4 chip), (4, leBytes 2 queue), (6, leBytes 1 die), (8, leBytes 8 session), (16, leBytes 8 n),
    (24, leBytes 8 sealNo)]

/-- A seal waits for the root-log writer (R375). -/
def DieSt.putSeal (x : DieSt) (q who : Nat) : DieSt :=
  { x with rootQ := x.rootQ ++ [{ isSeal := true, who := who, queue := q, session := (x.queues.look q {}).sess }] }

/-- Roots of a queue's session that no seal covers, those that still wait for the root log among them (R375, R381). -/
def DieSt.unsealed (x : DieSt) (q : Nat) : Nat :=
  let n := (x.queues.look q {}).sess
  let e := x.sess.look n {}
  e.roots.length - e.sealedN + (x.rootQ.filter fun r => !r.isSeal && r.session == n).length

/-- A seal record written: it covers the session's roots so far and is signed with the identity key (R375, R376). -/
def State.writeSeal (s : State) (d : Nat) (a : AudCfg) (e : RootEnt) : Option State :=
  let x := (s.die d).sess.look e.session {}
  let n := x.roots.length
  if n = 0 then some s
  else
    let root := rootOfList x.roots
    let hdr := sessionHeader s.chipId e.queue d e.session n x.sealNo
    let sig := signWith identitySeed (digest 6 (hdr ++ root))
    (s.appendLog d a (logLead 2 0 e.queue 76 n e.session ++ hdr ++ root ++ padTo (73 * 64) sig)).map fun s =>
      (s.updDie d fun y =>
        { y with sess := y.sess.put e.session { x with sealedN := n, sealNo := x.sealNo + 1 }
                 sealDone := if e.who = 0 then y.sealDone else y.sealDone.put e.who n }).updQueue d e.queue fun q =>
        { q with lastSeal := root }

/-- A task-root record written: the root enters its session tree, and every 2^SEALK roots a seal is next (R374-R376). -/
def State.writeRoot (s : State) (d : Nat) (a : AudCfg) (e : RootEnt) : Option State :=
  (s.appendLog d a (logLead 1 e.status e.queue 5 e.idx e.session ++ e.tr ++ e.hdr)).map fun s =>
    s.updDie d fun y =>
      let x := y.sess.look e.session {}
      let roots := x.roots ++ [e.tr]
      let auto := a.sealk != 0xFF && roots.length % 2 ^ a.sealk == 0
      { y with sess := y.sess.put e.session { x with queue := e.queue, roots := roots }
               rootQ := if auto then { isSeal := true, queue := e.queue, session := e.session } :: y.rootQ else y.rootQ }

/-- ROOT_LOG_WRITE (R376): the head of the die's root queue is written when the ring has room. -/
def execRootLogWrite (d : Nat) (s : State) : Host.Outcome State Fault Refusal :=
  match (s.die d).aud, (s.die d).rootQ with
  | some a, e :: r =>
    let s' := s.updDie d fun x => { x with rootQ := r }
    .next ((if e.isSeal then s'.writeSeal d a e else s'.writeRoot d a e).getD s)
  | _, _ => .next s

/-! ## Seals and configuration -/

/-- The checks of a seal of queue `q` (R381). -/
def State.sealTrap (s : State) (d q : Nat) : Option Trap :=
  let x := s.die d
  if x.aud.isNone || !(x.queues.look q {}).en || x.unsealed q == 0 then some (trapOf 3 4) else none

/-- The slot of AUDSEAL SEAL (R381, R424): it starts the seal, and is held until the record is written. -/
def semAudsealSeal (qp sd f sa : Nat) : SlotSem :=
  let q := fun s : State => (s.cur.rs sa).toNat % 4096
  { i := .audsealSeal qp sd f sa, q := qp
    check := fun s => if f ≠ 0 ∨ 4096 ≤ (s.cur.rs sa).toNat then some (trapOf 3 4) else s.sealTrap s.cur.die (q s)
    start := some fun s => s.updDie s.cur.die fun x => x.putSeal (q s) (2 * s.cur.cid)
    hold := fun s => ((s.die s.cur.die).sealDone.entry? (2 * s.cur.cid)).isNone
    eff := fun s =>
      let k := 2 * s.cur.cid
      let n := (s.die s.cur.die).sealDone.look k 0
      (s.updCur fun c => c.write (c.ds sd) n 1).updDie s.cur.die fun x => { x with sealDone := x.sealDone.del k } }
/-- AUDSEAL SEAL (R381). -/
def execAudsealSeal (qp sd f sa : Nat) (s : State) : Host.Outcome State Fault Refusal := s.issuePriv (semAudsealSeal qp sd f sa)

/-- The slot of AUDSEAL CONFIG (R381): a read in the manner of LDG. -/
def semAudsealConfig (qp sd f sa : Nat) : SlotSem :=
  { i := .audsealConfig qp sd f sa, q := qp
    check := fun s => globalTrap s.cur f (s.cur.rs sa).toNat 8
    eff := fun s =>
      let on := (s.die s.cur.die).queues.any fun x => x.2.en
      s.issueJob { s.newJob .audConfig (.audsealConfig qp sd f sa) 0 with ch := f, a := (s.cur.rs sa).toNat, granted := on } }
/-- AUDSEAL CONFIG (R381). -/
def execAudsealConfig (qp sd f sa : Nat) (s : State) : Host.Outcome State Fault Refusal := s.issuePriv (semAudsealConfig qp sd f sa)

/-- Bytes that a job writes through its footprint record, eight at a time (R146, R382). -/
def State.jobWrite (s : State) (u : Nat) (j : Job) : Nat → Nat → Bytes → State × Job × Option Trap
  | 0, _, _ => (s, j, none)
  | f + 1, off, bs =>
    if bs = [] then (s, j, none)
    else
      let k := min 8 bs.length
      match s.element (s.whoJob u j) j.fps j.ch (Int.ofNat off) k .write with
      | (s, .error t) => (s, j, some t)
      | (s, .ok (ks, _)) =>
        let (s, j) := s.countAccess j 0 ks
        (s.writeGlobal ks (bs.take k)).jobWrite u j f (off + k) (bs.drop k)

/-- The configuration of a 64-byte block, when every field is in range (R381). -/
def audCfgOf (d : Nat) (b : Bytes) : Option AudCfg :=
  let la := leAt b 0 8
  let st := leAt b 16 8
  let sealk := leAt b 9 1
  let mb := leAt b 10 2
  let rest := fld la 3 13 + fld la 52 12 + fld st 3 13 + fld st 52 12 + leAt b 12 4 + leVal (slice b 25 39) + fld mb 10 5
  if rest ≠ 0 ∨ 15 < leAt b 8 1 ∨ (31 < sealk ∧ sealk ≠ 0xFF) ∨ fld la 0 3 = 7 ∨ fld st 0 3 ≠ 1 + d ∨ 15 < leAt b 24 1 then none
  else some ⟨fld la 0 3, fld la 16 36 * 2 ^ 16, leAt b 8 1, sealk, fld mb 0 10, bit mb 15, fld st 0 3, fld st 16 36 * 2 ^ 16, leAt b 24 1⟩

/-- The configuration that an AUDSEAL CONFIG reads, or its fault (R381). -/
def State.readCfg (s : State) (u : Nat) (j : Job) : State × Job × Except Trap AudCfg :=
  match s.jobRead u j 9 j.a 64 with
  | (s, j, .error t) => (s, j, .error t)
  | (s, j, .ok b) =>
    match j.granted, audCfgOf j.die b with
    | false, some a => (s, j, .ok a)
    | _, _ => (s, j, .error (trapOf 3 4))

/-- AUDIT_CONFIG_TAKES_EFFECT (R381): the new log's control unit is written first, the tree store starts empty; a fault is held for
the observer. -/
def execAuditConfigTakesEffect (u j : Nat) (s : State) : Host.Outcome State Fault Refusal :=
  s.onJob u j fun j =>
    if j.kind ≠ .audConfig then none
    else (s.ready u j (s.jobKeys u j)).bind fun s => match s.readCfg u j with
      | (s, j, .error t) => some (s.stopJob u j t)
      | (s, j, .ok a) =>
        let s := s.writeLog j.die a 0 (zeros 64)
        some ((s.updDie j.die fun x => { x with aud := some a, logWrite := 0, tree := [], treeW := 0 }).finishJob u j none 0 0)

/-! ## Jobs of the tree engine -/

/-- AUDBISECT, AUDREF and AUDREPLAY at issue (R382): one such job of a unit at a time; `op` 0 compares, 1 referees, 2 replays. -/
def audJob (i : Instr) (q sd f sa e op : Nat) : SlotSem :=
  { i := i, q := q, adds := fun _ => [(e, 1)]
    hold := fun s => (s.unit s.curU).jobs.any fun j => j.kind == JobKind.audit
    eff := fun s =>
      let d := s.cur.ds sd
      let j := { s.newJob .audit i e with ch := f, a := (s.cur.rs sa).toNat, c := op }
      let s := s.updCur fun c => c.claim d
      s.issueJob { j with dreg := some (d, s.cur.ticket) } }

/-- The slot of AUDBISECT (R382, R383). -/
def semAudbisect (qp sd f sa e : Nat) : SlotSem := audJob (.audbisect qp sd f sa e) qp sd f sa e 0
/-- AUDBISECT (R382, R383). -/
def execAudbisect (qp sd f sa e : Nat) (s : State) : Host.Outcome State Fault Refusal := s.issuePriv (semAudbisect qp sd f sa e)

/-- The slot of AUDREF (R382, R385). -/
def semAudref (qp sd f sa e : Nat) : SlotSem := audJob (.audref qp sd f sa e) qp sd f sa e 1
/-- AUDREF (R382, R385). -/
def execAudref (qp sd f sa e : Nat) (s : State) : Host.Outcome State Fault Refusal := s.issuePriv (semAudref qp sd f sa e)

/-- The slot of AUDREPLAY (R382, R384). -/
def semAudreplay (qp sd f sa e : Nat) : SlotSem := audJob (.audreplay qp sd f sa e) qp sd f sa e 2
/-- AUDREPLAY (R382, R384). -/
def execAudreplay (qp sd f sa e : Nat) (s : State) : Host.Outcome State Fault Refusal := s.issuePriv (semAudreplay qp sd f sa e)

/-- The result word of R382. -/
def verdict (v reason detail : Nat) : Nat := v + reason * 2 ^ 8 + detail % 2 ^ 48 * 2 ^ 16

/-- The stored tree of a session leaf index of a queue's current session (R377, R383). -/
def State.treeOf (s : State) (d q idx : Nat) : Option TreeEnt :=
  (s.die d).tree.find? fun t => t.queue == q && t.session == (s.queue d q).sess && t.idx == idx

/-- The digest of a retained node. -/
def TreeEnt.node (t : TreeEnt) (lo n : Nat) : Option Bytes := (t.nodes.find? fun x => x.1 == lo && x.2.1 == n).map (·.2.2)

/-- What a die's tree store answers about a node (R383). -/
def State.answerOf (s : State) (d q idx lo n : Nat) : NodeAnswer :=
  match s.treeOf d q idx with
  | none => ⟨false, 2, 0, noDigest⟩
  | some t => match t.node lo n with
    | none => ⟨false, 1, t.n, noDigest⟩
    | some g => ⟨false, 0, t.n, g⟩

/-- A request message for a node (R383). -/
def nodeRequest (chip mb d q idx lo n no : Nat) : Bytes :=
  layout 64 [(0, leBytes 1 1), (4, leBytes 4 chip), (8, leBytes 2 (mb + d * 2 ^ 10)), (10, leBytes 2 q), (16, leBytes 8 idx),
    (24, leBytes 8 lo), (32, leBytes 8 n), (40, leBytes 8 no)]

/-- Whether a message is a request of R383. -/
def isNodeRequest (m : Bytes) : Bool :=
  decide (m = nodeRequest (leAt m 4 4) (fld (leAt m 8 2) 0 10) (fld (leAt m 8 2) 10 2) (leAt m 10 2) (leAt m 16 8) (leAt m 24 8)
    (leAt m 32 8) (leAt m 40 8))

/-- A message to a mailbox of a chip, this one or another (R134, R360). -/
def State.sendMsg (s : State) (d chip mb die : Nat) (bs : Bytes) : State :=
  if chip = s.chipId then s.post { die := die, mb := mb, bytes := bs, sup := true, cid := none, job := none }
  else match s.routeOf d chip with
    | some port => s.emit port
        { p := { kind := 5, blot := false, dstChip := chip, srcChip := s.chipId, n := mb + die * 2 ^ 10, payload := bs }, die := d }
    | none => s

/-- Whether a die's tree engine serves its audit mailbox (R381). -/
def DieSt.serves (x : DieSt) : Bool := (x.aud.map (·.mbOn)).getD false

/-- AUDIT_NODE_REQUEST (R383): the two messages of the answer. Where in them the number and the count stand the spec leaves open: where
the request has them (log 18). -/
def execAuditNodeRequest (d : Nat) (msg : Bytes) (s : State) : Host.Outcome State Fault Refusal :=
  if !(s.die d).serves || !isNodeRequest msg then .next s
  else
    let a := s.answerOf d (leAt msg 10 2) (leAt msg 16 8) (leAt msg 24 8) (leAt msg 32 8)
    let send (s : State) (bs : Bytes) : State := s.sendMsg d (leAt msg 4 4) (fld (leAt msg 8 2) 0 10) (fld (leAt msg 8 2) 10 2) bs
    .next (send (send s (layout 64 [(0, leBytes 1 2), (1, leBytes 1 a.status), (32, leBytes 8 a.leaves), (40, leBytes 8 (leAt msg 40 8))]))
      (padTo 64 a.digest))

/-- What a comparison works on. -/
structure Bisect where
  q : Nat
  idx : Nat
  chip : Nat
  die : Nat
  rq : Nat
  ridx : Nat
  ans : List NodeAnswer
  no : Nat := 0

/-- One question to the remote tree: answered here when the chip is this one, else by the next answer that came; none while it has not
come (R383). -/
def State.ask1 (s : State) (d : Nat) (b : Bisect) (lo n : Nat) : Option (State × Bisect × NodeAnswer) :=
  let b' := { b with no := b.no + 1 }
  if b.chip = s.chipId then
    some (s, b', if (s.die b.die).serves then s.answerOf b.die b.rq b.ridx lo n else ⟨true, 0, 0, noDigest⟩)
  else if (s.routeTrap d b.chip).isSome then some (s, b', ⟨true, 0, 0, noDigest⟩)
  else match b.ans with
    | [] => none
    | a :: r =>
      let mb := ((s.die d).aud.map (·.mb)).getD 0
      some (s.sendMsg d b.chip mb b.die (nodeRequest s.chipId mb d b.rq b.ridx lo n b.no), { b' with ans := r }, a)

/-- How a comparison ends: its word and its result block after the word (R383). -/
structure Compared where
  v : Nat
  reason : Nat := 0
  lo : Nat := 0
  n : Nat := 0
  ln : Nat := 0
  rn : Nat := 0
  dl : Bytes := []
  dr : Bytes := []

/-- The descent from a node whose digests differ (R383); the first argument bounds its depth. A comparison that ends for want of an answer
ends at the last node whose digests it holds. DESIGN CHOICE (log 18). -/
def State.descend (s : State) (d : Nat) (b : Bisect) (t : TreeEnt) : Nat → Nat → Nat → Bytes → Bytes → Option (State × Compared)
  | 0, lo, n, dl, dr => some (s, { v := 2, lo := lo, n := n, ln := t.n, rn := t.n, dl := dl, dr := dr })
  | f + 1, lo, n, dl, dr =>
    let here (v : Nat) : Compared := { v := v, lo := lo, n := n, ln := t.n, rn := t.n, dl := dl, dr := dr }
    if n ≤ 1 then some (s, here 1)
    else
      let k := splitAt n
      match t.node lo k, t.node (lo + k) (n - k) with
      | some l1, some l2 =>
        match s.ask1 d b lo k with
        | none => none
        | some (s, b, a1) =>
          if a1.refused then some (s, here 5)
          else if a1.status = 2 then some (s, { here 4 with reason := 1 })
          else if a1.status = 1 then some (s, here 2)
          else if a1.digest ≠ l1 then s.descend d b t f lo k l1 a1.digest
          else match s.ask1 d b (lo + k) (n - k) with
            | none => none
            | some (s, b, a2) =>
              if a2.refused then some (s, here 5)
              else if a2.status = 2 then some (s, { here 4 with reason := 1 })
              else if a2.status = 1 ∨ a2.digest = l2 then some (s, here 2)
              else s.descend d b t f (lo + k) (n - k) l2 a2.digest
      | _, _ => some (s, here 2)

/-- The comparison of a local task's tree with a remote one (R383). -/
def State.compare (s : State) (d : Nat) (b : Bisect) : Option (State × Compared) :=
  match s.treeOf d b.q b.idx with
  | none => some (s, { v := 4 })
  | some t =>
    let dl := (t.node 0 t.n).getD noDigest
    match s.ask1 d b 0 t.n with
    | none => none
    | some (s, b, a) =>
      let here (v : Nat) : Compared := { v := v, n := t.n, ln := t.n, rn := a.leaves, dl := dl, dr := a.digest }
      if a.refused then some (s, { here 5 with rn := 0 })
      else if a.status = 2 then some (s, { here 4 with reason := 1 })
      else if a.leaves ≠ t.n then some (s, here 3)
      else if a.status = 1 then some (s, here 2)
      else if a.digest = dl then some (s, here 0)
      else s.descend d b t (t.n + 1) 0 t.n dl a.digest

/-- The result word of a comparison (R382). -/
def Compared.word (r : Compared) : Nat := verdict r.v r.reason (if r.v = 1 ∨ r.v = 2 then r.lo else 0)

/-- The 192-byte result block (R383). -/
def Compared.block (r : Compared) : Bytes :=
  layout 192 [(0, leBytes 8 r.word), (8, leBytes 8 r.lo), (16, leBytes 8 r.n), (24, leBytes 8 r.ln), (32, leBytes 8 r.rn),
    (64, padTo 64 r.dl), (128, padTo 64 r.dr)]

/-- A comparison job run: its block written, its word in `next` (R382, R383). -/
def State.runBisect (s : State) (u : Nat) (j : Job) (ans : List NodeAnswer) : Perf :=
  match s.jobRead u j 9 j.a 64 with
  | (s, j, .error t) => .fault s j t
  | (s, j, .ok b) =>
    match s.compare j.die { q := leAt b 0 2, rq := leAt b 2 2, chip := leAt b 4 4, idx := leAt b 8 8, ridx := leAt b 16 8
                            die := leAt b 24 1, ans := ans } with
    | none => .wait
    | some (s, r) =>
      match s.jobWrite u j 25 (leAt b 32 8) r.block with
      | (s, j, some t) => .fault s j t
      | (s, j, none) => .done s { j with next := r.word }

end Sys2Proof.Machine
end

