-- ==== Sys2Proof/Machine/Descriptor.lean ====
section
/-!
DEFINITION. The descriptor class: the D slot (11_descriptor_class.md R246-R256).
-/
namespace Sys2Proof.Machine

/-- A D operation that writes descriptors, computed from what the D slot sees: every earlier D write (R249). -/
def descr (i : Instr) (q : Nat) (f : State → Ctx → List ShadowW) : SlotSem :=
  { i := i, q := q, eff := fun s => let ws := f s s.cur.dView
                                    s.updCur fun c => ws.foldl Ctx.shadowed c }

/-- A half or a word of a parameter register replaced: `n` bits at `lo` (R254). -/
def mpPut (v : BitVec 128) (lo n x : Nat) : BitVec 128 :=
  BitVec.ofNat 128 (v.toNat - fld v.toNat lo n * 2 ^ lo + x % 2 ^ n * 2 ^ lo)

/-- The record that FPNARROW writes (R256). One that it empties has BASE and MODE 0. DESIGN CHOICE (log 122). -/
def narrow (src : FpRec) (mode off len : Nat) : FpRec :=
  let allowed := mode = src.mode ∨ src.mode = 2 ∧ (mode = 0 ∨ mode = 1)
  if src.len = 0 ∨ len = 0 ∨ src.len < off + len ∨ ¬ allowed then {} else ⟨src.base + off, len, mode⟩

/-- The value SHRD reads (R251): a shape field, or half of a parameter register, where mp5 is the KDONE of the bank last used. -/
def State.shrdVal (s : State) (kind reg sl : Nat) : Nat :=
  let d := s.cur.dView
  if kind = 0 then (d.shf reg sl).toNat
  else
    let v := if reg = 5 then s.mp5 s.curU s.cur else (d.mp.look reg 0).toNat
    fld v (64 * sl) 64

/-- The slot of SHSET (R248). -/
def semShset (qp sh field sa : Nat) : SlotSem :=
  descr (.shset qp sh field sa) qp fun s _ => [.shape sh field (s.cur.rs sa)]
/-- SHSET (R248). -/
def execShset (qp sh field sa : Nat) (s : State) : Host.Outcome State Fault Refusal := s.issue1 (semShset qp sh field sa)

/-- The slot of SHSETI (R248). -/
def semShseti (qp sh field imm : Nat) : SlotSem :=
  descr (.shseti qp sh field imm) qp fun _ _ => [.shape sh field (wd (sext 32 imm))]
/-- SHSETI (R248). -/
def execShseti (qp sh field imm : Nat) (s : State) : Host.Outcome State Fault Refusal := s.issue1 (semShseti qp sh field imm)

/-- The slot of SHCOPY (R248). A copy onto itself opens its shadow for R250 as any other does. DESIGN CHOICE (log 121). -/
def semShcopy (qp shd shs : Nat) : SlotSem :=
  descr (.shcopy qp shd shs) qp fun _ d => (List.range 20).map fun f => .shape shd f (d.shf shs f)
/-- SHCOPY (R248). -/
def execShcopy (qp shd shs : Nat) (s : State) : Host.Outcome State Fault Refusal := s.issue1 (semShcopy qp shd shs)

/-- The slot of SHSTEP (R248). -/
def semShstep (qp sh dim sa : Nat) : SlotSem :=
  descr (.shstep qp sh dim sa) qp fun s d =>
    [.shape sh (12 + dim) (d.shf sh (12 + dim) + s.cur.rs sa), .shape sh 18 (d.shf sh 18 + 1)]
/-- SHSTEP (R248). -/
def execShstep (qp sh dim sa : Nat) (s : State) : Host.Outcome State Fault Refusal := s.issue1 (semShstep qp sh dim sa)

/-- The slot of MPSET (R254). -/
def semMpset (qp mp half sa : Nat) : SlotSem :=
  descr (.mpset qp mp half sa) qp fun s d => [.mp mp (mpPut (d.mp.look mp 0) (64 * half) 64 (s.cur.rs sa).toNat)]
/-- MPSET (R254). -/
def execMpset (qp mp half sa : Nat) (s : State) : Host.Outcome State Fault Refusal := s.issue1 (semMpset qp mp half sa)

/-- The slot of MPSETI (R254). -/
def semMpseti (qp mp word imm : Nat) : SlotSem :=
  descr (.mpseti qp mp word imm) qp fun _ d => [.mp mp (mpPut (d.mp.look mp 0) (32 * word) 32 imm)]
/-- MPSETI (R254). -/
def execMpseti (qp mp word imm : Nat) (s : State) : Host.Outcome State Fault Refusal := s.issue1 (semMpseti qp mp word imm)

/-- The slot of VSHAPE (R255). -/
def semVshape (qp rowsm1 colsm1 : Nat) : SlotSem :=
  descr (.vshape qp rowsm1 colsm1) qp fun _ _ => [.vsh (BitVec.ofNat 32 (rowsm1 + colsm1 * 2 ^ 7))]
/-- VSHAPE (R255). -/
def execVshape (qp rowsm1 colsm1 : Nat) (s : State) : Host.Outcome State Fault Refusal := s.issue1 (semVshape qp rowsm1 colsm1)

/-- The slot of FPNARROW (R256): a write of f0 is discarded. -/
def semFpnarrow (qp fd fs mode sa sb : Nat) : SlotSem :=
  descr (.fpnarrow qp fd fs mode sa sb) qp fun s d =>
    if fd = 0 then [] else [.fp fd (narrow (fpOf d.fp fs) mode (s.cur.rs sa).toNat (s.cur.rs sb).toNat)]
/-- FPNARROW (R256). -/
def execFpnarrow (qp fd fs mode sa sb : Nat) (s : State) : Host.Outcome State Fault Refusal :=
  s.issue1 (semFpnarrow qp fd fs mode sa sb)

/-- The slot of SHRD (R251), bound 1. -/
def semShrd (qp sd kind reg sl : Nat) : SlotSem :=
  { i := .shrd qp sd kind reg sl, q := qp
    eff := fun s => let v := s.shrdVal kind reg sl
                    s.updCur fun c => c.write (c.ds sd) v 1 }
/-- SHRD (R251). -/
def execShrd (qp sd kind reg sl : Nat) (s : State) : Host.Outcome State Fault Refusal := s.issue1 (semShrd qp sd kind reg sl)

end Sys2Proof.Machine
end

