-- ==== Sys2Proof/Machine/Graph.lean ====
section
/-!
DEFINITION. Graphs, the window, the directory, dispatch, task start and completion, mailboxes and handlers
(05_tasks.md R114-R138, R142, R143; 10 R225; 18 R343-R345; 19 R371, R373).
-/
namespace Sys2Proof.Machine

/-! ## Footprints -/

/-- The instantiated footprint records of a task, none when one passes 2^80 (R117). -/
def instFps (o : Obj) (t : TaskRec) (params : List Nat) : Option (Map FpRec) :=
  ((o.fps.drop t.fp0).take t.nfp).foldl (fun acc f =>
    acc.bind fun m =>
      let base := nth params (f.p - 1) + f.off
      let len := if f.byParam then nth params (f.lenP - 1) else f.clen
      if len = 0 then some (m.put f.n { base := base % 2 ^ 80, len := 0, mode := f.mode })
      else if 2 ^ 80 < base + len then none
      else some (m.put f.n { base := base, len := len, mode := f.mode })) (some [])

/-- The non-empty records of an instantiation. -/
def fpsOf (m : Map FpRec) : List FpRec := (m.map (·.2)).filter fun r => r.len != 0

/-- Whether two records of one address space must be ordered: they overlap and are not both reads nor both atomics (R118, R120). -/
def fpClash (a b : FpRec) : Bool :=
  decide (a.base < b.base + b.len) && decide (b.base < a.base + a.len) &&
    !(a.mode == b.mode && (a.mode == 0 || a.mode == 3))

/-- The first byte in which two records overlap. -/
def fpFirst (a b : FpRec) : Nat := max a.base b.base

/-! ## Reservations -/

/-- Slots of a pool that no channel and no task holds or has reserved (R131, R344). -/
def State.availSlots (s : State) (pad pool : Nat) : Nat :=
  let x := s.pad pad
  let used := (x.slots.filter fun e => e.1 / 16384 == pool && e.2.okind != 0 && e.2.chan.isNone).length
  (s.freeSlots pad pool).length - (x.resv.look pool 0 - used)

/-- How the requirements of a task fit a unit: met by these entries, not now, or by no pool there (R131). -/
inductive Fit where
  | ok (pt : Map PtEnt)
  | later
  | never

/-- Matches pool requirements in order on unit `u`: each to the pool of its level and size with the lowest index and room (R131). -/
def State.fitPools (s : State) (u : Nat) : Nat → Map PtEnt → List (Nat × Nat × Nat) → Fit
  | _, pt, [] => .ok pt
  | i, pt, (lv, sz, n) :: rs =>
    let pad := padIdx u lv
    let ps := (s.pad pad).pools.filter fun p => p.2.log2 == sz
    if ps = [] then .never
    else
      let taken (p : Nat) : Nat := (pt.filter fun e => e.2.level == lv && e.2.pool == p).foldl (fun a e => a + e.2.resM1 + 1) 0
      match ps.find? fun p => decide (n + taken p.1 ≤ s.availSlots pad p.1) with
      | none => .later
      | some p => s.fitPools u (i + 1) (pt.put i { level := lv, pool := p.1, resM1 := n - 1, inUse := 0, valid := true }) rs

/-- The pool requirements of a task (R104). -/
def Obj.poolsOf (o : Obj) (t : TaskRec) : List (Nat × Nat × Nat) := (o.pools.drop t.pool0).take t.npool

/-- Slots reserved for a task (R131). -/
def State.reserve (s : State) (u : Nat) (pt : Map PtEnt) : State :=
  pt.foldl (fun s e => s.updPad (padIdx u e.2.level) fun p => { p with resv := p.resv.adj e.2.pool 0 (· + (e.2.resM1 + 1)) }) s

/-- Accumulator banks of a unit that no context holds. -/
def UnitSt.freeAccs (x : UnitSt) : List Nat := (List.range 8).filter fun n => (x.accs.look n {}).owner.isNone

/-- Live banks of a unit that hold no context and are not in a swap (R126). -/
def UnitSt.freeBanks (x : UnitSt) : List Nat :=
  if x.swap.isSome then [] else x.liveBanks.filter fun b => (x.ctxs.entry? b).isNone

/-! ## Channel ends -/

/-- How the channels of a graph come to be bound (R344, R345). -/
inductive BindRes where
  | done (s : State)
  | wait
  | fail (status : Nat)

/-- The peer of a channel record under a peer table; none when there is no usable entry (R345). -/
def ChanRec.peer (r : ChanRec) (tab : Map Nat) : Option (Nat × Nat) :=
  match r.peerChip, tab.entry? r.ch with
  | some c, none => some (c, r.peerEp)
  | some c, some e => if e = c + r.peerEp * 2 ^ 20 then some (c, r.peerEp) else none
  | none, some e => some (fld e 0 20, fld e 20 8)
  | none, none => none

/-- One end bound: its slots reserved, its notice sent, a held notice of its peer applied (R344, R345). -/
def State.bindEnd (s : State) (d u : Nat) (ep : Nat) (r : ChanRec) (peer : Nat × Nat) : State :=
  let ts := (s.freeSlots (padIdx u 0) r.pool).take r.depth
  let e : ChanEnd :=
    { peerChip := peer.1, peerEp := peer.2, fmt := r.fmt, rows := r.rows, cols := r.cols, depth := r.depth, blot := r.blot
      red := r.red, ctr := r.ctr, deadline := r.deadline, slots := ts, g0 := ts.map fun t => (s.slot t).gen
      readySent := if r.red = 0 then r.depth else 0 }
  let s := ((List.range r.depth).zip ts).foldl (fun s kt => s.updSlot kt.2 fun x => { x with chan := some (u, r.ch, kt.1) }) s
  let s := s.updUnit u fun x => { x with endpoint := x.endpoint.map fun p => { p with ends := p.ends.put r.ch e } }
  let s := s.notify d { kind := 7, blot := false, dstChip := peer.1, srcChip := s.chipId, dstEp := peer.2, ch := r.ch, srcEp := ep
                        tag := e.decl + r.depth * 2 ^ 31 }
  let mine (p : Packet) : Bool := p.dstEp == ep && p.ch == r.ch
  let ns := ([0, 1, 2, 3].flatMap fun d => (s.die d).held).filter mine
  let s := [0, 1, 2, 3].foldl (fun s d => s.updDie d fun x => { x with held := x.held.filter fun p => !mine p }) s
  ns.foldl (fun s p => s.applyHeld u r.ch p) s

/-- The channels of an object bound for queue `q` (R344, R345); `needs` says that a task needs the binding all the same. A record's pool is
the physical pool of the unit's pad, as R98 and R344 have it where R93 speaks of a task's pool table. DESIGN CHOICE (log 81). -/
def State.bindChans (s : State) (d q h : Nat) (o : Obj) (needs : Bool) : BindRes :=
  if o.chans = [] ∧ !needs then .done s
  else match (s.queue d q).binding with
    | none => .fail 11
    | some (bh, ep, unit, tab) =>
      let u := d * 128 + unit
      let x := s.unit u
      let own := match x.endpoint with
        | some e => e.die == d && e.queue == q
        | none => true
      if o.chans = [] then .done s
      else if bh ≠ h ∨ !own ∨ o.chans.any fun r => (r.peer tab).isNone then .fail 11
      else
        let new := o.chans.filter fun r => ((x.endpoint.bind fun e => e.ends.entry? r.ch)).isNone
        let pad := padIdx u 0
        let bad := new.any fun r => match (s.pad pad).pools.entry? r.pool with
          | none => true
          | some p => decide (2 ^ p.log2 < tileLenOf r.rows r.cols r.fmt)
        if bad then .fail 2
        else if new.any fun r =>
            decide (s.availSlots pad r.pool < (new.filter fun y => y.pool == r.pool).foldl (fun a y => a + y.depth) 0) then .wait
        else
          let s := if x.endpoint.isSome then s else s.updUnit u fun x => { x with endpoint := some ⟨ep, d, q, [], 0, []⟩ }
          .done (new.foldl (fun s r => s.bindEnd d u ep r ((r.peer tab).getD (0, 0))) s)

/-! ## Launching -/

/-- A graph header (R114). -/
structure GraphHdr where
  nodes : Nat
  pblks : Nat
  sig : Nat
  nnode : Nat
  npblk : Nat
  obj : Nat
  /-- every field is in range -/
  ok : Bool

/-- The header in 64 bytes (R114). -/
def graphHdr (b : Bytes) : GraphHdr :=
  let n := leAt b 0 16
  let p := leAt b 16 16
  let g := leAt b 32 16
  let nn := leAt b 48 4
  let np := leAt b 52 4
  { nodes := n, pblks := p, sig := g, nnode := nn, npblk := np, obj := leAt b 56 4
    ok := decide (n < 2 ^ 80 ∧ p < 2 ^ 80 ∧ g < 2 ^ 80 ∧ n % 16 = 0 ∧ p % 64 = 0 ∧ g % 32 = 0 ∧ 1 ≤ nn ∧ nn ≤ 65536 ∧ 1 ≤ np ∧
      np ≤ 65536 ∧ leAt b 60 4 = 0) }

/-- Node records out of bytes: TASK, PBLK and the signal; none when one is out of range (R114, R115). -/
def nodeRecs (ntask npblk : Nat) : Nat → Bytes → Option (List (Nat × Nat × Option Nat))
  | 0, _ => some []
  | n + 1, b =>
    let t := leAt b 0 4
    let k := leAt b 4 4
    if ntask ≤ t ∨ npblk ≤ k ∨ 2 ≤ leAt b 8 1 ∨ leAt b 10 6 ≠ 0 then none
    else (nodeRecs ntask npblk n (b.drop 16)).map fun l => (t, k, if leAt b 8 1 = 1 then some (leAt b 9 1) else none) :: l

/-- Eight words out of a 64-byte block. -/
def wordsOf (b : Bytes) : List Nat := (List.range 8).map fun i => leAt b (8 * i) 8

/-- A graph header of a queue by its address, as the version store names it (R142). -/
def hdrKey (q va : Nat) : Nat := va + q * 2 ^ 80

/-- A node's parameters bound to the current version of its block; version 0 is the block in memory (R142). -/
def DieSt.bindVersion (x : DieSt) (hdr idx : Nat) (words : List Nat) : DieSt × List Nat × Nat :=
  match x.blocks.find? fun b => b.hdr == hdr && b.idx == idx with
  | none => ({ x with blocks := x.blocks ++ [⟨hdr, idx, 0, [(0, (words, 1))]⟩] }, words, 0)
  | some b =>
    let v := b.versions.look b.cur (words, 0)
    let ws := if b.cur = 0 then words else v.1
    ({ x with blocks := x.blocks.map fun y =>
        if y.hdr = hdr ∧ y.idx = idx then { y with versions := y.versions.put b.cur (ws, v.2 + 1) } else y }, ws, b.cur)

/-- A graph enters a die's list, with the queue's next launch sequence number (R115, R143). -/
def State.addGraph (s : State) (d : Nat) (g : Graph) : State :=
  let n := (s.queue d g.queue).launchSeq + 1
  let s := s.updQueue d g.queue fun q => { q with launchSeq := n }
  s.updDie d fun x => { x with graphs := x.graphs.put x.nextGraph { g with seq := n, left := g.todo.length }, nextGraph := x.nextGraph + 1 }

/-- Whether a task must run on the unit of its queue's binding (R121, R129). -/
def TaskRec.bound (t : TaskRec) : Bool := t.affinity || t.gates.any fun g => g.1 == 1

/-- The nodes of a graph read and bound, or the status it fails with (R115, R142). -/
def State.graphNodes (s : State) (d q va : Nat) (h : GraphHdr) (o : Obj) : State × Except Nat (List Todo × List Nat) :=
  let w := s.whoQ d q
  match s.readVA w h.nodes (16 * h.nnode) with
  | (s, none) => (s, .error 2)
  | (s, some nb) =>
    match s.readVA w h.pblks (64 * h.npblk) with
    | (s, none) => (s, .error 2)
    | (s, some pb) =>
      match nodeRecs o.tasks.length h.npblk h.nnode nb with
      | none => (s, .error 2)
      | some rs =>
        let r := rs.foldl (fun (acc : State × List Todo) x =>
          let (die, ws, v) := (acc.1.die d).bindVersion (hdrKey q va) x.2.1 (wordsOf (slice pb (64 * x.2.1) 64))
          (acc.1.updDie d fun _ => die, acc.2 ++ [⟨x.1, ws, some (hdrKey q va, x.2.1, v), x.2.2⟩])) (s, [])
        (r.1, .ok (r.2, rs.map (·.1)))

/-- LAUNCH or an accepted SPAWN of the graph whose header at `va` holds `b` (R115, R140, R142, R220, R344); none while it waits for
landing slots. A graph that fails has no nodes, binds no parameter version, and its record bears the status; what was read for it counts
(R154). -/
def State.launchGraph (s : State) (d q va : Nat) (b : Bytes) (overlap : Bool) (sp : Option (Nat × Nat × Nat)) : Option State :=
  let h := graphHdr b
  let fails (r : State) (st : Nat) : State :=
    let g : Graph := { queue := q, seq := 0, obj := h.obj, sig := h.sig, overlap := overlap, todo := [], status := st
                       record := decide (h.sig % 32 = 0 ∧ h.sig < 2 ^ 80), spawned := sp }
    (r.updDie d fun x => { x with blocks := (s.die d).blocks }).addGraph d g
  if !h.ok then some (fails s 2)
  else match (s.die d).objs.entry? h.obj with
    | none => some (fails s 6)
    | some o =>
      if !o.refs.contains q then some (fails s 6)
      else match s.graphNodes d q va h o with
        | (r, .error st) => some (fails r st)
        | (s', .ok (todo, ts)) =>
          match s'.bindChans d q h.obj o (ts.any fun t => ((o.tasks[t]?).map TaskRec.bound).getD false) with
          | .wait => none
          | .fail st => some (fails s' st)
          | .done s' => some (s'.addGraph d { queue := q, seq := 0, obj := h.obj, sig := h.sig, overlap := overlap, todo := todo
                                              chans := o.chans.map (·.ch), spawned := sp })

/-- Whether the accesses before a graph's SPAWN have been performed (R178). -/
def State.spawnClear (s : State) (g : Graph) : Bool :=
  match g.spawned with
  | none => true
  | some (u, cid, jid) => !(s.jobsOf u cid).any fun j => decide (j.jid < jid) && !j.performed

/-! ## The window -/

/-- The first graph of a queue with a node yet to enter the window. -/
def DieSt.nextTodo (x : DieSt) (q : Nat) : Option (Nat × Graph) := x.graphs.find? fun g => g.2.queue == q && g.2.todo != []

/-- The queue whose turn it is to enter a node: round-robin by index (R119). -/
def DieSt.turnQ (x : DieSt) : Option Nat :=
  let qs := ((x.graphs.filter fun g => g.2.todo != []).map (·.2.queue))
  let best (l : List Nat) : Option Nat := l.foldl (fun a q => match a with
    | none => some q
    | some b => some (min b q)) none
  (best (qs.filter fun q => decide (x.lastQ < q))).or (best qs)

/-- No graph: what a graph's name reads as when the die has none of it. -/
def Graph.none : Graph := { queue := 0, seq := 0, obj := 0, sig := 0, overlap := false, todo := [] }

/-- A free slot of the window of 256 (R119). -/
def DieSt.freeWin (x : DieSt) : Option Nat := (List.range 256).find? fun n => (x.window.entry? n).isNone

/-- A graph whose node cannot enter the window fails with a status, if it has none yet (R137). -/
def State.failEntry (s : State) (d gk st : Nat) : State :=
  (s.updDie d fun x =>
    { x with graphs := x.graphs.adj gk Graph.none fun g => { g with status := if g.status = 0 then st else g.status, bindWait := false } }).failGraph d gk

/-- NODE_ENTERS_WINDOW (R116-R120): the next node of the queue whose turn it is takes its descriptor. The object of a node of a SPAWN or of a
mailbox may have been unloaded by then: its graph fails with the not-loaded status. DESIGN CHOICE (log 92). -/
def execNodeEntersWindow (d q : Nat) (s : State) : Host.Outcome State Fault Refusal :=
  let x := s.die d
  match decide (x.turnQ = some q), x.freeWin, x.nextTodo q with
  | true, some n, some (gk, g) =>
    let s := s.updDie d fun x => { x with lastQ := q }
    match g.todo, (x.objs.entry? g.obj).bind fun o => ((g.todo.head?).bind fun t => o.tasks[t.task]?).map fun r => (o, r) with
    | _, none => .next (s.failEntry d gk 6)
    | [], _ => .next s
    | t :: ts, some (o, r) =>
      if g.bindWait then
        match s.bindChans d q g.obj o r.bound with
        | .wait => .next s
        | .fail st => .next (s.failEntry d gk st)
        | .done s => .next (s.updDie d fun x =>
            { x with graphs := x.graphs.put gk { g with chans := o.chans.map (·.ch), bindWait := false } })
      else match instFps o r t.params with
      | none => .next (s.failEntry d gk 2)
      | some fps =>
        let deps := (x.window.filter fun e => e.2.queue == q &&
          (fpsOf e.2.fps).any fun a => (fpsOf fps).any fun b => fpClash a b).map (·.1)
        let node : Node := { queue := q, graph := gk, idx := g.entered, obj := g.obj, taskIdx := t.task, desc := ⟨o.base, r, o.poolsOf r⟩
                             params := t.params, fps := fps, sign := t.sign, version := t.version, deps := deps, age := x.nextAge
                             mbox := g.mbox }
        .next (s.updDie d fun x =>
          { x with window := x.window.put n node, nextAge := x.nextAge + 1
                   graphs := x.graphs.put gk { g with todo := ts, entered := g.entered + 1 } })
  | _, _, _ => .next s

/-- Whether the gates of a node hold, in the order declared (R121). -/
def State.gatesHold (s : State) (d : Nat) (n : Node) (t : TaskRec) : Bool :=
  t.gates.all fun g =>
    if g.1 = 0 then true
    else if g.1 = 2 then (((s.die d).graphs.entry? n.graph).map fun x => x.signals.contains g.2.1).getD false
    else match (s.queue d n.queue).binding with
      | some (_, _, unit, _) => match (s.unit (d * 128 + unit)).endpoint with
        | some e => e.queue == n.queue && decide (g.2.2 ≤ e.ctrs.look g.2.1 0)
        | none => false
      | none => false

/-- Whether a node is ready: its edges are released and its gates hold (R121). -/
def State.nodeReady (s : State) (d : Nat) (n : Node) : Bool :=
  n.state == NodeState.waiting && n.deps == [] && n.race.isNone &&
    s.gatesHold d n n.desc.task

/-- The non-fenced unit of a die with the fewest deque entries, the lowest of them (R125). -/
def State.shortest (s : State) (d : Nat) : Option Nat :=
  ((List.range 128).map (d * 128 + ·)).foldl (fun best u =>
    if (s.unit u).fence ≠ 0 then best
    else match best with
      | none => some u
      | some b => if (s.unit u).deque.length < (s.unit b).deque.length then some u else best) none

/-- The unit that R125 chooses for a node. -/
def State.chooseUnit (s : State) (d : Nat) (n : Node) : Option Nat :=
  let ok (u : Nat) : Option Nat := if (s.unit u).fence = 0 then some u else none
  if n.desc.task.bound then
    match (s.queue d n.queue).binding with
    | some (_, _, unit, _) => ok (d * 128 + unit)
    | none => none
  else match n.lastUnit.bind ok with
    | some u => some u
    | none => s.shortest d

/-- While a counter gate does not hold, the deadlines of the landings it waits for run (R350). -/
def State.gateWaits (s : State) (d : Nat) (n : Node) : State :=
  match (s.queue d n.queue).binding with
  | some (_, _, unit, _) =>
    let u := d * 128 + unit
    (n.desc.task.gates.filter fun g => g.1 == 1).foldl (fun s g => match (s.unit u).endpoint with
      | some e => if e.queue ≠ n.queue ∨ g.2.2 ≤ e.ctrs.look g.2.1 0 then s
        else (e.chansOf g.2.1).foldl (fun s c => s.startDeadline u c.1 c.2.nextIn) s
      | none => s) s
  | none => s

/-- NODE_DISPATCH (R125): a ready node is placed on a deque with room, oldest first. A node whose counter gate does not hold starts the
deadlines it waits for. -/
def execNodeDispatch (d n : Nat) (s : State) : Host.Outcome State Fault Refusal :=
  match (s.die d).window.entry? n with
  | none => .next s
  | some x =>
    if !s.nodeReady d x then
      .next (if x.state = .waiting ∧ x.deps = [] then s.gateWaits d x else s)
    else match s.chooseUnit d x with
      | none => .next s
      | some u =>
        let older := (s.die d).window.any fun e => decide (e.2.age < x.age) && s.nodeReady d e.2 && s.chooseUnit d e.2 == some u
        if older ∨ 64 ≤ (s.unit u).deque.length then .next s
        else
          let s := s.updUnit u fun y => { y with deque := y.deque ++ [(n, x.desc.task.prio, x.queue)] }
          .next (s.updDie d fun y =>
            { y with window := y.window.put n { x with state := .queued u, readyAt := x.readyAt.or (some y.cycle) } })

/-! ## Task start -/

/-- The first conflict of a node's records with a task of another queue of the same address space, and the first byte of that overlap
(R124). Of several conflicts it is that of the node's first record, then of the directory's first. DESIGN CHOICE (log 82). -/
def State.raceOf (s : State) (d : Nat) (x : Node) : Option (DirRec × Nat) :=
  (fpsOf x.fps).findSome? fun a => (s.dir.find? fun r =>
    (r.die != d || r.queue != x.queue) && r.space == s.space d x.queue && fpClash a ⟨r.base, r.len, r.mode⟩).map fun r =>
      (r, fpFirst a ⟨r.base, r.len, r.mode⟩)

/-- A context's accumulator banks cleared at its start (R130, R312). -/
def State.grantAccs (s : State) (u cid : Nat) (ns : List Nat) : State :=
  ns.foldl (fun s n =>
    let s := { s with mem := s.mem.writeN (memKey (regAcc u n) 0) (zeros 65536) }
    s.updUnit u fun x => { x with accs := x.accs.put n { owner := some cid } }) s

/-- A context starts in bank `b` of unit `u` with its registers at their start values (R130). -/
def State.startCtx (s : State) (u b : Nat) (c : Ctx) (accs : List Nat) (pt : Map PtEnt) : State :=
  let s := (s.grantAccs u c.cid accs).reserve u pt
  let c := { c with unit := u, banks := accs.length, pt := pt, startCycle := (s.unit u).cycle
                    s := ((List.range 8).map fun i => (i + 1, BitVec.ofNat 64 (nth c.params i))).filter fun e => e.2 ≠ 0 }
  let s := { s with nextCid := s.nextCid + 1 }
  let s := s.updDie c.die fun d => { d with tasksStarted := d.tasksStarted + 1 }
  (s.setCtx u b c).trace u b c 2 c.pc c.pc

/-- TASKID of the next task of a die (R202). -/
def State.nextTask (s : State) (d : Nat) : Nat := d * 2 ^ 30 + (s.die d).tasksStarted % 2 ^ 30

/-- The context of a task's record, before it has a unit. -/
def State.ctxOf (s : State) (d q h ti base : Nat) (t : TaskRec) (params : List Nat) (fps : Map FpRec) : Ctx :=
  { cid := s.nextCid, die := d, queue := q, level := if (s.queue d q).sup then 1 else 0, taskId := s.nextTask d, obj := h, taskIdx := ti
    prio := t.prio, cycles := t.cycles, strict := t.strict, affinity := t.bound, stamps := t.stamps, retain := t.retain
    params := params, fp := fps, pc := base + t.entry }

/-- The landings that a task's counter gates show it at its start take indices, and EFLAGS enters its FLAGS (R351, R371). -/
def State.gateSees (s : State) (u b : Nat) (t : TaskRec) : State :=
  match (s.unit u).endpoint with
  | none => s
  | some e =>
    let chs := (t.gates.filter fun g => g.1 == 1).flatMap fun g => e.chansOf g.2.1
    let obs := (((t.gates.filter fun g => g.1 == 1).flatMap fun g => e.counted g.2.1).map fun x => (x, 7, 0, 0)).foldl
      (fun l x => insObs x l) []
    let (cu, cb) := (s.curU, s.curB)
    let s := { s with curU := u, curB := b }
    let s := obs.foldl (fun s x => s.observe1 7 0 0 x.1) s
    let s := if chs = [] then s else s.orEflags u s.cur.cid
    { s with curU := cu, curB := cb }

/-- A node leaves the deque of the unit that holds it. -/
def State.undeque (s : State) (n : Nat) (x : Node) : State :=
  match x.state with
  | .queued u => s.updUnit u fun y => { y with deque := y.deque.filter fun e => e.1 != n }
  | _ => s

/-- A node started in bank `b` of unit `u`, or held by a race; parameters that are a sealed message's words set TOUCHSEAL (R123, R124, R130, R131, R134, R142, R244). -/
def State.startNode (s : State) (d n u b : Nat) (x : Node) (pt : Map PtEnt) : State :=
  let t := x.desc.task
  let s := s.undeque n x
  match s.raceOf d x with
  | some (r, va) => s.updDie d fun y =>
    { y with window := y.window.put n { x with state := .held, race := some (r.taskId, r.queue, r.die, va) } }
  | none =>
    let tid := s.nextTask d
    let c := { s.ctxOf d x.queue x.obj x.taskIdx x.desc.base t x.params x.fps with
      graph := x.graph, node := n, nodeIdx := x.idx, touchSeal := ((s.die d).graphs.entry? x.graph).any fun g => g.sealed }
    let recs := (fpsOf x.fps).map fun r => (⟨d, x.queue, n, tid, s.space d x.queue, r.base, r.len, r.mode⟩ : DirRec)
    let s := ({ s with dir := s.dir ++ recs }).unbindVersion d x.version
    let s := s.updDie d fun y =>
      { y with window := y.window.put n { x with state := .running u c.cid, taskId := tid, pt := pt, version := none, mbox := none }
               mboxes := match x.mbox with
                 | some m => y.mboxes.adj m {} fun b => { b with pending := b.pending - 1 }
                 | none => y.mboxes }
    (s.startCtx u b c (((s.unit u).freeAccs).take t.banks) pt).gateSees u b t

/-- How a node fits a unit now: its banks, its pools, its SPAWN's accesses (R126, R131, R178). -/
def State.fitNode (s : State) (d u : Nat) (x : Node) : Fit :=
  let clear := (((s.die d).graphs.entry? x.graph).map s.spawnClear).getD true
  match s.fitPools u 0 [] x.desc.pools with
  | .never => .never
  | .later => .later
  | .ok pt => if (s.unit u).freeAccs.length < x.desc.task.banks ∨ !clear then .later else .ok pt

/-- The entries of a deque in the order in which R126 tries them. -/
def UnitSt.tryOrder (x : UnitSt) : List (Nat × Nat × Nat) :=
  [3, 2, 1, 0].flatMap fun p =>
    let es := (x.deque.filter fun e => e.2.1 == p)
    let last := x.served.look p 4096
    let qs := (es.map (·.2.2)).eraseDups.foldl (fun l q => (l.filter (· < q)) ++ [q] ++ (l.filter (q < ·))) []
    let qs := (qs.filter (last < ·)) ++ (qs.filter (· ≤ last))
    qs.flatMap fun q => (es.filter fun e => e.2.2 == q).reverse

/-- What taking a task comes to on the first entry of a list that can start or can never start; none when all must wait. -/
def State.tryStart (s : State) (d u b : Nat) (serve : Bool) : List (Nat × Nat × Nat) → Option State
  | [] => none
  | e :: es =>
    match (s.die d).window.entry? e.1 with
    | none => s.tryStart d u b serve es
    | some x => match s.fitNode d u x with
      | .ok pt =>
        let s := if serve then s.updUnit u fun y => { y with served := y.served.put e.2.1 e.2.2 } else s
        some (s.startNode d e.1 u b x pt)
      | .never => if serve then some (s.failGraph d x.graph) else s.tryStart d u b serve es
      | .later => s.tryStart d u b serve es

/-- Whether a unit takes new work: not fenced, not frozen, its die issuing (R14, R170, R420, R421). -/
def State.takesWork (s : State) (u : Nat) : Bool :=
  (s.unit u).fence == 0 && (s.unit u).freeze == 0 && !(s.die (u / 128)).idle

/-- A start of higher priority that needs a bank requests pre-emption of the live context of lowest priority (R138). -/
def State.wantBank (s : State) (u : Nat) : State :=
  let x := s.unit u
  match x.tryOrder.find? fun e => match ((s.die (u / 128)).window.entry? e.1).map fun n => s.fitNode (u / 128) u n with
    | some (.ok _) => true
    | _ => false with
  | none => s
  | some e =>
    let low := x.liveBanks.foldl (fun (a : Option (Nat × Ctx)) b => match x.ctxs.entry? b, a with
      | some c, none => some (b, c)
      | some c, some (_, m) => if c.prio < m.prio then some (b, c) else a
      | none, _ => a) none
    match low with
    | some (b, c) => if c.prio < e.2.1 ∧ c.status = .live ∧ !c.startup then s.setCtx u b { c with preempt := true } else s
    | none => s

/-- A ready node of a queue that has not started: waiting in the window or on a deque. -/
def State.oldestReady (s : State) (d q : Nat) : Option (Nat × Node) :=
  ((s.die d).window.filter fun e => e.2.queue == q && (s.nodeReady d e.2 || match e.2.state with
    | .queued _ => true
    | _ => false)).foldl (fun a e => match a with
      | none => some e
      | some m => if e.2.age < m.2.age then some e else a) none

/-- Nodes of a die that are ready, on a deque or not, note when they became so (R128). -/
def State.noteReady (s : State) (d : Nat) : State :=
  s.updDie d fun x => { x with window := x.window.mapv fun n =>
    let queued : Bool := match n.state with
      | .queued _ => true
      | _ => false
    if n.readyAt.isNone && (s.nodeReady d n || queued) then { n with readyAt := some x.cycle } else n }

/-- A graph-engine cycle of a die (R128). -/
def State.graphTick (s : State) (d : Nat) : State := (s.noteReady d).updDie d fun x => { x with cycle := x.cycle + 1 }

/-- Since when the oldest ready node of a queue has waited: since it became ready, or since the queue's timer restarted (R128). -/
def State.waitSince (s : State) (d q : Nat) (x : Node) : Nat := max (x.readyAt.getD (s.die d).cycle) (s.queue d q).waitFrom

/-- The graph-engine cycle of a die brought up to a count (R128). -/
def State.clockTo (s : State) (d now : Nat) : State := s.updDie d fun x => { x with cycle := max x.cycle now }


/-- The oldest ready node of a queue started out of turn, once it has waited 2^20 graph-engine cycles of its die, on the first unit that it
fits; the queue's timer restarts (R128). None before, and while it fits none. -/
def State.startStarved (s : State) (d q : Nat) : Option State :=
  match s.oldestReady d q with
  | none => none
  | some (n, x) =>
    if (s.die d).cycle < s.waitSince d q x + 2 ^ 20 then none
    else
      let us := (List.range 128).map (d * 128 + ·)
      let us := if x.desc.task.bound then us.filter fun u => s.chooseUnit d x == some u else us
      us.findSome? fun u => match s.takesWork u, (s.unit u).freeBanks, s.fitNode d u x with
        | true, b :: _, .ok pt => some ((s.startNode d n u b x pt).updQueue d q fun y => { y with waitFrom := (s.die d).cycle })
        | _, _, _ => none

/-- Whether a node of a die that has waited 2^20 cycles is to start next: no other node of the die starts before it (R128). -/
def State.starvedFirst (s : State) (d : Nat) : Bool :=
  (((s.die d).window.map fun e => e.2.queue).eraseDups).any fun q => (s.startStarved d q).isSome

/-- TASK_START (R126): a unit with a free live bank starts the entry of its deque that comes first and fits, unless a starved node comes
first (R128); without a free bank, a higher priority asks for one. -/
def execTaskStart (u : Nat) (s : State) : Host.Outcome State Fault Refusal :=
  if !s.takesWork u then .next s
  else match (s.unit u).freeBanks with
    | b :: _ => .next (if s.starvedFirst (u / 128) then s else (s.tryStart (u / 128) u b true (s.unit u).tryOrder).getD s)
    | [] => .next (if (s.unit u).swap.isSome then s else s.wantBank u)

/-- QUEUE_STARVATION (R128): once the oldest ready node of a queue has waited 2^20 graph-engine cycles of its die, it starts on the first
unit that it fits. The operand is the die's count when the event happens, where that is ahead of the one held. -/
def execQueueStarvation (d q now : Nat) (s : State) : Host.Outcome State Fault Refusal :=
  let s := s.clockTo d now
  .next ((s.startStarved d q).getD s)

/-- Insertion by deque length, the longest first, then by index. -/
def insVictim (s : State) (v : Nat) : List Nat → List Nat
  | [] => [v]
  | w :: ws => if (s.unit w).deque.length < (s.unit v).deque.length ∨
      ((s.unit w).deque.length = (s.unit v).deque.length ∧ v < w) then v :: w :: ws else w :: insVictim s v ws

/-- The entries that a thief may take from a victim, in order: of the highest priority present first, the oldest first (R127). -/
def State.stealOrder (s : State) (d v : Nat) : List (Nat × Nat × Nat) :=
  let es := (s.unit v).deque.filter fun e => match ((s.die d).window.entry? e.1).map fun n => n.desc.task.bound with
    | some b => !b
    | none => false
  [3, 2, 1, 0].flatMap fun p => es.filter fun e => e.2.1 == p

/-- STEAL (R127): a unit with a free bank and no startable entry takes one of its cluster, else of its die. Neither a task stolen nor one
that starts by R128 counts as the queue that the unit served last at its priority (R126). DESIGN CHOICE (log 91). -/
def execSteal (u : Nat) (s : State) : Host.Outcome State Fault Refusal :=
  let d := u / 128
  if !s.takesWork u then .next s
  else match (s.unit u).freeBanks with
    | [] => .next s
    | b :: _ =>
      if s.starvedFirst d || (s.tryStart d u b true (s.unit u).tryOrder).isSome then .next s
      else
        let near := ((List.range 16).map (u / 16 * 16 + ·)).filter fun v => v != u && (s.unit v).deque != []
        let far := ((List.range 128).map (d * 128 + ·)).filter fun v => v / 16 != u / 16 && (s.unit v).deque != []
        let vs := near.foldl (fun l v => insVictim s v l) [] ++ far.foldl (fun l v => insVictim s v l) []
        .next ((vs.findSome? fun v => s.tryStart d u b false (s.stealOrder d v)).getD s)

/-! ## Completion -/

/-- TASK_COMPLETE (R122): once the root has been passed, footprints leave the directory, slots return, successors and the signal are
released. -/
def execTaskComplete (d n : Nat) (s : State) : Host.Outcome State Fault Refusal :=
  match (s.die d).window.entry? n with
  | none => .next s
  | some x => match x.state with
    | .ended u =>
      let s := { s with dir := s.dir.filter fun r => !(r.die == d && r.node == n) }
      let s := s.unreserve u x.pt
      let waited := ((s.die d).window.filter fun e => e.2.deps.contains n).map (·.1)
      let s := (s.updDie d fun y =>
        { y with window := (y.window.del n).mapv fun m =>
                   { m with deps := m.deps.filter (· != n) }
                 graphs := y.graphs.adj x.graph Graph.none fun g =>
                   { g with left := g.left - 1
                            signals := match x.sign with
                              | some k => if g.signals.contains k then g.signals else k :: g.signals
                              | none => g.signals } })
      -- a node that this completion makes ready goes to the unit of its predecessor (R125)
      .next (s.updDie d fun y => { y with window := y.window.map fun e =>
        (e.1, if waited.contains e.1 && s.nodeReady d e.2 then { e.2 with lastUnit := some u } else e.2) })
    | _ => .next s

/-- The residue landings of a graph's channels that no other graph names: counted, observed by no task (R371). -/
def State.residue (s : State) (u : Nat) (chs : List Nat) : List LeafRec :=
  match (s.unit u).endpoint with
  | none => []
  | some e => (e.ends.filter fun x => chs.contains x.1).flatMap fun x =>
    (x.2.landings.filter fun l => l.2.done && !l.2.seen).map fun l => landingLeaf x.2 x.1 l.2 0 7 0 0

/-- A channel end unbound: its landings are released and its slots return (R344). -/
def State.unbindEnd (s : State) (u ch : Nat) : State :=
  match s.end? u ch with
  | none => s
  | some e =>
    let s := e.slots.foldl (fun s t =>
      let s := if (s.slot t).okind = 0 then s else s.release t false false
      s.updSlot t fun x => { x with chan := none }) s
    s.updUnit u fun x => { x with endpoint := x.endpoint.bind fun p =>
      if (p.ends.del ch).isEmpty then none else some { p with ends := p.ends.del ch } }

/-- The unit whose endpoint a queue holds (R343). -/
def State.endpointUnit (s : State) (d q : Nat) : Option Nat :=
  (s.units.find? fun x => match x.2.endpoint with
    | some e => e.die == d && e.queue == q
    | none => false).map (·.1)

/-- The channels of a graph that no other graph of its queue names (R344). -/
def DieSt.ownChans (x : DieSt) (gk : Nat) (g : Graph) : List Nat :=
  g.chans.filter fun c => !x.graphs.any fun h => h.1 != gk && h.2.queue == g.queue && h.2.chans.contains c

/-- The residue of a graph's channels enters its queue's session as a root, and EFLAGS its record (R351, R371); none while the root queue
has no room. The channels that another graph names are left to it. -/
def State.endChans (s : State) (d gk : Nat) (g : Graph) : Option State :=
  let chs := (s.die d).ownChans gk g
  let keep (s : State) (g : Graph) : State := s.updDie d fun x => { x with graphs := x.graphs.put gk { g with chans := chs, residued := true } }
  match s.endpointUnit d g.queue with
  | none => some (keep s { g with chans := [] })
  | some u =>
    if g.chans = [] then some (keep s g)
    else
      let ef := ((s.unit u).endpoint.map (·.eflags)).getD 0
      let ls := s.residue u chs
      let recs := ((List.range ls.length).zip ls).map fun p => { p.2 with idx := p.1 : LeafRec }.bytes
      let g := { g with flags := g.flags ||| ef }
      if ls = [] then some (keep s g)
      else if !s.rootRoom d then none
      else
        let hdr := taskHeader noDigest [] g.seq 0xFFFFFFFF 0xFFFFFFFF ls.length ef 2 6 g.queue s.chipId
        let r := s.passRoot d g.queue hdr recs 2 6
        some (keep r.1 { g with leaf := r.2 })

/-- The ends that no other graph names are unbound once a graph has completed (R344). -/
def State.freeChans (s : State) (d gk : Nat) (g : Graph) : State :=
  let chs := (s.die d).ownChans gk g
  let s := s.updDie d fun x => { x with graphs := x.graphs.put gk { g with chans := [] } }
  match s.endpointUnit d g.queue with
  | none => s
  | some u => chs.foldl (fun s c => s.unbindEnd u c) s

/-- The completion record (R143). -/
def Graph.bytes (g : Graph) : Bytes :=
  leBytes 8 g.seq ++ leBytes 4 g.flags ++ leBytes 4 g.status ++ leBytes 8 g.fences ++ leBytes 8 g.leaf

/-- The record of a graph is written: the SPAWN that it refused signals (R220). -/
def State.refusalRecorded (s : State) (g : Graph) : State :=
  match g.owes with
  | none => s
  | some (u, cid, e) => s.semGain u cid e

/-- Whether every node of a graph has completed or been discarded (R143). -/
def Graph.complete (g : Graph) : Bool := g.left == 0 && g.todo == []

/-- Whether a graph is complete and no write that its tasks have sent over a link is still on its way (R143). -/
def State.graphDone (s : State) (g : Graph) : Bool := g.complete && !g.sent.any fun cid => s.airborne cid s.nextJid

/-- The record of a complete graph is written, or is found not to translate (R143). -/
def State.writeDone (s : State) (d gk : Nat) (g : Graph) : State :=
  match s.writeRec (s.whoQ d g.queue) g.sig g.bytes with
  | (s, true) =>
    let after' (m : Map Graph) : Map Graph := if g.chans = [] then m.del gk else m.put gk { g with record := false }
    (s.updDie d fun y => { y with graphs := after' y.graphs }).refusalRecorded g
  | (s, false) => s.updDie d fun y => { y with graphs := y.graphs.put gk { g with tried := true } }

/-- Whether the residue root of a graph has yet to enter its session's tree, where the root log takes it (R371, log 54). -/
def DieSt.residueWaits (x : DieSt) (g : Graph) : Bool :=
  x.rootQ.any fun r => !r.isSeal && r.status == 2 && r.queue == g.queue && r.idx == g.leaf

/-- GRAPH_COMPLETE (R143, R344, R371): every node has completed or been discarded, and every write has arrived. Its residue is passed for the
session's tree; its record is written once that has entered and those of earlier graphs are written; then its ends are unbound, at once when
the record has to wait. A record that cannot be written stays until XINV or QROOT lets it be tried again. -/
def execGraphComplete (d g : Nat) (s : State) : Host.Outcome State Fault Refusal :=
  match (s.die d).graphs.entry? g with
  | none => .next s
  | some x =>
    let earlier := (s.die d).graphs.any fun e => e.2.queue == x.queue && decide (e.1 < g) && e.2.record
    if !s.graphDone x then .next s
    else match (if x.residued then some s else s.endChans d g x) with
      | none => .next s
      | some s =>
        let x := (s.die d).graphs.look g x
        if x.record ∧ !x.tried ∧ (!earlier ∨ x.overlap) ∧ !(s.die d).residueWaits x then .next (s.writeDone d g x)
        else
          let s := s.freeChans d g x
          .next (if x.record then s else s.updDie d fun y => { y with graphs := y.graphs.del g })

/-- Completion records that could not be written may be tried again (R143). -/
def State.retryRecords (s : State) (d : Nat) : State :=
  s.updDie d fun x => { x with graphs := x.graphs.mapv fun g => { g with tried := false } }

/-! ## SPAWN -/

/-- The header that a SPAWN reads through its record (R220). -/
def State.spawnHeader (s : State) (u : Nat) (j : Job) : State × Job × Except Trap Bytes :=
  match s.element (s.whoJob u j) j.fps j.a (Int.ofNat j.b) 64 .read with
  | (s, .error t) => (s, j, .error t)
  | (s, .ok (ks, _)) =>
    let (s, j) := s.countAccess j 0 ks
    (s, j, .ok (s.mem.readAt ks))

/-- SPAWN_ACCEPTED (R220, R231): the graph is accepted or refused, and the job ends. The signal of a refused one comes with its record,
at once where it has none. DESIGN CHOICE (log 115). -/
def execSpawnAccepted (u j : Nat) (s : State) : Host.Outcome State Fault Refusal :=
  s.onJob u j fun j =>
    if j.kind ≠ .spawn then none
    else (s.ready u j (s.jobKeys u j)).bind fun s => match s.spawnHeader u j with
      | (_, _, .error _) => none
      | (s, j, .ok b) =>
        let gk := (s.die j.die).nextGraph
        (s.launchGraph j.die j.queue (wrapN 80 ((fpOf j.fps j.a).base + j.b : Nat)) b (j.c == 1) (some (u, j.cid, j.jid))).map fun s =>
          let waits := (((s.die j.die).graphs.entry? gk).map fun g => g.status != 0 && g.record).getD false
          if waits then (s.updDie j.die fun x => { x with graphs := x.graphs.adj gk Graph.none fun g =>
              { g with owes := some (u, j.cid, j.sem) } }).dropJob u j.jid
          else s.finishJob u j none 0 0

/-! ## Mailboxes -/

/-- A message reaches a mailbox: queued with its one-node graph, served by the tree engine, or refused (R134, R381, R407). -/
def State.accept (s : State) (d mb : Nat) (bs : Bytes) (sealed : Bool := false) : Option State :=
  let x := s.die d
  if mb = 1023 then none
  else if x.serves && ((x.aud.map (·.mb)) == some mb) then
    if isNodeRequest bs then some { s with agenda := s.agenda ++ [.auditNodeRequest d bs] } else none
  else
    let m := x.mboxes.look mb {}
    match m.bound with
    | none => none
    | some (q, h, ti) =>
      if 16 ≤ m.pending then none
      else match x.objs.entry? h with
        | none => none
        | some o =>
          let g : Graph := { queue := q, seq := 0, obj := h, sig := 0, overlap := false, todo := [⟨ti, wordsOf bs, none, none⟩]
                             record := false, mbox := some mb, sealed := sealed }
          let count (s : State) : State :=
            s.updDie d fun y => { y with mboxes := y.mboxes.adj mb {} fun b => { b with pending := b.pending + 1 } }
          -- the message is queued; a graph whose channels fail to bind fails with their status, one that lacks slots waits (log 50)
          some (match s.bindChans d q h o (((o.tasks[ti]?).map TaskRec.bound).getD false) with
            | .done s => (count s).addGraph d { g with chans := o.chans.map (·.ch) }
            | .wait => (count s).addGraph d { g with bindWait := true }
            | .fail st => s.addGraph d { g with todo := [], status := st })

/-- SERIF_MAILBOX (R134, R342): a received message is queued or refused. -/
def execSerifMailbox (port : Nat) (p : Packet) (s : State) : Host.Outcome State Fault Refusal :=
  if p.kind ≠ 5 then .next s
  else .next (s.receive port p fun s => (s.accept (fld p.n 10 2) (fld p.n 0 10) p.payload).getD (s.refuse port p))

/-- Whether message `i` may be delivered: no earlier one of the same sender stands before it for the same mailbox. -/
def State.msgFirst (s : State) (i : Nat) (m : Msg) : Bool :=
  !(s.msgs.take i).any fun x => x.die == m.die && x.mb == m.mb && x.cid == m.cid

/-- A message leaves the list, accepted or refused; its job ends (R134, R135, R360). -/
def State.deliver (s : State) (i : Nat) (m : Msg) (r : Option State) : State :=
  let drop (s : State) : State := { s with msgs := s.msgs.eraseIdx i }
  match r with
  | none => (drop s).refused m.job m.cid
  | some s =>
    let s := drop s
    match m.job with
    | some (u, jid) => match s.job? u jid with
      | some j => s.finishJob u j none 0 0
      | none => s
    | none => s

/-- Which configuration request a message is: 1 SETCHIP, 2 SETROUTE, 3 RETRAIN; 0 none that is served (R407). -/
def Msg.request (m : Msg) : Nat := if m.mb = 1023 ∧ m.sup ∧ leAt m.bytes 0 1 ≤ 3 then leAt m.bytes 0 1 else 0

/-- MBOX_LOCAL_DELIVERY (R134, R135, R360): a message of this module reaches its mailbox; configuration requests are served by events of
their own (R407). -/
def execMboxLocalDelivery (i : Nat) (s : State) : Host.Outcome State Fault Refusal :=
  match s.msgs[i]? with
  | none => .next s
  | some m => if m.request ≠ 0 ∨ !s.msgFirst i m then .next s else .next (s.deliver i m (s.accept m.die m.mb m.bytes m.sealed))

/-! ## Handlers -/

/-- The handler of a die with what it starts with: s1, s2 and s3 (R225); s1 holds the low 64 bits of the record's virtual address, which has 80.
DESIGN CHOICE (log 111). -/
def State.handlerCtx (s : State) (d h : Nat) (t : TaskRec) (s1 s2 s3 : Nat) : Option Ctx :=
  ((s.die d).objs.entry? h).map fun o =>
    let ps := [s1 % 2 ^ 64, s2, s3]
    { s.ctxOf d (s.die d).trapQ h ((s.die d).trapH / 2 ^ 32) o.base t ps ((instFps o t ps).getD []) with level := 1 }

/-- The pools of a handler: all of them or none (R225). -/
def State.handlerPools (s : State) (u h : Nat) (t : TaskRec) : Map PtEnt :=
  match (s.die (u / 128)).objs.entry? h with
  | some o => match s.fitPools u 0 [] (o.poolsOf t) with
    | .ok pt => pt
    | _ => []
  | none => []

/-- The target word of a parked context for its handler (R225, R233). -/
def targetWord (u b : Nat) : Nat := 0xFFFFFFFF * 2 ^ 32 + 2 ^ 11 + b * 2 ^ 9 + u % 128

/-- Whether a handler of a context is active on a unit. -/
def UnitSt.handling (x : UnitSt) : Bool := x.ctxs.any fun e => match e.2.handles with
  | some (some _) => true
  | _ => false

/-- Whether a parked context waits for a handler, and it is the first in a live bank of its unit to have parked (R225). -/
def UnitSt.firstParked (x : UnitSt) (b : Nat) : Bool :=
  let waits (c : Ctx) : Bool := match c.status with
    | .parked _ _ _ false => true
    | _ => false
  match x.ctxs.entry? b with
  | none => false
  | some c => waits c && !x.ctxs.any fun e => e.1 != b && x.liveBanks.contains e.1 && waits e.2 &&
    (decide (e.2.parkedAt < c.parkedAt) || (e.2.parkedAt == c.parkedAt && decide (e.1 < b)))

/-- Where the context in the shadow goes before a handler loads: the unit's reserved save slot, or, while that still holds the context
of an earlier spill, the lowest unreserved slot that is free (R225, R236; log 76). -/
def DieSt.spillSlot (d : DieSt) (u : Nat) : Option Nat := if (d.saved.entry? (u % 128)).isNone then some (u % 128) else d.freeSave

/-- The handler of a parked context launched on the shadow, whose context is spilled first (R225). -/
def State.launchHandler (s : State) (u b : Nat) : State :=
  let x := s.unit u
  let d := u / 128
  match x.ctxs.entry? b, (s.die d).trapTask with
  | some c, some (h, t) =>
    match c.status with
    | .parked r res brk false =>
      if x.handling || x.swap.isSome || !x.liveBanks.contains b || !x.firstParked b ||
          ((x.ctxs.entry? x.shadow).isSome && ((s.die d).spillSlot u).isNone) then s
      else
        let s := match x.ctxs.entry? x.shadow with
          | some o =>
            let s := s.landAllVecs u o.cid
            let o := (s.ctxAt u x.shadow).quiesce
            (s.saveTo d (((s.die d).spillSlot u).getD 0) o).updUnit u fun y => { y with ctxs := y.ctxs.del x.shadow }
          | none => s
        match s.handlerCtx d h t ((s.die d).trapSlot u b) (targetWord u b) (leAt r 0 1) with
        | none => s
        | some hc =>
          let s := s.setCtx u b { (s.heard u c) with status := .parked r res brk true }
          let s := s.startCtx u x.shadow { hc with handles := some (some c.cid) } [] (s.handlerPools u h t)
          (s.trace u b c 6 c.pc hc.pc).swapIn u x.shadow b
    | _ => s
  | _, _ => s

/-- The record of a race (R124, R225, R228). The held task has not started, so it has no TASKID yet (R202): bytes 48-51 are 0. DESIGN
CHOICE (log 90). -/
def raceRecord (u b n : Nat) (x : Node) (r : Nat × Nat × Nat × Nat) : Bytes :=
  layout 128 [(0, leBytes 1 0x11), (1, leBytes 1 1), (2, leBytes 1 0xFF), (4, leBytes 1 7), (5, leBytes 1 4), (7, leBytes 1 b),
    (24, leBytes 10 r.2.2.2), (44, leBytes 4 n), (48, leBytes 4 x.taskId), (52, leBytes 2 x.queue), (54, leBytes 2 u),
    (72, leBytes 4 r.1), (76, leBytes 2 (r.2.1 + r.2.2.1 * 2 ^ 12))]

/-- The handler of a race starts in a free live bank of the unit that R125 chooses, without a swap (R124, R225). -/
def State.launchRace (s : State) (d n u : Nat) : State :=
  match (s.die d).window.entry? n, (s.unit u).freeBanks with
  | some x, b :: _ =>
    match x.race, decide (s.chooseUnit d x = some u) with
    | some r, true =>
      let rec' := raceRecord u b n x r
      let s := s.updDie d fun y => { y with window := y.window.put n { x with race := none } }
      let w := s.writeVA { unit := u, space := s.space d (s.die d).trapQ } ((s.die d).trapSlot u b) rec'
      match (s.die d).trapTask, w.2 with
      | some (h, t), true =>
        match w.1.handlerCtx d h t ((s.die d).trapSlot u b) 0x1000 0x11 with
        | some hc => w.1.startCtx u b { hc with handles := some none } [] (w.1.handlerPools u h t)
        | none => w.1.toSecurity u rec'
      | _, _ => s.toSecurity u rec'
    | _, _ => s
  | _, _ => s

/-- HANDLER_LAUNCH (R124, R225). -/
def execHandlerLaunch (w : HandlerFor) (s : State) : Host.Outcome State Fault Refusal :=
  match w with
  | .parked u b => if (s.unit u).freeze ≠ 0 then .next s else .next (s.launchHandler u b)
  | .race d n u => if (s.unit u).freeze ≠ 0 then .next s else .next (s.launchRace d n u)

/-! ## Swaps -/

/-- The end of a swap (R133): the banks issue again, and the spill engine takes the context that left (R236). -/
def State.endSwap (s : State) (u : Nat) : State := (s.updUnit u fun x => { x with swap := none }).spillShadow u

/-- CONTEXT_SWAP_COMPLETE (R133): after 24 cycles the swapped-in bank may issue; not in a freeze (R170). -/
def execContextSwapComplete (u : Nat) (s : State) : Host.Outcome State Fault Refusal :=
  match (s.unit u).swap with
  | some w => .next (if w.left = 0 ∧ (s.unit u).freeze = 0 then s.endSwap u else s)
  | none => .next s

/-- A saved context of a unit, and its slot. -/
def DieSt.savedOf (d : DieSt) (u : Nat) : Option (Nat × Ctx) := d.saved.find? fun e => e.2.unit == u && e.2.startable

/-- The tiles that a context's rings hold, each with its ring (R315). -/
def Ctx.ringTiles (c : Ctx) : List (Nat × Nat) := (List.range 8).flatMap fun r => (c.rings.look r {}).handles.map fun h => (r, h)

/-- Whether a saved context may resume on another unit `u` of its die: it has no affinity, every job of it has completed, neither unit is
frozen, the unit takes work and has the accumulator banks, and the pads of its pool table and of its rings' tiles are `u`'s own (R129,
R138, R170, R236). DESIGN CHOICE (log 40): the spec does not say how a tile of a unit pad would follow. -/
def State.migrates (s : State) (u : Nat) (c : Ctx) : Bool :=
  c.unit != u && !c.affinity && !c.startup && c.handles.isNone && c.status == CtxStatus.live && (s.jobsOf c.unit c.cid).isEmpty &&
    (s.unit u).fence == 0 && (s.unit u).freeze == 0 && (s.unit c.unit).freeze == 0 && decide (c.banks ≤ (s.unit u).freeAccs.length) &&
    (c.pt.all fun e => !e.2.valid || padIdx u e.2.level == padIdx c.unit e.2.level) &&
    c.ringTiles.all fun x => placeOf u x.2 == placeOf c.unit x.2

/-- A saved context in slot `k` moves to unit `u` (R236): the spill engine writes its accumulator banks to the slot, and they are loaded
into free banks of the unit, the bank that mp5 names among them (R312). The tiles of its rings take the new UNITID in their OID (R159).
DESIGN CHOICE (log 40). -/
def State.migrate (s : State) (u k : Nat) (c : Ctx) : State :=
  let v := c.unit
  let olds := (List.range c.banks).map fun n => (s.unit v).physAcc c n
  let news := (s.unit u).freeAccs.take c.banks
  let s := ((List.range c.banks).zip (olds.zip news)).foldl (fun s x =>
    let bs := s.mem.readN (memKey (regAcc v x.2.1) 0) 65536
    let a := (s.unit v).accs.look x.2.1 {}
    let s := s.saveBytes (u / 128) k (4096 + x.1 * 65536) bs
    let s := { s with mem := s.mem.writeN (memKey (regAcc u x.2.2) 0) bs }
    (s.updUnit v fun y => { y with accs := y.accs.put x.2.1 {} }).updUnit u fun y => { y with accs := y.accs.put x.2.2 a }) s
  let s := c.ringTiles.foldl (fun s x => s.updSlot (placeOf u x.2) fun y =>
    if y.okind = 2 ∧ y.oid = v * 8 + x.1 ∧ y.gen = fld x.2 0 12 then { y with oid := u * 8 + x.1 } else y) s
  let last := c.lastAcc.map fun n => ((olds.zip news).find? fun x => x.1 == n).elim n (·.2)
  s.updDie (u / 128) fun d =>
    { d with saved := d.saved.put k { c with unit := u, lastAcc := last }
             window := d.window.mapv fun n => if n.state = .running v c.cid then { n with state := .running u c.cid } else n }

/-- Whether a live bank may be given up for the shadow: it is empty, or its context has been stalled on a wait for more than 256 cycles
and stands at a group boundary with no shape shadow open (R133, R250). -/
def State.mayGive (s : State) (u b : Nat) : Bool :=
  match (s.unit u).ctxs.entry? b with
  | none => true
  | some c => c.startable && (decide (256 < c.stall) || c.swapDue) && !c.shapeOpen && (s.die (u / 128)).freeSave.isSome &&
    match c.pres with
    | some p => !p.started && c.grpFrom == some p.addr
    | none => c.grpFrom.isNone

/-- STALL_SWAP (R133): the shadow's context takes live bank `b`, whose own context, stalled for more than 256 cycles, takes the shadow.
While the shadow is empty, a saved context of the unit comes back to it first, or one of another unit of the die that may migrate
(R138, R236). A saved context of a fenced unit comes back to it as well and goes on: a fence keeps new work away (R14, R136). DESIGN CHOICE
(log 35). -/
def execStallSwap (u b : Nat) (s : State) : Host.Outcome State Fault Refusal :=
  let x := s.unit u
  let d := u / 128
  if x.swap.isSome ∨ x.freeze ≠ 0 ∨ !x.liveBanks.contains b ∨ !s.mayGive u b then .next s
  else match x.ctxs.entry? x.shadow with
    | none => match (s.die d).savedOf u with
      | some (k, c) => .next ((s.setCtx u x.shadow c).updDie d fun y => { y with saved := y.saved.del k })
      | none => match (s.die d).saved.find? fun e => s.migrates u e.2 with
        | some (k, c) => .next (s.migrate u k c)
        | none => .next s
    | some c =>
      if !c.startable then .next s
      else
        let s := match x.ctxs.entry? b with
          | some o =>
            let s := s.landAllVecs u o.cid
            let s := s.setCtx u b { (s.ctxAt u b).quiesce with stall := 0, swapDue := false }
            s.trace u b o 6 o.pc c.pc
          | none => s
        .next (s.swapIn u x.shadow b)

end Sys2Proof.Machine
end

