-- ==== Sys2Proof/Machine/System.lean ====
section
/-!
DEFINITION. The system class: traps by instruction, return, control and status registers, job resumption, context control and debug
capabilities (10_system_class.md R223-R243).
-/
namespace Sys2Proof.Machine

/-! ## Capabilities -/

/-- An entry of a die's capability table; entries below 4,096 are the roots (R242). -/
def DieSt.cap (d : DieSt) (i : Nat) : Cap :=
  if i < 4096 then ⟨true, i, i, 63, 0, d.rootGens.look i 0⟩ else d.caps.look i ⟨false, 0, 0, 0, 0, 0⟩

/-- The lowest free derived entry (R242). -/
def DieSt.freeCap (d : DieSt) : Option Nat := ((List.range 4096).map (4096 + ·)).find? fun i => !(d.cap i).valid

/-- The derived entries that descend from an entry; the first argument bounds the generations (R242). -/
def DieSt.under (d : DieSt) : Nat → List Nat → List Nat
  | 0, l => l
  | f + 1, l =>
    let more := ((d.caps.filter fun e => e.2.valid && l.contains e.2.parent && !l.contains e.1).map (·.1))
    if more = [] then l else d.under f (l ++ more)

/-- Everything derived from an entry becomes invalid (R242). -/
def DieSt.cutUnder (d : DieSt) (i : Nat) : DieSt :=
  let l := (d.under 4096 [i]).filter (· ≠ i)
  { d with caps := d.caps.map fun e => (e.1, if l.contains e.1 then { e.2 with valid := false } else e.2) }

/-- Whether capability `i` gives right `r` on a queue (R233, R242). -/
def DieSt.gives (d : DieSt) (i r q : Nat) : Bool := decide (i < 8192) && (d.cap i).valid && bit (d.cap i).rights r && (d.cap i).target == q

/-- INFO's word (R242). -/
def Cap.word (c : Cap) : Nat :=
  (if c.valid then 1 else 0) + c.target * 2 + c.holder * 2 ^ 13 + c.rights * 2 ^ 25 + c.parent * 2 ^ 31 + c.gen * 2 ^ 44

/-- The slot of CAPOP DERIVE (R242). -/
def semCapopDerive (qp sd sa sb rights : Nat) : SlotSem :=
  { i := .capopDerive qp sd sa sb rights, q := qp
    check := fun s => if ((s.die s.cur.die).cap (fld (s.cur.rs sa).toNat 0 13)).valid then none else some (trapOf 3 4)
    eff := fun s =>
      let c := s.cur
      let d := s.die c.die
      let p := fld (c.rs sa).toNat 0 13
      let h := fld (c.rs sb).toNat 0 12
      let s := s.updCur fun c => c.write (c.ds sd) (d.freeCap.getD 0xFFFFFFFF) 1
      match d.freeCap with
      | none => s
      | some i => s.updDie c.die fun x =>
        { x with caps := x.caps.put i ⟨true, (d.cap p).target, h, rights &&& (d.cap p).rights, p, (d.cap i).gen⟩ } }
/-- CAPOP DERIVE (R242). -/
def execCapopDerive (qp sd sa sb rights : Nat) (s : State) : Host.Outcome State Fault Refusal :=
  s.issuePriv (semCapopDerive qp sd sa sb rights)

/-- REVOKE cuts what is derived from an entry (R242). -/
def DieSt.revoke (x : DieSt) (i : Nat) : DieSt :=
  let x := if i < 4096 then { x with rootGens := x.rootGens.adj i 0 fun g => (g + 1) % 2 ^ 16 }
    else { x with caps := x.caps.adj i ⟨false, 0, 0, 0, 0, 0⟩ fun c => { c with gen := (c.gen + 1) % 2 ^ 16 } }
  x.cutUnder i

/-- The slot of CAPOP REVOKE (R242, R424): it cuts in its first cycle; no use of the entries it cuts is in progress between operations, so
its own wait is over at once. -/
def semCapopRevoke (qp sd sa sb : Nat) : SlotSem :=
  { i := .capopRevoke qp sd sa sb, q := qp
    check := fun s => let i := (s.cur.rs sa).toNat
                      if i < 8192 ∧ ((s.die s.cur.die).cap i).valid then none else some (trapOf 3 4)
    start := some fun s => s.updDie s.cur.die fun x => x.revoke (s.cur.rs sa).toNat
    eff := fun s => s.updCur fun c => c.write (c.ds sd) 0 1 }
/-- CAPOP REVOKE (R242). -/
def execCapopRevoke (qp sd sa sb : Nat) (s : State) : Host.Outcome State Fault Refusal := s.issuePriv (semCapopRevoke qp sd sa sb)

/-- The slot of CAPOP INFO (R242). -/
def semCapopInfo (qp sd sa sb : Nat) : SlotSem :=
  { i := .capopInfo qp sd sa sb, q := qp
    check := fun s => if (s.cur.rs sa).toNat < 8192 then none else some (trapOf 3 4)
    eff := fun s => let w := ((s.die s.cur.die).cap (s.cur.rs sa).toNat).word
                    s.updCur fun c => c.write (c.ds sd) w 1 }
/-- CAPOP INFO (R242). -/
def execCapopInfo (qp sd sa sb : Nat) (s : State) : Host.Outcome State Fault Refusal := s.issuePriv (semCapopInfo qp sd sa sb)

/-- The slot of CAPOP FREE (R242). -/
def semCapopFree (qp sd sa sb : Nat) : SlotSem :=
  { i := .capopFree qp sd sa sb, q := qp
    check := fun s => let i := (s.cur.rs sa).toNat
                      if 4096 ≤ i ∧ i < 8192 then none else some (trapOf 3 4)
    eff := fun s =>
      let i := (s.cur.rs sa).toNat
      s.updDie s.cur.die fun x =>
        let x := x.cutUnder i
        { x with caps := x.caps.map fun e => (e.1, if e.1 = i then { e.2 with valid := false } else e.2) } }
/-- CAPOP FREE (R242). -/
def execCapopFree (qp sd sa sb : Nat) (s : State) : Host.Outcome State Fault Refusal := s.issuePriv (semCapopFree qp sd sa sb)

/-! ## Statistics of completed tasks -/

/-- The statistics records of a queue on a die, by unit and age. -/
def State.statsOf (s : State) (d q : Nat) : List (Nat × StatRec) :=
  ((List.range 128).map (d * 128 + ·)).flatMap fun u => ((s.unit u).stats.filter fun r => r.queue == q).map fun r => (u, r)

/-- The oldest of them that belongs to a completed task (R238). -/
def State.doneStat (s : State) (d q : Nat) : Option (Nat × StatRec) :=
  ((s.statsOf d q).filter fun e => !s.taskLive e.1 e.2.taskId).foldl (fun a e => match a with
    | none => some e
    | some m => if e.2.age < m.2.age then some e else a) none

/-- STATRD's check: the STATS right, and records of completed tasks where there are records (R238). -/
def State.statTrap (s : State) (d cap : Nat) : Option Trap :=
  let x := s.die d
  if 8192 ≤ cap then some (trapOf 3 4)
  else if !(x.cap cap).valid || !bit (x.cap cap).rights 1 then some (trapOf 4 1)
  else
    let q := (x.cap cap).target
    if s.statsOf d q ≠ [] ∧ (s.doneStat d q).isNone then some (trapOf 4 1) else none

/-- The pop of STATRD: bytes 0-7, with bytes 8-15 latched (R238). One that finds no record leaves the latch. DESIGN CHOICE (log 119). -/
def State.popStat (s : State) (d cap : Nat) : State × Nat :=
  match s.doneStat d ((s.die d).cap cap).target with
  | none => (s, 0)
  | some (u, r) =>
    let s := s.updUnit u fun x => { x with stats := x.stats.erase r }
    (s.updDie d fun x => { x with stat1 := r.words.2 }, r.words.1)

/-! ## What control and status registers do -/

/-- Invalidation of the translation buffers of a die's units (R239). -/
def State.xinv (s : State) (d idx val : Nat) : State :=
  let sp := s.space d (fld idx 0 12)
  let va := val * 2 ^ 16
  let s := ((List.range 128).map (d * 128 + ·)).foldl (fun s u =>
    if (s.unit u).tlb = [] then s
    else s.updUnit u fun x => { x with tlb := x.tlb.filter fun e =>
      !(e.space == sp && (bit idx 12 || (decide (e.va ≤ va) && decide (va < e.va + e.span)))) }) s
  s.retryRecords d

/-- QROOT written (R143, R148). -/
def State.setQroot (s : State) (d q val : Nat) : State := (s.updQueue d q fun x => { x with root := val }).retryRecords d

/-- The node of a window slot that a race holds (R124, R238). -/
def State.heldNode (s : State) (d n : Nat) : Option Node :=
  ((s.die d).window.entry? n).filter fun x => x.state == NodeState.held

/-- A held node is released: it is dispatched again (R124). -/
def State.releaseNode (s : State) (d n : Nat) : State :=
  match s.heldNode d n with
  | some x => s.updDie d fun y => { y with window := y.window.put n { x with state := .waiting, race := none } }
  | none => s

/-- The graph of a held node fails (R124, R137). -/
def State.failNode (s : State) (d n : Nat) : State :=
  match s.heldNode d n with
  | some x => s.failGraph d x.graph
  | none => s

/-- A unit's fence is cleared, whatever its reason has become since; a handler that a nested fault has parked and the context parked for
it end as failed (R226, R238). -/
def State.ufenceClear (s : State) (u : Nat) : State :=
  let x := s.unit u
  let hs := (x.ctxs.map (·.2)).filter fun c => c.handles.isSome && match c.status with
    | .parked .. => true
    | _ => false
  let s := s.updUnit u fun x => { x with fence := 0, memue := false }
  hs.foldl (fun s c =>
    let s := match c.handles with
      | some (some p) => s.killCtx u p
      | _ => s
    s.killCtx u c.cid) s

/-- A queue goes from disabled to enabled: a new session starts, HEAD meets TAIL (R374, R402); not on a die whose bring-up has ended at a fault
(R420). -/
def State.enableQueue (s : State) (d q : Nat) : State :=
  if (s.die d).halted then s
  else
    let n := (s.die d).sessions + 1
    let s := s.updDie d fun x => { x with sessions := n, sess := x.sess.put n { queue := q } }
    s.updQueue d q fun x => { x with en := true, sess := n, stopped := false, head := x.tail, launchSeq := 0 }

/-- What a queue is about: a LOAD or a SEAL at its HEAD (R402). -/
def QueueSt.inHand (x : QueueSt) : List Stray :=
  (x.loading.map fun l => Stray.load l.1 l.2 x.head).toList ++ (x.sealing.map fun r => Stray.seal x.sess r x.head).toList

/-- A queue goes from enabled to disabled: roots without a seal are sealed, its endpoint binding ends (R345, R375). A LOAD or a SEAL that it
is about ends with its record and leaves HEAD. DEDUCED (log 99). -/
def State.disableQueue (s : State) (d q : Nat) : State :=
  let s := if (s.die d).aud.isSome && (s.die d).unsealed q != 0 then s.updDie d fun x => x.putSeal q 0 else s
  s.updQueue d q fun x =>
    { x with en := false, binding := none, strays := x.strays ++ x.inHand, loading := none, sealing := none, seen := none }

/-- QCTL written (R238). -/
def State.setQctl (s : State) (d q val : Nat) : State :=
  let s := s.updQueue d q fun x => { x with sup := bit val 1 }
  match (s.queue d q).en, bit val 0 with
  | false, true => s.enableQueue d q
  | true, false => s.disableQueue d q
  | _, _ => s

/-- The pad that a POOLCFG index names on a die, with the space that its pools have (R156, R238). -/
def poolPad (d idx : Nat) : Option (Nat × Nat) :=
  let p := fld idx 4 10
  match fld idx 14 2 with
  | 0 => if p < 128 then some (d * 128 + p, 2 * 2 ^ 20) else none
  | 1 => if p < 8 then some (512 + d * 8 + p, 12 * 2 ^ 20) else none
  | 2 => if p = 0 then some (544 + d, 64 * 2 ^ 20) else none
  | _ => none

/-- Whether no slot of a pad is allocated or reserved (R156). -/
def PadSt.idle (x : PadSt) : Bool :=
  x.slots.all (fun e => e.2.okind == 0 && !e.2.busy && e.2.chan.isNone) && x.resv.all fun e => e.2 == 0

/-- Whether a POOLCFG write is allowed (R156, R238). -/
def State.poolOk (s : State) (d idx val : Nat) : Bool :=
  match poolPad d idx with
  | none => false
  | some (p, space) =>
    let x := s.pad p
    let lg := fld val 0 5
    let n := fld val 5 15
    let base := fld val 20 28 * 512
    decide (val < 2 ^ 48) && x.idle &&
      (lg == 0 || (decide (9 ≤ lg) && decide (lg ≤ 18) && decide (1 ≤ n) && decide (n ≤ 16384) && base % 2 ^ lg == 0 &&
        decide (base + n * 2 ^ lg ≤ space) && x.pools.all fun e => e.1 == fld idx 0 4 ||
          (decide (e.2.base * 512 + e.2.count * 2 ^ e.2.log2 ≤ base) || decide (base + n * 2 ^ lg ≤ e.2.base * 512))))

/-- POOLCFG written: the pool is made, with every slot at generation 1, or goes (R156, R158); of one that goes, the count and the base are not kept,
and the register reads 0. DESIGN CHOICE (log 107). -/
def State.setPool (s : State) (d idx val : Nat) : State :=
  match poolPad d idx with
  | none => s
  | some (p, _) =>
    let k := fld idx 0 4
    s.updPad p fun x =>
      { x with slots := x.slots.filter fun e => e.1 / 16384 != k
               pools := if fld val 0 5 = 0 then x.pools.del k else x.pools.put k ⟨fld val 0 5, fld val 5 15, fld val 20 28⟩ }

/-- UFENCE as it reads (R238). -/
def UnitSt.fenceWord (x : UnitSt) : Nat := if x.fence = 0 then 0 else 1 + 2 * x.fence

/-! ## Reading and writing them -/

/-- The number of indices of an indexed register, 0 for one without an index; none for a number not in the table (R238). -/
def csrIndex (n : Nat) : Option Nat :=
  if [0, 1, 2, 3, 4, 0x30, 0x31, 0x33, 0x41, 0x42, 0x50, 0x52].contains n then some 0
  else if 0x10 ≤ n ∧ n ≤ 0x16 then some 4096
  else match n with
    | 0x20 => some 65536
    | 0x32 => some 128
    | 0x34 => some 5
    | 0x35 => some 128
    | 0x40 => some 8192
    | 0x51 => some 8192
    | _ => none

/-- Whether an index is in range; a POOLCFG index must also name a pad of the die (R238). -/
def csrIdxOk (d n idx : Nat) : Bool :=
  match csrIndex n with
  | none => false
  | some 0 => true
  | some k => decide (idx < k) && (n != 0x20 || (poolPad d idx).isSome)

/-- The value that a register reads (R238); STATRD apart. -/
def State.csr (s : State) (d : Nat) (level n idx : Nat) : Nat :=
  let x := s.die d
  let q := s.queue d idx
  match n with
  | 0 => level
  | 1 => x.trapH
  | 2 => x.trapVA
  | 3 => x.trapQ
  | 4 => x.faultMB
  | 0x10 => (if q.en then 1 else 0) + if q.sup then 2 else 0
  | 0x11 => q.root
  | 0x12 => q.w1 + q.w2 * 2 ^ 32
  | 0x13 => q.w3
  | 0x14 => q.dbg
  | 0x15 => q.dbgPtr
  | 0x16 => q.notify
  | 0x20 => match poolPad d idx with
    | none => 0
    | some (p, _) => match (s.pad p).pools.entry? (fld idx 0 4) with
      | some c => c.log2 + c.count * 2 ^ 5 + c.base * 2 ^ 20
      | none => 0
  | 0x30 => x.locReq
  | 0x31 => x.remReq
  | 0x32 => (s.unit (d * 128 + idx)).secorr
  | 0x33 => Config.hbmCap
  | 0x34 => Config.lp6Cap
  | 0x35 => (s.unit (d * 128 + idx)).fenceWord
  | 0x41 => x.savePA
  | 0x42 => x.saveN
  | 0x52 => x.stat1
  | _ => 0

/-- The checks of CSRR (R238). -/
def State.csrrTrap (s : State) (d n idx : Nat) : Option Trap :=
  if !csrIdxOk d n idx || n == 0x40 || n == 0x50 then some (trapOf 3 4)
  else if n = 0x51 then s.statTrap d idx else none

/-- The slot of CSRR, bound 96 (R238). -/
def semCsrr (qp sd sa csr : Nat) : SlotSem :=
  { i := .csrr qp sd sa csr, q := qp
    check := fun s => s.csrrTrap s.cur.die csr (s.cur.rs sa).toNat
    eff := fun s =>
      let idx := (s.cur.rs sa).toNat
      let (s, v) := if csr = 0x51 then s.popStat s.cur.die idx else (s, s.csr s.cur.die s.cur.level csr idx)
      s.updCur fun c => c.write (c.ds sd) v 96 }
/-- CSRR (R238). -/
def execCsrr (qp sd sa csr : Nat) (s : State) : Host.Outcome State Fault Refusal := s.issuePriv (semCsrr qp sd sa csr)

/-- Whether a place and a physical address field hold nothing reserved: bits `lo` to 51 for the address (R152, R238). -/
def placeOk (v lo hi : Nat) : Bool := fld v 0 3 != 7 && fld v 3 (lo - 3) == 0 && decide (v < 2 ^ hi)

/-- Registers that CSRW may write (R238). -/
def csrWritable (n : Nat) : Bool := [1, 2, 3, 4, 0x10, 0x11, 0x12, 0x13, 0x14, 0x16, 0x20, 0x35, 0x40, 0x41, 0x42, 0x50].contains n

/-- Whether a register may hold a value (R238). -/
def State.csrValOk (s : State) (d n idx val : Nat) : Bool :=
  let q := s.queue d idx
  match n with
  | 1 => decide (val < 2 ^ 48)
  | 3 => decide (val < 4096)
  | 4 => decide (val < 1024)
  | 0x10 => decide (val < 4)
  | 0x11 => placeOk val 17 52
  | 0x12 => decide (val % 2 ^ 32 ≤ val / 2 ^ 32) && decide (val / 2 ^ 32 ≤ q.w3)
  | 0x13 => decide (val < 2 ^ 32) && decide (q.w2 ≤ val)
  | 0x14 => fld val 0 3 != 7 && fld val 9 7 == 0 && decide (val < 2 ^ 52)
  | 0x16 => decide (val < 2 ^ 13)
  | 0x20 => s.poolOk d idx val
  | 0x35 => val == 0 || val == 9
  | 0x41 => placeOk val 16 52
  | 0x42 => decide (128 ≤ val) && decide (val < 65536)
  | 0x50 => decide (val < 1024) && (fld val 8 2 == 1 || fld val 8 2 == 2) && (s.heldNode d (fld val 0 8)).isSome
  | _ => true

/-- The checks of CSRW: the number, the index, a register it may not write; a monitor field; the value (R238). A supervisor's write of QCTL breaks
the rule for SUP only where it would change SUP. DESIGN CHOICE (log 106). -/
def State.csrwTrap (s : State) (d level n idx val : Nat) : Option Trap :=
  if !csrIdxOk d n idx || !csrWritable n then some (trapOf 3 4)
  else if level < 2 ∧ ([1, 2, 3, 0x41, 0x42].contains n ∨ (n = 0x10 ∧ bit val 1 ≠ (s.queue d idx).sup)) then some (trapOf 4 3)
  else if s.csrValOk d n idx val then none else some (trapOf 3 4)

/-- What a CSRW does (R238). -/
def State.csrWrite (s : State) (d n idx val : Nat) : State :=
  match n with
  | 1 => s.updDie d fun x => { x with trapH := val }
  | 2 => s.updDie d fun x => { x with trapVA := val }
  | 3 => s.updDie d fun x => { x with trapQ := val }
  | 4 => s.updDie d fun x => { x with faultMB := val }
  | 0x10 => s.setQctl d idx val
  | 0x11 => s.setQroot d idx val
  | 0x12 => s.updQueue d idx fun x => { x with w1 := val % 2 ^ 32, w2 := val / 2 ^ 32 }
  | 0x13 => s.updQueue d idx fun x => { x with w3 := val }
  | 0x14 => s.updQueue d idx fun x => { x with dbg := val }
  | 0x16 => s.updQueue d idx fun x => { x with notify := val }
  | 0x20 => s.setPool d idx val
  | 0x35 => if val = 0 then s.ufenceClear (d * 128 + idx) else s.fenceUnit (d * 128 + idx) 4
  | 0x40 => s.xinv d idx val
  | 0x41 => s.updDie d fun x => { x with savePA := val }
  | 0x42 => s.updDie d fun x => { x with saveN := val }
  | 0x50 => if fld val 8 2 = 1 then s.releaseNode d (fld val 0 8) else s.failNode d (fld val 0 8)
  | _ => s

/-- The slot of CSRW (R238, R424): it writes in its first cycle, and its write holds at once at die scope (log 9). -/
def semCsrw (qp sa sb csr : Nat) : SlotSem :=
  { i := .csrw qp sa sb csr, q := qp
    check := fun s => s.csrwTrap s.cur.die s.cur.level csr (s.cur.rs sb).toNat (s.cur.rs sa).toNat
    start := some fun s => s.csrWrite s.cur.die csr (s.cur.rs sb).toNat (s.cur.rs sa).toNat
    eff := fun s => s }
/-- CSRW (R238). -/
def execCsrw (qp sa sb csr : Nat) (s : State) : Host.Outcome State Fault Refusal := s.issuePriv (semCsrw qp sa sb csr)

/-- XINV (R239). -/
def execXinv (d idx val : Nat) (s : State) : Host.Outcome State Fault Refusal :=
  .next (if csrIdxOk d 0x40 idx then s.xinv d idx val else s)

/-- QROOT_WRITE (R143, R238). -/
def execQrootWrite (d q val : Nat) (s : State) : Host.Outcome State Fault Refusal :=
  .next (if csrIdxOk d 0x11 q && s.csrValOk d 0x11 q val then s.setQroot d q val else s)

/-- NODECTL_RELEASE (R124, R238). -/
def execNodectlRelease (d n : Nat) (s : State) : Host.Outcome State Fault Refusal := .next (s.releaseNode d n)

/-- NODECTL_FAIL (R124, R238). -/
def execNodectlFail (d n : Nat) (s : State) : Host.Outcome State Fault Refusal := .next (s.failNode d n)

/-- UFENCE_CLEAR (R226, R238). -/
def execUfenceClear (d u : Nat) (s : State) : Host.Outcome State Fault Refusal :=
  .next (if u < 128 then s.ufenceClear (d * 128 + u) else s)

/-- UFENCE_SET (R238). -/
def execUfenceSet (d u : Nat) (s : State) : Host.Outcome State Fault Refusal :=
  .next (if u < 128 then s.fenceUnit (d * 128 + u) 4 else s)

/-- QCTL_ENABLE (R374, R402). -/
def execQctlEnable (d q : Nat) (s : State) : Host.Outcome State Fault Refusal :=
  .next (if q < 4096 ∧ !(s.queue d q).en then s.enableQueue d q else s)

/-- QCTL_DISABLE (R345, R375). -/
def execQctlDisable (d q : Nat) (s : State) : Host.Outcome State Fault Refusal :=
  .next (if q < 4096 ∧ (s.queue d q).en then s.disableQueue d q else s)

/-- POOLCFG_WRITE (R156, R238). -/
def execPoolcfgWrite (d idx val : Nat) (s : State) : Host.Outcome State Fault Refusal :=
  .next (if s.poolOk d idx val then s.setPool d idx val else s)

/-- STATRD (R238). -/
def execStatrd (d cap : Nat) (s : State) : Host.Outcome State Fault Refusal :=
  .next (if (s.statTrap d cap).isSome then s else (s.popStat d cap).1)

/-! ## TRAP, ERET, JOBRES, IFLUSH -/

/-- The slot of TRAP (R241). -/
def semTrap (qp imm16 : Nat) : SlotSem := { i := .trap qp imm16, q := qp, eff := fun s => s.ask (.trapinsn imm16) }
/-- TRAP (R241). -/
def execTrap (qp imm16 : Nat) (s : State) : Host.Outcome State Fault Refusal := s.issue1 (semTrap qp imm16)

/-- The context that a handler handles, while it is parked (R233). -/
def State.parkedOf (s : State) : Option Ctx :=
  match s.cur.handles with
  | some (some cid) => (s.byCid? s.curU cid).filter fun c => match c.status with
    | .parked .. => true
    | _ => false
  | _ => none

/-- The slot of ERET (R229): it holds until the handler's own accesses are performed. -/
def semEret (qp : Nat) : SlotSem :=
  { i := .eret qp, q := qp
    check := fun s => if s.cur.handles.isSome then none else some (trapOf 3 4)
    hold := fun s => (s.jobsOf s.curU s.cur.cid).any fun j => j.fault.isNone
    eff := fun s => s.ask .eret }
/-- ERET (R229). -/
def execEret (qp : Nat) (s : State) : Host.Outcome State Fault Refusal := s.issuePriv (semEret qp)

/-- The faulted job of the handler's parked context that bears a tag (R231). -/
def State.resJob (s : State) (tag : Nat) : Option Job :=
  s.parkedOf.bind fun c => (s.jobsOf s.curU c.cid).find? fun j => j.tag == tag && j.fault.isSome

/-- The slot of JOBRES (R231): the job goes on where it stopped. -/
def semJobres (qp sa : Nat) : SlotSem :=
  { i := .jobres qp sa, q := qp
    check := fun s => if (s.resJob ((s.cur.rs sa).toNat % 2 ^ 32)).isSome then none else some (trapOf 3 4)
    eff := fun s => match s.resJob ((s.cur.rs sa).toNat % 2 ^ 32) with
      | some j => s.updJob s.curU j.jid fun j => { j with fault := none, phase := if j.kind = .routine then 0 else j.phase }
      | none => s }
/-- JOBRES (R231). -/
def execJobres (qp sa : Nat) (s : State) : Host.Outcome State Fault Refusal := s.issuePriv (semJobres qp sa)

/-- Fetch queues and loop buffers of every context of every die are cleared (R141, R168, R240). -/
def State.iflush (s : State) : State :=
  { s with units := s.units.mapv fun x => { x with ctxs := x.ctxs.mapv Ctx.dropLines } }

/-- The slot of IFLUSH (R240, R424): the four dies acknowledge in its first cycle (log 9). -/
def semIflush (qp : Nat) : SlotSem := { i := .iflush qp, q := qp, start := some State.iflush, eff := fun s => s }
/-- IFLUSH (R240). -/
def execIflush (qp : Nat) (s : State) : Host.Outcome State Fault Refusal := s.issuePriv (semIflush qp)

/-! ## Context control -/

/-- What a target word names: a context by unit and name, or a fault (R233); `r` is the right that OWN = 0 needs, `stop` that the context
may be issuing, `val` that an issuing context raises IOPND. A bank that holds no context raises PRIV with reason 1. DESIGN CHOICE (log 118). -/
def State.target? (s : State) (w r : Nat) (stop val : Bool) : Except Trap (Nat × Ctx) :=
  let c := s.cur
  if bit w 12 ∨ fld w 13 19 ≠ 0 ∨ fld w 7 2 ≠ 0 ∧ !bit w 11 then .error (trapOf 3 4)
  else if bit w 11 then
    match s.parkedOf with
    | some p => .ok (s.curU, p)
    | none => .error (trapOf 3 4)
  else if fld w 9 2 = 3 then .error (trapOf 3 4)
  else
    let u := c.die * 128 + fld w 0 7
    match s.ctx? u (fld w 9 2) with
    | none => .error (trapOf 4 1)
    | some t =>
      let issuing := t.status == CtxStatus.live && (s.unit u).liveBanks.contains (fld w 9 2)
      if !(s.die c.die).gives (w / 2 ^ 32) r t.queue then .error (trapOf 4 1)
      else if issuing && !stop then .error (if val then trapOf 3 4 else trapOf 4 1)
      else .ok (u, t)

/-- The fault of a target word. -/
def targetTrap {α : Type} : Except Trap α → Option Trap
  | .error t => some t
  | .ok _ => none

/-- A context operation on the target that word s[sa] names. -/
def State.onTarget (s : State) (r : Except Trap (Nat × Ctx)) (f : Nat → Ctx → State) : State :=
  match r with
  | .ok (u, c) => f u c
  | .error _ => s

/-- The slot of CTXCTL STOP (R232, R424): held until the target is parked. -/
def semCtxctlStop (qp sd sa sb : Nat) : SlotSem :=
  let tgt := fun s : State => s.target? (s.cur.rs sa).toNat 3 true true
  { i := .ctxctlStop qp sd sa sb, q := qp
    check := fun s => targetTrap (tgt s)
    start := some fun s => s.onTarget (tgt s) fun u c =>
      if c.status ≠ .live then s
      else if ((s.unit u).bankOf c.cid).any fun b => (s.unit u).liveBanks.contains b then s.updCid u c.cid fun c => { c with stopReq := true }
      else s.updCid u c.cid fun c => { c with status := .stopped }
    hold := fun s => match tgt s with
      | .ok (_, c) => c.stopReq && c.status == CtxStatus.live
      | .error _ => false
    eff := fun s => s.updCur fun c => c.write (c.ds sd) 0 1 }
/-- CTXCTL STOP (R232). -/
def execCtxctlStop (qp sd sa sb : Nat) (s : State) : Host.Outcome State Fault Refusal := s.issuePriv (semCtxctlStop qp sd sa sb)

/-- Whether GO resumes a context: parked by STOP or by a breakpoint (R232). -/
def Ctx.goable (c : Ctx) : Bool :=
  match c.status with
  | .stopped => true
  | .parked _ _ brk _ => brk
  | _ => false

/-- The slot of CTXCTL GO (R232). -/
def semCtxctlGo (qp sd sa sb : Nat) : SlotSem :=
  let tgt := fun s : State => s.target? (s.cur.rs sa).toNat 3 false true
  { i := .ctxctlGo qp sd sa sb, q := qp
    check := fun s => match tgt s with
      | .error t => some t
      | .ok (_, c) => if c.goable then none else some (trapOf 3 4)
    eff := fun s => s.onTarget (tgt s) fun u c => s.updCid u c.cid fun c => match c.status with
      | .parked .. => c.resume true
      | _ => { c with status := .live, stopReq := false } }
/-- CTXCTL GO (R232). -/
def execCtxctlGo (qp sd sa sb : Nat) (s : State) : Host.Outcome State Fault Refusal := s.issuePriv (semCtxctlGo qp sd sa sb)

/-- The slot of CTXCTL KILL (R137, R232). -/
def semCtxctlKill (qp sd sa sb : Nat) : SlotSem :=
  let tgt := fun s : State => s.target? (s.cur.rs sa).toNat 5 false false
  { i := .ctxctlKill qp sd sa sb, q := qp
    check := fun s => targetTrap (tgt s)
    eff := fun s => (s.onTarget (tgt s) fun u c => s.killCtx u c.cid).updCur fun c => c.write (c.ds sd) 0 1 }
/-- CTXCTL KILL (R232). -/
def execCtxctlKill (qp sd sa sb : Nat) (s : State) : Host.Outcome State Fault Refusal := s.issuePriv (semCtxctlKill qp sd sa sb)

/-- The slot of CTXCTL READ (R232, R234, R244). -/
def semCtxctlRead (qp sd sa sb off : Nat) : SlotSem :=
  let tgt := fun s : State => s.target? (s.cur.rs sa).toNat 4 false true
  { i := .ctxctlRead qp sd sa sb off, q := qp
    check := fun s => match tgt s with
      | .error t => some t
      | .ok (_, c) => if c.touchSeal then some (trapOf 4 2) else none
    eff := fun s => s.onTarget (tgt s) fun u c =>
      let v := leAt (c.image (s.mp5 u c)) off 8
      s.updCur fun x => x.write (x.ds sd) v 1 }
/-- CTXCTL READ (R232, R234). -/
def execCtxctlRead (qp sd sa sb off : Nat) (s : State) : Host.Outcome State Fault Refusal := s.issuePriv (semCtxctlRead qp sd sa sb off)

/-- Whether CTXCTL WRITE accepts a value at an image offset (R234). -/
def ctxWriteOk (off v : Nat) : Bool :=
  if off = 16 then fmtOk (v % 2 ^ 32) && decide (v / 2 ^ 32 < 2 ^ 11)
  else off == 0 || off == 32 || (decide (64 ≤ off) && decide (off ≤ 312)) || (decide (320 ≤ off) && decide (off ≤ 376))

/-- A register of a context written by another: later than what any of its jobs has still to write there (R192). -/
def Ctx.putReg (c : Ctx) (d : Dest) (v : Nat) : Ctx := (c.claim d).setReg d v

/-- A context with 8 bytes of its image written (R234). A change of ROT is a group boundary (R191). -/
def Ctx.writeImage (c : Ctx) (off v : Nat) : Ctx :=
  if off = 0 then { c with pc := v, fencing := none }
  else if off = 16 then { c with fmt := BitVec.ofNat 32 v, flags := BitVec.ofNat 32 (v / 2 ^ 32) }
  else if off = 32 then
    let c := if c.rot = fld v 16 3 then c else { c with rot := fld v 16 3, grp := [], grpFrom := none }
    (List.range 16).foldl (fun c i => c.putReg (.q i) (if bit v i then 1 else 0)) c
  else if off < 320 then c.putReg (.s ((off - 64) / 8)) v
  else
    let i := (off - 320) / 4
    (c.putReg (.h i) (v % 2 ^ 32)).putReg (.h (i + 1)) (v / 2 ^ 32)

/-- The slot of CTXCTL WRITE (R232, R234). -/
def semCtxctlWrite (qp sd sa sb off : Nat) : SlotSem :=
  let tgt := fun s : State => s.target? (s.cur.rs sa).toNat 5 false true
  { i := .ctxctlWrite qp sd sa sb off, q := qp
    check := fun s => match tgt s with
      | .error t => some t
      | .ok _ => if ctxWriteOk off (s.cur.rs sb).toNat then none else some (trapOf 3 4)
    eff := fun s => s.onTarget (tgt s) fun u c =>
      let v := (s.cur.rs sb).toNat
      s.updCid u c.cid fun c => c.writeImage off v }
/-- CTXCTL WRITE (R232, R234). -/
def execCtxctlWrite (qp sd sa sb off : Nat) (s : State) : Host.Outcome State Fault Refusal :=
  s.issuePriv (semCtxctlWrite qp sd sa sb off)

/-- The slot of CTXCTL BRKSET (R232, R243). -/
def semCtxctlBrkSet (qp sd sa sb n : Nat) : SlotSem :=
  let tgt := fun s : State => s.target? (s.cur.rs sa).toNat 3 false false
  { i := .ctxctlBrkSet qp sd sa sb n, q := qp
    check := fun s => targetTrap (tgt s)
    eff := fun s => s.onTarget (tgt s) fun _ c =>
      let a := fld (s.cur.rs sb).toNat 0 22
      s.updQueue c.die c.queue fun q => { q with brk := q.brk.put n a } }
/-- CTXCTL BRKSET (R232, R243). -/
def execCtxctlBrkSet (qp sd sa sb n : Nat) (s : State) : Host.Outcome State Fault Refusal := s.issuePriv (semCtxctlBrkSet qp sd sa sb n)

/-- The slot of CTXCTL BRKCLR (R232, R243). -/
def semCtxctlBrkClr (qp sd sa sb n : Nat) : SlotSem :=
  let tgt := fun s : State => s.target? (s.cur.rs sa).toNat 3 false false
  { i := .ctxctlBrkClr qp sd sa sb n, q := qp
    check := fun s => targetTrap (tgt s)
    eff := fun s => s.onTarget (tgt s) fun _ c => s.updQueue c.die c.queue fun q => { q with brk := q.brk.del n } }
/-- CTXCTL BRKCLR (R232, R243). -/
def execCtxctlBrkClr (qp sd sa sb n : Nat) (s : State) : Host.Outcome State Fault Refusal := s.issuePriv (semCtxctlBrkClr qp sd sa sb n)

/-- The slot of CTXCTL TESTMODE (R237): the context has no accumulator bank, and queue 0 for what names a context by its queue. DESIGN CHOICE
(log 117). Its level is checked first, and a bank of a unit in the middle of a swap is not free. DESIGN CHOICE (log 120). -/
def semCtxctlTestMode (qp sd sa sb : Nat) : SlotSem :=
  { i := .ctxctlTestMode qp sd sa sb, q := qp
    check := fun s =>
      let w := (s.cur.rs sa).toNat
      let u := s.cur.die * 128 + fld w 0 7
      if s.cur.level < fld (s.cur.rs sb).toNat 0 2 then some (trapOf 4 3)
      else if bit w 12 ∨ bit w 11 ∨ fld w 13 19 ≠ 0 ∨ fld w 7 2 ≠ 0 ∨ fld w 9 2 = 3 ∨ (s.ctx? u (fld w 9 2)).isSome ∨
          (s.unit u).swap.isSome ∨ (s.unit u).fence = 0 then some (trapOf 3 4)
      else none
    eff := fun s =>
      let w := (s.cur.rs sa).toNat
      let v := (s.cur.rs sb).toNat
      let u := s.cur.die * 128 + fld w 0 7
      let c : Ctx := { cid := s.nextCid, die := s.cur.die, level := fld v 0 2, startup := true, taskId := s.nextTask s.cur.die, pc := fld v 16 16 }
      s.startCtx u (fld w 9 2) c [] [] }
/-- CTXCTL TESTMODE (R237). -/
def execCtxctlTestMode (qp sd sa sb : Nat) (s : State) : Host.Outcome State Fault Refusal := s.issuePriv (semCtxctlTestMode qp sd sa sb)

end Sys2Proof.Machine
end

