-- ==== Sys2Proof/Machine/HostIf.lean ====
section
/-!
DEFINITION. The host's queue rings and packets, LOAD and UNLOAD, and the configuration mailbox (23_host_and_trust.md R401-R407;
04 R101-R112; 05 R139-R142; 18 R340, R345, R346).
-/
namespace Sys2Proof.Machine

/-! ## Rings -/

/-- The packet at HEAD of a queue's ring; none when the entry cannot be read: PLACE 7, no storage behind the address, or host memory
that refuses the read, which is the host's choice and free (R402, log 6). -/
def State.headPacket (s : State) (d q : Nat) : Option Bytes :=
  let x := s.queue d q
  let pl := fld x.rbase 0 3
  let pa := fld x.rbase 12 40 * 2 ^ 12 + 64 * (x.head % 2 ^ x.rsize)
  if pl = 6 ∧ Config.hostRefuses pa x.head then none
  else (placeKey pl pa).map fun k => s.mem.readN k 64

/-- Whether a queue reads packets: enabled, not stopped, HEAD short of TAIL (R402). -/
def QueueSt.reads (x : QueueSt) : Bool := x.en && !x.stopped && x.head != x.tail

/-- The fields of a packet (R403). -/
structure Pkt where
  type : Nat
  flags : Nat
  arg32 : Nat
  arg64 : Nat
  addr1 : Nat
  addr2 : Nat
  rec' : Nat
  deriving DecidableEq, Repr

/-- The packet in 64 bytes. -/
def pktOf (b : Bytes) : Pkt := ⟨leAt b 0 1, leAt b 1 1, leAt b 4 4, leAt b 8 8, leAt b 16 16, leAt b 32 16, leAt b 48 16⟩

/-- Whether RECADDR can name a record (R403). -/
def recOk (r : Nat) : Bool := decide (r < 2 ^ 80) && r % 32 == 0

/-- Whether a packet keeps to R403 and R404: its type, its zero fields, its addresses. -/
def pktOk (b : Bytes) : Bool :=
  let p := pktOf b
  let z32 := p.arg32 == 0
  let z64 := p.arg64 == 0
  let z1 := p.addr1 == 0
  let z2 := p.addr2 == 0
  leAt b 2 2 == 0 && decide (p.addr1 < 2 ^ 80) && decide (p.addr2 < 2 ^ 80) && recOk p.rec' && decide (p.flags ≤ if p.type = 1 then 1 else 0) &&
    match p.type with
    | 1 => z32 && z64 && z2 && p.rec' == 0
    | 2 => z64
    | 3 => z32 && z2
    | 4 => z64 && z1 && z2
    | 5 => z32 && z64 && z1 && z2
    | 6 => z1 && z2 && decide (p.arg32 < 256)
    | 7 => z32 && z64 && z1 && z2
    | 8 => z2 && decide (p.arg64 < 2 ^ 15)
    | _ => false

/-- A packet record written for HEAD index `head` (R405); nothing when RECADDR is 0. -/
def State.pktRecord (s : State) (d q rec' head status result : Nat) : State :=
  if rec' = 0 ∨ !recOk rec' then s
  else (s.writeRec (s.whoQ d q) rec' (leBytes 8 head ++ zeros 4 ++ leBytes 4 status ++ leBytes 8 result ++ zeros 8)).1

/-- The entry at HEAD is read, an access of the die's engine the first time (R154, R402). -/
def State.readHead (s : State) (d q : Nat) : State × Option Bytes :=
  let x := s.queue d q
  match s.headPacket d q with
  | none => (s, none)
  | some b =>
    if x.seen = some x.head then (s, some b)
    else
      let k := (placeKey (fld x.rbase 0 3) (fld x.rbase 12 40 * 2 ^ 12 + 64 * (x.head % 2 ^ x.rsize))).getD 0
      ((s.countVA d [k]).updQueue d q fun y => { y with seen := some x.head }, some b)

/-- The ring read on from HEAD: malformed packets get their record and are passed, an entry that cannot be read stops the queue (R402,
R404, R405). The first argument bounds the packets. -/
def State.readOn (s : State) (d q : Nat) : Nat → State
  | 0 => s
  | f + 1 =>
    let x := s.queue d q
    if !x.reads then s
    else match s.readHead d q with
      | (s, none) => s.updQueue d q fun x => { x with stopped := true }
      | (s, some b) =>
        if pktOk b then s
        else
          let p := pktOf b
          let s := if p.type = 1 then s else s.pktRecord d q p.rec' x.head 3 0
          (s.updQueue d q fun x => { x with head := (x.head + 1) % 2 ^ 32 }).readOn d q f

/-- The packet at HEAD is done: its record, and HEAD advances (R402, R405). -/
def State.pktDone (s : State) (d q rec' status result : Nat) : State :=
  let h := (s.queue d q).head
  ((s.pktRecord d q rec' h status result).updQueue d q fun x => { x with head := (x.head + 1) % 2 ^ 32 }).readOn d q 65537

/-- A doorbell: TAIL written, and the queue reads on, or stops when it is further from HEAD than the ring is long (R402). -/
def State.ring (s : State) (d q tail : Nat) : State :=
  let s := s.updQueue d q fun x => { x with tail := tail % 2 ^ 32 }
  let x := s.queue d q
  if 2 ^ x.rsize < (x.tail + 2 ^ 32 - x.head) % 2 ^ 32 then s.updQueue d q fun x => { x with stopped := true }
  else s.readOn d q 65537

/-- A host write to a queue's register block (R401): RBASE and RSIZE only while the queue is disabled; a write to TAIL is the doorbell;
the rest is ignored. -/
def State.regWrite (s : State) (d q off val : Nat) : State :=
  if off = 0x10 then s.ring d q val
  else if (s.queue d q).en then s
  else if off = 0 then s.updQueue d q fun x => { x with rbase := fld val 0 3 + fld val 12 40 * 2 ^ 12 }
  else if off = 8 ∧ 1 ≤ val ∧ val ≤ 16 then s.updQueue d q fun x => { x with rsize := val }
  else s

/-- A host read of a queue's register block (R401). -/
def State.regRead (s : State) (d q off : Nat) : Nat :=
  let x := s.queue d q
  match off with
  | 0x00 => x.rbase
  | 0x08 => x.rsize
  | 0x10 => x.tail
  | 0x18 => x.head
  | 0x20 => x.en.toNat + 2 * x.stopped.toNat
  | _ => 0

/-- The die, the queue and the offset in its register block that a BAR0 offset names; none outside BAR0's 1 MiB (R399). -/
def barAt (a : Nat) : Option (Nat × Nat × Nat) := if a < 2 ^ 20 then some (a / 0x40000, a % 0x40000 / 64, a % 64) else none

/-- A host write to BAR0 (R399-R401): what names no register is ignored. -/
def State.hostWrite (s : State) (a val : Nat) : State :=
  match barAt a with
  | some (d, q, off) => s.regWrite d q off val
  | none => s

/-- A host read of BAR0 (R399-R401): what names no register reads as zero, and device memory is never behind it. -/
def State.hostRead (s : State) (a : Nat) : Nat :=
  match barAt a with
  | some (d, q, off) => s.regRead d q off
  | none => 0

/-- DOORBELL (R402): the host writes TAIL. -/
def execDoorbell (d q tail : Nat) (s : State) : Host.Outcome State Fault Refusal := .next (s.regWrite d q 0x10 tail)

/-- REGISTER_WRITE (R401): the host writes a register of a queue's block. -/
def execRegisterWrite (d q off val : Nat) (s : State) : Host.Outcome State Fault Refusal := .next (s.regWrite d q off val)

/-- The packet that a queue has at HEAD when it is of type `t`, none while the queue is about a LOAD or a SEAL. -/
def State.pktAt (s : State) (d q t : Nat) : Option Pkt :=
  let x := s.queue d q
  if !x.reads || x.loading.isSome || x.sealing.isSome then none
  else (s.headPacket d q).bind fun b => if pktOk b && (pktOf b).type == t then some (pktOf b) else none

/-! ## Graphs -/

/-- LAUNCH (R115, R404): the graph is admitted, or fails, or waits at the head for landing slots, and is then read when it does not (R154). -/
def execLaunch (d q : Nat) (s : State) : Host.Outcome State Fault Refusal :=
  match s.pktAt d q 1 with
  | none => .next s
  | some p => match s.readVA (s.whoQ d q) p.addr1 64 with
    | (r, none) => .next (r.pktDone d q 0 3 0)
    | (r, some b) => .next (((r.launchGraph d q p.addr1 b (p.flags == 1) none).map fun r => r.pktDone d q 0 0 0).getD s)

/-- Versions of a block that unstarted nodes are bound to (R142). -/
def Block.live (b : Block) : Nat := (b.versions.filter fun v => v.2.2 != 0).length

/-- A new version of a block becomes current (R142). -/
def DieSt.patch (x : DieSt) (hdr idx : Nat) (words : List Nat) : DieSt :=
  match x.blocks.find? fun b => b.hdr == hdr && b.idx == idx with
  | none => { x with blocks := x.blocks ++ [⟨hdr, idx, 1, [(1, (words, 0))]⟩] }
  | some _ => { x with blocks := x.blocks.map fun b =>
      if b.hdr = hdr ∧ b.idx = idx then
        { b with cur := b.cur + 1, versions := Map.put (b.versions.filter fun v => v.2.2 != 0) (b.cur + 1) (words, 0) } else b }

/-- PATCH (R142, R404): waits while four versions of the block are live, and then reads its blocks when they are not (R154). -/
def execPatch (d q : Nat) (s : State) : Host.Outcome State Fault Refusal :=
  match s.pktAt d q 2 with
  | none => .next s
  | some p =>
    let w := s.whoQ d q
    match s.readVA w p.addr1 64 with
    | (r, none) => .next (r.pktDone d q p.rec' 3 0)
    | (r, some b) => match r.readVA w p.addr2 64 with
      | (r, none) => .next (r.pktDone d q p.rec' 3 0)
      | (r, some nb) =>
        let hdr := hdrKey q p.addr1
        if (graphHdr b).npblk ≤ p.arg32 then .next (r.pktDone d q p.rec' 3 0)
        else if (s.die d).blocks.any fun x => x.hdr == hdr && x.idx == p.arg32 && decide (4 ≤ x.live) then .next s
        else .next ((r.updDie d fun x => x.patch hdr p.arg32 (wordsOf nb)).pktDone d q p.rec' 0 0)

/-- BARRIER (R404): every earlier graph launched by the queue has written its record. -/
def execBarrier (d q : Nat) (s : State) : Host.Outcome State Fault Refusal :=
  match s.pktAt d q 5 with
  | none => .next s
  | some p =>
    if (s.die d).graphs.any fun g => g.2.queue == q && g.2.record && g.2.spawned.isNone then .next s
    else .next (s.pktDone d q p.rec' 0 0)

/-- SIGNAL (R121, R404): a graph of the queue with a node in the window. -/
def execSignal (d q : Nat) (s : State) : Host.Outcome State Fault Refusal :=
  match s.pktAt d q 6 with
  | none => .next s
  | some p =>
    match (s.die d).graphs.find? fun g => g.2.queue == q && g.2.seq == p.arg64 && (s.die d).window.any fun n => n.2.graph == g.1 with
    | none => .next (s.pktDone d q p.rec' 9 0)
    | some (k, g) =>
      let g : Graph := { g with signals := if g.signals.contains p.arg32 then g.signals else p.arg32 :: g.signals }
      let s := s.updDie d fun x => { x with graphs := x.graphs.put k g }
      .next (s.pktDone d q p.rec' 0 0)

/-- The seal that a SEAL of a queue's session waits for. -/
def sealKey (q session : Nat) : Nat := 2 * (q + 4096 * session) + 1

/-- A SEAL of a queue that is disabled, its seal made (R402, log 99). -/
def State.straySeal (s : State) (d q : Nat) : Option (Stray × Nat × Nat × Nat × Nat) :=
  (s.queue d q).strays.findSome? fun w => match w with
    | .seal n rec' head => ((s.die d).sealDone.entry? (sealKey q n)).map fun r => (w, sealKey q n, rec', head, r)
    | .load .. => none

/-- SEAL (R381, R404): it starts the seal of the queue's session, and is done once the record is written. -/
def execHostSeal (d q : Nat) (s : State) : Host.Outcome State Fault Refusal :=
  let x := s.queue d q
  let k := sealKey q x.sess
  match s.straySeal d q with
  | some (w, k, rec', head, n) =>
    let s := (s.updDie d fun x => { x with sealDone := x.sealDone.del k }).updQueue d q fun x => { x with strays := x.strays.erase w }
    .next (s.pktRecord d q rec' head 0 n)
  | none => match x.sealing, (s.die d).sealDone.entry? k with
    | some rec', some n =>
      let s := s.updDie d fun x => { x with sealDone := x.sealDone.del k }
      .next ((s.updQueue d q fun x => { x with sealing := none }).pktDone d q rec' 0 n)
    | _, _ => match s.pktAt d q 7 with
      | none => .next s
      | some p =>
        if (s.sealTrap d q).isSome then .next (s.pktDone d q p.rec' 10 0)
        else .next ((s.updDie d fun x => x.putSeal q k).updQueue d q fun x => { x with sealing := some p.rec' })

/-- The valid entries of a peer table; none when a reserved bit is set (R345). -/
def peerTab : Nat → Nat → Bytes → Option (Map Nat)
  | 0, _, _ => some []
  | n + 1, i, b =>
    let e := leAt b 0 8
    if e / 2 ^ 32 ≠ 0 ∨ fld e 28 3 ≠ 0 then none
    else (peerTab n (i + 1) (b.drop 8)).map fun m => if bit e 31 then (i, fld e 0 28) :: m else m

/-- BIND (R345, R404). -/
def execBind (d q : Nat) (s : State) : Host.Outcome State Fault Refusal :=
  match s.pktAt d q 8 with
  | none => .next s
  | some p =>
    let refs := ((s.die d).objs.entry? p.arg32).map fun o => o.refs.contains q
    if refs ≠ some true then .next (s.pktDone d q p.rec' 6 0)
    else if (s.endpointUnit d q).isSome then .next (s.pktDone d q p.rec' 3 0)
    else
      let r : State × Option Bytes := if p.addr1 = 0 then (s, some []) else s.readVA (s.whoQ d q) p.addr1 2048
      match r with
      | (s, none) => .next (s.pktDone d q p.rec' 3 0)
      | (s, some b) => match peerTab (if b = [] then 0 else 256) 0 b with
        | none => .next (s.pktDone d q p.rec' 3 0)
        | some m => .next ((s.updQueue d q fun x =>
            { x with binding := some (p.arg32, fld p.arg64 0 8, fld p.arg64 8 7, m) }).pktDone d q p.rec' 0 0)

/-! ## Objects -/

/-- One entry of a section table (R102). -/
structure Sect where
  type : Nat
  off : Nat
  size : Nat
  count : Nat
  align : Nat
  deriving DecidableEq, Repr

/-- Record size of a section type whose records have one (R102). -/
def sectRec : Nat → Nat
  | 4 => 64
  | 5 => 24
  | 6 => 8
  | 7 => 32
  | 8 => 8
  | 9 => 16
  | 10 => 24
  | 11 => 24
  | 13 => 16
  | 15 => 72
  | _ => 0

/-- The section table, none when an entry breaks R102. -/
def sections : Nat → Bytes → Option (List Sect)
  | 0, _ => some []
  | n + 1, b =>
    let t := leAt b 0 4
    let x : Sect := ⟨t, leAt b 8 8, leAt b 16 8, leAt b 24 4, leAt b 28 4⟩
    let plain := t = 1 ∨ t = 2 ∨ t = 3 ∨ t = 12
    if t = 0 ∨ 15 < t ∨ leAt b 4 4 ≠ 0 ∨ x.off % 64 ≠ 0 ∨ 16 < x.align ∨ (t = 1 ∧ x.align < 6) ∨ (plain ∧ x.count ≠ 0) ∨
        (sectRec t ≠ 0 ∧ x.size ≠ x.count * sectRec t) then none
    else (sections n (b.drop 32)).map fun l => x :: l

/-- Whether sections lie one after another in table order with zeros between them, up to the object's size (R101, R102). DESIGN CHOICE
(log 79): the bytes from the last section to OSIZE count as space between sections. -/
def sectGaps (b : Bytes) : Nat → List Sect → Bool
  | p, [] => allZero (b.drop p)
  | p, x :: xs => decide (p ≤ x.off) && decide (x.off + x.size ≤ b.length) && allZero ((b.drop p).take (x.off - p)) && sectGaps b (x.off + x.size) xs

/-- The records of a section, each read by `f`; none when one is bad. -/
def recsOf {α : Type} (f : Bytes → Option α) (sz : Nat) : Nat → Bytes → Option (List α)
  | 0, _ => some []
  | n + 1, b => match f (b.take sz) with
    | none => none
    | some x => (recsOf f sz n (b.drop sz)).map fun l => x :: l

/-- A section's bytes and record count; none present reads as empty. -/
def sectOf (b : Bytes) (l : List Sect) (t : Nat) : Bytes × Nat :=
  match l.find? fun x => x.type == t with
  | some x => ((b.drop x.off).take x.size, x.count)
  | none => ([], 0)

/-- A gate entry (R103). DESIGN CHOICE (log 79): a counter index above 63 is malformed, for there is no such counter; a threshold of 0
loads; an entry of kind 0 loads with any index and threshold, and its gate holds. -/
def gateOf (b : Bytes) : Option (Nat × Nat × Nat) :=
  let k := leAt b 0 1
  let i := leAt b 1 1
  let t := leAt b 4 4
  if leAt b 2 2 ≠ 0 ∨ 2 < k ∨ (k = 1 ∧ 63 < i) ∨ (k = 2 ∧ t ≠ 0) then none else some (k, i, t)

/-- A TASKS record (R103). -/
def taskRecOf (b : Bytes) : Option TaskRec :=
  let ng := leAt b 26 1
  let fl := leAt b 19 1
  let bad := leAt b 8 4 = 0 ∨ leAt b 16 1 = 0 ∨ 8 < leAt b 16 1 ∨ 3 < leAt b 17 1 ∨ 15 < leAt b 18 1 ∨ 7 < fl ∨ 16 < leAt b 24 1 ∨
    15 < leAt b 25 1 ∨ 4 < ng ∨ leAt b 27 1 ≠ 0 ∨ !allZero ((b.drop (32 + 8 * ng)).take (32 - 8 * ng))
  if bad then none
  else (recsOf gateOf 8 ng (b.drop 32)).map fun gs =>
    { entry := leAt b 0 8, cycles := leAt b 8 4, banks := leAt b 16 1, prio := leAt b 17 1, retain := leAt b 18 1, strict := bit fl 0
      affinity := bit fl 1, stamps := bit fl 2, pool0 := leAt b 20 4, npool := leAt b 24 1, fp0 := leAt b 28 4, nfp := leAt b 25 1, gates := gs }

/-- A POOLS record (R104). -/
def poolRecOf (b : Bytes) : Option (Nat × Nat × Nat) :=
  let n := leAt b 4 4
  if 2 < leAt b 0 1 ∨ leAt b 1 1 < 9 ∨ 18 < leAt b 1 1 ∨ leAt b 2 2 ≠ 0 ∨ n = 0 ∨ 16384 < n then none
  else some (leAt b 0 1, leAt b 1 1, n)

/-- A FOOTPRINTS record (R105). DESIGN CHOICE (log 79): a constant length of 0 loads, since R94's limit is on the directive. -/
def fpRecOf (b : Bytes) : Option FpTpl :=
  let n := leAt b 0 1
  let k := leAt b 3 1
  let lp := leAt b 4 1
  let cl := leAt b 16 8
  if n = 0 ∨ 15 < n ∨ 3 < leAt b 1 1 ∨ leAt b 2 1 = 0 ∨ 8 < leAt b 2 1 ∨ 1 < k ∨ (k = 0 ∧ lp ≠ 0) ∨ (k = 1 ∧ (lp = 0 ∨ 8 < lp ∨ cl ≠ 0)) ∨
      leAt b 5 3 ≠ 0 then none
  else some ⟨n, leAt b 1 1, leAt b 2 1, k == 1, lp, leAt b 8 8, cl⟩

/-- A CHANNELS record, within the limits of R98 and R346 (R106). The peer endpoint of a record that is bound is not said: any value up to 255
loads there, and is not used. DESIGN CHOICE (log 102). -/
def chanRecOf (b : Bytes) : Option ChanRec :=
  let fmt := leAt b 1 1
  let rows := leAt b 2 1
  let cls := leAt b 4 1
  let red := leAt b 5 1
  let cols := leAt b 14 2
  let dl := leAt b 16 4
  let pc := leAt b 8 4
  let len := tileLenOf rows cols fmt
  if 0x17 < fmt ∨ rows = 0 ∨ 128 < rows ∨ leAt b 3 1 = 0 ∨ 16 < leAt b 3 1 ∨ 1 < cls ∨ 3 < red ∨ 63 < leAt b 6 1 ∨ 15 < leAt b 7 1 ∨
      (pc ≠ 0xFFFFFFFF ∧ 2 ^ 20 ≤ pc) ∨ 255 < leAt b 12 2 ∨ cols = 0 ∨ (cls = 1 ∧ dl = 0) ∨ (cls = 0 ∧ dl ≠ 0) ∨ len < 512 ∨ 262144 < len ∨
      (red ≠ 0 ∧ !reduceOk fmt) ∨ !allZero (b.drop 20) then none
  else some ⟨leAt b 0 1, fmt, rows, leAt b 3 1, cls == 1, red, leAt b 6 1, leAt b 7 1, if pc = 0xFFFFFFFF then none else some pc,
    leAt b 12 2, cols, dl⟩

/-- A MAILBOXES record; index 1,023 is not for tasks (R107, R407). -/
def mboxRecOf (b : Bytes) : Option (Nat × Nat) :=
  if 1022 < leAt b 0 2 ∨ leAt b 2 2 ≠ 0 then none else some (leAt b 0 2, leAt b 4 4)

/-- The bytes of a STRINGS section are UTF-8 with every string complete (RFC 3629): what remains of a character and the range of its next
byte, then the bytes. -/
def utf8 (n lo hi : Nat) : Bytes → Bool
  | [] => n == 0
  | b :: bs =>
    let x := b.toNat
    match n with
    | m + 1 => decide (lo ≤ x) && decide (x ≤ hi) && utf8 m 0x80 0xBF bs
    | 0 =>
      if x < 0x80 then utf8 0 0 0 bs
      else if x < 0xC2 then false
      else if x < 0xE0 then utf8 1 0x80 0xBF bs
      else if x < 0xF0 then utf8 2 (if x = 0xE0 then 0xA0 else 0x80) (if x = 0xED then 0x9F else 0xBF) bs
      else if x < 0xF5 then utf8 3 (if x = 0xF0 then 0x90 else 0x80) (if x = 0xF4 then 0x8F else 0xBF) bs
      else false

/-- Whether a STRINGS section holds UTF-8 strings, each ended by a zero byte, the empty one at offset 0 (R109). -/
def stringsOk (b : Bytes) : Bool := b.head? == some 0 && b.getLast? == some 0 && utf8 0 0 0 b

/-- Whether an offset names a string of STRINGS (R101, R103, R107, R109). DESIGN CHOICE (log 79): an object without STRINGS has the empty
string at offset 0. -/
def strOk (strs : Bytes) (o : Nat) : Bool := decide (o < strs.length) || (strs == [] && o == 0)

/-- A PARAMS record (R107): `n` tasks. -/
def paramOk (n : Nat) (strs b : Bytes) : Bool :=
  decide (leAt b 0 4 < n) && decide (1 ≤ leAt b 4 1) && decide (leAt b 4 1 ≤ 8) && decide (leAt b 5 1 ≤ 2) && leAt b 6 2 == 0 &&
    strOk strs (leAt b 8 4) && leAt b 12 4 == 0

/-- The size of the section of a type, none when the table has none. -/
def sizeOf? (l : List Sect) (t : Nat) : Option Nat := (l.find? fun x => x.type == t).map (·.size)

/-- A SYMBOLS record (R109): an external or constant symbol is in no section, another in one of the object's. -/
def symOk (l : List Sect) (strs b : Bytes) : Bool :=
  let k := leAt b 4 1
  let t := leAt b 5 1
  strOk strs (leAt b 0 4) && decide (k ≤ 4) && (if k = 2 ∨ k = 4 then t == 0 else (sizeOf? l t).isSome) && leAt b 6 2 == 0

/-- A RELOCS record (R108): the patched datum or syllable lies in its section, the symbol in SYMBOLS. -/
def relOk (l : List Sect) (nsym : Nat) (b : Bytes) : Bool :=
  let k := leAt b 13 1
  decide (1 ≤ k) && decide (k ≤ 5) && leAt b 14 2 == 0 && decide (leAt b 8 4 < nsym) &&
    match sizeOf? l (leAt b 12 1) with
    | some n => decide (leAt b 0 8 + (if k = 1 ∨ k = 2 ∨ k = 3 ∨ k = 5 then 8 else 4) ≤ n) && (k == 1 || leAt b 12 1 == 1)
    | none => false

/-- Whether every record of a section passes a test. -/
def recsOk (f : Bytes → Bool) (sz n : Nat) (b : Bytes) : Bool := (recsOf (fun r => if f r then some () else none) sz n b).isSome

/-- The bytes of the bundle whose header is at offset `a` of CODE, a bundle that runs past its line ending with it; none where no bundle
can begin (R56). -/
def bundleAt (code : Bytes) (a : Nat) : Option Nat :=
  let line := (code.drop a).take (64 - a % 64)
  if line = [] then none
  else match decodeLine line with
    | .linePad => none
    | .bundle _ len _ => some len
    | .runsPast => some line.length

/-- Whether offsets, from `a` on, are those of bundles one after another, with or without data bytes between them (R79, R100). -/
def bundlesFrom (code : Bytes) (a : Nat) : List Nat → Bool
  | [] => true
  | x :: xs => decide (a ≤ x) && (bundleAt code x).any fun n => bundlesFrom code (x + n) xs

/-- Whether the `m` records of LINEMAP are one for each bundle, in address order, the file of each named in STRINGS (R109). CODE may hold
data, which no object tells from bundles (R100), so the bundles are those that LINEMAP names; the first bundle of every task is one of
them. DESIGN CHOICE (log 98). -/
def linesOk (code strs : Bytes) (entries : List Nat) (m : Nat) (b : Bytes) : Bool :=
  let at' := (List.range m).map fun i => leAt b (16 * i) 8
  recsOk (fun r => strOk strs (leAt r 12 4)) 16 m b && bundlesFrom code 0 at' && entries.all at'.contains

/-- The images of a ROUTINES section (R112); none when they do not fill it. -/
def routinesOk : Nat → Bytes → Bool
  | 0, b => b == []
  | n + 1, b =>
    let l := cdiv (leAt b 4 4) 8 * 8
    decide (8 + l + 4627 ≤ b.length) && leAt b 1 3 == 0 && allZero (((b.drop (8 + leAt b 4 4))).take (l - leAt b 4 4)) &&
      routinesOk n (b.drop (8 + l + 4627))

/-- Whether a list of numbers has no repeats. -/
def noDup (l : List Nat) : Bool := l.eraseDups.length == l.length

/-- The object digest (R110): ODIGEST and OFLAGS[0] read as zero. -/
def objDigest (b : Bytes) (l : List Sect) : Bytes :=
  let hdr := (b.take 6) ++ leBytes 2 (leAt b 6 2 / 2 * 2) ++ ((b.drop 8).take 24) ++ zeros 64 ++ ((b.drop 96).take 32)
  digest 0x10 (hdr ++ (b.drop 128).take (32 * l.length) ++ (l.map fun x => (b.drop x.off).take x.size).flatten)

/-- Whether the sections that LOAD only checks are well laid out: PARAMS, RELOCS, SYMBOLS, STRINGS, LINEMAP, ROUTINES, AUDIT, and the
names of the object and of its tasks (R101, R103, R107-R109, R112). -/
def namesOk (body : Bytes) (l : List Sect) : Bool :=
  let part := sectOf body l
  let strs := (part 12).1
  ((sizeOf? l 12).isNone || stringsOk strs) && strOk strs (leAt body 96 4) && recsOk (fun r => strOk strs (leAt r 12 4)) 64 (part 4).2 (part 4).1 &&
    recsOk (paramOk (part 4).2 strs) 16 (part 9).2 (part 9).1 && recsOk (relOk l (part 11).2) 24 (part 10).2 (part 10).1 &&
    recsOk (symOk l strs) 24 (part 11).2 (part 11).1 &&
    ((sizeOf? l 13).isNone || linesOk (part 1).1 strs ((List.range (part 4).2).map fun i => leAt (part 4).1 (64 * i) 8) (part 13).2
      (part 13).1) &&
    recsOk (fun r => leVal (slice r 1 7) == 0) 72 (part 15).2 (part 15).1 && routinesOk (part 14).2 (part 14).1

/-- What a LOAD makes of an object's bytes: the status it fails with, or the object, its CODE and the CODE's alignment (R101-R112, R139,
R409). DESIGN CHOICE (log 79): of several failures the layout's status 4 is given first, then 5, then 7, then 8; a trailer that is missing
or of the wrong length, or bytes past OSIZE without one, is a layout failure; one footprint N twice in a task, or one mailbox index
twice, is malformed; so is a task with NPOOL or NFP 0 whose POOL0 or FP0 lies past the records' end. -/
def loadObj (b : Bytes) (q : Nat) : Except Nat (Obj × Bytes × Nat) :=
  let ofl := leAt b 6 2
  let nsec := leAt b 8 2
  let osize := leAt b 24 8
  let body := b.take osize
  let trailer := b.drop osize
  let signed := bit ofl 0
  if b.length < 128 ∨ leAt b 0 4 ≠ 0x4E425242 ∨ leAt b 4 2 ≠ 1 ∨ 1 < ofl ∨ nsec = 0 ∨ 15 < nsec ∨ leAt b 15 1 ≠ 0 ∨ leAt b 10 1 = 0 ∨
      leAt b 16 8 ≠ 128 ∨ b.length < osize ∨ osize < 128 + 32 * nsec ∨ !allZero ((b.drop 102).take 26) ∨
      trailer.length ≠ (if signed then 2592 + 4627 else 0) then .error 4
  else match sections nsec (body.drop 128) with
    | none => .error 4
    | some l =>
      let at' := sectOf body l
      let tasks := recsOf taskRecOf 64 (at' 4).2 (at' 4).1
      let fps := recsOf fpRecOf 24 (at' 5).2 (at' 5).1
      let pools := recsOf poolRecOf 8 (at' 6).2 (at' 6).1
      let chans := recsOf chanRecOf 32 (at' 7).2 (at' 7).1
      let mbs := recsOf mboxRecOf 8 (at' 8).2 (at' 8).1
      if !sectGaps body (128 + 32 * nsec) l || !noDup (l.map (·.type)) || !namesOk body l || objDigest body l != (body.drop 32).take 64 then .error 4
      else match tasks, fps, pools, chans, mbs with
        | some tasks, some fps, some pools, some chans, some mbs =>
          let code := at' 1
          let okT := tasks.all fun t => decide (t.entry < code.1.length) && decide (t.pool0 + t.npool ≤ pools.length) &&
            decide (t.fp0 + t.nfp ≤ fps.length) && noDup (((fps.drop t.fp0).take t.nfp).map (·.n))
          if !okT || !noDup (chans.map (·.ch)) || !noDup (mbs.map (·.1)) || mbs.any (fun m => decide (tasks.length ≤ m.2)) then .error 4
          else if leAt b 10 1 ≠ 1 ∨ [11, 12, 13, 14].any fun i => decide (1 < leAt b i 1) then .error 5
          else
            let key := trailer.take 2592
            let kd := sha3_512 key
            let good := signed && mldsaVerify key (body.drop 32 |>.take 64) (trailer.drop 2592)
            let owned := [0, 1, 2, 3].any fun i => Config.owner i == kd && !allZero (Config.owner i)
            if (signed && !good) || (Config.ownReq && !(good && owned)) then .error 7
            else
              .ok ({ base := 0, len := code.1.length, digest := (body.drop 32).take 64, key := if good then some kd else none, tasks := tasks
                     fps := fps, pools := pools, chans := chans, mboxes := mbs, refs := [q], code := code.1.length }, code.1,
                ((l.find? fun x => x.type == 1).map (·.align)).getD 6)
        | _, _, _, _, _ => .error 4

/-- Insertion of a code range by its base. -/
def insRange (x : Nat × Nat) : List (Nat × Nat) → List (Nat × Nat)
  | [] => [x]
  | y :: ys => if x.1 < y.1 then x :: y :: ys else y :: insRange x ys

/-- The lowest base for `n` bytes at a multiple of `a` that the ranges leave free in a 4 MiB region (R139). -/
def codeBase (a n : Nat) : Nat → List (Nat × Nat) → Option Nat
  | p, [] => if p + n ≤ 2 ^ 22 then some p else none
  | p, r :: rs => if p + n ≤ r.1 then some p else codeBase a n (max p (cdiv (r.1 + r.2) a * a)) rs

/-- LOAD (R139, R404): the object is checked and its CODE copied into every cluster of the die; LOAD_COMPLETE follows. An object that the die
holds already is copied anew, under a handle of its own (R140). DESIGN CHOICE (log 103). -/
def execLoad (d q : Nat) (s : State) : Host.Outcome State Fault Refusal :=
  match s.pktAt d q 3 with
  | none => .next s
  | some p => match s.readVA (s.whoQ d q) p.addr1 p.arg64 with
    | (s, none) => .next (s.pktDone d q p.rec' 3 0)
    | (s, some b) => match loadObj b q with
      | .error st => .next (s.pktDone d q p.rec' st 0)
      | .ok (o, code, al) =>
        let used := ((s.die d).objs.map fun e => (e.2.base, e.2.code)).foldl (fun l r => insRange r l) []
        match codeBase (2 ^ al) code.length 0 used with
        | none => .next (s.pktDone d q p.rec' 8 0)
        | some base =>
          let h := (s.die d).nextObj
          let s := { s with mem := (List.range 8).foldl (fun m c => m.writeN (memKey (regCode (d * 8 + c)) base) code) s.mem }
          let s := s.updDie d fun x => { x with nextObj := h + 1, objs := x.objs.put h { o with base := base, refs := [] } }
          .next (s.updQueue d q fun x => { x with loading := some (h, p.rec') })

/-- The copies of a LOAD are written: the queue gets its reference, and the object's mailboxes are bound (R134, R139). -/
def DieSt.loaded (x : DieSt) (q h : Nat) : DieSt :=
  let o := x.objs.look h ⟨0, 0, [], none, [], [], [], [], [], [], 0⟩
  { x with objs := x.objs.put h { o with refs := [q] }
           mboxes := o.mboxes.foldl (fun m e => m.adj e.1 {} fun y => { y with bound := some (q, h, e.2) }) x.mboxes }

/-- LOAD_COMPLETE (R134, R139): the queue gets its reference and the handle, and the object's mailboxes are bound; of a queue disabled
since, only the record tells (R402, log 99). -/
def execLoadComplete (d q : Nat) (s : State) : Host.Outcome State Fault Refusal :=
  match (s.queue d q).strays.findSome? (fun w => match w with
      | .load h rec' head => some (w, h, rec', head)
      | .seal .. => none), (s.queue d q).loading with
  | some (w, h, rec', head), _ =>
    .next (((s.updDie d fun x => x.loaded q h).updQueue d q fun x => { x with strays := x.strays.erase w }).pktRecord d q rec' head 0 h)
  | none, some (h, rec') => .next (((s.updDie d fun x => x.loaded q h).updQueue d q fun x => { x with loading := none }).pktDone d q rec' 0 h)
  | none, none => .next s

/-- A queue's reference to an object is dropped, its mailboxes with it, and the code with the last reference (R140). -/
def DieSt.dropRef (x : DieSt) (q h : Nat) : DieSt :=
  let objs := x.objs.map fun e => (e.1, if e.1 = h then { e.2 with refs := e.2.refs.filter (· != q) } else e.2)
  { x with objs := objs.filter fun e => e.1 != h || e.2.refs != []
           mboxes := x.mboxes.mapv fun m => match m.bound with
             | some (mq, mh, _) => if mq = q ∧ mh = h then { m with bound := none } else m
             | none => m }

/-- The graphs that LAUNCHes of a queue have submitted and that have still to complete (R140). -/
def State.launched (s : State) (d q : Nat) : List Nat :=
  ((s.die d).graphs.filter fun g => g.2.queue == q && g.2.spawned.isNone && g.2.mbox.isNone && !s.graphDone g.2).map (·.1)

/-- UNLOAD (R140, R406): an UNLOAD whose earlier graphs have completed drops the reference, at once when there are none; else the one at the
head begins to wait. -/
def execUnload (d q : Nat) (s : State) : Host.Outcome State Fault Refusal :=
  let done := (s.queue d q).unloads.find? fun w => !w.2.1.any (s.launched d q).contains
  match done with
  | some w =>
    let s := (s.updDie d fun x => x.dropRef q w.1).updQueue d q fun x => { x with unloads := x.unloads.filter (· != w) }
    .next (s.pktRecord d q w.2.2.1 w.2.2.2 0 0)
  | none => match s.pktAt d q 4 with
    | none => .next s
    | some p =>
      if (((s.die d).objs.entry? p.arg32).map fun o => o.refs.contains q) ≠ some true then .next (s.pktDone d q p.rec' 6 0)
      else
        let gs := s.launched d q
        let h := (s.queue d q).head
        if gs = [] then .next ((s.updDie d fun x => x.dropRef q p.arg32).pktDone d q p.rec' 0 0)
        else .next ((s.updQueue d q fun x => { x with unloads := x.unloads ++ [(p.arg32, gs, p.rec', h)] }).pktDone d q 0 0 0)

/-! ## The configuration mailbox -/

/-- The first message of a die that asks for a configuration request `k` (R407). -/
def State.configMsg (s : State) (d k : Nat) : Option (Nat × Msg) :=
  (((List.range s.msgs.length).zip s.msgs).find? fun e => e.2.die == d && e.2.mb == 1023).bind fun e =>
    if e.2.request = k then some e else none

/-- SETCHIP (R407): the module's CHIPID, once. -/
def execSetchip (d : Nat) (s : State) : Host.Outcome State Fault Refusal :=
  match s.configMsg d 1 with
  | none => .next s
  | some (i, m) => .next (s.deliver i m (if s.chipSet then none else some { s with chipId := fld (leAt m.bytes 4 4) 0 20, chipSet := true }))

/-- A route table out of its 1 MiB (R340, R407). -/
def State.routeTable (s : State) (place pa : Nat) : Map Nat :=
  (List.range (2 ^ 20)).filterMap fun c => match placeKey place (pa + c) with
    | some k => let b := (s.mem.read k).toNat
                if bit b 7 ∧ fld b 0 5 < 20 then some (c, fld b 0 5) else none
    | none => none

/-- SETROUTE (R154, R340, R407): the die reads its routes; waiting notices whose routes are there leave (R342). -/
def execSetroute (d : Nat) (s : State) : Host.Outcome State Fault Refusal :=
  match s.configMsg d 2 with
  | none => .next s
  | some (i, m) =>
    let v := leAt m.bytes 8 8
    let t := s.routeTable (fld v 0 3) (fld v 16 36 * 2 ^ 16)
    let read := (List.range (2 ^ 14)).filterMap fun b => placeKey (fld v 0 3) (fld v 16 36 * 2 ^ 16 + 64 * b)
    .next ((s.deliver i m (some ((s.countVA d read).updDie d fun x => { x with routes := t }))).flushWaiting d)

/-- RETRAIN (R342, R407): training of a dead port of the die begins. -/
def execRetrain (d : Nat) (s : State) : Host.Outcome State Fault Refusal :=
  match s.configMsg d 3 with
  | none => .next s
  | some (i, m) =>
    let p := leAt m.bytes 4 1
    .next (s.deliver i m (if p / 5 = d ∧ p < 20 then
      some (s.updPort p fun x => if x.dead then { x with training := true } else x) else none))

end Sys2Proof.Machine
end

