-- ==== Sys2Proof/Machine/Trust.lean ====
section
/-!
DEFINITION. The security core: attestation, sealed regions, egress meters and the access log, and power-on, gating and shutdown
(23_host_and_trust.md R408-R421).
-/
namespace Sys2Proof.Machine

/-! ## Attestation (R410) -/

/-- An SPDM answer. -/
def State.answer (s : State) (a : Spdm) : State := { s with sec := { s.sec with out := s.sec.out ++ [a] } }

/-- A request other than GET_VERSION: while a trap record's head is kept it is answered with that head (R420). -/
def State.request (s : State) (f : State → State) : Host.Outcome State Fault Refusal :=
  match s.sec.heads with
  | e :: _ => .next (s.answer (.errorUnspecified e.2))
  | [] => .next (f s)

/-- GET_VERSION (R410). -/
def execGetVersion (s : State) : Host.Outcome State Fault Refusal := .next (s.answer .version)

/-- GET_CAPABILITIES (R410). -/
def execGetCapabilities (s : State) : Host.Outcome State Fault Refusal := s.request fun s => s.answer .capabilities

/-- NEGOTIATE_ALGORITHMS (R410): ML-DSA-87 and SHA3-512. -/
def execNegotiateAlgorithms (s : State) : Host.Outcome State Fault Refusal := s.request fun s => s.answer .algorithms

/-- GET_DIGESTS (R410): the digest of the chain in slot 0. -/
def execGetDigests (s : State) : Host.Outcome State Fault Refusal := s.request fun s => s.answer (.digests (sha3_512 Config.certChain))

/-- GET_CERTIFICATE (R408, R410): part of the chain in slot 0, the only one. -/
def execGetCertificate (slot off len : Nat) (s : State) : Host.Outcome State Fault Refusal :=
  s.request fun s => s.answer (if slot = 0 then .certificate ((Config.certChain.drop off).take len) else .errorInvalid 0 0 0)

/-- Where the fuse summary's bytes stand: OWNREQ, OWN0-OWN3, FRATE, FBURST, BOOTC (R410, log 17). -/
def State.fuseSummary (s : State) : Bytes :=
  (if Config.ownReq then (1 : Byte) else 0) :: ([0, 1, 2, 3].flatMap fun i => padTo 64 (Config.owner i)) ++ leBytes 8 Config.fRate ++
    leBytes 8 Config.fBurst ++ leBytes 8 s.sec.bootc

/-- An active region as measured: index, PLACE, base, length, policy digest (R410, log 17). -/
def Region.measured (i : Nat) (r : Region) : Bytes :=
  leBytes 1 i ++ leBytes 1 r.place ++ leBytes 8 r.base ++ leBytes 8 r.len ++ padTo 64 r.key

/-- The different digests that entry `i` of the routine stores has over the units: one, unless MPROG has replaced it on some dies only
(R326, R410). -/
def State.imagesAt (s : State) (i : Nat) : List Bytes :=
  let own := (s.units.map (·.2)).filter fun x => x.store != []
  let xs := if own.length < 512 then ({} : UnitSt) :: own else own
  (xs.map fun x => ((x.image i).map (·.digest)).getD noDigest).eraseDups

/-- Measurement block `i` of the table of R410. -/
def State.measured (s : State) (i : Nat) : Bytes :=
  match i with
  | 1 => sha3_512 Config.monitorRom
  | 2 => sha3_512 Config.supervisorImage
  | 3 => sha3_512 s.fuseSummary
  | 4 => sha3_512 ((List.range 8).flatMap fun i => sha3_512 (Config.standardImage i))
  | 5 => sha3_512 ((List.range 256).flatMap fun i => (s.imagesAt i).flatten)
  | 6 => sha3_512 (s.sec.regions.flatMap fun e => e.2.measured e.1)
  | _ => sha3_512 (leBytes 8 s.sec.logIdx ++ padTo 64 s.sec.logH)

/-- CHALLENGE (R409, R410): the security core signs its transcript. -/
def execChallenge (slot : Nat) (nonce : Bytes) (s : State) : Host.Outcome State Fault Refusal :=
  s.request fun s => s.answer (if slot = 0 then .challengeAuth (signWith identitySeed (sha3_512 (sha3_512 Config.certChain ++ nonce)))
    else .errorInvalid 0 0 0)

/-- The measurement blocks a request names: none for index 0, all for 0xFF, one of 1 to 7; nothing for a reserved index (R410). -/
def State.measureBlocks (s : State) (idx : Nat) : Option (List (Nat × Bytes)) :=
  if idx = 0 then some []
  else if idx = 0xFF then some ([1, 2, 3, 4, 5, 6, 7].map fun i => (i, s.measured i))
  else if idx ≤ 7 then some [(idx, s.measured idx)]
  else none

/-- GET_MEASUREMENTS (R410). -/
def execGetMeasurements (idx : Nat) (sign : Bool) (nonce : Bytes) (s : State) : Host.Outcome State Fault Refusal :=
  s.request fun s => match s.measureBlocks idx with
    | none => s.answer (.errorInvalid 0 0 0)
    | some bs =>
      let sig := if sign then signWith identitySeed (sha3_512 (bs.flatMap (fun e => leBytes 1 e.1 ++ e.2) ++ nonce)) else []
      s.answer (.measurements bs sig)

/-- UNSUPPORTED_REQUEST (R410). -/
def execUnsupportedRequest (code : Nat) (s : State) : Host.Outcome State Fault Refusal :=
  s.request fun s => s.answer (.errorUnsupported code)

/-! ## Sealed regions (R411-R413) -/

/-- The policy bytes that the owner signs (R413, log 17). -/
def policyBytes (r : ImportReq) (chip : Nat) : Bytes :=
  leBytes 4 chip ++ leBytes 1 r.region ++ r.key ++ leBytes 8 r.rate ++ leBytes 8 r.burst

/-- Whether a range of a PLACE map is installed from end to end (R153). -/
def installed (place base len : Nat) : Bool :=
  decide (place ≤ 5) && decide (base + len ≤ 2 ^ 52) && (placeKey place base).isSome && (placeKey place (base + len - 1)).isSome

/-- The places in memory of a range of a PLACE map. -/
def placeKeys (place base len : Nat) : List Nat := (List.range len).filterMap fun i => placeKey place (base + i)

/-- Whether a TARGET is aligned and installed (R411, R413 step 1). -/
def targetOk (r : ImportReq) : Bool :=
  r.tbase % 65536 == 0 && r.tlen % 65536 == 0 && decide (65536 ≤ r.tlen) && decide (r.tlen ≤ 2 ^ 39) && installed r.tplace r.tbase r.tlen

/-- What an IMPORT comes to: the step of R413 at which it fails and the machine then, or the machine with the region active. -/
def State.importTo (s : State) (r : ImportReq) : Except (Nat × State) State :=
  let ks := placeKeys r.tplace r.tbase r.tlen
  if 63 < r.region ∨ (s.sec.regions.entry? r.region).isSome ∨ !targetOk r then .error (1, s)
  else if Config.ownReq && !([0, 1, 2, 3].any fun i => Config.owner i == sha3_512 r.key && !allZero (Config.owner i)) then .error (2, s)
  else if r.key.length ≠ 2592 ∨ !mldsaVerify r.key (digest 0x22 (policyBytes r s.chipId)) r.sig then .error (3, s)
  else match mlkemDecaps (digest 0x21 Config.sealKey) r.capsule with
  | none => .error (4, s)
  | some key =>
    let key := key.take 32
    let ct := s.mem.readAt (placeKeys r.splace r.sbase r.tlen)
    let open' := if installed r.splace r.sbase r.tlen then aesGcmOpen key r.nonce (0x22 :: policyBytes r s.chipId) ct r.tag else none
    match open' with
    | none => .error (5, s.writeGlobal ks (zeros r.tlen))
    | some pt =>
      let b := min r.burst Config.fBurst
      let s := s.writeGlobal ks (padTo r.tlen pt)
      let x : Region :=
        { place := r.tplace, base := r.tbase, len := r.tlen, key := sha3_512 r.key, rate := min r.rate Config.fRate, burst := b, tok := b }
      .ok { s with sec := { s.sec with regions := s.sec.regions.put r.region x } }


/-- The leaves of a table and of the tables below it: PLACE, address, span (R148, R150). -/
def leavesOf (mem : Mem) : List Nat → Nat → Nat → List (Nat × Nat × Nat)
  | [], _, _ => []
  | lvl :: ls, t, pl =>
    (List.range (2 ^ (lvlBits lvl).2)).flatMap fun i => match placeKey pl (t + i * 8) with
      | none => []
      | some k =>
        let e := leVal (mem.readN k 8)
        let frame := fld e 16 36
        if fld e 0 1 = 0 then []
        else if fld e 1 1 = 1 then [(fld e 7 3, frame * 2 ^ 16, 2 ^ lvlSpan lvl)]
        else leavesOf mem ls (frame * 2 ^ 16) (fld e 7 3)

/-- Whether the tables of an address space map some storage of a region (R413). -/
def State.mapsRegion (s : State) (space i : Nat) : Bool :=
  (leavesOf s.mem [4, 3, 2, 1, 0] (rootOf space).2 (rootOf space).1).any fun l =>
    (List.range (l.2.2 / 4096)).any fun g => match placeKey l.1 (l.2.1 + 4096 * g) with
      | some k => (s.regionsAt k).any fun e => e.1 == i
      | none => false

/-- The contexts of the module that run tasks, with their dies and queues. -/
def State.tasksRunning (s : State) : List (Nat × Nat) :=
  let run (m : Map Ctx) : List (Nat × Nat) := (m.filter fun e => e.2.cid != 0 && !e.2.startup).map fun e => (e.2.die, e.2.queue)
  (s.units.flatMap fun u => run u.2.ctxs) ++ s.dies.flatMap fun d => run d.2.saved

/-- An IMPORT request (R413, R417): it waits while the access log has no room for its record. -/
def State.importReq (s : State) (r : ImportReq) : State :=
  match s.importTo r with
  | .error (n, t) => ((t.logRecord { kind := 4 }).map fun t => t.answer (.errorInvalid 1 r.region n)).getD s
  | .ok t => ((t.logRecord { kind := 1 }).map fun t => t.answer (.vendorDone 1 r.region)).getD s

/-- A RELEASE request (R413, R417): it waits for the tasks of queues that map the region, and for room in the access log. -/
def State.releaseReq (s : State) (i : Nat) : State :=
  match s.sec.regions.entry? i with
  | none => s.answer (.errorInvalid 2 i 1)
  | some r =>
    if s.tasksRunning.any fun q => s.mapsRegion (s.space q.1 q.2) i then s
    else
      let t := s.writeGlobal (placeKeys r.place r.base r.len) (zeros r.len)
      match t.logRecord { kind := 2 } with
      | none => s
      | some t => State.answer { t with sec := { t.sec with regions := t.sec.regions.del i } } (.vendorDone 2 i)

/-- The vendor-defined request that carries an IMPORT (R413): OP 1 imports, 2 releases, every other is rejected. -/
def execImportRegion (r : ImportReq) (s : State) : Host.Outcome State Fault Refusal :=
  s.request fun s =>
    if r.op = 1 then s.importReq r
    else if r.op = 2 then s.releaseReq r.region
    else s.answer (.errorInvalid r.op r.region 0)

/-- RELEASE (R413, R417). -/
def execRelease (i : Nat) (s : State) : Host.Outcome State Fault Refusal := s.request fun s => s.releaseReq i

/-- SIGN_LOG_HEAD (R418): the host asks for a signature of the log's head; it waits for room. -/
def execSignLogHead (s : State) : Host.Outcome State Fault Refusal :=
  s.request fun s => (s.signHead.map fun t => t.answer (.vendorDone 0 0)).getD s

/-! ## Egress meters (R414-R416) -/

/-- METER_REFILL (R416): each 1,024 cycles of die 0; records that wait enter the access log as it has room (R417). -/
def execMeterRefill (s : State) : Host.Outcome State Fault Refusal :=
  let s := s.drainLog s.sec.logQ
  .next { s with sec := { s.sec with regions := s.sec.regions.mapv fun r => { r with tok := min r.burst (r.tok + r.rate) } } }

/-- Whether a packet given to a port would leave it at once: its link is live and its window has room (R342, R414). -/
def PortSt.leaves (x : PortSt) (blot : Bool) : Bool := !x.dead && (blot || (x.queued == [] && decide (x.unacked.length < 64)))

/-- The bytes that a job waits to take across, if it waits (R414, R415): those of an out job that tokens have not paid for, one packet of
a send that would leave its port; a packet of a dead port fails there and crosses nothing. -/
def State.wantsToken (s : State) (u jid : Nat) : Option (Job × Nat) :=
  match s.job? u jid with
  | none => none
  | some j =>
    if j.fault.isSome then none
    else if j.kind = .send then
      match j.src, s.end? u j.ch with
      | some t, some e =>
        let x := s.port j.bank
        if j.phase == 1 && decide (j.done < j.stored.length) && (s.slot t).sealed && (x.dead || x.leaves e.blot) then
          some (j, if x.dead then 0 else 512)
        else none
      | _, _ => none
    else
      let b := s.crossing u j
      if b ≤ j.paid || j.performed || (s.ready u j (s.jobKeys u j)).isNone then none else some (j, b - j.paid)

/-- Every meter debited by `b` tokens, when each holds them (R415). -/
def State.debit (s : State) (b : Nat) : Option State :=
  if s.sec.regions.all fun r => decide (b ≤ r.2.tok) then
    some { s with sec := { s.sec with regions := s.sec.regions.mapv fun r => { r with tok := r.tok - b } } }
  else none

/-- The mask of the active regions (R417). -/
def State.regionMask (s : State) : Nat := s.sec.regions.foldl (fun a e => a ||| 2 ^ e.1) 0

/-- The first chunk that a send reads next, when it has become uncorrectable (R171). -/
def State.sendBad (s : State) (j : Job) : Option Trap :=
  if j.kind = .send ∧ (j.src.map fun t => bit (s.slot t).poison j.done) = some true then some { cause := 0x30, row := j.done } else none

/-- A crossing of `b` bytes gets its tokens and goes on; none while it must wait for tokens or for room in the log (R415-R417). -/
def State.cross (s : State) (u : Nat) (j : Job) (b : Nat) : Option State :=
  if b ≠ 0 ∧ !s.logRoom then none
  else (s.debit b).map fun t =>
    let j := { j with crossed := j.crossed + b, cmask := if b = 0 then j.cmask else j.cmask ||| s.regionMask }
    if j.kind = .send then
      let t := (t.putJob u j).sendChunk u j j.done
      if j.done + 1 < j.stored.length then t else t.handBack u { j with done := j.done + 1 }
    else t.putJob u { j with paid := j.paid + b }

/-- CROSSING_GRANT (R415): a crossing that waits asks; those that asked get their tokens in order. -/
def execCrossingGrant (u j : Nat) (s : State) : Host.Outcome State Fault Refusal :=
  let wants := s.wantsToken u j
  let rs := s.sec.reqs.filter fun r => (s.wantsToken r.1 r.2).isSome
  let rs := if rs.contains (u, j) || wants.isNone then rs else rs ++ [(u, j)]
  let s : State := { s with sec := { s.sec with reqs := rs } }
  match wants with
  | none => .next s
  | some (x, b) =>
    if (s.unit u).freeze ≠ 0 then .next s
    else match s.sendBad x with
      | some t => .next (s.stopJob u x t)
      | none =>
        if s.crossRefused b then .next (if x.kind = .send then s.stopJob u x (trapOf 0x10 1) else s)
        else if rs.head? ≠ some (u, j) then .next s
        else match s.cross u x b with
          | none => .next s
          | some t => .next { t with sec := { t.sec with reqs := t.sec.reqs.drop 1 } }

/-! ## Power and cooling (R420, R421) -/

/-- The monitor starts one context on unit 0 of a die, from the test image in its scratchpad (R420 step 2). -/
def State.startTest (s : State) (d : Nat) : State :=
  let u := d * 128
  let img := Config.testImage.take 65536
  let s : State := { s with mem := s.mem.writeN (memKey (regScratch u) 0) img, nextCid := s.nextCid + 1 }
  let s := s.updUnit u fun x => { x with filled := (List.range (cdiv img.length 64)).map fun l => (l, ()) }
  let c : Ctx := { cid := s.nextCid - 1, unit := u, die := d, level := 2, startup := true, taskId := s.nextTask d }
  (s.updDie d fun x => { x with tasksStarted := x.tasksStarted + 1 }).setCtx u 0 c

/-- Whether the monitor verifies the supervisor image against ERK (R420 step 2). -/
def supervisorOk : Bool := ebarisVerify Config.supervisorImage Config.supervisorSig

/-- POWER_ON (R418, R420): units are fenced and ports dead; BOOTC rises, the log's chain begins with a KIND 0 record, and each die's
unit 0 starts its test once the supervisor image is verified; where it is not, bring-up goes no further (log 78). -/
def execPowerOn (nonce : Bytes) (s : State) : Host.Outcome State Fault Refusal :=
  if s.power = .on then .next s
  else
    let bootc := min 4096 (s.sec.bootc + 1)
    let n := padTo 24 nonce
    let s : State := { s with power := .on, sec := { s.sec with bootc := bootc } }
    let r : AccRec := { kind := 0, amount := bootc, nonce := n }
    let s := (s.logRecord r).getD { s with sec := { s.sec with logQ := s.sec.logQ ++ [r] } }
    .next (if supervisorOk then [0, 1, 2, 3].foldl (fun s d => s.startTest d) s else s)

/-- THERMAL_GATE (R421): a die at or above 105 °C gates issue. -/
def execThermalGate (d : Nat) (s : State) : Host.Outcome State Fault Refusal := .next (s.updDie d fun x => { x with gated := true })

/-- THERMAL_GATE_RELEASE (R421): the die is below 105 °C again. -/
def execThermalGateRelease (d : Nat) (s : State) : Host.Outcome State Fault Refusal := .next (s.updDie d fun x => { x with gated := false })

/-- The egress records of the jobs that have crossed and not completed (R417). -/
def State.owedRecords (s : State) : List AccRec :=
  s.units.flatMap fun u => (u.2.jobs.filter fun j => j.crossed != 0).map fun j => j.egress u.1 (s.jobCtx u.1 j).taskId

/-- THERMAL_SHUTDOWN (R421): every port dead, every unit fenced, power down. What fuses and host memory hold stays, and no record of the
access log is dropped (R417): those that wait for room or are owed keep their place and their chain. DEDUCED (log 100). All else is as at
reset. -/
def execThermalShutdown (s : State) : Host.Outcome State Fault Refusal :=
  .next { State.reset with
    power := .down, agenda := s.agenda, mem := s.mem.filter fun c => c.1 / 2 ^ 52 == regHost
    sec := { bootc := s.sec.bootc, logWrite := s.sec.logWrite, logIdx := s.sec.logIdx, sinceSign := s.sec.sinceSign, logH := s.sec.logH
             logQ := (s.sec.logQ ++ s.owedRecords).map fun r => { r with chip := some (r.chip.getD s.chipId) } } }

end Sys2Proof.Machine
end

