-- ==== Sys2Proof/Machine/Errors.lean ====
section
/-!
DEFINITION. Soft errors and freezes, uncorrectable errors, the watchdog, and engine jobs that stop at a fault
(06_memory.md R170, R171; 05 R136; 12 R258; 13 R274).
-/
namespace Sys2Proof.Machine

/-! ## Errors of storage -/

/-- A record of kind 5 for each task live on the unit as the freeze of a correction begins (R222). A correction during a freeze is taken
to begin a freeze of its own 32 cycles: DEDUCED (log 25). -/
def State.freezeStats (s : State) (u : Nat) (acc : Bool) : State :=
  let x := s.unit u
  (x.ctxs.filter fun e => e.1 != x.shadow && !e.2.startup).foldl (fun s e => s.stat u e.2 5 7 acc.toNat ((e.2.fencing.map (·.next)).getD e.2.pc)) s

/-- SOFT_ERROR_CORRECTED (R170): the unit freezes for 32 cycles more; 1 + the frozen cycles left stand in `freeze`. -/
def execSoftErrorCorrected (u : Nat) (acc : Bool) (s : State) : Host.Outcome State Fault Refusal :=
  .next ((s.freezeStats u acc).updUnit u fun x =>
    { x with secorr := (x.secorr + 1) % 2 ^ 64, freeze := (if x.freeze = 0 then 1 else x.freeze) + 32 })

/-- The freeze of a unit ends once its cycles have passed (R170). -/
def UnitSt.thaw (x : UnitSt) : UnitSt := if x.freeze = 1 then { x with freeze := 0 } else x

/-- FREEZE_END (R170). -/
def execFreezeEnd (u : Nat) (s : State) : Host.Outcome State Fault Refusal := .next (s.updUnit u UnitSt.thaw)

/-- PAD_UNCORRECTABLE (R171): the chunk's POISON bit is set, or the storage is marked for its readers. -/
def execPadUncorrectable (w : ErrAt) (s : State) : Host.Outcome State Fault Refusal :=
  match w with
  | .pad p k c => .next (s.updSlot ⟨p, k⟩ fun x => { x with poison := setBit x.poison c })
  | .global key => .next { s with gpoison := s.gpoison.put (key / 64) () }
  | .code cl line => .next { s with gpoison := s.gpoison.put (memKey (regCode cl) (64 * line) / 64) () }

/-! ## The watchdog (R136) -/

/-- Whether a context's excess has reached a limit; a start-up context declares no cycles. -/
def Ctx.over (c : Ctx) (w : Nat) : Bool := !c.startup && decide (c.cycles + w ≤ c.watch)

/-- Whether the watchdog counts for a context: it issues, or is in the steps of its TASKEND. -/
def Ctx.counts (c : Ctx) : Bool :=
  match c.status with
  | .live => true
  | .ending => true
  | _ => false

/-- W1 asks for pre-emption (R136, R138). -/
def State.watch1 (s : State) (u b : Nat) : State :=
  match s.ctx? u b with
  | some c => if c.counts && !c.wdWarn && c.over (s.queue c.die c.queue).w1 then
      s.setCtx u b { c with wdWarn := true, preempt := true } else s
  | none => s

/-- WATCHDOG_W1 (R136). -/
def execWatchdogW1 (u b : Nat) (s : State) : Host.Outcome State Fault Refusal :=
  .next (if (s.unit u).freeze ≠ 0 then s else s.watch1 u b)

/-- Whether a context stands at a group boundary. -/
def Ctx.atBoundary (c : Ctx) : Bool :=
  match c.pres with
  | some p => !p.started && c.grpFrom == some p.addr
  | none => c.grpFrom.isNone

/-- The kill of W2: tiles freed, graph failed, WATCHDOG raised (R136, R137). -/
def State.watchKill (s : State) (u b : Nat) : State :=
  let c := { s.ctxAt u b with wdKill := true, killed := true }
  let s := s.setCtx u b c
  let s := if c.handles.isNone then s.failGraph c.die c.graph else s
  (s.releaseAbandoned u c).enterTrap u b { cause := 0x32 } c.pc

/-- W2 kills the task: at once when it is stalled, at a group boundary or in the steps of its end, else at its next group
boundary (R136). -/
def State.watch2 (s : State) (u b : Nat) : State :=
  match s.ctx? u b with
  | some c =>
    if !c.counts || c.killed || !c.over (s.queue c.die c.queue).w2 then s
    else if c.last = .held ∨ c.atBoundary ∨ c.endPhase ≠ 0 then s.watchKill u b
    else s.setCtx u b { c with wdKill := true }
  | none => s

/-- WATCHDOG_W2 (R136). -/
def execWatchdogW2 (u b : Nat) (s : State) : Host.Outcome State Fault Refusal :=
  .next (if (s.unit u).freeze ≠ 0 then s else s.watch2 u b)

/-- W3 fences the unit while a task that W2 killed still has engine jobs (R14, R136). -/
def State.watch3 (s : State) (u cid : Nat) : State :=
  match s.byCid? u cid with
  | some c =>
    if c.wdKill && c.killed && c.over (s.queue c.die c.queue).w3 && !(s.jobsOf u cid).isEmpty && (s.unit u).fence == 0 then s.fenceUnit u 1
    else s
  | none => s

/-- WATCHDOG_W3 (R136). -/
def execWatchdogW3 (u cid : Nat) (s : State) : Host.Outcome State Fault Refusal :=
  .next (if (s.unit u).freeze ≠ 0 then s else s.watch3 u cid)

/-! ## Faults of engine jobs -/

/-- A job stops where it faults now (R147, R258, R268, R272, R274, R333, R358); none when it does not. -/
def State.jobFaultNow (s : State) (u : Nat) (j : Job) : Option State :=
  match j.kind with
  | .copyIn | .tmove => if s.acquiring u j then none else s.stopIn u j
  | .gather =>
    if j.rows.length ≤ j.drained then none
    else match s.fetchRow u j with
      | some (_, _, some _) => some (s.drainJob u j)
      | _ => none
  | .ldg => (s.ready u j (s.jobKeys u j)).bind fun s => (s.doLdg u j).stop u
  | .ovl => (s.ready u j (s.jobKeys u j)).bind fun s => (s.runOvl u j).stop u
  | .copyOut | .copyAcc | .scatter | .stg | .atomic => (s.perform u j).stop u
  | .prime => (s.primeBad j).map fun t => s.stopJob u j t
  | .spawn => (s.ready u j (s.jobKeys u j)).bind fun s => match s.spawnHeader u j with
    | (s, j, .error t) => some (s.stopJob u j t)
    | _ => none
  | .mprog =>
    if j.performed then none
    else (s.ready u j (s.jobKeys u j)).bind fun s => match s.readImage u j with
      | (s, j, .error t) => some (s.stopJob u j t)
      | _ => none
  | _ => none

end Sys2Proof.Machine
end

