-- ==== Sys2Proof/Machine/Issue.lean ====
section
/-!
DEFINITION. A cycle of a unit: freezes, swaps, the watchdog and deadlines, the steps of TASKEND, the merge stage, and the fetch,
decode and issue of bundles (03_bundles.md R55-R68, R424; 05 R132, R133, R136, R138; 06 R164-R171; 10 R243).
-/
namespace Sys2Proof.Machine

/-- The slot of an operation; an event has none. -/
def semOf (i : Instr) : Option SlotSem :=
  match i with
  | .bundleIssue _ => none
  | .emptyBundle => none
  | .handlerLaunch _ => none
  | .contextSwapComplete _ => none
  | .stallSwap _ _ => none
  | .mergeStarvation _ => none
  | .add qp sd sa sb => some (semAdd qp sd sa sb)
  | .sub qp sd sa sb => some (semSub qp sd sa sb)
  | .and qp sd sa sb => some (semAnd qp sd sa sb)
  | .or qp sd sa sb => some (semOr qp sd sa sb)
  | .xor qp sd sa sb => some (semXor qp sd sa sb)
  | .shl qp sd sa sb => some (semShl qp sd sa sb)
  | .shr qp sd sa sb => some (semShr qp sd sa sb)
  | .sar qp sd sa sb => some (semSar qp sd sa sb)
  | .mul qp sd sa sb => some (semMul qp sd sa sb)
  | .mulh qp sd sa sb => some (semMulh qp sd sa sb)
  | .mulhn qp sd sa sb => some (semMulhn qp sd sa sb)
  | .div qp sd sa sb => some (semDiv qp sd sa sb)
  | .divn qp sd sa sb => some (semDivn qp sd sa sb)
  | .rem qp sd sa sb => some (semRem qp sd sa sb)
  | .remn qp sd sa sb => some (semRemn qp sd sa sb)
  | .min qp sd sa sb => some (semMin qp sd sa sb)
  | .max qp sd sa sb => some (semMax qp sd sa sb)
  | .minn qp sd sa sb => some (semMinn qp sd sa sb)
  | .maxn qp sd sa sb => some (semMaxn qp sd sa sb)
  | .clz qp sd sa => some (semClz qp sd sa)
  | .ctz qp sd sa => some (semCtz qp sd sa)
  | .popc qp sd sa => some (semPopc qp sd sa)
  | .andn qp sd sa sb => some (semAndn qp sd sa sb)
  | .orn qp sd sa sb => some (semOrn qp sd sa sb)
  | .addi qp sd sa imm11 => some (semAddi qp sd sa imm11)
  | .addiExt qp sd sa imm11 ext => some (semAddiExt qp sd sa imm11 ext)
  | .andi qp sd sa imm11 => some (semAndi qp sd sa imm11)
  | .andiExt qp sd sa imm11 ext => some (semAndiExt qp sd sa imm11 ext)
  | .ori qp sd sa imm11 => some (semOri qp sd sa imm11)
  | .oriExt qp sd sa imm11 ext => some (semOriExt qp sd sa imm11 ext)
  | .xori qp sd sa imm11 => some (semXori qp sd sa imm11)
  | .xoriExt qp sd sa imm11 ext => some (semXoriExt qp sd sa imm11 ext)
  | .shli qp sd sa imm11 => some (semShli qp sd sa imm11)
  | .shliExt qp sd sa imm11 ext => some (semShliExt qp sd sa imm11 ext)
  | .shri qp sd sa imm11 => some (semShri qp sd sa imm11)
  | .shriExt qp sd sa imm11 ext => some (semShriExt qp sd sa imm11 ext)
  | .sari qp sd sa imm11 => some (semSari qp sd sa imm11)
  | .sariExt qp sd sa imm11 ext => some (semSariExt qp sd sa imm11 ext)
  | .muli qp sd sa imm11 => some (semMuli qp sd sa imm11)
  | .muliExt qp sd sa imm11 ext => some (semMuliExt qp sd sa imm11 ext)
  | .movi qp sd imm16 => some (semMovi qp sd imm16)
  | .moviExt qp sd imm16 ext => some (semMoviExt qp sd imm16 ext)
  | .movhi qp sd imm16 => some (semMovhi qp sd imm16)
  | .cmp qp qt qf sa sb cond => some (semCmp qp qt qf sa sb cond)
  | .cmpi qp qt qf sa imm5 cond => some (semCmpi qp qt qf sa imm5 cond)
  | .cmpiExt qp qt qf sa imm5 cond ext => some (semCmpiExt qp qt qf sa imm5 cond ext)
  | .sel qp sd sa sb qs => some (semSel qp sd sa sb qs)
  | .bfx qp sd sa pos lenm1 => some (semBfx qp sd sa pos lenm1)
  | .bfxs qp sd sa pos lenm1 => some (semBfxs qp sd sa pos lenm1)
  | .bfi qp sd sa pos lenm1 => some (semBfi qp sd sa pos lenm1)
  | .lea qp sd sa sb shift => some (semLea qp sd sa sb shift)
  | .movs qp sd special => some (semMovs qp sd special)
  | .br qp disp21 => some (semBr qp disp21)
  | .brExt qp disp21 ext => some (semBrExt qp disp21 ext)
  | .call qp disp21 => some (semCall qp disp21)
  | .callExt qp disp21 ext => some (semCallExt qp disp21 ext)
  | .brs qp sa => some (semBrs qp sa)
  | .calls qp sa => some (semCalls qp sa)
  | .loop qp sa len => some (semLoop qp sa len)
  | .loopi qp cnt10 len => some (semLoopi qp cnt10 len)
  | .loopiExt qp cnt10 len ext => some (semLoopiExt qp cnt10 len ext)
  | .loopr qp sa epi len => some (semLoopr qp sa epi len)
  | .lbreak qp => some (semLbreak qp)
  | .plog qp qd qa qb fn => some (semPlog qp qd qa qb fn)
  | .fmtset qp sa => some (semFmtset qp sa)
  | .fmtseti qp fmt => some (semFmtseti qp fmt)
  | .semwait qp e n => some (semSemwait qp e n)
  | .semsig qp e n => some (semSemsig qp e n)
  | .waitc qp h g sa => some (semWaitc qp h g sa)
  | .ctrwait qp c sa => some (semCtrwait qp c sa)
  | .tfence qp => some (semTfence qp)
  | .fence qp sd scope => some (semFence qp sd scope)
  | .taskend qp => some (semTaskend qp)
  | .spawn qp f sa e => some (semSpawn qp f sa e)
  | .spawnOverlap qp f sa e ov => some (semSpawnOverlap qp f sa e ov)
  | .yield qp => some (semYield qp)
  | .statpop qp sd sd2 => some (semStatpop qp sd sd2)
  | .trap qp imm16 => some (semTrap qp imm16)
  | .eret qp => some (semEret qp)
  | .csrr qp sd sa csr => some (semCsrr qp sd sa csr)
  | .csrw qp sa sb csr => some (semCsrw qp sa sb csr)
  | .jobres qp sa => some (semJobres qp sa)
  | .iflush qp => some (semIflush qp)
  | .capopDerive qp sd sa sb rights => some (semCapopDerive qp sd sa sb rights)
  | .capopRevoke qp sd sa sb => some (semCapopRevoke qp sd sa sb)
  | .capopInfo qp sd sa sb => some (semCapopInfo qp sd sa sb)
  | .capopFree qp sd sa sb => some (semCapopFree qp sd sa sb)
  | .ctxctlStop qp sd sa sb => some (semCtxctlStop qp sd sa sb)
  | .ctxctlGo qp sd sa sb => some (semCtxctlGo qp sd sa sb)
  | .ctxctlKill qp sd sa sb => some (semCtxctlKill qp sd sa sb)
  | .ctxctlRead qp sd sa sb off => some (semCtxctlRead qp sd sa sb off)
  | .ctxctlWrite qp sd sa sb off => some (semCtxctlWrite qp sd sa sb off)
  | .ctxctlBrkSet qp sd sa sb n => some (semCtxctlBrkSet qp sd sa sb n)
  | .ctxctlBrkClr qp sd sa sb n => some (semCtxctlBrkClr qp sd sa sb n)
  | .ctxctlTestMode qp sd sa sb => some (semCtxctlTestMode qp sd sa sb)
  | .audmark qp sa sb => some (semAudmark qp sa sb)
  | .audsealSeal qp sd f sa => some (semAudsealSeal qp sd f sa)
  | .audsealConfig qp sd f sa => some (semAudsealConfig qp sd f sa)
  | .audbisect qp sd f sa e => some (semAudbisect qp sd f sa e)
  | .audref qp sd f sa e => some (semAudref qp sd f sa e)
  | .audreplay qp sd f sa e => some (semAudreplay qp sd f sa e)
  | .audroot qp hd sl => some (semAudroot qp hd sl)
  | .shset qp sh field sa => some (semShset qp sh field sa)
  | .shseti qp sh field imm => some (semShseti qp sh field imm)
  | .shcopy qp shd shs => some (semShcopy qp shd shs)
  | .shstep qp sh dim sa => some (semShstep qp sh dim sa)
  | .mpset qp mp half sa => some (semMpset qp mp half sa)
  | .mpseti qp mp word imm => some (semMpseti qp mp word imm)
  | .vshape qp rowsm1 colsm1 => some (semVshape qp rowsm1 colsm1)
  | .fpnarrow qp fd fs mode sa sb => some (semFpnarrow qp fd fs mode sa sb)
  | .shrd qp sd kind reg sl => some (semShrd qp sd kind reg sl)
  | .alloc qp hd pool reads => some (semAlloc qp hd pool reads)
  | .allocr qp hd pool sa => some (semAllocr qp hd pool sa)
  | .alloct qp hd pool reads qs => some (semAlloct qp hd pool reads qs)
  | .copyin qp hd sh e => some (semCopyin qp hd sh e)
  | .gpush qp hd sa last => some (semGpush qp hd sa last)
  | .gather qp hd sh e => some (semGather qp hd sh e)
  | .tmove qp hd hs c e => some (semTmove qp hd hs c e)
  | .ldt qp sd hs sz sg imm9 => some (semLdt qp sd hs sz sg imm9)
  | .ldtr qp sd hs sz sg sb => some (semLdtr qp sd hs sz sg sb)
  | .ldg qp sd f sa sz sg e => some (semLdg qp sd f sa sz sg e)
  | .tread qp sd hs c sb => some (semTread qp sd hs c sb)
  | .trel qp hs => some (semTrel qp hs)
  | .tinfo qp sd hs sl => some (semTinfo qp sd hs sl)
  | .ovl qp f sa sb e => some (semOvl qp f sa sb e)
  | .landh qp hd ch sa => some (semLandh qp hd ch sa)
  | .vadd qp hd ha hb ty ca cb fn => some (semVadd qp hd ha hb ty ca cb fn)
  | .vsub qp hd ha hb ty ca cb fn => some (semVsub qp hd ha hb ty ca cb fn)
  | .vmul qp hd ha hb ty ca cb fn => some (semVmul qp hd ha hb ty ca cb fn)
  | .vfma qp hd ha hb ty ca cb fn => some (semVfma qp hd ha hb ty ca cb fn)
  | .vmin qp hd ha hb ty ca cb => some (semVmin qp hd ha hb ty ca cb)
  | .vmax qp hd ha hb ty ca cb => some (semVmax qp hd ha hb ty ca cb)
  | .vand qp hd ha hb ty ca cb => some (semVand qp hd ha hb ty ca cb)
  | .vor qp hd ha hb ty ca cb => some (semVor qp hd ha hb ty ca cb)
  | .vxor qp hd ha hb ty ca cb => some (semVxor qp hd ha hb ty ca cb)
  | .vshl qp hd ha hb ty ca cb => some (semVshl qp hd ha hb ty ca cb)
  | .vshr qp hd ha hb ty ca cb => some (semVshr qp hd ha hb ty ca cb)
  | .vcmp qp hd ha hb ty ca cb fn => some (semVcmp qp hd ha hb ty ca cb fn)
  | .vsel qp hd ha hb ty ca cb => some (semVsel qp hd ha hb ty ca cb)
  | .vabs qp hd ha ty ca => some (semVabs qp hd ha ty ca)
  | .vneg qp hd ha ty ca => some (semVneg qp hd ha ty ca)
  | .vmov qp hd ha ty ca => some (semVmov qp hd ha ty ca)
  | .vfill qp hd ty => some (semVfill qp hd ty)
  | .vfillExt qp hd ty ext => some (semVfillExt qp hd ty ext)
  | .vbrow qp hd ha ty ca => some (semVbrow qp hd ha ty ca)
  | .vbcol qp hd ha ty ca => some (semVbcol qp hd ha ty ca)
  | .vtrans qp hd ha ty ca => some (semVtrans qp hd ha ty ca)
  | .vsfu qp hd ha ty ca fn func => some (semVsfu qp hd ha ty ca fn func)
  | .vrsum qp hd ha ty ca fn => some (semVrsum qp hd ha ty ca fn)
  | .vrmax qp hd ha ty ca => some (semVrmax qp hd ha ty ca)
  | .vcsum qp hd ha ty ca fn => some (semVcsum qp hd ha ty ca fn)
  | .vcmax qp hd ha ty ca => some (semVcmax qp hd ha ty ca)
  | .vdot qp hd ha hb ty ca cb fn => some (semVdot qp hd ha hb ty ca cb fn)
  | .vmacc qp hd ha hb ty ca cb fn => some (semVmacc qp hd ha hb ty ca cb fn)
  | .vcvt qp hd ha ca fn src dst sat inter => some (semVcvt qp hd ha ca fn src dst sat inter)
  | .vqnt qp hd ha hb ty ca cb fn dst axis side cal => some (semVqnt qp hd ha hb ty ca cb fn dst axis side cal)
  | .vdqnt qp hd ha hb ty ca cb fn src axis side sat => some (semVdqnt qp hd ha hb ty ca cb fn src axis side sat)
  | .vscale qp hd ha hb ty ca cb fn => some (semVscale qp hd ha hb ty ca cb fn)
  | .viota qp hd ty fn => some (semViota qp hd ty fn)
  | .vsums qp sd ha sdhi ty ca => some (semVsums qp sd ha sdhi ty ca)
  | .mcall qp routine acc z e => some (semMcall qp routine acc z e)
  | .acczero qp acc ty => some (semAcczero qp acc ty)
  | .accrd qp hd acc ht fo rm sat ct => some (semAccrd qp hd acc ht fo rm sat ct)
  | .accwr qp acc hs c ty => some (semAccwr qp acc hs c ty)
  | .accmov qp accd accs => some (semAccmov qp accd accs)
  | .ringpush qp ring hs => some (semRingpush qp ring hs)
  | .ringdrop qp ring n => some (semRingdrop qp ring n)
  | .ringinfo qp sd ring => some (semRinginfo qp sd ring)
  | .mprog qp index f sa => some (semMprog qp index f sa)
  | .mprogExt qp index f sa e => some (semMprogExt qp index f sa e)
  | .copyout qp hs sh c red e => some (semCopyout qp hs sh c red e)
  | .copyacc qp acc sh e => some (semCopyacc qp acc sh e)
  | .stt qp sa hs sz imm9 => some (semStt qp sa hs sz imm9)
  | .sttr qp sa hs sz sb => some (semSttr qp sa hs sz sb)
  | .stg qp sb f sa sz e => some (semStg qp sb f sa sz e)
  | .atom qp sd f sa sb aop scope order size e => some (semAtom qp sd f sa sb aop scope order size e)
  | .cas qp sd f sa sb scope order size e => some (semCas qp sd f sa sb scope order size e)
  | .send qp ch hs c e => some (semSend qp ch hs c e)
  | .sendt qp ch hs c e thr ctr => some (semSendt qp ch hs c e thr ctr)
  | .putr qp ch hs c sa => some (semPutr qp ch hs c sa)
  | .ctraddRemote qp ch sa => some (semCtraddRemote qp ch sa)
  | .ctraddLocal qp c sa => some (semCtraddLocal qp c sa)
  | .mbox qp hs c sa e => some (semMbox qp hs c sa e)
  | .scatter qp hs hi sh c ci red e => some (semScatter qp hs hi sh c ci red e)
  | .prime qp ch hs c reads => some (semPrime qp ch hs c reads)
  | .chunkArrives _ _ _ => none
  | .tileJobComplete _ _ => none
  | .outJobComplete _ _ => none
  | .ldgComplete _ _ => none
  | .jobFault _ _ => none
  | .ovlComplete _ _ => none
  | .vectorResultLands _ _ => none
  | .accrdComplete _ _ => none
  | .routineStart _ _ => none
  | .routineBlockComplete _ _ => none
  | .routineRetire _ _ => none
  | .routineFault _ _ => none
  | .mprogComplete _ _ => none
  | .spawnAccepted _ _ => none
  | .sendFire _ _ => none
  | .sendtFire _ _ => none
  | .sendComplete _ _ => none
  | .primeComplete _ _ => none
  | .serifData _ _ => none
  | .landingComplete _ _ => none
  | .blotDeadline _ _ => none
  | .serifAck _ _ => none
  | .serifNack _ _ => none
  | .slotReady _ _ => none
  | .counterAdd _ _ => none
  | .serifMailbox _ _ => none
  | .refusal _ _ => none
  | .bindNotice _ _ => none
  | .retransmitTimeout _ _ => none
  | .lossOfSignalDead _ _ => none
  | .auditNodeRequest _ _ => none
  | .auditJobComplete _ _ _ => none
  | .rootLogWrite _ => none
  | .nodeEntersWindow _ _ => none
  | .nodeDispatch _ _ => none
  | .taskStart _ => none
  | .steal _ => none
  | .queueStarvation _ _ _ => none
  | .taskComplete _ _ => none
  | .graphComplete _ _ => none
  | .watchdogW1 _ _ => none
  | .watchdogW2 _ _ => none
  | .watchdogW3 _ _ => none
  | .softErrorCorrected _ _ => none
  | .freezeEnd _ => none
  | .padUncorrectable _ => none
  | .bankUncorrectable _ _ => none
  | .doorbell _ _ _ => none
  | .registerWrite _ _ _ _ => none
  | .launch _ _ => none
  | .patch _ _ => none
  | .load _ _ => none
  | .loadComplete _ _ => none
  | .unload _ _ => none
  | .barrier _ _ => none
  | .signal _ _ => none
  | .hostSeal _ _ => none
  | .bind _ _ => none
  | .setchip _ => none
  | .setroute _ => none
  | .retrain _ => none
  | .xinv _ _ _ => none
  | .qrootWrite _ _ _ => none
  | .nodectlRelease _ _ => none
  | .nodectlFail _ _ => none
  | .ufenceClear _ _ => none
  | .ufenceSet _ _ => none
  | .qctlEnable _ _ => none
  | .qctlDisable _ _ => none
  | .poolcfgWrite _ _ _ => none
  | .statrd _ _ => none
  | .getVersion => none
  | .getCapabilities => none
  | .negotiateAlgorithms => none
  | .getDigests => none
  | .getCertificate _ _ _ => none
  | .challenge _ _ => none
  | .getMeasurements _ _ _ => none
  | .unsupportedRequest _ => none
  | .importRegion _ => none
  | .release _ => none
  | .signLogHead => none
  | .meterRefill => none
  | .crossingGrant _ _ => none
  | .powerOn _ => none
  | .thermalGate _ => none
  | .thermalShutdown => none
  | .fixedLatencyResultLands _ _ _ => none
  | .slotStorageReturns _ _ => none
  | .mboxLocalDelivery _ => none
  | .auditConfigTakesEffect _ _ => none
  | .fecFailure _ _ => none
  | .lossOfSignalChanges _ _ _ => none
  | .linkTrainingComplete _ => none
  | .thermalGateRelease _ => none

/-! ## The merge stage (R132) -/

/-- What a bundle takes of the unit: its slots, the pad port, the command port. -/
structure Takes where
  slots : List Nat := []
  pad : Bool := false
  cmd : Bool := false
  deriving DecidableEq, Repr

/-- What the next bundle of a context takes. -/
def State.takesOf (s : State) (u : Nat) (c : Ctx) : Takes :=
  -- past line pads, as the context will present it
  let c := if c.pres.isSome then c else { c with pc := (skipPads (s.codeByte u c) 65536 c.pc).1 }
  if c.fencing.isSome then {}
  else match decodeLine (s.codeLine u c c.pc) with
  | .bundle _ _ ss =>
    let ops := ss.filterMap fun y => match decodeSyl y with
      | .ok i => some i
      | .err _ => none
    ⟨ss.map (·.slot), ops.any padPort, ops.any cmdPort⟩
  | _ => {}

/-- Whether two bundles share a slot or a port (R132). -/
def Takes.shares (a b : Takes) : Bool := a.slots.any b.slots.contains || (a.pad && b.pad) || (a.cmd && b.cmd)

/-! ## One context presents its bundle -/

/-- CTXCTL STOP parks a context at a group boundary (R232). -/
def State.parkStopped (s : State) (u b : Nat) : State :=
  let s := s.landAllVecs u (s.ctxAt u b).cid
  s.setCtx u b { (s.ctxAt u b).quiesce with status := .stopped, stopReq := false, grpFrom := none, grp := [], inRun := false, last := .idle }

/-- The breakpoint at the bundle a context is about to issue, if it has not just stopped there (R243): of two at one offset the lower number.
DESIGN CHOICE (log 109). -/
def State.brkHit (s : State) (c : Ctx) : Option Nat :=
  if c.startup || c.pres.isSome || c.brkSkip == some c.pc then none
  else ((s.queue c.die c.queue).brk.find? fun e => e.2 == c.pc).map (·.1)

/-- Fetch, decode and examination of the current context's bundle (R55-R57, R64, R67, R68, R243, R424). -/
def State.fetchBundle (s : State) : State :=
  let u := s.curU
  let b := s.curB
  let c := s.cur
  let trap (t : Trap) : State := s.enterTrap u b t c.pc
  match if c.inRun || c.pres.isSome then none else s.scanRun u c 1048576 c.pc with
  | some t => trap t
  | none => match s.brkHit c with
    | some n => trap { cause := 0x21, reason := 1, data := n }
    | none => match decodeLine (s.codeLine u c c.pc) with
      | .linePad => s
      | .runsPast => trap { cause := 1, dreason := 0 }
      | .bundle stop len ss => match decodeBundle c.level c.m3 c.grp ss with
        | .error t => trap t
        | .ok ops =>
          let s := if c.pres.isSome then s
            else s.updCur fun c => { c with pres := some { addr := c.pc, stop := stop, len := len, leaf0 := c.leafNext } }
          (s.runBundle (ops.filterMap semOf)).noteStall

/-- The context in bank `b` presents its next bundle: it stops or is killed at a boundary, a fence that stalls it is looked at, else its
bundle is fetched past line pads and examined (R56, R136, R168, R217, R218, R232, R424). -/
def State.present (s : State) (u b : Nat) : State :=
  let s := { s with curU := u, curB := b }
  let c := s.cur
  if c.wdKill && !c.killed && (c.atBoundary || c.last == .held) then s.watchKill u b
  else if c.stopReq && c.atBoundary then s.parkStopped u b
  else match c.fencing with
    | some f => s.fenceStep f
    | none =>
      let s := s.begin
      let s := s.updCur fun c => s.fetchLines u c
      let s := s.updCur fun c => if c.pres.isSome then c else { c with pc := (skipPads (s.codeByte u c) 65536 c.pc).1 }
      s.fetchBundle

/-- Whether a bank's context may issue: live, not in a swap, not parked or stopped (R133). -/
def UnitSt.issues (x : UnitSt) (b : Nat) : Bool :=
  x.liveBanks.contains b && (x.swap.map (·.bank)) != some b && ((x.ctxs.entry? b).map fun c => c.status == CtxStatus.live).getD false

/-- The live banks that may issue, the primary first (R132). -/
def UnitSt.order (x : UnitSt) : List Nat :=
  match x.liveBanks.filter x.issues with
  | [a, b] =>
    let c := x.ctxs.look a { cid := 0 }
    let e := x.ctxs.look b { cid := 0 }
    if c.prio < e.prio ∨ (c.prio = e.prio ∧ e.startCycle < c.startCycle) then [b, a] else [a, b]
  | l => l

/-- Whether the context of a bank has just issued a bundle. -/
def State.issued (s : State) (u b : Nat) : Bool :=
  match s.ctx? u b with
  | some c => c.last == .issued
  | none => true

/-- Whether the bundle of a bank has just entered the first of its two operations for one port. -/
def State.entering (s : State) (u b : Nat) : Bool := ((s.ctx? u b).map fun c => c.last == .entering).getD false

/-- The wait count of the secondary context. -/
def State.setWaited (s : State) (u b n : Nat) : State :=
  match s.ctx? u b with
  | some c => s.setCtx u b { c with waited := n }
  | none => s

/-- The secondary context has waited 64 cycles: it issues and the primary waits; when it is held itself, the primary issues alone. Its wait
count stands while it enters a port over two cycles (R132). -/
def State.starved (s : State) (u p q : Nat) : State :=
  let t := s.present u q
  if t.entering u q then t
  else
    let t := t.setWaited u q 0
    if t.issued u q then t else t.present u p

/-- What the primary's bundle keeps from the secondary in a cycle: what it takes when it issues, its port when it enters the first of two
operations there, nothing when it is stalled (R132). -/
def Takes.kept (t : Takes) (issued entering : Bool) : Takes :=
  if issued then t else if entering then { t with slots := [] } else {}

/-- Only the secondary context waits on the merge stage: the wait count of any other is 0, so that it counts consecutive cycles (R132). -/
def UnitSt.onlySecondary (x : UnitSt) : UnitSt :=
  let q := x.order[1]?
  { x with ctxs := x.ctxs.map fun e => (e.1, if q = some e.1 then e.2 else { e.2 with waited := 0 }) }

/-- The merge stage of a cycle (R132). -/
def State.merge (s : State) (u : Nat) : State :=
  let s := s.updUnit u UnitSt.onlySecondary
  match (s.unit u).order with
  | [] => s
  | [p] => s.present u p
  | p :: q :: _ =>
    if 64 ≤ (s.ctxAt u q).waited then s.starved u p q
    else
      let tp := s.takesOf u (s.ctxAt u p)
      let tq := s.takesOf u (s.ctxAt u q)
      let s := s.present u p
      if !(s.unit u).issues q then s
      else
        let t := (s.present u q).setWaited u q 0
        if !(tp.kept (s.issued u p) (s.entering u p)).shares tq || (t.ctxAt u q).last == .held then t
        else s.setWaited u q ((s.ctxAt u q).waited + 1)

/-! ## A cycle of a unit -/

/-- A swap counts its 24 cycles, and is over in the next; the spill engine then takes the context that left (R133, R236). -/
def State.tickSwap (s : State) (u : Nat) : State :=
  match (s.unit u).swap with
  | some w =>
    if w.left = 0 then s.endSwap u
    else s.updUnit u fun x => { x with swap := some { w with left := w.left - 1 } }
  | none => s

/-- A graph-engine cycle of a die, counted with the cycles of its first unit; nodes that have become ready note it in a cycle of any of its
units (R128). -/
def State.tickDie (s : State) (u : Nat) : State := if u % 128 = 0 then s.graphTick (u / 128) else s.noteReady (u / 128)

/-- The watch counts of the tasks that are live advance; that of a killed one runs on to W3 (R136). -/
def UnitSt.tickWatch (x : UnitSt) : UnitSt :=
  { x with ctxs := x.ctxs.map fun e =>
      (e.1, if (x.liveBanks.contains e.1 && e.2.counts) || (e.2.wdKill && e.2.killed) then { e.2 with watch := e.2.watch + 1 } else e.2) }

/-- The deadlines that run count down (R350). -/
def UnitSt.tickDeadlines (x : UnitSt) : UnitSt :=
  { x with endpoint := x.endpoint.map fun e => { e with ends := e.ends.mapv fun c =>
      { c with landings := c.landings.mapv fun l => if l.done then l else { l with dl := l.dl.map (· - 1) } } } }

/-- A lane cycle of the vector unit is over (R284). -/
def UnitSt.tickLanes (x : UnitSt) : UnitSt := { x with vecLeft := x.vecLeft - 1 }

/-- The contexts of a unit that are ending take a step each (R219). -/
def State.endSteps (s : State) (u : Nat) : State :=
  let cs := (s.unit u).ctxs.map (·.2) ++ ((s.die (u / 128)).saved.map (·.2)).filter fun c => c.unit == u
  cs.foldl (fun s c => match s.byCid? u c.cid with
    | some c => if c.status = .ending then s.endStep u c else s
    | none => s) s

/-- One cycle of a unit. CYCLE counts through a freeze, everything else of the unit stops in one (R13, R170); a gated die presents no
bundle, nor one whose bring-up has ended at a fault (R420, R421). -/
def State.cycleUnit (s : State) (u : Nat) : State :=
  let s := (s.tickDie u).updUnit u fun x => { x with cycle := (x.cycle + 1) % 2 ^ 64 }
  if 1 < (s.unit u).freeze then s.updUnit u fun x => { x with freeze := x.freeze - 1 }
  else
    let s := (s.updUnit u UnitSt.thaw).tickSwap u
    let s := s.updUnit u fun x => x.tickWatch.tickDeadlines.tickLanes
    let s := ((((s.endSteps u).landHeld u).leaveWaiting u).drainGather u).settleLeaves u
    if (s.die (u / 128)).idle then s else s.merge u

/-- BUNDLE_ISSUE (R424): a cycle of a unit, in which its contexts present their bundles. -/
def execBundleIssue (u : Nat) (s : State) : Host.Outcome State Fault Refusal := .next (s.cycleUnit u)

/-- EMPTY_BUNDLE (R56): it ends a group and takes one issue cycle. -/
def execEmptyBundle (s : State) : Host.Outcome State Fault Refusal := .next (s.runBundle [])

/-- MERGE_STARVATION (R132). -/
def execMergeStarvation (u : Nat) (s : State) : Host.Outcome State Fault Refusal :=
  match (s.unit u).order with
  | p :: q :: _ => .next (if (s.unit u).freeze ≠ 0 ∨ (s.die (u / 128)).idle ∨ (s.ctxAt u q).waited < 64 then s else s.starved u p q)
  | _ => .next s

/-- FIXED_LATENCY_RESULT_LANDS (R65): result `i` in flight of a context lands, and every earlier one of its register. -/
def execFixedLatencyResultLands (u b i : Nat) (s : State) : Host.Outcome State Fault Refusal :=
  match s.ctx? u b with
  | none => .next s
  | some c => match c.fly[i]? with
    | none => .next s
    | some f => .next (if (s.unit u).freeze ≠ 0 then s
      else s.setCtx u b (c.landWhere fun g => g == f))

end Sys2Proof.Machine
end

