-- ==== Sys2Proof/Machine/Referee.lean ====
section
/-!
DEFINITION. AUDREF: capture entries, their payloads and digests, and one instruction run again from them (19_audit_class.md R384,
R385; log 19).
-/
namespace Sys2Proof.Machine

/-! ## Capture entries -/

/-- What the payload of a slot of a leaf is (R369, R384). -/
inductive PayKind where
  | none | tile | list | bank | shape | image | routine
  deriving DecidableEq, Repr

/-- The payload of slot `k` (A, B, C, AUX) of a leaf record: only slots that name a tile, a bank or a shape have one (R384). -/
def payKind (rec' : Bytes) (k : Nat) : PayKind :=
  match leAt rec' 0 1, k with
  | 1, 0 => if bit (leAt rec' 5 1) 1 then .list else .tile
  | 1, 1 => if bit (leAt rec' 5 1) 2 then .list else .tile
  | 1, 2 => .bank
  | 1, 3 => .routine
  | 2, 0 => .bank
  | 2, 1 => .tile
  | 3, 0 => .bank
  | 3, 2 => .shape
  | 4, 0 => .tile
  | 4, 1 => .tile
  | 4, 2 => .tile
  | 5, 2 => .shape
  | 6, 2 => .shape
  | 7, 0 => .tile
  | 8, 0 => .tile
  | 8, 1 => .image
  | 8, 2 => .shape
  | 9, 0 => .tile
  | 9, 1 => .tile
  | 9, 2 => .shape
  | 9, 3 => .image
  | 0xA, 0 => .tile
  | 0xB, 0 => .tile
  | 0xC, 0 => .tile
  | 0xC, 1 => .tile
  | _, _ => .none

/-- Slot `k` of a leaf record: A, B, C, AUX, RESULT (R368). -/
def slotDigest (rec' : Bytes) (k : Nat) : Bytes := slice rec' (64 + 64 * k) 64

/-- Whether slot `k` of a leaf names something that its entry holds a payload of. -/
def hasPay (rec' : Bytes) (k : Nat) : Bool := payKind rec' k != .none && slotDigest rec' k != noDigest

/-- Bytes of a tile's payload (R384). -/
def payLen (len : Nat) : Nat := cdiv (16 + len + chunksOf len) 64 * 64

/-- The payload of a tile: descriptor, bytes, one VALID count a chunk, padded to 64 (R384, log 19). -/
def tilePay (desc bs : Bytes) (valid : List Nat) : Bytes :=
  padTo (payLen bs.length) (desc ++ bs ++ valid.map (BitVec.ofNat 8))

/-- The payload of a bank: its TYPE byte and its rows (R384). -/
def bankPay (int : Bool) (bs : Bytes) : Bytes := padTo 65600 ((if int then (1 : Byte) else 0) :: padTo 65536 bs)

/-- The payload of a shape: its 160 bytes (R384). -/
def shapePay (m : Map Word) : Bytes := padTo 192 ((List.range 20).flatMap fun f => leBytes 8 (shF m f))

/-- A tile as its payload shows it. -/
structure Pay where
  rows : Nat
  cols : Nat
  fmt : Nat
  seq : Nat
  desc : Bytes
  bytes : Bytes
  valid : List Nat
  deriving DecidableEq, Repr

/-- The tile of a payload. -/
def payOf (p : Bytes) : Pay :=
  let n := leAt p 12 4
  { rows := leAt p 0 2, cols := leAt p 2 2, fmt := leAt p 4 1, seq := leAt p 8 4, desc := slice p 0 16, bytes := slice p 16 n
    valid := (slice p (16 + n) (chunksOf n)).map BitVec.toNat }

/-- TD of a payload's tile (R364). -/
def Pay.td (p : Pay) : Bytes := tdOf p.desc (chunkDigests p.bytes)

/-- VD of a payload's tile (R364). -/
def Pay.vd (p : Pay) : Bytes := digest 7 (p.desc ++ p.valid.map (BitVec.ofNat 8))

/-- Payloads of tiles one after another, each as long as its own length says; an absent tile is 64 zero bytes. -/
def splitPays : Nat → Bytes → List Bytes
  | 0, _ => []
  | f + 1, bs =>
    if bs = [] then [] else
      let n := payLen (leAt bs 12 4)
      bs.take n :: splitPays f (bs.drop n)

/-- The elements of a shape sample from its payload. -/
def shapeOfPay (p : Bytes) : Map Word := (List.range 20).map fun f => (f, BitVec.ofNat 64 (leAt p (8 * f) 8))

/-- TD of a payload's tile, zero for an absent one. -/
def tdOfPay (p : Bytes) : Bytes := if leAt p 12 4 = 0 then noDigest else (payOf p).td

/-- The digest of a payload (R364). -/
def payDigest (k : PayKind) (p : Bytes) : Bytes :=
  match k with
  | .none => noDigest
  | .tile => (payOf p).td
  | .list => digest 9 ((splitPays 32 p).map tdOfPay).flatten
  | .bank => digest 0xA (slice p 0 1 ++ (chunkDigests (slice p 1 65536)).flatten)
  | .shape => digest 8 (slice p 0 160)
  | .image => digest 0xD ((payOf p).desc ++ (chunkDigests (payOf p).bytes).flatten)
  | .routine => digest 0xB (slice p 0 64 ++ ((splitPays 4 (p.drop 64)).map tdOfPay).flatten)

/-- A capture entry: its record and the payloads of A, B, C and AUX (R384). -/
structure Entry where
  record : Bytes
  pays : List Bytes
  deriving DecidableEq, Repr

/-- Payload `k` of an entry. -/
def Entry.pay (e : Entry) (k : Nat) : Bytes := e.pays.getD k []

/-- The bytes of an entry behind its 64-byte header (R384). -/
def Entry.bytes (e : Entry) : Bytes :=
  let n := 448 + (e.pays.map List.length).foldl (· + ·) 0
  layout 64 [(0, slice e.record 8 8), (8, leBytes 4 n), (16, leBytes 4 (e.pay 0).length), (20, leBytes 4 (e.pay 1).length),
    (24, leBytes 4 (e.pay 2).length), (28, leBytes 4 (e.pay 3).length)] ++ e.record ++ e.pays.flatten

/-! ## Hashing the payloads -/

/-- The first slot whose payload was withheld or does not hash to the leaf, as a REASON of OPERAND (R382, R385). -/
def Entry.badOperand (e : Entry) : Option Nat :=
  [0, 1, 2, 3].findSome? fun k =>
    if hasPay e.record k then
      if e.pay k = [] then some 5 else if payDigest (payKind e.record k) (e.pay k) = slotDigest e.record k then none else some (k + 1)
    else if k = 3 ∧ [4, 0xA, 0xB].contains (leAt e.record 0 1) ∧ slotDigest e.record 3 ≠ noDigest then
      if (payOf (e.pay 0)).vd = slotDigest e.record 3 then none else some 4
    else none

/-! ## One instruction run again -/

/-- A machine of its own, whose unit 0 holds one context and whose pad has a pool of the largest slots. -/
def scratch (c : Ctx) : State :=
  { units := [(0, { ctxs := [(0, c)], fence := 0 })], pads := [(0, { pools := [(0, ⟨18, 64, 0⟩)] })] }

/-- A payload's tile in slot `n`, owned by task 1. -/
def State.putPay (s : State) (n : Nat) (p : Pay) : State :=
  let t : TileRef := ⟨0, n⟩
  let s := s.updSlot t fun x =>
    { x with okind := 1, oid := 1, fmt := p.fmt, rows := p.rows, cols := p.cols, seq := p.seq, produced := true }
  s.writeTile t p.bytes fun k => p.valid.getD k 0

/-- An empty slot `n` of task 1. -/
def State.putFree (s : State) (n : Nat) : State := s.updSlot ⟨0, n⟩ fun x => { x with okind := 1, oid := 1 }

/-- The register that names the side list of a quantisation; none for other operations. -/
def sideReg : Instr → Nat
  | .vqnt _ _ _ _ _ _ _ _ dst _ side _ => if escapes dst then side else 0
  | .vdqnt _ _ _ _ _ _ _ _ src _ side _ => if escapes src then side else 0
  | _ => 0

/-- Whether the leaf of an operation leaves an operand out: the side list that VDQNT reads. -/
def sideRead : Instr → Bool
  | .vdqnt _ _ _ _ _ _ _ _ src _ side _ => escapes src && side != 0
  | _ => false

/-- A V operation run again: its RESULT and its flags (R385). Slots 0 to 2 hold A, B and C; 2, 3 and 4 stand for what it produces. -/
def Entry.runV (e : Entry) (i : Instr) (o : SlotSem) : Option (Bytes × Nat) :=
  let w := leAt e.record 24 4
  let r (n k : Nat) (h : Map (BitVec 32)) : Map (BitVec 32) :=
    if n = 0 then h else h.put n (BitVec.ofNat 32 (handleOf ⟨0, k⟩ 1))
  let has (k : Nat) : Bool := hasPay e.record k
  let regs := r (fld w 17 4) 2 []
  let regs := r (sideReg i) 4 regs
  let regs := r (fld w 9 4) (if has 1 then 1 else 3) regs
  let regs := if has 0 then r (fld w 13 4) 0 regs else regs
  let regs := if has 2 then r (fld w 17 4) 2 regs else regs
  let s := scratch { cid := 1, taskId := 1, vsh := BitVec.ofNat 32 (leAt e.record 36 4), h := regs }
  let s := if has 0 then s.putPay 0 (payOf (e.pay 0)) else s
  let s := if has 1 then s.putPay 1 (payOf (e.pay 1)) else s
  let s := if has 2 then s.putPay 2 (payOf (e.pay 2)) else s.putFree 2
  let s := (s.putFree 3).putFree 4
  if sideRead i then none
  else ((o.eff s).unit 0).jobs.getLast?.map fun j => (padTo 64 j.image, j.flags)

/-- The blocks of a routine from its captured operands. -/
def State.callBlocks (j : Job) : Nat → Nat → State × Nat → State × Nat
  | 0, _, r => r
  | f + 1, b, (s, fl) =>
    match s.blockIn 0 j b with
    | (s, j, .ok (xs, ys)) =>
      let (s, g) := s.sumBlock 0 j b xs ys
      State.callBlocks j f (b + 1) (s, fl ||| g)
    | (s, _, .error _) => (s, fl)

/-- Where the tiles of an operand stand: slots from `at0` on. -/
def payRefs (at0 : Nat) (ps : List Bytes) : List TileRef := (List.range ps.length).map fun i => ⟨0, at0 + i⟩

/-- The payloads of tiles put in slots from `at0` on. -/
def State.putPays (s : State) (at0 : Nat) (ps : List Bytes) : State :=
  ((List.range ps.length).zip ps).foldl (fun s p => if leAt p.2 12 4 = 0 then s else s.putPay (at0 + p.1) (payOf p.2)) s

/-- An MCALL run again: BD after, and its flags (R385). -/
def Entry.runCall (e : Entry) (i : Instr) : Bytes × Nat :=
  let r := e.record
  let ri := leAt r 4 1
  let as := splitPays 32 (e.pay 0)
  let bs := splitPays 32 (e.pay 1)
  let xs := splitPays 4 ((e.pay 3).drop 64)
  let s := (((scratch { cid := 1, taskId := 1, banks := 1 }).putPays 0 as).putPays 20 bs).putPays 40 xs
  let zero := bit (leAt r 5 1) 0
  let int := if zero then intBank ri else leAt (e.pay 2) 0 1 == 1
  let s := if zero then s else { s with mem := s.mem.writeN (accKey 0 0) (slice (e.pay 2) 1 65536) }
  let s := s.updAcc 0 0 fun a => { a with int := int, owner := some 1 }
  let j : Job :=
    { jid := 1, cid := 1, die := 0, queue := 0, kind := .routine, instr := i, ch := ri, image := slice (e.pay 3) 0 64
      fmt := BitVec.ofNat 32 (leAt r 32 4), mp := [(2, BitVec.ofNat 128 (leAt r 40 4)), (4, BitVec.ofNat 128 (leAt r 44 4))]
      tilesA := payRefs 0 as, tilesB := payRefs 20 bs
      tiles3 := ((List.range xs.length).zip xs).map fun p => if leAt p.2 12 4 = 0 then none else some ⟨0, 40 + p.1⟩ }
  let (s, fl) := State.callBlocks j j.nblocks 0 (s, 0)
  (bankDigest int (s.accBytes 0 0), fl)

/-- Element `(r, c)` of a captured bank as an exact value. -/
def payAcc (p : Bytes) (r c : Nat) : XR :=
  let v := leAt p (1 + (r * 128 + c) * 4) 4
  if leAt p 0 1 = 1 then .ofInt (sext 32 v) else fltVal f32 v

/-- An ACCRD run again (R332, R385). -/
def Entry.runAccrd (e : Entry) (fo rm sat : Nat) : Bytes × Nat :=
  let v := leAt e.record 36 4
  let r := fld v 0 7 + 1
  let c := fld v 7 11 + 1
  let t := payOf (e.pay 1)
  let tab := if hasPay e.record 1 then tableEntries c t.bytes else []
  let out := collect ((List.range (r * c)).map fun i =>
    rescale fo rm (sat == 1) (payAcc (e.pay 0) (i / c) (i % c)) (tab.getD (i % c) (0x3F800000, 0)))
  let bs := pack (widthOf fo) out.1
  (tdOf (tileDesc (r - 1) (c - 1) fo (if hasPay e.record 1 then t.seq else 0) bs.length) (chunkDigests bs), out.2)

/-- What an out job stores, element by element: the value and its flags from the element and its index (R367). -/
def outImage (m : Map Word) (rowOf : Nat → Option Int) (val : El → Flagged Nat) : Bytes × Nat :=
  let r := (List.range (shCount m)).foldl (fun (acc : Map Nat × Nat) i =>
    match elAt m rowOf i with
    | some x => let v := val x
                (acc.1.put i (v.1 % 2 ^ shWidth m), acc.2 ||| v.2)
    | none => acc) ([], 0)
  (imageDigest m r.1, r.2)

/-- A copy-out, scatter or copy-out from a bank run again (R276-R279, R385). -/
def Entry.runOut (e : Entry) (red : Nat) : Bytes × Nat :=
  let m := shapeOfPay (e.pay 2)
  let els (p : Bytes) : List Nat := elems (shWidth m) (shCount m) (payOf p).bytes
  let src := els (e.pay 0)
  let store (old : List Nat) (x : El) : Flagged Nat :=
    if red = 0 then (nth src x.idx, 0) else reduceVal (shF m 2) red (nth old x.idx) (nth src x.idx)
  match leAt e.record 0 1 with
  | 3 =>
    let f := BitVec.ofNat 32 (leAt e.record 32 4)
    outImage m ownRows fun x => convert (fmtFO f) (fmtRM f) (fmtSAT f) (payAcc (e.pay 0) x.row x.col)
  | 8 => outImage m ownRows (store (els (e.pay 1)))
  | _ => outImage m (fun r => (scatterRows (payOf (e.pay 1)).bytes (shF m 16))[r]?) (store (els (e.pay 3)))

/-- A landing made again: the contribution with the zeros of its lost chunks (R350, R369). How a channel reduces into a primed tile the leaf
does not say. -/
def Entry.runLanding (e : Entry) : Option (Bytes × Nat) :=
  if hasPay e.record 1 && !hasPay e.record 0 then some ((payOf (e.pay 1)).td, 0) else none

/-- What the single instruction of an entry gives when it runs again: its RESULT and its FSET; none when its leaf does not hold what
determines them (R385). -/
def Entry.run (e : Entry) : Option (Bytes × Nat) :=
  match leAt e.record 0 1, decodeSyl ⟨leAt e.record 1 1, leAt e.record 24 4, leAt e.record 28 4⟩ with
  | 0xD, _ => some (noDigest, 0)
  | 0xC, _ => e.runLanding
  | 7, _ => some ((payOf (e.pay 0)).td, 0)
  | 0xA, _ => some ((payOf (e.pay 0)).td, 0)
  | 0xB, _ => some ((payOf (e.pay 0)).td, 0)
  | 1, .ok i => some (e.runCall i)
  | 2, .ok (.accrd _ _ _ _ fo rm sat _) => some (e.runAccrd fo rm sat)
  | 3, _ => some (e.runOut 0)
  | 4, .ok i => (semOf i).bind (e.runV i)
  | 8, .ok i => some (e.runOut (redOf i))
  | 9, .ok i => some (e.runOut (redOf i))
  | _, _ => none

/-- Whether the image that a leaf ran on is installed at its routine index on a unit (R385). -/
def State.hasImage (s : State) (u : Nat) (e : Entry) : Bool :=
  leAt e.record 0 1 != 1 || ((s.imageOf u (leAt e.record 4 1)).map (·.digest)) == some (slice (e.pay 3) 0 64)

/-- The verdict on an entry, and the recomputed RESULT when the instruction was run again (R382, R385). -/
def State.judge (s : State) (u : Nat) (e : Entry) : Nat × Option Bytes :=
  match e.badOperand with
  | some r => (verdict 8 r 0, none)
  | none =>
    let ty := leAt e.record 0 1
    if !s.hasImage u e then (verdict 9 0 0, none)
    else if ty = 0 ∨ 0xD < ty then (verdict 9 2 0, none)
    else
      let r := e.run.getD (Config.refereeResult e.bytes)
      (if r.1 ≠ slotDigest e.record 4 then verdict 7 0 0
        else if r.2 % 2 ^ 11 ≠ leAt e.record 2 2 then verdict 7 1 0 else verdict 6 0 0, some r.1)

/-- A capture entry read through the job's record (R385). -/
def State.readEntry (s : State) (u : Nat) (j : Job) (off : Nat) : State × Job × Except Trap Entry :=
  match s.jobRead u j 57 off 448 with
  | (s, j, .error t) => (s, j, .error t)
  | (s, j, .ok b) =>
    let ns := [16, 20, 24, 28].map fun o => leAt b o 4
    let n := ns.foldl (· + ·) 0
    match s.jobRead u j (n / 8 + 1) (off + 448) n with
    | (s, j, .error t) => (s, j, .error t)
    | (s, j, .ok p) =>
      let cutAt (k : Nat) : Bytes := (p.drop ((ns.take k).foldl (· + ·) 0)).take (nth ns k)
      (s, j, .ok ⟨slice b 64 384, [cutAt 0, cutAt 1, cutAt 2, cutAt 3]⟩)

/-- A referee job run: its word in `next` (R385). -/
def State.runReferee (s : State) (u : Nat) (j : Job) : Perf :=
  match s.jobRead u j 9 j.a 64 with
  | (s, j, .error t) => .fault s j t
  | (s, j, .ok b) =>
    match s.readEntry u j (leAt b 0 8) with
    | (s, j, .error t) => .fault s j t
    | (s, j, .ok e) =>
      let (v, res) := s.judge u e
      match res with
      | none => .done s { j with next := v }
      | some r => match s.jobWrite u j 9 (leAt b 8 8) r with
        | (s, j, some t) => .fault s j t
        | (s, j, none) => .done s { j with next := v }

end Sys2Proof.Machine
end

