-- ==== Sys2Proof/Machine/Replay.lean ====
section
/-!
DEFINITION. AUDREPLAY: a task run again from its stored header on the shadow bank, in a copy of the machine in which its writes, sends
and messages perform nothing; then the completion and the faults of the tree engine's jobs (19_audit_class.md R382-R385; log 19).
-/
namespace Sys2Proof.Machine

/-! ## What a replay sees -/

/-- A payload that a replay has seen, by its digest, and whether its bytes are sealed. -/
structure Seen where
  digest : Bytes
  pay : Bytes
  hidden : Bool := false
  deriving DecidableEq, Repr

/-- Payloads added to those already seen. -/
def addSeen (l : List Seen) (xs : List Seen) : List Seen :=
  xs.foldl (fun l x => if l.any fun y => y.digest == x.digest then l else x :: l) l

/-- The payload of a tile in a slot. -/
def State.paySlot (s : State) (t : TileRef) : Bytes := let x := s.slot t
                                                       tilePay x.desc (s.tileBytes t) x.valids

/-- The payload of an image tile (R367). -/
def imagePay (m : Map Word) (vals : Map Nat) : Bytes :=
  let bs := pack (shWidth m) ((List.range (shCount m)).map fun i => vals.look i 0)
  tilePay (shDesc m) bs (List.replicate (chunksOf bs.length) 1)

/-- The payloads of an operand list, and whether one of its tiles is sealed. -/
def State.payList (s : State) (d : Bytes) (ts : List TileRef) : Seen :=
  ⟨d, (ts.map s.paySlot).flatten, ts.any fun t => (s.slot t).sealed⟩

/-- What a job that has just been issued shows: its shapes, its operand lists, its routine digest. -/
def State.jobSeen (s : State) (j : Job) : List Seen :=
  let shapes : List Seen := ([j.shape, j.shape2].filter (· ≠ [])).map fun m => ⟨shapeDigest m, shapePay m, false⟩
  if j.kind = .routine then
    let part (t : Option TileRef) : Bytes := match t with
      | some t => s.paySlot t
      | none => zeros 64
    shapes ++ [s.payList j.digB j.tilesA, s.payList j.digC j.tilesB,
      ⟨j.digX, j.image ++ (j.tiles3.map part).flatten, (j.tiles3.filterMap id).any fun t => (s.slot t).sealed⟩]
  else shapes

/-- The tiles, banks and jobs of a unit as payloads. -/
def State.seen (s : State) (u : Nat) : List Seen :=
  (((unitPads u).flatMap s.tilesOf).filter fun t => (s.slot t).whole).map (fun t => ⟨(s.slot t).td, s.paySlot t, (s.slot t).sealed⟩) ++
    ((s.unit u).accs.filter fun a => a.2.owner.isSome).map (fun a => ⟨a.2.digest, bankPay a.2.int (s.accBytes u a.1), false⟩) ++
    (s.unit u).jobs.flatMap s.jobSeen

/-! ## Jobs of a replay -/

/-- The state an event leaves. -/
def after (s : State) (o : Host.Outcome State Fault Refusal) : State :=
  match o with
  | .next t => t
  | _ => s

/-- The blocks of a routine one after another. -/
def State.playBlocks (s : State) (u jid : Nat) : Nat → State
  | 0 => s
  | f + 1 => (after s (execRoutineBlockComplete u jid s)).playBlocks u jid f

/-- A routine run to its end. -/
def State.playRoutine (s : State) (u : Nat) (j : Job) : State × List Seen :=
  let s := after s (execRoutineStart u j.jid s)
  let s := s.playBlocks u j.jid j.nblocks
  let xs : List Seen := match s.job? u j.jid with
    | some j => (if j.tilesA = [] then [⟨fetchedTD j.shape j.stored, imagePay j.shape j.stored, false⟩] else []) ++
        if j.tilesB = [] then [⟨fetchedTD j.shape2 j.readBefore, imagePay j.shape2 j.readBefore, false⟩] else []
    | none => []
  (after s (execRoutineRetire u j.jid s), xs)

/-- A send that performs nothing: it fires, its tile is handed back, its leaf is placed. -/
def State.playSend (s : State) (u : Nat) (j : Job) : State :=
  let s := after s (execSendFire u j.jid s)
  let s := after s (execSendtFire u j.jid s)
  match s.job? u j.jid with
  | some j =>
    if j.phase ≠ 1 then s
    else
      let j := { j with done := j.stored.length }
      let s := { (s.putJob u j).handBack u j with ports := (List.range 20).map fun p => (p, { dead := false }) }
      after s (execSendComplete u j.jid s)
  | none => s

/-- A job of a replay brought to its completion or to its fault. -/
def State.playJob (s : State) (u : Nat) (j : Job) : State × List Seen :=
  match j.kind with
  | .copyIn | .gather | .tmove =>
    let s := j.rows.foldl (fun s _ => match s.job? u j.jid with
      | some j => if j.kind = .gather ∧ j.fault.isNone ∧ j.drained < j.rows.length then s.drainJob u j else s
      | none => s) s
    let n := chunksOf ((j.dst.map fun t => (s.slot t).len).getD 1)
    let s := (List.range n).foldl (fun s k => after s (execChunkArrives u j.jid k s)) s
    (after s (execTileJobComplete u j.jid s), [])
  | .ldg => (after s (execLdgComplete u j.jid s), [])
  | .ovl => (after s (execOvlComplete u j.jid s), [])
  | .copyOut | .copyAcc | .scatter | .stg | .atomic =>
    let j := { j with paid := if s.crossRefused (s.crossing u j) then 0 else s.crossing u j }
    let s := s.putJob u j
    let xs : List Seen := match s.perform u j with
      | .done _ j => if redOf j.instr = 0 then [] else [⟨imageDigest j.shape j.readBefore, imagePay j.shape j.readBefore, false⟩]
      | _ => []
    (after s (execOutJobComplete u j.jid s), xs)
  | .accrd => (after s (execAccrdComplete u j.jid s), [])
  | .routine => s.playRoutine u j
  | .send => (s.playSend u j, [])
  | .prime => (after s (execPrimeComplete u j.jid s), [])
  | .mbox | .spawn => (s.finishJob u j none 0 0, [])
  | _ => (s, [])

/-- The jobs of a unit, in order: each completes, or stops at its fault; writes to global memory perform nothing (R384). -/
def State.playJobs (s : State) (keep : State → State) (u : Nat) : List Seen → List Nat → State × List Seen
  | xs, [] => (s, xs)
  | xs, n :: ns =>
    match s.job? u n with
    | none => s.playJobs keep u xs ns
    | some j =>
      if j.fault.isSome then s.playJobs keep u xs ns
      else
        let r := s.playJob u j
        let t := keep r.1
        let t := match t.job? u n with
          | some j => (t.jobFaultNow u j).getD t
          | none => t
        (keep t).playJobs keep u (addSeen xs r.2) ns

/-! ## The copy of the machine -/

/-- A landing of the table: channel, arrival, bytes, VALID counts (R384). -/
structure TabLand where
  ch : Nat
  n : Nat
  bytes : Bytes
  valid : List Nat
  deriving DecidableEq, Repr

/-- A landing taken from the table, once its slot awaits it. SEQ, tag and the digests that the table does not hold are free (log 19). -/
def State.playLanding (hdr : Bytes) (u : Nat) (s : State) (x : TabLand) : State :=
  match s.end? u x.ch with
  | none => s
  | some e =>
    if !s.slotFree e x.n || ((e.landings.entry? x.n).map (·.done)).getD false then s
    else
      let (seq, tag, primed, sent) := Config.replayLanding hdr x.ch x.n
      let s := s.landBegin u x.ch x.n seq false
      let t := e.slotOf x.n
      let bs := padTo e.len x.bytes
      let s := (List.range (chunksOf e.len)).foldl (fun s k => s.writeChunk t k (chunkBytes bs k) (x.valid.getD k 0)) s
      let s := s.updSlot t fun y => { y with td := y.tdNow }
      let y := s.slot t
      let l := ((s.end? u x.ch).bind fun e => e.landings.entry? x.n).getD { n := x.n }
      let l : Landing := { l with
        done := true, dl := none, vals := validStats y.valids
        parts := if e.red = 0 then [[], y.td, [], y.vd, y.td]
          else [if l.primedTD = [] then padTo 64 primed else l.primedTD, padTo 64 sent, leBytes 8 tag, y.vd, y.td] }
      (s.landEnd u x.ch e l).countLandings u x.ch 1

/-- The least arrival of a channel in the table: where its count stands at the start of the replay. -/
def firstLand (ls : List TabLand) (ch : Nat) : Nat :=
  let ns := (ls.filter fun l => l.ch == ch).map (·.n)
  ns.foldl min (ns.headD 0)

/-- The ends of the task's channels as its replay finds them (R384, log 19). -/
def State.playEnds (s : State) (hdr : Bytes) (u : Nat) (tab : Map Nat) (ls : List TabLand) : List ChanRec → State
  | [] => s
  | r :: rs =>
    let n0 := firstLand ls r.ch
    let ts := (s.freeSlots (padIdx u 0) r.pool).take r.depth
    let i := Config.replayIssued hdr r.ch % 2 ^ 32
    let peer := (r.peer tab).getD (0, 0)
    let e : ChanEnd :=
      { peerChip := peer.1, peerEp := peer.2, fmt := r.fmt, rows := r.rows, cols := r.cols, depth := r.depth, blot := r.blot
        red := r.red, ctr := r.ctr, deadline := r.deadline, usable := true, slots := ts, g0 := ts.map fun _ => 1
        issued := i, fired := i, ready := (i + 2 ^ 20) % 2 ^ 32, nextIn := n0, readySent := (n0 + 2 ^ 20) % 2 ^ 32 }
    let s := ((List.range r.depth).zip ts).foldl (fun s kt =>
      let a := n0 + (kt.1 + r.depth - n0 % r.depth) % r.depth
      s.updSlot kt.2 fun x => { x with chan := some (u, r.ch, kt.1), gen := a / r.depth % 4095 + 1 }) s
    let s := s.updUnit u fun x => { x with endpoint := x.endpoint.map fun p =>
      { p with ends := p.ends.put r.ch e, ctrs := p.ctrs.adj r.ctr 0 (· + n0) } }
    s.playEnds hdr u tab ls rs

/-- Whether a counter gate of the task still waits (R119). -/
def State.gateShut (s : State) (u : Nat) (t : TaskRec) : Bool :=
  t.gates.any fun g => g.1 == 1 && decide (((s.unit u).endpoint.map fun e => e.ctrs.look g.2.1 0).getD 0 < g.2.2)

/-- The landings that the counter gates held the task's start for: one after another until the gates open. -/
def State.playGates (s : State) (hdr : Bytes) (u : Nat) (t : TaskRec) : List TabLand → State
  | [] => s
  | l :: ls => if s.gateShut u t then (State.playLanding hdr u s l).playGates hdr u t ls else s

/-- The copy of the machine in which the task of a stored header starts again in bank `b` at task level (R130, R384); none when its pools
do not fit the unit. -/
def State.playStart (s : State) (u b q : Nat) (hdr : Bytes) (h : Nat) (o : Obj) (t : TaskRec) (ls : List TabLand) : Option State :=
  let d := u / 128
  let x := s.unit u
  let y := s.die d
  let bind := (s.queue d q).binding
  let g : Graph := { queue := q, seq := leAt hdr 128 8, obj := h, sig := 0, overlap := false, todo := [] }
  let unit : UnitSt :=
    { cycle := x.cycle, fence := 0, shadow := (b + 1) % 3, tlb := x.tlb, store := x.store
      endpoint := if o.chans = [] ∧ bind.isNone then none
        else some { ep := (bind.map fun e => e.2.1).getD 0, die := d, queue := q } }
  let die : DieSt := { y with
    window := [], graphs := [(0, g)], saved := [], held := [], waiting := [], rootQ := [], gated := false
    queues := y.queues.mapv fun r => { r with brk := [], dbg := 0 } }
  let r : State := { s with
    units := [(u, unit)], dies := s.dies.put d die, msgs := [], ports := (List.range 20).map fun p => (p, { dead := false })
    pads := (unitPads u).foldl (fun m p => Map.put m p { s.pad p with slots := [], resv := [] }) s.pads, curU := u, curB := b }
  let params := wordsOf (slice hdr 64 64)
  match r.fitPools u 0 [] (o.poolsOf t) with
  | .ok pt =>
    let c := { r.ctxOf d q h (leAt hdr 140 4) o.base t params ((instFps o t params).getD []) with
               level := 0, graph := 0, node := 256, nodeIdx := leAt hdr 136 4 }
    let r := r.playEnds hdr u ((bind.map fun e => e.2.2.2).getD []) ls o.chans
    let r := r.startCtx u b c ((List.range 8).take t.banks) pt
    some ((r.playGates hdr u t ls).gateSees u b t)
  | _ => none

/-- What a replay keeps of the machine it copies: global memory and its tags; ports stay live and empty, messages go nowhere (R384). -/
def State.keepOf (base s : State) : State :=
  let low (c : Host.Cell) : Bool := decide (c.1 < memKey 25 0)
  { s with mem := base.mem.filter low ++ s.mem.filter (fun c => !low c), tags := base.tags, msgs := []
           ports := (List.range 20).map fun p => (p, { dead := false }) }

/-- A replay: the copy, what it has seen, presentations held in a row. -/
structure Play where
  s : State
  seen : List Seen := []
  held : Nat := 0

/-- Storage that waits to return does so (R161). -/
def State.playReturns (s : State) (u : Nat) : State :=
  (unitPads u).foldl (fun s p =>
    ((s.pad p).slots.filter fun e => e.2.busy).foldl (fun s e => after s (execSlotStorageReturns p e.1 s)) s) s

/-- One move of a replay: landings, the next bundle, and the jobs that are in flight (R384). -/
def Play.move (base : State) (hdr : Bytes) (u b cid : Nat) (ls : List TabLand) (p : Play) : Play :=
  let s := ls.foldl (State.playLanding hdr u) p.s
  let s := s.landAllVecs u cid
  let s := s.updUnit u fun x => { x with
    vecLeft := 0, cycle := (x.cycle + 1) % 2 ^ 64
    endpoint := x.endpoint.map fun e => { e with ends := e.ends.mapv fun c => { c with ready := (c.issued + 2 ^ 20) % 2 ^ 32 } } }
  let seen := addSeen p.seen (s.seen u)
  let ctrs := ((s.unit u).endpoint.map (·.ctrs)).getD []
  let s := s.present u b
  let s := base.keepOf (s.updUnit u fun x => { x with endpoint := x.endpoint.map fun e => { e with ctrs := ctrs } })
  let seen := addSeen seen (s.seen u)
  let (s, seen) := s.playJobs base.keepOf u seen ((s.unit u).jobs.map (·.jid))
  { s := base.keepOf ((s.settleLeaves u).playReturns u), seen := seen, held := if (s.ctxAt u b).last = .held then p.held + 1 else 0 }

/-- Whether every leaf from `lo` on, `n` of them, is placed. -/
def Ctx.placedRange (c : Ctx) (lo n : Nat) : Bool :=
  (List.range n).all fun i => match c.leaves.entry? (lo + i) with
    | some l => l.record.isSome
    | none => false

/-- A replay run until its subtree's leaves are placed, its context no longer presents bundles, or it is held for good. -/
def Play.run (base : State) (hdr : Bytes) (u b cid : Nat) (ls : List TabLand) (lo n : Nat) : Nat → Play → Option Play
  | 0, _ => none
  | f + 1, p =>
    let c := p.s.ctxAt u b
    if c.placedRange lo n || c.status != CtxStatus.live || decide (64 ≤ p.held) then some p
    else Play.run base hdr u b cid ls lo n f (p.move base hdr u b cid ls)

/-! ## The job -/

/-- The smallest retained node of a tree over a leaf: its first leaf, its size, its digest (R377, R384). -/
def TreeEnt.frontier (t : TreeEnt) (i : Nat) : Option (Nat × Nat × Bytes) :=
  (t.nodes.filter fun x => decide (x.1 ≤ i) && decide (i < x.1 + x.2.1)).foldl (fun acc x =>
    match acc with
    | some y => if x.2.1 < y.2.1 then some x else some y
    | none => some x) none

/-- The entries of the landing table (R384). -/
def State.readLands (s : State) (u : Nat) (j : Job) (o : Obj) : Nat → Nat → State × Job × Except Trap (List TabLand)
  | _, 0 => (s, j, .ok [])
  | off, k + 1 =>
    match s.jobRead u j 5 off 32 with
    | (s, j, .error t) => (s, j, .error t)
    | (s, j, .ok b) =>
      match o.chans.find? fun r => r.ch == leAt b 0 1 with
      | none => s.readLands u j o (off + 32) k
      | some r =>
        let n := tileLenOf r.rows r.cols r.fmt
        match s.jobRead u j (n / 8 + 1) (leAt b 8 8) n with
        | (s, j, .error t) => (s, j, .error t)
        | (s, j, .ok bs) =>
          match s.jobRead u j (chunksOf n / 8 + 1) (leAt b 16 8) (chunksOf n) with
          | (s, j, .error t) => (s, j, .error t)
          | (s, j, .ok vs) =>
            let (s, j, r') := s.readLands u j o (off + 32) k
            (s, j, r'.map fun l => ⟨r.ch, leAt b 4 4, bs, vs.map BitVec.toNat⟩ :: l)

/-- The entry of a regenerated leaf: bytes of a sealed tile only for a sealed buffer (R384). A payload that the replay never held as a
tile, bank or shape is a free value (log 19). -/
def Play.entry (p : Play) (isSealed : Bool) (record : Bytes) : Entry :=
  ⟨record, [0, 1, 2, 3].map fun k =>
    if !hasPay record k then []
    else match p.seen.find? fun x => x.digest == slotDigest record k with
      | some x => if x.hidden && !isSealed then [] else x.pay
      | none =>
        let b := Config.replayPayload record k
        padTo (max 64 (cdiv b.length 64 * 64)) b⟩

/-- The verdict of a replay that did not regenerate its subtree: an image that is not installed gives PROFILE, a landing that is not in
the table, on which it waits or whose tile it reads, NOLANDING, anything else DIVERGED (R382). -/
def Play.failed (c : Ctx) (held lo : Nat) : Nat :=
  let t : Option Trap := match c.last with
    | .trapped t => some t
    | _ => none
  if (t.map fun t => (t.cause, t.reason)) = some (0x1E, 0) then verdict 9 0 0
  else if 64 ≤ held ∨ (t.map (·.cause)) = some 0x16 then verdict 12 0 0
  else verdict 11 0 lo

/-- Entries written one after another; at a fault none after it is. -/
def State.capture (s : State) (u : Nat) (j : Job) : List Bytes → Nat → State × Job × Option Trap
  | [], _ => (s, j, none)
  | b :: bs, off => match s.jobWrite u j (b.length / 8 + 1) off b with
    | (s, j, some t) => (s, j, some t)
    | (s, j, none) => s.capture u j bs (off + b.length)

/-- The first of some entries, as many as a buffer has room for (R384). -/
def fitting : Nat → List Bytes → List Bytes
  | _, [] => []
  | room, b :: bs => if room < b.length then [] else b :: fitting (room - b.length) bs

/-- The shadow bank is freed for a replay: its context is spilled to a free save slot (R236, R384); none while it cannot be. -/
def State.freeShadow (s : State) (u : Nat) : Option State :=
  let x := s.unit u
  if x.swap.isSome then none
  else match x.ctxs.entry? x.shadow with
    | none => some s
    | some c => match (s.die (u / 128)).freeSave with
      | none => none
      | some k =>
        if !c.startable then none
        else
          let s := s.landAllVecs u c.cid
          some ((s.saveTo (u / 128) k (s.ctxAt u x.shadow).quiesce).updUnit u fun y => { y with ctxs := y.ctxs.del x.shadow })

/-- The end of a replay: the subtree's root against the retained node, and the leaves captured (R382, R384). -/
def State.endReplay (s : State) (u : Nat) (j : Job) (b : Bytes) (node : Nat × Nat × Bytes) (bank : Nat) (p : Play) : Perf :=
  let c := p.s.ctxAt u bank
  if !c.placedRange node.1 node.2.1 then
    .done s { j with next := Play.failed c p.held node.1 }
  else
    let rec' (i : Nat) : Bytes := ((c.leaves.entry? i).bind (·.record)).getD []
    let root := rootOfList ((List.range node.2.1).map fun i => digest 3 (rec' (node.1 + i)))
    let lo := leAt b 16 8
    let cnt := leAt b 24 8
    let off := leAt b 32 8
    let isSealed : Bool := match (s.element (s.whoJob u j) j.fps j.ch (Int.ofNat off) 8 .write).2 with
      | .ok r => r.2
      | .error _ => false
    let es := fitting (leAt b 40 8) ((List.range cnt).map fun i => (p.entry isSealed (rec' (lo + i))).bytes)
    let n := es.length
    match s.capture u { j with cap := some es.flatten.length } es off with
    | (s, j, some t) => .fault s j t
    | (s, j, none) =>
      .done s { j with next := if root = node.2.2 then verdict 10 (if n < cnt then 1 else 0) n else verdict 11 0 node.1 }

/-- A replay job run (R384): its word in `next`. The copy's translations and request counts are the machine's own. -/
def State.runReplay (s : State) (u : Nat) (j : Job) : Perf :=
  match s.jobRead u j 9 j.a 64 with
  | (s, j, .error t) => .fault s j t
  | (s, j, .ok b) =>
    let d := u / 128
    let lo := leAt b 16 8
    let cnt := leAt b 24 8
    match s.treeOf d (leAt b 0 2) (leAt b 8 8) with
    | none => .done s { j with next := verdict 4 0 0 }
    | some t =>
      match t.frontier lo with
      | none => .done s { j with next := verdict 3 0 0 }
      | some node =>
        if cnt = 0 ∨ node.1 + node.2.1 < lo + cnt then .done s { j with next := verdict 3 0 0 }
        else
          match (s.die d).objs.find? fun o => o.2.refs.contains j.queue && o.2.digest == slice t.hdr 0 64 with
          | none => .done s { j with next := verdict 9 1 0 }
          | some (h, o) =>
            match o.tasks[leAt t.hdr 140 4]? with
            | none => .done s { j with next := verdict 9 1 0 }
            | some tr =>
              match s.readLands u j o (leAt b 48 8) (if leAt b 48 8 = 0 then 0 else leAt b 56 4) with
              | (s, j, .error t) => .fault s j t
              | (s, j, .ok ls) =>
                match s.freeShadow u with
                | none => .wait
                | some s =>
                  let bank := (s.unit u).shadow
                  match s.playStart u bank j.queue t.hdr h o tr ls with
                  | none => .wait
                  | some r =>
                    if r.gateShut u tr then .done s { j with next := verdict 12 0 0 }
                    else match Play.run s t.hdr u bank s.nextCid ls node.1 node.2.1 (2 ^ 64) { s := r } with
                    | none => .wait
                    | some p =>
                      let tlb := (p.s.unit u).tlb
                      let x := p.s.die d
                      let s := s.updUnit u fun y => { y with tlb := tlb }
                      (s.updDie d fun y => { y with locReq := x.locReq, remReq := x.remReq }).endReplay u j b node bank p

/-! ## Completion and faults -/

/-- A job of the tree engine run with the answers of a remote audit mailbox (R382). -/
def State.runAudit (s : State) (u : Nat) (j : Job) (ans : List NodeAnswer) : Perf :=
  match j.c with
  | 0 => s.runBisect u j ans
  | 1 => s.runReferee u j
  | _ => s.runReplay u j

/-- A replay that is to run before it is known how much it captures finds that: nothing where it ends without a capture. Its writes then order
it by those bytes alone (R180, R384, R423). -/
def State.measure (s : State) (u : Nat) (j : Job) (ans : List NodeAnswer) : Option State :=
  match s.runAudit u j ans with
  | .done _ k | .fault _ k _ => some (s.putJob u { j with cap := some (k.cap.getD 0) })
  | .wait => none

/-- AUDIT_JOB_COMPLETE (R382-R385): sd takes the result word, and the semaphore moves; or the job stops at its fault. A replay first finds
how much it captures, in an event of its own, and again when that has grown. -/
def execAuditJobComplete (u j : Nat) (ans : List NodeAnswer) (s : State) : Host.Outcome State Fault Refusal :=
  s.onJob u j fun j =>
    if j.kind ≠ .audit then none
    else if j.c = 2 ∧ j.cap.isNone then (let k := { j with cap := some 0 }
      s.ready u k (s.jobKeys u k)).bind fun s => s.measure u j ans
    else (s.ready u j (s.jobKeys u j)).bind fun r => match r.runAudit u j ans with
      | .done s k =>
        if j.c = 2 ∧ j.cap.getD 0 < k.cap.getD 0 then r.measure u j ans
        else
          let s := match k.dreg with
            | some (d, tk) => s.updCid u k.cid fun c => c.engineWrite d tk k.next
            | none => s
          some (s.finishJob u k none 0 0)
      | .fault s k t => some (s.stopJob u k t)
      | .wait => none

/-- JOB_FAULT (R258, R274, R382). -/
def execJobFault (u j : Nat) (s : State) : Host.Outcome State Fault Refusal :=
  s.onJob u j fun j => match j.kind with
    | .audit => (s.ready u j (s.jobKeys u j)).bind fun s => (s.runAudit u j []).stop u
    | _ => s.jobFaultNow u j

end Sys2Proof.Machine
end

