-- ==== Sys2Proof/Machine/Dispatch.lean ====
section
/-!
DEFINITION. One arm for each operation and event.
-/
namespace Sys2Proof.Machine

def exec (i : Instr) (s : State) : Host.Outcome State Fault Refusal :=
  match i with
  | .bundleIssue u => Sys2Proof.Machine.execBundleIssue u s
  | .emptyBundle => Sys2Proof.Machine.execEmptyBundle s
  | .handlerLaunch w => Sys2Proof.Machine.execHandlerLaunch w s
  | .contextSwapComplete u => Sys2Proof.Machine.execContextSwapComplete u s
  | .stallSwap u b => Sys2Proof.Machine.execStallSwap u b s
  | .mergeStarvation u => Sys2Proof.Machine.execMergeStarvation u s
  | .add qp sd sa sb => Sys2Proof.Machine.execAdd qp sd sa sb s
  | .sub qp sd sa sb => Sys2Proof.Machine.execSub qp sd sa sb s
  | .and qp sd sa sb => Sys2Proof.Machine.execAnd qp sd sa sb s
  | .or qp sd sa sb => Sys2Proof.Machine.execOr qp sd sa sb s
  | .xor qp sd sa sb => Sys2Proof.Machine.execXor qp sd sa sb s
  | .shl qp sd sa sb => Sys2Proof.Machine.execShl qp sd sa sb s
  | .shr qp sd sa sb => Sys2Proof.Machine.execShr qp sd sa sb s
  | .sar qp sd sa sb => Sys2Proof.Machine.execSar qp sd sa sb s
  | .mul qp sd sa sb => Sys2Proof.Machine.execMul qp sd sa sb s
  | .mulh qp sd sa sb => Sys2Proof.Machine.execMulh qp sd sa sb s
  | .mulhn qp sd sa sb => Sys2Proof.Machine.execMulhn qp sd sa sb s
  | .div qp sd sa sb => Sys2Proof.Machine.execDiv qp sd sa sb s
  | .divn qp sd sa sb => Sys2Proof.Machine.execDivn qp sd sa sb s
  | .rem qp sd sa sb => Sys2Proof.Machine.execRem qp sd sa sb s
  | .remn qp sd sa sb => Sys2Proof.Machine.execRemn qp sd sa sb s
  | .min qp sd sa sb => Sys2Proof.Machine.execMin qp sd sa sb s
  | .max qp sd sa sb => Sys2Proof.Machine.execMax qp sd sa sb s
  | .minn qp sd sa sb => Sys2Proof.Machine.execMinn qp sd sa sb s
  | .maxn qp sd sa sb => Sys2Proof.Machine.execMaxn qp sd sa sb s
  | .clz qp sd sa => Sys2Proof.Machine.execClz qp sd sa s
  | .ctz qp sd sa => Sys2Proof.Machine.execCtz qp sd sa s
  | .popc qp sd sa => Sys2Proof.Machine.execPopc qp sd sa s
  | .andn qp sd sa sb => Sys2Proof.Machine.execAndn qp sd sa sb s
  | .orn qp sd sa sb => Sys2Proof.Machine.execOrn qp sd sa sb s
  | .addi qp sd sa imm11 => Sys2Proof.Machine.execAddi qp sd sa imm11 s
  | .addiExt qp sd sa imm11 ext => Sys2Proof.Machine.execAddiExt qp sd sa imm11 ext s
  | .andi qp sd sa imm11 => Sys2Proof.Machine.execAndi qp sd sa imm11 s
  | .andiExt qp sd sa imm11 ext => Sys2Proof.Machine.execAndiExt qp sd sa imm11 ext s
  | .ori qp sd sa imm11 => Sys2Proof.Machine.execOri qp sd sa imm11 s
  | .oriExt qp sd sa imm11 ext => Sys2Proof.Machine.execOriExt qp sd sa imm11 ext s
  | .xori qp sd sa imm11 => Sys2Proof.Machine.execXori qp sd sa imm11 s
  | .xoriExt qp sd sa imm11 ext => Sys2Proof.Machine.execXoriExt qp sd sa imm11 ext s
  | .shli qp sd sa imm11 => Sys2Proof.Machine.execShli qp sd sa imm11 s
  | .shliExt qp sd sa imm11 ext => Sys2Proof.Machine.execShliExt qp sd sa imm11 ext s
  | .shri qp sd sa imm11 => Sys2Proof.Machine.execShri qp sd sa imm11 s
  | .shriExt qp sd sa imm11 ext => Sys2Proof.Machine.execShriExt qp sd sa imm11 ext s
  | .sari qp sd sa imm11 => Sys2Proof.Machine.execSari qp sd sa imm11 s
  | .sariExt qp sd sa imm11 ext => Sys2Proof.Machine.execSariExt qp sd sa imm11 ext s
  | .muli qp sd sa imm11 => Sys2Proof.Machine.execMuli qp sd sa imm11 s
  | .muliExt qp sd sa imm11 ext => Sys2Proof.Machine.execMuliExt qp sd sa imm11 ext s
  | .movi qp sd imm16 => Sys2Proof.Machine.execMovi qp sd imm16 s
  | .moviExt qp sd imm16 ext => Sys2Proof.Machine.execMoviExt qp sd imm16 ext s
  | .movhi qp sd imm16 => Sys2Proof.Machine.execMovhi qp sd imm16 s
  | .cmp qp qt qf sa sb cond => Sys2Proof.Machine.execCmp qp qt qf sa sb cond s
  | .cmpi qp qt qf sa imm5 cond => Sys2Proof.Machine.execCmpi qp qt qf sa imm5 cond s
  | .cmpiExt qp qt qf sa imm5 cond ext => Sys2Proof.Machine.execCmpiExt qp qt qf sa imm5 cond ext s
  | .sel qp sd sa sb qs => Sys2Proof.Machine.execSel qp sd sa sb qs s
  | .bfx qp sd sa pos lenm1 => Sys2Proof.Machine.execBfx qp sd sa pos lenm1 s
  | .bfxs qp sd sa pos lenm1 => Sys2Proof.Machine.execBfxs qp sd sa pos lenm1 s
  | .bfi qp sd sa pos lenm1 => Sys2Proof.Machine.execBfi qp sd sa pos lenm1 s
  | .lea qp sd sa sb shift => Sys2Proof.Machine.execLea qp sd sa sb shift s
  | .movs qp sd special => Sys2Proof.Machine.execMovs qp sd special s
  | .br qp disp21 => Sys2Proof.Machine.execBr qp disp21 s
  | .brExt qp disp21 ext => Sys2Proof.Machine.execBrExt qp disp21 ext s
  | .call qp disp21 => Sys2Proof.Machine.execCall qp disp21 s
  | .callExt qp disp21 ext => Sys2Proof.Machine.execCallExt qp disp21 ext s
  | .brs qp sa => Sys2Proof.Machine.execBrs qp sa s
  | .calls qp sa => Sys2Proof.Machine.execCalls qp sa s
  | .loop qp sa len => Sys2Proof.Machine.execLoop qp sa len s
  | .loopi qp cnt10 len => Sys2Proof.Machine.execLoopi qp cnt10 len s
  | .loopiExt qp cnt10 len ext => Sys2Proof.Machine.execLoopiExt qp cnt10 len ext s
  | .loopr qp sa epi len => Sys2Proof.Machine.execLoopr qp sa epi len s
  | .lbreak qp => Sys2Proof.Machine.execLbreak qp s
  | .plog qp qd qa qb fn => Sys2Proof.Machine.execPlog qp qd qa qb fn s
  | .fmtset qp sa => Sys2Proof.Machine.execFmtset qp sa s
  | .fmtseti qp fmt => Sys2Proof.Machine.execFmtseti qp fmt s
  | .semwait qp e n => Sys2Proof.Machine.execSemwait qp e n s
  | .semsig qp e n => Sys2Proof.Machine.execSemsig qp e n s
  | .waitc qp h g sa => Sys2Proof.Machine.execWaitc qp h g sa s
  | .ctrwait qp c sa => Sys2Proof.Machine.execCtrwait qp c sa s
  | .tfence qp => Sys2Proof.Machine.execTfence qp s
  | .fence qp sd scope => Sys2Proof.Machine.execFence qp sd scope s
  | .taskend qp => Sys2Proof.Machine.execTaskend qp s
  | .spawn qp f sa e => Sys2Proof.Machine.execSpawn qp f sa e s
  | .spawnOverlap qp f sa e ov => Sys2Proof.Machine.execSpawnOverlap qp f sa e ov s
  | .yield qp => Sys2Proof.Machine.execYield qp s
  | .statpop qp sd sd2 => Sys2Proof.Machine.execStatpop qp sd sd2 s
  | .trap qp imm16 => Sys2Proof.Machine.execTrap qp imm16 s
  | .eret qp => Sys2Proof.Machine.execEret qp s
  | .csrr qp sd sa csr => Sys2Proof.Machine.execCsrr qp sd sa csr s
  | .csrw qp sa sb csr => Sys2Proof.Machine.execCsrw qp sa sb csr s
  | .jobres qp sa => Sys2Proof.Machine.execJobres qp sa s
  | .iflush qp => Sys2Proof.Machine.execIflush qp s
  | .capopDerive qp sd sa sb rights => Sys2Proof.Machine.execCapopDerive qp sd sa sb rights s
  | .capopRevoke qp sd sa sb => Sys2Proof.Machine.execCapopRevoke qp sd sa sb s
  | .capopInfo qp sd sa sb => Sys2Proof.Machine.execCapopInfo qp sd sa sb s
  | .capopFree qp sd sa sb => Sys2Proof.Machine.execCapopFree qp sd sa sb s
  | .ctxctlStop qp sd sa sb => Sys2Proof.Machine.execCtxctlStop qp sd sa sb s
  | .ctxctlGo qp sd sa sb => Sys2Proof.Machine.execCtxctlGo qp sd sa sb s
  | .ctxctlKill qp sd sa sb => Sys2Proof.Machine.execCtxctlKill qp sd sa sb s
  | .ctxctlRead qp sd sa sb off => Sys2Proof.Machine.execCtxctlRead qp sd sa sb off s
  | .ctxctlWrite qp sd sa sb off => Sys2Proof.Machine.execCtxctlWrite qp sd sa sb off s
  | .ctxctlBrkSet qp sd sa sb n => Sys2Proof.Machine.execCtxctlBrkSet qp sd sa sb n s
  | .ctxctlBrkClr qp sd sa sb n => Sys2Proof.Machine.execCtxctlBrkClr qp sd sa sb n s
  | .ctxctlTestMode qp sd sa sb => Sys2Proof.Machine.execCtxctlTestMode qp sd sa sb s
  | .audmark qp sa sb => Sys2Proof.Machine.execAudmark qp sa sb s
  | .audsealSeal qp sd f sa => Sys2Proof.Machine.execAudsealSeal qp sd f sa s
  | .audsealConfig qp sd f sa => Sys2Proof.Machine.execAudsealConfig qp sd f sa s
  | .audbisect qp sd f sa e => Sys2Proof.Machine.execAudbisect qp sd f sa e s
  | .audref qp sd f sa e => Sys2Proof.Machine.execAudref qp sd f sa e s
  | .audreplay qp sd f sa e => Sys2Proof.Machine.execAudreplay qp sd f sa e s
  | .audroot qp hd sl => Sys2Proof.Machine.execAudroot qp hd sl s
  | .shset qp sh field sa => Sys2Proof.Machine.execShset qp sh field sa s
  | .shseti qp sh field imm => Sys2Proof.Machine.execShseti qp sh field imm s
  | .shcopy qp shd shs => Sys2Proof.Machine.execShcopy qp shd shs s
  | .shstep qp sh dim sa => Sys2Proof.Machine.execShstep qp sh dim sa s
  | .mpset qp mp half sa => Sys2Proof.Machine.execMpset qp mp half sa s
  | .mpseti qp mp word imm => Sys2Proof.Machine.execMpseti qp mp word imm s
  | .vshape qp rowsm1 colsm1 => Sys2Proof.Machine.execVshape qp rowsm1 colsm1 s
  | .fpnarrow qp fd fs mode sa sb => Sys2Proof.Machine.execFpnarrow qp fd fs mode sa sb s
  | .shrd qp sd kind reg sl => Sys2Proof.Machine.execShrd qp sd kind reg sl s
  | .alloc qp hd pool reads => Sys2Proof.Machine.execAlloc qp hd pool reads s
  | .allocr qp hd pool sa => Sys2Proof.Machine.execAllocr qp hd pool sa s
  | .alloct qp hd pool reads qs => Sys2Proof.Machine.execAlloct qp hd pool reads qs s
  | .copyin qp hd sh e => Sys2Proof.Machine.execCopyin qp hd sh e s
  | .gpush qp hd sa last => Sys2Proof.Machine.execGpush qp hd sa last s
  | .gather qp hd sh e => Sys2Proof.Machine.execGather qp hd sh e s
  | .tmove qp hd hs c e => Sys2Proof.Machine.execTmove qp hd hs c e s
  | .ldt qp sd hs sz sg imm9 => Sys2Proof.Machine.execLdt qp sd hs sz sg imm9 s
  | .ldtr qp sd hs sz sg sb => Sys2Proof.Machine.execLdtr qp sd hs sz sg sb s
  | .ldg qp sd f sa sz sg e => Sys2Proof.Machine.execLdg qp sd f sa sz sg e s
  | .tread qp sd hs c sb => Sys2Proof.Machine.execTread qp sd hs c sb s
  | .trel qp hs => Sys2Proof.Machine.execTrel qp hs s
  | .tinfo qp sd hs sl => Sys2Proof.Machine.execTinfo qp sd hs sl s
  | .ovl qp f sa sb e => Sys2Proof.Machine.execOvl qp f sa sb e s
  | .landh qp hd ch sa => Sys2Proof.Machine.execLandh qp hd ch sa s
  | .vadd qp hd ha hb ty ca cb fn => Sys2Proof.Machine.execVadd qp hd ha hb ty ca cb fn s
  | .vsub qp hd ha hb ty ca cb fn => Sys2Proof.Machine.execVsub qp hd ha hb ty ca cb fn s
  | .vmul qp hd ha hb ty ca cb fn => Sys2Proof.Machine.execVmul qp hd ha hb ty ca cb fn s
  | .vfma qp hd ha hb ty ca cb fn => Sys2Proof.Machine.execVfma qp hd ha hb ty ca cb fn s
  | .vmin qp hd ha hb ty ca cb => Sys2Proof.Machine.execVmin qp hd ha hb ty ca cb s
  | .vmax qp hd ha hb ty ca cb => Sys2Proof.Machine.execVmax qp hd ha hb ty ca cb s
  | .vand qp hd ha hb ty ca cb => Sys2Proof.Machine.execVand qp hd ha hb ty ca cb s
  | .vor qp hd ha hb ty ca cb => Sys2Proof.Machine.execVor qp hd ha hb ty ca cb s
  | .vxor qp hd ha hb ty ca cb => Sys2Proof.Machine.execVxor qp hd ha hb ty ca cb s
  | .vshl qp hd ha hb ty ca cb => Sys2Proof.Machine.execVshl qp hd ha hb ty ca cb s
  | .vshr qp hd ha hb ty ca cb => Sys2Proof.Machine.execVshr qp hd ha hb ty ca cb s
  | .vcmp qp hd ha hb ty ca cb fn => Sys2Proof.Machine.execVcmp qp hd ha hb ty ca cb fn s
  | .vsel qp hd ha hb ty ca cb => Sys2Proof.Machine.execVsel qp hd ha hb ty ca cb s
  | .vabs qp hd ha ty ca => Sys2Proof.Machine.execVabs qp hd ha ty ca s
  | .vneg qp hd ha ty ca => Sys2Proof.Machine.execVneg qp hd ha ty ca s
  | .vmov qp hd ha ty ca => Sys2Proof.Machine.execVmov qp hd ha ty ca s
  | .vfill qp hd ty => Sys2Proof.Machine.execVfill qp hd ty s
  | .vfillExt qp hd ty ext => Sys2Proof.Machine.execVfillExt qp hd ty ext s
  | .vbrow qp hd ha ty ca => Sys2Proof.Machine.execVbrow qp hd ha ty ca s
  | .vbcol qp hd ha ty ca => Sys2Proof.Machine.execVbcol qp hd ha ty ca s
  | .vtrans qp hd ha ty ca => Sys2Proof.Machine.execVtrans qp hd ha ty ca s
  | .vsfu qp hd ha ty ca fn func => Sys2Proof.Machine.execVsfu qp hd ha ty ca fn func s
  | .vrsum qp hd ha ty ca fn => Sys2Proof.Machine.execVrsum qp hd ha ty ca fn s
  | .vrmax qp hd ha ty ca => Sys2Proof.Machine.execVrmax qp hd ha ty ca s
  | .vcsum qp hd ha ty ca fn => Sys2Proof.Machine.execVcsum qp hd ha ty ca fn s
  | .vcmax qp hd ha ty ca => Sys2Proof.Machine.execVcmax qp hd ha ty ca s
  | .vdot qp hd ha hb ty ca cb fn => Sys2Proof.Machine.execVdot qp hd ha hb ty ca cb fn s
  | .vmacc qp hd ha hb ty ca cb fn => Sys2Proof.Machine.execVmacc qp hd ha hb ty ca cb fn s
  | .vcvt qp hd ha ca fn src dst sat inter => Sys2Proof.Machine.execVcvt qp hd ha ca fn src dst sat inter s
  | .vqnt qp hd ha hb ty ca cb fn dst axis side cal => Sys2Proof.Machine.execVqnt qp hd ha hb ty ca cb fn dst axis side cal s
  | .vdqnt qp hd ha hb ty ca cb fn src axis side sat => Sys2Proof.Machine.execVdqnt qp hd ha hb ty ca cb fn src axis side sat s
  | .vscale qp hd ha hb ty ca cb fn => Sys2Proof.Machine.execVscale qp hd ha hb ty ca cb fn s
  | .viota qp hd ty fn => Sys2Proof.Machine.execViota qp hd ty fn s
  | .vsums qp sd ha sdhi ty ca => Sys2Proof.Machine.execVsums qp sd ha sdhi ty ca s
  | .mcall qp routine acc z e => Sys2Proof.Machine.execMcall qp routine acc z e s
  | .acczero qp acc ty => Sys2Proof.Machine.execAcczero qp acc ty s
  | .accrd qp hd acc ht fo rm sat ct => Sys2Proof.Machine.execAccrd qp hd acc ht fo rm sat ct s
  | .accwr qp acc hs c ty => Sys2Proof.Machine.execAccwr qp acc hs c ty s
  | .accmov qp accd accs => Sys2Proof.Machine.execAccmov qp accd accs s
  | .ringpush qp ring hs => Sys2Proof.Machine.execRingpush qp ring hs s
  | .ringdrop qp ring n => Sys2Proof.Machine.execRingdrop qp ring n s
  | .ringinfo qp sd ring => Sys2Proof.Machine.execRinginfo qp sd ring s
  | .mprog qp index f sa => Sys2Proof.Machine.execMprog qp index f sa s
  | .mprogExt qp index f sa e => Sys2Proof.Machine.execMprogExt qp index f sa e s
  | .copyout qp hs sh c red e => Sys2Proof.Machine.execCopyout qp hs sh c red e s
  | .copyacc qp acc sh e => Sys2Proof.Machine.execCopyacc qp acc sh e s
  | .stt qp sa hs sz imm9 => Sys2Proof.Machine.execStt qp sa hs sz imm9 s
  | .sttr qp sa hs sz sb => Sys2Proof.Machine.execSttr qp sa hs sz sb s
  | .stg qp sb f sa sz e => Sys2Proof.Machine.execStg qp sb f sa sz e s
  | .atom qp sd f sa sb aop scope order size e => Sys2Proof.Machine.execAtom qp sd f sa sb aop scope order size e s
  | .cas qp sd f sa sb scope order size e => Sys2Proof.Machine.execCas qp sd f sa sb scope order size e s
  | .send qp ch hs c e => Sys2Proof.Machine.execSend qp ch hs c e s
  | .sendt qp ch hs c e thr ctr => Sys2Proof.Machine.execSendt qp ch hs c e thr ctr s
  | .putr qp ch hs c sa => Sys2Proof.Machine.execPutr qp ch hs c sa s
  | .ctraddRemote qp ch sa => Sys2Proof.Machine.execCtraddRemote qp ch sa s
  | .ctraddLocal qp c sa => Sys2Proof.Machine.execCtraddLocal qp c sa s
  | .mbox qp hs c sa e => Sys2Proof.Machine.execMbox qp hs c sa e s
  | .scatter qp hs hi sh c ci red e => Sys2Proof.Machine.execScatter qp hs hi sh c ci red e s
  | .prime qp ch hs c reads => Sys2Proof.Machine.execPrime qp ch hs c reads s
  | .chunkArrives u j k => Sys2Proof.Machine.execChunkArrives u j k s
  | .tileJobComplete u j => Sys2Proof.Machine.execTileJobComplete u j s
  | .outJobComplete u j => Sys2Proof.Machine.execOutJobComplete u j s
  | .ldgComplete u j => Sys2Proof.Machine.execLdgComplete u j s
  | .jobFault u j => Sys2Proof.Machine.execJobFault u j s
  | .ovlComplete u j => Sys2Proof.Machine.execOvlComplete u j s
  | .vectorResultLands u j => Sys2Proof.Machine.execVectorResultLands u j s
  | .accrdComplete u j => Sys2Proof.Machine.execAccrdComplete u j s
  | .routineStart u j => Sys2Proof.Machine.execRoutineStart u j s
  | .routineBlockComplete u j => Sys2Proof.Machine.execRoutineBlockComplete u j s
  | .routineRetire u j => Sys2Proof.Machine.execRoutineRetire u j s
  | .routineFault u j => Sys2Proof.Machine.execRoutineFault u j s
  | .mprogComplete u j => Sys2Proof.Machine.execMprogComplete u j s
  | .spawnAccepted u j => Sys2Proof.Machine.execSpawnAccepted u j s
  | .sendFire u j => Sys2Proof.Machine.execSendFire u j s
  | .sendtFire u j => Sys2Proof.Machine.execSendtFire u j s
  | .sendComplete u j => Sys2Proof.Machine.execSendComplete u j s
  | .primeComplete u j => Sys2Proof.Machine.execPrimeComplete u j s
  | .serifData port p => Sys2Proof.Machine.execSerifData port p s
  | .landingComplete u ch => Sys2Proof.Machine.execLandingComplete u ch s
  | .blotDeadline u ch => Sys2Proof.Machine.execBlotDeadline u ch s
  | .serifAck port lseq => Sys2Proof.Machine.execSerifAck port lseq s
  | .serifNack port lseq => Sys2Proof.Machine.execSerifNack port lseq s
  | .slotReady port p => Sys2Proof.Machine.execSlotReady port p s
  | .counterAdd port p => Sys2Proof.Machine.execCounterAdd port p s
  | .serifMailbox port p => Sys2Proof.Machine.execSerifMailbox port p s
  | .refusal port p => Sys2Proof.Machine.execRefusal port p s
  | .bindNotice port p => Sys2Proof.Machine.execBindNotice port p s
  | .retransmitTimeout port now => Sys2Proof.Machine.execRetransmitTimeout port now s
  | .lossOfSignalDead port now => Sys2Proof.Machine.execLossOfSignalDead port now s
  | .auditNodeRequest d msg => Sys2Proof.Machine.execAuditNodeRequest d msg s
  | .auditJobComplete u j ans => Sys2Proof.Machine.execAuditJobComplete u j ans s
  | .rootLogWrite d => Sys2Proof.Machine.execRootLogWrite d s
  | .nodeEntersWindow d q => Sys2Proof.Machine.execNodeEntersWindow d q s
  | .nodeDispatch d n => Sys2Proof.Machine.execNodeDispatch d n s
  | .taskStart u => Sys2Proof.Machine.execTaskStart u s
  | .steal u => Sys2Proof.Machine.execSteal u s
  | .queueStarvation d q now => Sys2Proof.Machine.execQueueStarvation d q now s
  | .taskComplete d n => Sys2Proof.Machine.execTaskComplete d n s
  | .graphComplete d g => Sys2Proof.Machine.execGraphComplete d g s
  | .watchdogW1 u b => Sys2Proof.Machine.execWatchdogW1 u b s
  | .watchdogW2 u b => Sys2Proof.Machine.execWatchdogW2 u b s
  | .watchdogW3 u cid => Sys2Proof.Machine.execWatchdogW3 u cid s
  | .softErrorCorrected u acc => Sys2Proof.Machine.execSoftErrorCorrected u acc s
  | .freezeEnd u => Sys2Proof.Machine.execFreezeEnd u s
  | .padUncorrectable w => Sys2Proof.Machine.execPadUncorrectable w s
  | .bankUncorrectable u n => Sys2Proof.Machine.execBankUncorrectable u n s
  | .doorbell d q tail => Sys2Proof.Machine.execDoorbell d q tail s
  | .registerWrite d q off val => Sys2Proof.Machine.execRegisterWrite d q off val s
  | .launch d q => Sys2Proof.Machine.execLaunch d q s
  | .patch d q => Sys2Proof.Machine.execPatch d q s
  | .load d q => Sys2Proof.Machine.execLoad d q s
  | .loadComplete d q => Sys2Proof.Machine.execLoadComplete d q s
  | .unload d q => Sys2Proof.Machine.execUnload d q s
  | .barrier d q => Sys2Proof.Machine.execBarrier d q s
  | .signal d q => Sys2Proof.Machine.execSignal d q s
  | .hostSeal d q => Sys2Proof.Machine.execHostSeal d q s
  | .bind d q => Sys2Proof.Machine.execBind d q s
  | .setchip d => Sys2Proof.Machine.execSetchip d s
  | .setroute d => Sys2Proof.Machine.execSetroute d s
  | .retrain d => Sys2Proof.Machine.execRetrain d s
  | .xinv d idx val => Sys2Proof.Machine.execXinv d idx val s
  | .qrootWrite d q val => Sys2Proof.Machine.execQrootWrite d q val s
  | .nodectlRelease d n => Sys2Proof.Machine.execNodectlRelease d n s
  | .nodectlFail d n => Sys2Proof.Machine.execNodectlFail d n s
  | .ufenceClear d u => Sys2Proof.Machine.execUfenceClear d u s
  | .ufenceSet d u => Sys2Proof.Machine.execUfenceSet d u s
  | .qctlEnable d q => Sys2Proof.Machine.execQctlEnable d q s
  | .qctlDisable d q => Sys2Proof.Machine.execQctlDisable d q s
  | .poolcfgWrite d idx val => Sys2Proof.Machine.execPoolcfgWrite d idx val s
  | .statrd d cap => Sys2Proof.Machine.execStatrd d cap s
  | .getVersion => Sys2Proof.Machine.execGetVersion s
  | .getCapabilities => Sys2Proof.Machine.execGetCapabilities s
  | .negotiateAlgorithms => Sys2Proof.Machine.execNegotiateAlgorithms s
  | .getDigests => Sys2Proof.Machine.execGetDigests s
  | .getCertificate slot off len => Sys2Proof.Machine.execGetCertificate slot off len s
  | .challenge slot nonce => Sys2Proof.Machine.execChallenge slot nonce s
  | .getMeasurements idx sign nonce => Sys2Proof.Machine.execGetMeasurements idx sign nonce s
  | .unsupportedRequest code => Sys2Proof.Machine.execUnsupportedRequest code s
  | .importRegion req => Sys2Proof.Machine.execImportRegion req s
  | .release region => Sys2Proof.Machine.execRelease region s
  | .signLogHead => Sys2Proof.Machine.execSignLogHead s
  | .meterRefill => Sys2Proof.Machine.execMeterRefill s
  | .crossingGrant u j => Sys2Proof.Machine.execCrossingGrant u j s
  | .powerOn nonce => Sys2Proof.Machine.execPowerOn nonce s
  | .thermalGate d => Sys2Proof.Machine.execThermalGate d s
  | .thermalShutdown => Sys2Proof.Machine.execThermalShutdown s
  | .fixedLatencyResultLands u b k => Sys2Proof.Machine.execFixedLatencyResultLands u b k s
  | .slotStorageReturns pad slot => Sys2Proof.Machine.execSlotStorageReturns pad slot s
  | .mboxLocalDelivery k => Sys2Proof.Machine.execMboxLocalDelivery k s
  | .auditConfigTakesEffect u j => Sys2Proof.Machine.execAuditConfigTakesEffect u j s
  | .fecFailure port p => Sys2Proof.Machine.execFecFailure port p s
  | .lossOfSignalChanges port on now => Sys2Proof.Machine.execLossOfSignalChanges port on now s
  | .linkTrainingComplete port => Sys2Proof.Machine.execLinkTrainingComplete port s
  | .thermalGateRelease d => Sys2Proof.Machine.execThermalGateRelease d s

end Sys2Proof.Machine
end

