-- ==== Sys2Proof/Machine/Schedule.lean ====
section
/-!
DEFINITION. What the machine does of itself when no event is due, and how a program is placed where the machine fetches it
(03_bundles.md R424; 06 R169; 10 R237; log 2, log 3).
-/
namespace Sys2Proof.Machine

/-- An event that the machine may take of itself. -/
abbrev Move := State → Host.Outcome State Fault Refusal

/-- The events of an engine job (log 2). -/
def Job.moves (u : Nat) (j : Job) : List Move :=
  let own : List Move := match j.kind with
    | .copyIn | .gather | .tmove =>
      [execChunkArrives u j.jid (j.left.headD 0), execTileJobComplete u j.jid]
    | .ldg => [execLdgComplete u j.jid]
    | .ovl => [execOvlComplete u j.jid]
    | .copyOut | .copyAcc | .scatter | .stg | .atomic => [execCrossingGrant u j.jid, execOutJobComplete u j.jid]
    | .vec => [execVectorResultLands u j.jid]
    | .accrd => [execAccrdComplete u j.jid]
    | .routine =>
      [execRoutineStart u j.jid, execRoutineBlockComplete u j.jid, execRoutineFault u j.jid, execRoutineRetire u j.jid]
    | .send => [execSendFire u j.jid, execSendtFire u j.jid, execCrossingGrant u j.jid, execSendComplete u j.jid]
    | .prime => [execPrimeComplete u j.jid]
    | .mprog => [execMprogComplete u j.jid]
    | .spawn => [execSpawnAccepted u j.jid]
    | .audConfig => [execAuditConfigTakesEffect u j.jid]
    | .audit => [execAuditJobComplete u j.jid []]
    | .mbox | .ctradd => []
  if j.fault.isSome then [] else own ++ [execJobFault u j.jid]

/-- The events of a unit: its channels, its contexts, its deque, its jobs (log 2). -/
def State.unitMoves (s : State) (u : Nat) : List Move :=
  let x := s.unit u
  let chs := (x.endpoint.map fun e => e.ends.map (·.1)).getD []
  (chs.flatMap fun ch => [execLandingComplete u ch, execBlotDeadline u ch]) ++
    ([0, 1, 2].flatMap fun b => [execHandlerLaunch (.parked u b), execWatchdogW1 u b, execWatchdogW2 u b, execStallSwap u b]) ++
    (x.ctxs.map fun e => execWatchdogW3 u e.2.cid) ++ [execContextSwapComplete u, execTaskStart u, execSteal u] ++
    x.jobs.flatMap (Job.moves u)

/-- The events of a die: its queues, its window, its graphs, its root log (log 2). -/
def State.dieMoves (s : State) (d : Nat) : List Move :=
  let x := s.die d
  let now := (s.unit (128 * d)).cycle
  [execRootLogWrite d, execSetchip d, execSetroute d, execRetrain d] ++
    (x.queues.flatMap fun q => [execLaunch d q.1, execPatch d q.1, execLoad d q.1, execLoadComplete d q.1, execUnload d q.1,
      execBarrier d q.1, execSignal d q.1, execHostSeal d q.1, execBind d q.1, execNodeEntersWindow d q.1,
      execQueueStarvation d q.1 now]) ++
    (x.window.flatMap fun n => match n.2.state with
      | .waiting => [execNodeDispatch d n.1]
      | .queued _ => []
      | .held => [execHandlerLaunch (.race d n.1 ((s.chooseUnit d n.2).getD 0))]
      | .running _ _ => []
      | .ended _ => [execTaskComplete d n.1]) ++
    x.graphs.map fun g => execGraphComplete d g.1

/-- The events of the module: its dies, its units, its slots, its messages, its ports (log 2). -/
def State.moves (s : State) : List Move :=
  (s.dies.flatMap fun d => s.dieMoves d.1) ++ (s.units.flatMap fun u => s.unitMoves u.1) ++
    (s.pads.flatMap fun p => (p.2.slots.filter fun e => e.2.busy).map fun e => execSlotStorageReturns p.1 e.1) ++
    ((List.range s.msgs.length).map execMboxLocalDelivery) ++
    (s.ports.flatMap fun p =>
      let now := (s.unit (128 * (p.1 / 5))).cycle
      [execRetransmitTimeout p.1 now, execLossOfSignalDead p.1 now]) ++ [execMeterRefill]

/-- Whether a unit has something to do in a cycle: a context, a swap, a freeze or an endpoint's deadlines. -/
def UnitSt.busy (x : UnitSt) : Bool := x.ctxs != [] || x.swap.isSome || x.freeze != 0 || x.endpoint.isSome || x.late != []

/-- The units that have something to do in a cycle: those that are busy, and the first unit of a die whose window holds nodes, whose cycles are
the graph engine's (R128). -/
def State.live (s : State) : List Nat :=
  (s.units.filter fun x => x.2.busy || (x.1 % 128 == 0 && (s.die (x.1 / 128)).window != [])).map (·.1)

/-- The unit whose cycle turn `n` is: units take turns. -/
def State.turnUnit (s : State) (n : Nat) : Nat := s.live.getD (n % s.live.length) s.curU

/-- What the machine does of itself when no event is due: in turn, a cycle of a unit and one of its other events. DESIGN CHOICE
(log 2). -/
def State.advance (s : State) : Host.Outcome State Fault Refusal :=
  let t : State := { s with turn := s.turn + 1 }
  let n := s.turn / 2
  if s.turn % 2 = 0 then execBundleIssue (s.turnUnit n) t
  else match s.moves[n % s.moves.length]? with
    | some f => f t
    | none => .next t

/-- A machine powered on whose unit 0 runs a monitor-level context in start-up mode from its scratchpad, whose line 0 holds
`line` (R169, R420); its turn is the next. -/
def State.startUp (s : State) (line : Bytes) : State :=
  let c : Ctx := { cid := s.nextCid, level := 2, startup := true, taskId := s.nextTask 0 }
  let s : State := { s with
    power := .on, agenda := [], turn := 0, curU := 0, curB := 0, nextCid := s.nextCid + 1
    mem := s.mem.writeN (memKey (regScratch 0) 0) (padTo 64 line) }
  let s := s.updUnit 0 fun x => { x with filled := x.filled.put 0 (), ctxs := [(0, c)], shadow := 2, swap := none, freeze := 0 }
  s.updDie 0 fun d => { d with gated := false, halted := false, tasksStarted := d.tasksStarted + 1 }

end Sys2Proof.Machine
end

