-- ==== Sys2Proof/Machine/Step.lean ====
section
/-!
DEFINITION. One step of the machine: the operation or event that comes next (log 2), until thermal shutdown powers it down.
-/
namespace Sys2Proof.Machine

/-- One step: the head of the agenda, else what the machine does of itself: power on, or its next turn (log 2). After a shutdown only
POWER_ON is left (R421). -/
def step (s : State) : Host.Outcome State Fault Refusal :=
  match s.power, s.agenda with
  | .down, .powerOn n :: r => exec (.powerOn n) { s with agenda := r }
  | .down, _ => .fault .poweredDown
  | _, i :: r => exec i { s with agenda := r }
  | .off, [] => execPowerOn (Config.freeNonce s.sec.bootc) s
  | .on, [] => s.advance

/-- `s` with one instruction placed where the next step fetches: in the scratchpad of unit 0, for a start-up context there. The
table gives no slot for a row, so the first slot whose decoder accepts the word takes it (log 3, log 4). -/
def State.withFetchWord (s : State) (nbits w : Nat) : State :=
  s.startUp (match tableSlot nbits w with
    | some k => tableBytes k nbits w
    | none => tableBytes 0 nbits w)

end Sys2Proof.Machine
end

