-- ==== Sys2Proof/Safety.lean ====
section
/-!
DEFINITION. What a safe run is, and the terms in which the claims speak of one bundle: when a bundle of one slot is ready to issue,
what the machine is as the slot's operation finds it, and what an operation leaves alone.
-/
namespace Sys2Proof

open Machine

/-- A state from which the machine can go on. -/
def Safe (s : Machine.State) : Prop := ∃ t, Machine.step s = .next t

/-- The memory is in its canonical form. -/
def MemOk (s : Machine.State) : Prop := s.mem.wf = true

/-! ## One bundle of one slot (R424) -/

/-- The presentation of the bundle that holds `i` alone: its address is the PC of the current context, it ends its group. -/
def presOf (s : Machine.State) (i : Instr) : Pres :=
  { addr := s.begin.cur.pc, stop := true, len := 1 + i.syl.bytes.length, leaf0 := s.begin.cur.leafNext }

/-- The machine as the operation `i` finds it when its bundle is first presented: results whose bound has come have landed (R65),
and the bundle is recorded as under presentation. -/
def shown (s : Machine.State) (i : Instr) : Machine.State :=
  s.begin.setCur { s.begin.cur with pres := some (presOf s i), grpFrom := s.begin.cur.grpFrom.or (some s.begin.cur.pc) }

/-- A bundle of `len` bytes at the PC does not straddle the end of the innermost loop (R208). -/
def noStraddle (c : Ctx) (len : Nat) : Bool :=
  match c.li with
  | [] => true
  | l :: _ => decide (c.pc < l.start) || decide (l.stop ≤ c.pc) || decide (c.pc + len ≤ l.stop)

/-- The bundle of `i` is the one that the current context presents next, with predicate `q` set: no bundle is under presentation,
the sequencer has been asked nothing, no fence stalls the context, and the bundle does not straddle the end of the innermost loop. -/
abbrev Ready (s : Machine.State) (i : Instr) (q : Nat) : Prop :=
  s.begin.cur.pres = none ∧ s.begin.cur.rq q = true ∧ s.begin.cur.after = .none ∧ s.begin.cur.fencing = none ∧
    noStraddle s.begin.cur (1 + i.syl.bytes.length) = true

/-- The landings that a slot observes are marked, in ascending channel and arrival (R371). -/
def observeAll (i : Instr) (l : List (Nat × Nat)) (t : Machine.State) : Machine.State :=
  ((l.map fun x => (x, i.slot, i.syl.w, i.syl.ext)).foldl (fun l x => insObs x l) []).foldl
    (fun s x => s.observe1 x.2.1 x.2.2.1 x.2.2.2 x.1) t

/-- The machine after what a slot does in the first cycle of its examination: the note of a wait (R350), and an effect that starts then and
holds the bundle until it has taken hold (R424). -/
def hooked (s : Machine.State) (o : SlotSem) : Machine.State := (o.start.getD id) (o.hook (shown s o.i))

/-- The bundle of slot `o` alone passes the four examinations of R424 when it is first presented: it is ready, no job it depends on has
faulted, its checks pass, no fault arises while it could hold, and it need not hold. -/
abbrev Issuable (s : Machine.State) (o : SlotSem) : Prop :=
  Ready s o.i o.q ∧
  (shown s o.i).faultOf (shown s o.i).curU (o.obs (shown s o.i)) = none ∧
  o.check (shown s o.i) = none ∧ o.stuck (shown s o.i) = none ∧
  o.hold (hooked s o) = false ∧
  semRoom (hooked s o).cur (o.adds (hooked s o)) = true ∧
  (o.port = 0 ∨ ((hooked s o).unit (shown s o.i).curU).jobs.countP Job.engine + o.port ≤ 64)

/-- The machine after the effect of slot `o`, before the sequencer's part: landings that it observes are marked first. -/
def effect (s : Machine.State) (o : SlotSem) : Machine.State :=
  o.eff (observeAll o.i (o.sees (hooked s o)) (hooked s o))

/-- The machine after the bundle of slot `o` alone has issued. -/
def issued (s : Machine.State) (o : SlotSem) : Machine.State := (effect s o).finishBundle (presOf s o.i) [o.i]

/-- The fault `t` of the slot of `i`, with what its record says of the slot (R228). -/
def slotTrap (s : Machine.State) (i : Instr) (t : Trap) : Trap :=
  { t with slot := i.slot, w := i.syl.w, ext := i.syl.ext, snap := (shown s i).cur.snapOf i }

/-- The machine after the bundle of `i` raises `t` as it is presented: no slot commits, and the exception is taken (R224). -/
def raised (s : Machine.State) (i : Instr) (t : Trap) : Machine.State :=
  ((shown s i).updCur fun c => { c with pc := (presOf s i).addr }).enterTrap (shown s i).curU (shown s i).curB t (presOf s i).addr

/-- The machine after the bundle of slot `o`, first presented, is held: it stays under presentation, its checks done and what starts then
started (R212, R424). -/
def heldAt (s : Machine.State) (o : SlotSem) : Machine.State :=
  (hooked s o).updCur fun c => { c with pres := some { presOf s o.i with checked := true, started := o.start.isSome }, last := .held }

/-- The operations that need level 1 or above (R68, R69, R71, R75, R223). -/
def supervisorOp : Instr → Bool
  | .eret .. | .csrr .. | .csrw .. | .jobres .. | .iflush .. | .capopDerive .. | .capopRevoke .. | .capopInfo .. | .capopFree ..
  | .ctxctlStop .. | .ctxctlGo .. | .ctxctlKill .. | .ctxctlRead .. | .ctxctlWrite .. | .ctxctlBrkSet .. | .ctxctlBrkClr ..
  | .ctxctlTestMode .. | .audsealSeal .. | .audsealConfig .. | .audbisect .. | .audref .. | .audreplay .. | .ovl .. | .mprog ..
  | .mprogExt .. => true
  | _ => false

/-- From every state in which its bundle passes the four examinations, at level 1 or above where the operation needs it (R223), `i`
answers a next state: that of its own slot's effect, followed by the sequencer's part. -/
def Issues (sup : Bool) (i : Instr) : Prop :=
  ∀ o, semOf i = some o → ∀ s, Issuable s o → (sup = true → s.cur.level ≠ 0) → exec i s = .next (issued s o)

/-! ## What the sequencer adds -/

/-- The address after a bundle, past line pads (R56, R61). -/
def afterBundle (t : Machine.State) (p : Pres) : Nat := (skipPads (t.codeByte t.curU t.cur) 65536 (p.addr + p.len)).1

/-- The bundle is the last of an iteration of the innermost loop: it lies in the loop and the next address is the loop's end (R208). -/
def atLoopEnd (t : Machine.State) (p : Pres) : Bool :=
  match t.cur.li with
  | [] => false
  | l :: _ => decide (l.start ≤ p.addr) && decide (p.addr < l.stop) && (afterBundle t p == l.stop)

/-- A context after a bundle that ended its group and asked for no transfer, in terms of the context its operation left: it goes on behind
the bundle, or stays at it while a fence stalls it. -/
def goOn (t : Machine.State) (p : Pres) : Ctx :=
  { t.cur with
    bundleNo := t.cur.bundleNo + 1, pres := none, after := .none, last := .issued, stall := 0, brkSkip := none
    grp := [], grpFrom := none, inRun := false
    pc := if t.cur.fencing.isSome then p.addr else afterBundle t p
    fencing := t.cur.fencing.map fun f => { f with next := afterBundle t p } }

/-- `d` differs from `c` at most in the sequencing of bundles and in results that have not landed and descriptor writes in
their shadow: every register, flag, descriptor,
semaphore, ring, footprint and count is the same. -/
def CtxFrame (c d : Ctx) : Prop :=
  d = { c with
    pc := d.pc, bundleNo := d.bundleNo, pres := d.pres, after := d.after, last := d.last, stall := d.stall, brkSkip := d.brkSkip
    grp := d.grp, grpFrom := d.grpFrom, inRun := d.inRun, fly := d.fly, shadow := d.shadow, ticket := d.ticket, tickets := d.tickets }

/-- A register that an operation writes: the register, how many bundles on the result is usable, the value, and the flags. -/
structure RegWrite where
  dest : Dest
  bound : Nat
  val : Nat
  flags : Nat := 0

/-- An operation that writes registers or descriptors and does nothing else: the operation, its predicate, the condition on the machine
it finds, and what it writes; `sup` for one that needs level 1 or above (R223). -/
structure RegRow where
  i : Instr
  q : Nat
  pre : Machine.State → Bool := fun _ => true
  writes : Machine.State → List RegWrite := fun _ => []
  descs : Machine.State → List ShadowW := fun _ => []
  sup : Bool := false

/-- The hypotheses of a row at a state: the bundle of the operation does not end an iteration either. -/
def RegRow.met (r : RegRow) (s : Machine.State) : Bool :=
  decide (Ready s r.i r.q) && r.pre (shown s r.i) && !atLoopEnd (shown s r.i) (presOf s r.i) && (!r.sup || s.cur.level != 0)

/-- From every state that meets the row's hypotheses only the current context changes: it gains the row's results in flight and descriptor
writes in their shadow, goes on past the bundle, and is otherwise what it was. A stall swap that has fallen due lands then (R133). -/
def RegRow.Holds (r : RegRow) : Prop :=
  ∀ s, r.met s = true →
    ∃ c, exec r.i s = .next (s.begin.setCur c).stallLands ∧ CtxFrame s.begin.cur c ∧
      c.bundleNo = s.begin.cur.bundleNo + 1 ∧ c.pc = afterBundle (shown s r.i) (presOf s r.i) ∧ c.after = .none ∧ c.pres = none ∧
      c.shadow = s.begin.cur.shadow ++ (r.descs (shown s r.i)).map (fun w => ⟨s.begin.cur.bundleNo, w⟩) ∧
      c.fly = s.begin.cur.fly ++ (r.writes (shown s r.i)).map fun x =>
        ⟨s.begin.cur.bundleNo, s.begin.cur.bundleNo + x.bound, x.dest, x.val, x.flags⟩

end Sys2Proof
end

