-- ==== Sys2Proof/Certificates/Slice0/Obligations.lean ====
section
/-!
DEFINITION. The statements about the model, from the numbered rules of the spec. A row names an operation, what it needs and what it
writes; a family statement says of each operation it names that its bundle issues with its own effect.
-/
section

open Sys2Proof Sys2Proof.Machine

/-! ## Scalar operations (08_scalar_class.md) -/

/-- One scalar result: `sd` through ROT gets `v` with bound `l`. -/
def Sys2Proof.scalarRow (i : Instr) (qp sd l : Nat) (v : Ctx → Word) (flags : Ctx → Nat := fun _ => 0) : RegRow :=
  { i := i, q := qp, writes := fun t => [⟨t.cur.ds sd, l, (v t.cur).toNat, flags t.cur⟩] }

/-- The three-register operations of R194 and R195: result, bound and flags. -/
def Sys2Proof.scalarRows (qp sd sa sb : Nat) : List RegRow :=
  let a := fun c : Ctx => c.rs sa
  let b := fun c : Ctx => c.rs sb
  let x := fun c : Ctx => (c.rs sa).toInt
  let y := fun c : Ctx => (c.rs sb).toInt
  let ovf := fun c : Ctx => x c = -(2 ^ 63) ∧ y c = -1
  [ scalarRow (.add qp sd sa sb) qp sd 1 fun c => a c + b c,
    scalarRow (.sub qp sd sa sb) qp sd 1 fun c => a c - b c,
    scalarRow (.and qp sd sa sb) qp sd 1 fun c => a c &&& b c,
    scalarRow (.or qp sd sa sb) qp sd 1 fun c => a c ||| b c,
    scalarRow (.xor qp sd sa sb) qp sd 1 fun c => a c ^^^ b c,
    scalarRow (.andn qp sd sa sb) qp sd 1 fun c => a c &&& ~~~(b c),
    scalarRow (.orn qp sd sa sb) qp sd 1 fun c => a c ||| ~~~(b c),
    scalarRow (.shl qp sd sa sb) qp sd 1 fun c => a c <<< ((b c).toNat % 64),
    scalarRow (.shr qp sd sa sb) qp sd 1 fun c => a c >>> ((b c).toNat % 64),
    scalarRow (.sar qp sd sa sb) qp sd 1 fun c => BitVec.ofInt 64 (x c / 2 ^ ((b c).toNat % 64)),
    scalarRow (.min qp sd sa sb) qp sd 1 fun c => if x c ≤ y c then a c else b c,
    scalarRow (.max qp sd sa sb) qp sd 1 fun c => if y c ≤ x c then a c else b c,
    scalarRow (.minn qp sd sa sb) qp sd 1 fun c => if (a c).toNat ≤ (b c).toNat then a c else b c,
    scalarRow (.maxn qp sd sa sb) qp sd 1 fun c => if (b c).toNat ≤ (a c).toNat then a c else b c,
    scalarRow (.clz qp sd sa) qp sd 1 fun c => BitVec.ofNat 64 (clzNat (a c)),
    scalarRow (.ctz qp sd sa) qp sd 1 fun c => BitVec.ofNat 64 (ctzNat (a c)),
    scalarRow (.popc qp sd sa) qp sd 1 fun c => BitVec.ofNat 64 (ones 64 (a c).toNat),
    scalarRow (.mul qp sd sa sb) qp sd 3 (fun c => BitVec.ofInt 64 (x c * y c))
      fun c => if x c * y c < -(2 ^ 63) ∨ 2 ^ 63 ≤ x c * y c then fIOV else 0,
    scalarRow (.mulh qp sd sa sb) qp sd 3 fun c => BitVec.ofInt 64 (x c * y c / 2 ^ 64),
    scalarRow (.mulhn qp sd sa sb) qp sd 3 fun c => BitVec.ofNat 64 ((a c).toNat * (b c).toNat / 2 ^ 64),
    scalarRow (.div qp sd sa sb) qp sd 18
      (fun c => if b c = 0 then BitVec.allOnes 64 else if ovf c then a c else BitVec.ofInt 64 (Int.tdiv (x c) (y c)))
      fun c => if b c = 0 then fDZ else if ovf c then fIOV else 0,
    scalarRow (.rem qp sd sa sb) qp sd 18
      (fun c => if b c = 0 then a c else if ovf c then 0 else BitVec.ofInt 64 (x c - Int.tdiv (x c) (y c) * y c))
      fun c => if b c = 0 then fDZ else 0,
    scalarRow (.divn qp sd sa sb) qp sd 18
      (fun c => if b c = 0 then BitVec.allOnes 64 else BitVec.ofNat 64 ((a c).toNat / (b c).toNat))
      fun c => if b c = 0 then fDZ else 0,
    scalarRow (.remn qp sd sa sb) qp sd 18
      (fun c => if b c = 0 then a c else BitVec.ofNat 64 ((a c).toNat % (b c).toNat))
      fun c => if b c = 0 then fDZ else 0 ]

/-- The immediate forms of R196 and R197: imm11, or ext ‖ imm11, sign-extended; imm16 zero-extended. -/
def Sys2Proof.immediateRows (qp sd sa imm11 imm16 ext : Nat) : List RegRow :=
  let a := fun c : Ctx => c.rs sa
  let k := BitVec.ofInt 64 (sext 11 imm11)
  let e := BitVec.ofInt 64 (sext 43 (imm11 + ext * 2 ^ 11))
  let big := fun (c : Ctx) (m : Word) => if (a c).toInt * m.toInt < -(2 ^ 63) ∨ 2 ^ 63 ≤ (a c).toInt * m.toInt then fIOV else 0
  [ scalarRow (.addi qp sd sa imm11) qp sd 1 fun c => a c + k,
    scalarRow (.addiExt qp sd sa imm11 ext) qp sd 1 fun c => a c + e,
    scalarRow (.andi qp sd sa imm11) qp sd 1 fun c => a c &&& k,
    scalarRow (.andiExt qp sd sa imm11 ext) qp sd 1 fun c => a c &&& e,
    scalarRow (.ori qp sd sa imm11) qp sd 1 fun c => a c ||| k,
    scalarRow (.oriExt qp sd sa imm11 ext) qp sd 1 fun c => a c ||| e,
    scalarRow (.xori qp sd sa imm11) qp sd 1 fun c => a c ^^^ k,
    scalarRow (.xoriExt qp sd sa imm11 ext) qp sd 1 fun c => a c ^^^ e,
    scalarRow (.shli qp sd sa imm11) qp sd 1 fun c => a c <<< (k.toNat % 64),
    scalarRow (.shliExt qp sd sa imm11 ext) qp sd 1 fun c => a c <<< (e.toNat % 64),
    scalarRow (.shri qp sd sa imm11) qp sd 1 fun c => a c >>> (k.toNat % 64),
    scalarRow (.shriExt qp sd sa imm11 ext) qp sd 1 fun c => a c >>> (e.toNat % 64),
    scalarRow (.sari qp sd sa imm11) qp sd 1 fun c => BitVec.ofInt 64 ((a c).toInt / 2 ^ (k.toNat % 64)),
    scalarRow (.sariExt qp sd sa imm11 ext) qp sd 1 fun c => BitVec.ofInt 64 ((a c).toInt / 2 ^ (e.toNat % 64)),
    scalarRow (.muli qp sd sa imm11) qp sd 3 (fun c => BitVec.ofInt 64 ((a c).toInt * k.toInt)) fun c => big c k,
    scalarRow (.muliExt qp sd sa imm11 ext) qp sd 3 (fun c => BitVec.ofInt 64 ((a c).toInt * e.toInt)) fun c => big c e,
    scalarRow (.movi qp sd imm16) qp sd 1 fun _ => BitVec.ofNat 64 imm16,
    scalarRow (.moviExt qp sd imm16 ext) qp sd 1 fun _ => BitVec.ofNat 64 (imm16 + ext * 2 ^ 16),
    scalarRow (.movhi qp sd imm16) qp sd 1 fun c => BitVec.ofNat 64 ((c.rs sd).toNat % 2 ^ 48 + imm16 * 2 ^ 48) ]

/-- Selection, bit fields and address arithmetic (R199-R201). -/
def Sys2Proof.fieldRows (qp sd sa sb qs pos lenm1 shift : Nat) : List RegRow :=
  let a := fun c : Ctx => c.rs sa
  let n := lenm1 + 1
  [ scalarRow (.sel qp sd sa sb qs) qp sd 1 fun c => if c.rq qs then a c else c.rs sb,
    scalarRow (.bfx qp sd sa pos lenm1) qp sd 1 fun c => BitVec.ofNat 64 ((a c).toNat / 2 ^ pos % 2 ^ n),
    scalarRow (.bfxs qp sd sa pos lenm1) qp sd 1 fun c => BitVec.ofInt 64 (sext n ((a c).toNat / 2 ^ pos % 2 ^ n)),
    scalarRow (.bfi qp sd sa pos lenm1) qp sd 1 fun c =>
      BitVec.ofNat 64 ((c.rs sd).toNat % 2 ^ pos + (a c).toNat % 2 ^ n * 2 ^ pos + (c.rs sd).toNat / 2 ^ (pos + n) * 2 ^ (pos + n)),
    scalarRow (.lea qp sd sa sb shift) qp sd 1 fun c => a c + c.rs sb <<< shift ]

/-- The special registers of MOVS (R202): number and value. -/
def Sys2Proof.specials (t : State) : List (Nat × Nat) :=
  ((List.range 6).map fun k => (k, match t.cur.li[k]? with
    | some l => l.index
    | none => 0)) ++
  [ (8, t.cur.rot), (9, t.cur.flags.toNat), (10, t.curB), (11, t.curU), (12, t.chipId), (13, (t.unit t.curU).cycle),
    (14, t.cur.leaves.countP fun l => l.2.record.isSome), (15, t.cur.taskId) ]

/-- MOVS (R202): each special number that is not reserved. -/
def Sys2Proof.specialRows (qp sd : Nat) : List RegRow :=
  [0, 1, 2, 3, 4, 5, 8, 9, 10, 11, 12, 13, 14, 15].map fun k =>
    { i := .movs qp sd k, q := qp, writes := fun t =>
      [⟨t.cur.ds sd, 1, (((specials t).find? fun e => e.1 == k).map fun e => e.2 % 2 ^ 64).getD 0, 0⟩] }

/-- The functions of PLOG by number (R210). -/
def Sys2Proof.logicTable (a b : Bool) : List Bool := [a && b, a || b, a ^^ b, a && !b, a || !b, !a, true, false]

/-- Compares and predicate logic: two complementary predicates, or one (R198, R210). -/
def Sys2Proof.predicateRows (qp qt qf sa sb imm5 k ext qa qb : Nat) : List RegRow :=
  let pair := fun (i : Instr) (f : Ctx → Bool) =>
    ({ i := i, q := qp
       writes := fun t => [⟨t.cur.dq qt, 1, if f t.cur then 1 else 0, 0⟩, ⟨t.cur.dq qf, 1, if f t.cur then 0 else 1, 0⟩] } : RegRow)
  [ pair (.cmp qp qt qf sa sb k) fun c => Machine.cond k (c.rs sa) (c.rs sb),
    pair (.cmpi qp qt qf sa imm5 k) fun c => Machine.cond k (c.rs sa) (BitVec.ofInt 64 (sext 5 imm5)),
    pair (.cmpiExt qp qt qf sa imm5 k ext) fun c => Machine.cond k (c.rs sa) (BitVec.ofInt 64 (sext 37 (imm5 + ext * 2 ^ 5)))
  ] ++ (List.range 8).map fun fn =>
    { i := .plog qp qt qa qb fn, q := qp
      writes := fun t => [⟨t.cur.dq qt, 1, if (logicTable (t.cur.rq qa) (t.cur.rq qb)).getD fn false then 1 else 0, 0⟩] }

/-- The scalar operations on three registers, on an immediate, SEL, the bit-field operations, LEA and MOVS write their result and nothing
else. -/
def Obligations.ScalarResults : Prop :=
  (∀ qp sd sa sb, ∀ r ∈ scalarRows qp sd sa sb, r.Holds) ∧
  (∀ qp sd sa imm11 imm16 ext, ∀ r ∈ immediateRows qp sd sa imm11 imm16 ext, r.Holds) ∧
  (∀ qp sd sa sb qs pos lenm1 shift, ∀ r ∈ fieldRows qp sd sa sb qs pos lenm1 shift ++ specialRows qp sd, r.Holds)

/-- The compares and PLOG write their predicates and nothing else; what the eight conditions of CMP and CMPI are. -/
def Obligations.PredicateResults : Prop :=
  (∀ qp qt qf sa sb imm5 k ext qa qb, ∀ r ∈ predicateRows qp qt qf sa sb imm5 k ext qa qb, r.Holds) ∧
  (∀ a b : Word,
      (Machine.cond 0 a b = true ↔ a = b) ∧ (Machine.cond 1 a b = true ↔ a ≠ b) ∧ (Machine.cond 2 a b = true ↔ a.toInt < b.toInt) ∧
      (Machine.cond 3 a b = true ↔ a.toInt ≤ b.toInt) ∧ (Machine.cond 4 a b = true ↔ a.toNat < b.toNat) ∧ (Machine.cond 5 a b = true ↔ a.toNat ≤ b.toNat) ∧
      (Machine.cond 6 a b = true ↔ a &&& b ≠ 0) ∧ (Machine.cond 7 a b = true ↔ a &&& b = 0))

/-- A register reads its latest result once the bound has come: a result in flight that is the only one for its register has landed at the
first presentation of the bundle it is due in. That it reads as before until then, where R65 leaves a read inside the bound old or new, is
the model's schedule (log 26). -/
def Obligations.ResultsLandAtTheirBound : Prop :=
  ∀ (c : Ctx) (n v b l : Nat), c.pres = none → 1 ≤ n → c.shadow = [] → c.fly = [⟨b, b + l, .s n, v, 0⟩] →
    (b + l ≤ c.bundleNo → c.begin.ps n = BitVec.ofNat 64 v ∧ c.begin.fly = []) ∧
    (c.bundleNo < b + l → c.begin.ps n = c.ps n ∧ c.begin.fly = c.fly)

/-- s0, q0 and h0 read as 0, 1 and null in every state, whatever is written to them; a written register reads as written, and every other
register as before. The rotating registers: an encoded number below the rotating range names itself; in it, register base + (n - base
+ ROT) mod 8; two encoded numbers never name one register. -/
def Obligations.RegistersAndRotation : Prop :=
  (∀ c : Ctx, c.rs 0 = 0 ∧ c.rq 0 = true ∧ c.rh 0 = 0 ∧
      (∀ v, c.setReg (.s 0) v = c ∧ c.setReg (.q 0) v = c ∧ c.setReg (.h 0) v = c) ∧
      (∀ n v, 1 ≤ n → (c.setReg (.s n) v).ps n = BitVec.ofNat 64 v ∧
        ∀ m, m ≠ n → (c.setReg (.s n) v).ps m = c.ps m) ∧
      (∀ n v, 1 ≤ n → (c.setReg (.q n) v).pq n = (v % 2 == 1) ∧ ∀ m, m ≠ n → (c.setReg (.q n) v).pq m = c.pq m) ∧
      ∀ n v, 1 ≤ n → (c.setReg (.h n) v).ph n = BitVec.ofNat 32 v ∧ ∀ m, m ≠ n → (c.setReg (.h n) v).ph m = c.ph m) ∧
  (∀ rot n m : Nat,
      (n < 24 → physS rot n = n) ∧ (24 ≤ n → n < 32 → physS rot n = 24 + (n - 24 + rot) % 8) ∧
      (n < 8 → physQ rot n = n) ∧ (8 ≤ n → n < 16 → physQ rot n = 8 + (n - 8 + rot) % 8) ∧
      (n < 32 → m < 32 → physS rot n = physS rot m → n = m) ∧ (n < 16 → m < 16 → physQ rot n = physQ rot m → n = m))

/-- A slot whose predicate is 0 has no effect: the bundle is counted and the PC moves past it, and nothing else changes. (A stall swap that
has fallen due lands after it, R133.) -/
def Obligations.PredicatedOffHasNoEffect : Prop :=
  ∀ (s : State) (i : Instr) (o : SlotSem), semOf i = some o → (supervisorOp i = true → s.cur.level ≠ 0) → s.begin.cur.pres = none →
    s.begin.cur.after = .none → s.begin.cur.fencing = none →
    noStraddle s.begin.cur (1 + i.syl.bytes.length) = true → s.begin.cur.rq o.q = false →
    atLoopEnd (shown s i) (presOf s i) = false →
    ∃ c, exec i s = .next (s.begin.setCur c).stallLands ∧ CtxFrame s.begin.cur c ∧ c.fly = s.begin.cur.fly ∧
      c.shadow = s.begin.cur.shadow ∧ c.ticket = s.begin.cur.ticket ∧ c.tickets = s.begin.cur.tickets ∧
      c.bundleNo = s.begin.cur.bundleNo + 1 ∧ c.pc = afterBundle (shown s i) (presOf s i)

/-! ## Descriptor operations (11_descriptor_class.md) and the other operations that only write registers -/

/-- The operations of the D slot that write descriptors, each from what the D slot sees (R248, R249, R254-R256). -/
def Sys2Proof.descriptorRows (qp sh shs field dim mp half word rowsm1 colsm1 fd fs mode sa sb imm : Nat) : List RegRow :=
  let d := fun t : State => t.cur.dView
  [ { i := .shset qp sh field sa, q := qp, descs := fun t => [.shape sh field (t.cur.rs sa)] },
    { i := .shseti qp sh field imm, q := qp, descs := fun _ => [.shape sh field (BitVec.ofInt 64 (sext 32 imm))] },
    { i := .shcopy qp sh shs, q := qp, descs := fun t => (List.range 20).map fun f => .shape sh f ((d t).shf shs f) },
    { i := .shstep qp sh dim sa, q := qp
      descs := fun t => [.shape sh (12 + dim) ((d t).shf sh (12 + dim) + t.cur.rs sa), .shape sh 18 ((d t).shf sh 18 + 1)] },
    { i := .mpset qp mp half sa, q := qp
      descs := fun t => [.mp mp (mpPut ((d t).mp.look mp 0) (64 * half) 64 (t.cur.rs sa).toNat)] },
    { i := .mpseti qp mp word imm, q := qp, descs := fun t => [.mp mp (mpPut ((d t).mp.look mp 0) (32 * word) 32 imm)] },
    { i := .vshape qp rowsm1 colsm1, q := qp, descs := fun _ => [.vsh (BitVec.ofNat 32 (rowsm1 + colsm1 * 2 ^ 7))] },
    { i := .fpnarrow qp fd fs mode sa sb, q := qp
      descs := fun t =>
        let src := fpOf (d t).fp fs
        let off := (t.cur.rs sa).toNat
        let len := (t.cur.rs sb).toNat
        if fd = 0 then []
        else if src.len ≠ 0 ∧ len ≠ 0 ∧ off + len ≤ src.len ∧ (mode = src.mode ∨ (src.mode = 2 ∧ mode ≤ 1))
        then [.fp fd ⟨src.base + off, len, mode⟩] else [.fp fd {}] },
    { i := .fmtset qp sa, q := qp, pre := fun t => fmtOk ((t.cur.rs sa).toNat % 2 ^ 32)
      descs := fun t => [.fmt (BitVec.ofNat 32 ((t.cur.rs sa).toNat % 2 ^ 32))] },
    { i := .fmtseti qp imm, q := qp, pre := fun _ => fmtOk imm, descs := fun _ => [.fmt (BitVec.ofNat 32 imm)] } ]

/-- The operations that read the machine into a register and change nothing else: descriptors (R251), tile metadata (R270), landing
handles (R271), rings (R318), capabilities (R242), control and status registers but STATRD (R238). -/
def Sys2Proof.readRows (qp sd hd kind reg sl hs ring ch sa sb csr : Nat) : List RegRow :=
  [ { i := .shrd qp sd kind reg sl, q := qp, writes := fun t => [⟨t.cur.ds sd, 1, t.shrdVal kind reg sl, 0⟩] },
    { i := .tinfo qp sd hs sl, q := qp, pre := fun t => (t.handleTrap t.curU t.cur (t.cur.rh hs)).isNone
      writes := fun t => [⟨t.cur.ds sd, 4, t.tinfo (t.cur.rh hs) sl, 0⟩] },
    { i := .landh qp hd ch sa, q := qp, pre := fun t => (t.chanEnd? t.curU t.cur ch).isSome
      writes := fun t => ((t.chanEnd? t.curU t.cur ch).map fun e =>
        (⟨t.cur.dh hd, 2, e.landHandle ((t.cur.rs sa).toNat % 2 ^ 32), 0⟩ : RegWrite)).toList },
    { i := .ringinfo qp sd ring, q := qp, writes := fun t => [⟨t.cur.ds sd, 1, (t.cur.ring ring).info, 0⟩] },
    { i := .capopInfo qp sd sa sb, q := qp, sup := true, pre := fun t => decide ((t.cur.rs sa).toNat < 8192)
      writes := fun t => [⟨t.cur.ds sd, 1, ((t.die t.cur.die).cap (t.cur.rs sa).toNat).word, 0⟩] },
    { i := .csrr qp sd sa csr, q := qp, sup := true
      pre := fun t => csrIdxOk t.cur.die csr (t.cur.rs sa).toNat && !decide (csr ∈ [0x40, 0x50, 0x51])
      writes := fun t => [⟨t.cur.ds sd, 96, t.csr t.cur.die t.cur.level csr (t.cur.rs sa).toNat, 0⟩] } ]

/-- The D operations put their writes into their shadows and do nothing else. The reading operations write what they read and do nothing
else. -/
def Obligations.DescriptorsAndRegisterReads : Prop :=
  (∀ qp sh shs field dim mp half word rowsm1 colsm1 fd fs mode sa sb imm,
      ∀ r ∈ descriptorRows qp sh shs field dim mp half word rowsm1 colsm1 fd fs mode sa sb imm, r.Holds) ∧
  (∀ qp sd hd kind reg sl hs ring ch sa sb csr, ∀ r ∈ readRows qp sd hd kind reg sl hs ring ch sa sb csr, r.Holds)

/-! ## Every other operation issues with its own effect (R424) -/

/-- The operations of the control class. -/
def Sys2Proof.controlOperations (qp disp21 ext sa len cnt10 epi e n h g c sd scope f ov sd2 : Nat) : List Instr :=
  [ .br qp disp21, .brExt qp disp21 ext, .call qp disp21, .callExt qp disp21 ext, .brs qp sa, .calls qp sa, .loop qp sa len,
    .loopi qp cnt10 len, .loopiExt qp cnt10 len ext, .loopr qp sa epi len, .lbreak qp, .semwait qp e n, .semsig qp e n,
    .waitc qp h g sa, .ctrwait qp c sa, .tfence qp, .fence qp sd scope, .taskend qp, .spawn qp f sa e,
    .spawnOverlap qp f sa e ov, .yield qp, .statpop qp sd sd2 ]

/-- The operations of the control class: from every state in which its bundle passes the four examinations of R424, each
issues, with the effect of its own slot and then the sequencer's part. -/
def Obligations.ControlOperationsIssue : Prop :=
  ∀ qp disp21 ext sa len cnt10 epi e n h g c sd scope f ov sd2 : Nat,
    ∀ i ∈ controlOperations qp disp21 ext sa len cnt10 epi e n h g c sd scope f ov sd2, Issues false i

/-- The operations of the copy class that a task may issue. -/
def Sys2Proof.copyOperations (qp hd pool reads sa qs sh e last hs c sd sz sg imm9 sb f : Nat) : List Instr :=
  [ .alloc qp hd pool reads, .allocr qp hd pool sa, .alloct qp hd pool reads qs, .copyin qp hd sh e, .gpush qp hd sa last,
    .gather qp hd sh e, .tmove qp hd hs c e, .ldt qp sd hs sz sg imm9, .ldtr qp sd hs sz sg sb, .ldg qp sd f sa sz sg e,
    .tread qp sd hs c sb, .trel qp hs ]

/-- The copy-outs, stores and atomics of the store class. -/
def Sys2Proof.storeOperations (qp hs sh c red e acc sa sz imm9 sb f sd aop scope order size hi ci : Nat) : List Instr :=
  [ .copyout qp hs sh c red e, .copyacc qp acc sh e, .stt qp sa hs sz imm9, .sttr qp sa hs sz sb, .stg qp sb f sa sz e,
    .atom qp sd f sa sb aop scope order size e, .cas qp sd f sa sb scope order size e, .scatter qp hs hi sh c ci red e ]

/-- The operations of the channel class. -/
def Sys2Proof.channelOperations (qp ch hs c e thr ctr sa reads : Nat) : List Instr :=
  [ .send qp ch hs c e, .sendt qp ch hs c e thr ctr, .putr qp ch hs c sa, .ctraddRemote qp ch sa, .ctraddLocal qp c sa,
    .mbox qp hs c sa e, .prime qp ch hs c reads ]

/-- The operations of the copy, store and channel classes that a task may issue: from every state in which its bundle passes the four
examinations of R424, each issues, with the effect of its own slot and then the sequencer's part. -/
def Obligations.TileOperationsIssue : Prop :=
  (∀ qp hd pool reads sa qs sh e last hs c sd sz sg imm9 sb f : Nat,
      ∀ i ∈ copyOperations qp hd pool reads sa qs sh e last hs c sd sz sg imm9 sb f, Issues false i) ∧
  (∀ qp hs sh c red e acc sa sz imm9 sb f sd aop scope order size hi ci : Nat,
      ∀ i ∈ storeOperations qp hs sh c red e acc sa sz imm9 sb f sd aop scope order size hi ci, Issues false i) ∧
  (∀ qp ch hs c e thr ctr sa reads : Nat,
      ∀ i ∈ channelOperations qp ch hs c e thr ctr sa reads, Issues false i)

/-- The operations of the vector class. -/
def Sys2Proof.vectorOperations (qp hd ha hb ty ca cb fn ext func src dst sat inter axis side cal sd sdhi : Nat) : List Instr :=
  [ .vadd qp hd ha hb ty ca cb fn, .vsub qp hd ha hb ty ca cb fn, .vmul qp hd ha hb ty ca cb fn, .vfma qp hd ha hb ty ca cb fn,
    .vmin qp hd ha hb ty ca cb, .vmax qp hd ha hb ty ca cb, .vand qp hd ha hb ty ca cb, .vor qp hd ha hb ty ca cb,
    .vxor qp hd ha hb ty ca cb, .vshl qp hd ha hb ty ca cb, .vshr qp hd ha hb ty ca cb, .vcmp qp hd ha hb ty ca cb fn,
    .vsel qp hd ha hb ty ca cb, .vabs qp hd ha ty ca, .vneg qp hd ha ty ca, .vmov qp hd ha ty ca, .vfill qp hd ty,
    .vfillExt qp hd ty ext, .vbrow qp hd ha ty ca, .vbcol qp hd ha ty ca, .vtrans qp hd ha ty ca, .vsfu qp hd ha ty ca fn func,
    .vrsum qp hd ha ty ca fn, .vrmax qp hd ha ty ca, .vcsum qp hd ha ty ca fn, .vcmax qp hd ha ty ca,
    .vdot qp hd ha hb ty ca cb fn, .vmacc qp hd ha hb ty ca cb fn, .vcvt qp hd ha ca fn src dst sat inter,
    .vqnt qp hd ha hb ty ca cb fn dst axis side cal, .vdqnt qp hd ha hb ty ca cb fn src axis side sat,
    .vscale qp hd ha hb ty ca cb fn, .viota qp hd ty fn, .vsums qp sd ha sdhi ty ca ]

/-- The operations of the matrix class that a task may issue. -/
def Sys2Proof.matrixOperations (qp routine acc z e ty hd ht fo rm sat ct hs c accd accs ring n : Nat) : List Instr :=
  [ .mcall qp routine acc z e, .acczero qp acc ty, .accrd qp hd acc ht fo rm sat ct, .accwr qp acc hs c ty, .accmov qp accd accs,
    .ringpush qp ring hs, .ringdrop qp ring n ]

/-- AUDMARK, AUDROOT and TRAP. -/
def Sys2Proof.taskLevelOperations (qp imm16 sa sb hd sl : Nat) : List Instr :=
  [ .trap qp imm16, .audmark qp sa sb, .audroot qp hd sl ]

/-- The operations of the vector and matrix classes that a task may issue, AUDMARK, AUDROOT and TRAP: from every state in which its bundle
passes the four examinations of R424, each issues, with the effect of its own slot and then the sequencer's part. -/
def Obligations.ArithmeticOperationsIssue : Prop :=
  (∀ qp hd ha hb ty ca cb fn ext func src dst sat inter axis side cal sd sdhi : Nat,
      ∀ i ∈ vectorOperations qp hd ha hb ty ca cb fn ext func src dst sat inter axis side cal sd sdhi, Issues false i) ∧
  (∀ qp routine acc z e ty hd ht fo rm sat ct hs c accd accs ring n : Nat,
      ∀ i ∈ matrixOperations qp routine acc z e ty hd ht fo rm sat ct hs c accd accs ring n, Issues false i) ∧
  (∀ qp imm16 sa sb hd sl : Nat,
      ∀ i ∈ taskLevelOperations qp imm16 sa sb hd sl, Issues false i)

/-- The operations that need level 1 or above. -/
def Sys2Proof.supervisorOperations (qp sd sa csr sb rights off n f e index : Nat) : List Instr :=
  [ .eret qp, .csrr qp sd sa csr, .csrw qp sa sb csr, .jobres qp sa, .iflush qp, .capopDerive qp sd sa sb rights,
    .capopRevoke qp sd sa sb, .capopFree qp sd sa sb, .ctxctlGo qp sd sa sb, .ctxctlKill qp sd sa sb,
    .ctxctlRead qp sd sa sb off, .ctxctlWrite qp sd sa sb off, .ctxctlBrkSet qp sd sa sb n, .ctxctlBrkClr qp sd sa sb n,
    .ctxctlTestMode qp sd sa sb, .audsealConfig qp sd f sa, .audbisect qp sd f sa e, .audref qp sd f sa e,
    .audreplay qp sd f sa e, .ovl qp f sa sb e, .mprogExt qp index f sa e, .audsealSeal qp sd f sa, .mprog qp index f sa,
    .ctxctlStop qp sd sa sb ]

/-- The operations that need level 1 or above: from every state in which its bundle passes the four examinations of R424, each
issues, with the effect of its own slot and then the sequencer's part. AUDSEAL SEAL and MPROG hold once they have started: where they issue
is StartedOperationsIssue. -/
def Obligations.SupervisorOperationsIssue : Prop :=
  ∀ qp sd sa csr sb rights off n f e index : Nat,
    ∀ i ∈ supervisorOperations qp sd sa csr sb rights off n f e index, Issues true i

/-! ## What the arithmetic gives (02_numbers.md R31-R51; 14_vector_class.md) -/

/-- The integer element types of V operations: type field, width, signed (R33, R74). -/
def Sys2Proof.intTypes : List (Nat × Nat × Bool) := [(3, 32, true), (4, 16, true), (5, 8, true), (6, 8, false), (7, 16, false)]

/-- The value of an element's bits (R33). -/
def Sys2Proof.intOf (w : Nat) (sg : Bool) (x : Nat) : Int := if sg then (BitVec.ofNat w x).toInt else (BitVec.ofNat w x).toNat

/-- Whether an integer lies in the range of a width. -/
def Sys2Proof.inRange (w : Nat) (sg : Bool) (v : Int) : Bool :=
  if sg then decide (-(2 ^ (w - 1)) ≤ v) && decide (v < 2 ^ (w - 1)) else decide (0 ≤ v) && decide (v < 2 ^ w)

/-- The exact integer `v` wrapped to the width, with IOV when it lies outside the range (R291). -/
def Sys2Proof.wrapped (w : Nat) (sg : Bool) (v : Int) : Nat × Nat := ((BitVec.ofInt w v).toNat, if inRange w sg v then 0 else fIOV)

/-- Integer elements, in words of the spec: VADD, VSUB, VMUL, VFMA, VABS, VNEG and VIOTA wrap the exact integer and set IOV when it is out of
range; VMIN and VMAX copy the lesser and the greater; VCMP gives all ones or all zeros; shifts take their count modulo the width and VSHR
follows the signedness; a reduction adds blocks of 32 in order, each exactly, and wraps the accumulator to 32 bits with IOV, and so does a
block of an integer routine; a quantised value is clamped, or escapes to the side list (R41, R291-R296, R300, R304). -/
def Obligations.IntegerArithmetic : Prop :=
  (∀ ty w sg, (ty, w, sg) ∈ intTypes → ∀ fn a b d : Nat, a < 2 ^ w → b < 2 ^ w → d < 2 ^ w →
    let c := tyCode ty
    let x := intOf w sg a
    let y := intOf w sg b
    vAdd c fn a b = wrapped w sg (x + y) ∧ vSub c fn a b = wrapped w sg (x - y) ∧ vMul c fn a b = wrapped w sg (x * y) ∧
    vFma c fn a b d = wrapped w sg (x * y + intOf w sg d) ∧ vAbs c a = wrapped w sg x.natAbs ∧ vNeg c a = wrapped w sg (-x) ∧
    (∀ k, vIota c fn k = wrapped w sg k) ∧
    vPick c false a b = (if y < x then b else a) ∧ vPick c true a b = (if x < y then b else a) ∧
    (∀ k p, (k, p) ∈ [(0, decide (x = y)), (1, decide (x ≠ y)), (2, decide (x < y)), (3, decide (x ≤ y)), (4, decide (y < x)),
      (5, decide (y ≤ x))] → vCmp c k a b = if p then 2 ^ w - 1 else 0) ∧
    vShl c a b = (BitVec.ofNat w a <<< (b % w)).toNat ∧
    vShr c a b = (if sg then (BitVec.ofNat w a).sshiftRight (b % w) else BitVec.ofNat w a >>> (b % w)).toNat ∧
    (∀ xs : List Nat, (∀ z ∈ xs, z < 2 ^ w) → vSum c xs = sumInt 0 (xs.map (intOf w sg))) ∧
    ∀ xs : List (Nat × Nat), (∀ z ∈ xs, z.1 < 2 ^ w ∧ z.2 < 2 ^ w) →
      vDotSum c xs = sumInt 0 (xs.map fun z => intOf w sg z.1 * intOf w sg z.2)) ∧
  (∀ (acc m : Nat) (p blk : List Int), acc < 2 ^ 32 → p.length = 32 * m → 0 < blk.length → blk.length ≤ 32 →
    let r := sumInt acc p
    let n := wrapped 32 true (intOf 32 true r.1 + blk.sum)
    sumInt acc [] = (acc, 0) ∧ sumInt acc (p ++ blk) = (n.1, r.2 ||| n.2)) ∧
  (∀ (ri fa fb ea eb acc : Nat) (xs ys : List Int), ri = 2 ∨ ri = 3 → acc < 2 ^ 32 →
    blockElem ri fa fb ea eb xs ys acc = wrapped 32 true (intOf 32 true acc + ((xs.zip ys).map fun p => p.1 * p.2).sum)) ∧
  (∀ (dst rm i xb f : Nat) (cal : Bool) (q : Quant) (sb : Nat × Nat) (x : XR) (lo hi v : Int), intRange dst = some (lo, hi) →
    quantInt dst rm lo hi sb xb x = (v, f) →
    let w := widthOf dst
    let r := q.add dst rm cal i sb xb x
    (lo ≤ v → v ≤ hi → r = { q with codes := q.codes ++ [(BitVec.ofInt w v).toNat], flags := q.flags ||| f }) ∧
    (¬(lo ≤ v ∧ v ≤ hi) → (dst = 0x16 ∨ dst = 0x17) → cal = true → v.natAbs ≤ 2 ^ 23 - 1 → q.side.length < 256 →
      r = { codes := q.codes ++ [2 ^ (w - 1)], side := q.side ++ [(i, v)], flags := q.flags ||| f }) ∧
    (¬(lo ≤ v ∧ v ≤ hi) → ¬((dst = 0x16 ∨ dst = 0x17) ∧ cal = true ∧ v.natAbs ≤ 2 ^ 23 - 1 ∧ q.side.length < 256) →
      r = { q with codes := q.codes ++ [(BitVec.ofInt w (if v < lo then lo else hi)).toNat]
                   flags := q.flags ||| f ||| fSAT ||| if (dst = 0x16 ∨ dst = 0x17) ∧ cal = true then fESCOVF else 0 }))

/-- The float formats: code, exponent and fraction bits, bias, infinities, NaN code, greatest finite code (R31, R32). -/
def Sys2Proof.floatFormats : List (Nat × Flt) :=
  [ (0x00, { eb := 8, fb := 23, bias := 127, hasInf := true, nan := some 0x7FC00000, maxCode := 0x7F7FFFFF }),
    (0x01, { eb := 8, fb := 7, bias := 127, hasInf := true, nan := some 0x7FC0, maxCode := 0x7F7F }),
    (0x02, { eb := 5, fb := 10, bias := 15, hasInf := true, nan := some 0x7E00, maxCode := 0x7BFF }),
    (0x03, { eb := 4, fb := 3, bias := 7, hasInf := false, nan := some 0x7F, maxCode := 0x7E }),
    (0x04, { eb := 5, fb := 2, bias := 15, hasInf := true, nan := some 0x7E, maxCode := 0x7B }),
    (0x05, { eb := 3, fb := 2, bias := 3, hasInf := false, nan := none, maxCode := 0x1F }),
    (0x06, { eb := 2, fb := 3, bias := 1, hasInf := false, nan := none, maxCode := 0x1F }),
    (0x07, { eb := 2, fb := 1, bias := 1, hasInf := false, nan := none, maxCode := 0x7 }) ]

/-- The sign of a float code. -/
def Sys2Proof.signOf (f : Flt) (x : Nat) : Bool := x / 2 ^ (f.eb + f.fb) % 2 == 1

/-- The bits of a float code without its sign. -/
def Sys2Proof.magOf (f : Flt) (x : Nat) : Nat := x % 2 ^ (f.eb + f.fb)

/-- A code of the format's width that stands for a finite value: its magnitude is at most the greatest finite code (R31). -/
def Sys2Proof.Finite (f : Flt) (x : Nat) : Prop := x < 2 ^ (f.eb + f.fb + 1) ∧ magOf f x ≤ f.maxCode

/-- The value of a finite float code (R31). -/
def Sys2Proof.realOf (f : Flt) (x : Nat) : Rat :=
  let e := x / 2 ^ f.fb % 2 ^ f.eb
  let m : Rat := (x % 2 ^ f.fb : Nat)
  let v : Rat := if e = 0 then m * 2 ^ (1 - (f.bias : Int) - f.fb) else (2 ^ f.fb + m) * 2 ^ ((e : Int) - f.bias - f.fb)
  if signOf f x then -v else v

/-- The integer `m` that a magnitude `y` rounds to in a mode, for a negative value or not (R43). -/
def Sys2Proof.Rounded (rm : Nat) (neg : Bool) (y : Rat) (m : Nat) : Prop :=
  match rm with
  | 0 => |y - m| ≤ 1 / 2 ∧ (|y - m| = 1 / 2 → m % 2 = 0)
  | 1 => (m : Rat) ≤ y ∧ y < m + 1
  | 2 => if neg then (m : Rat) ≤ y ∧ y < m + 1 else (m : Rat) - 1 < y ∧ y ≤ m
  | 3 => if neg then (m : Rat) - 1 < y ∧ y ≤ m else (m : Rat) ≤ y ∧ y < m + 1
  | _ => y = m ∨ (m % 2 = 1 ∧ |y - m| < 1)

/-- What a finite value that overflows becomes, and its flags (R45). -/
def Sys2Proof.overflowed (f : Flt) (rm : Nat) (sat neg : Bool) : Nat × Nat :=
  let s := if neg then 2 ^ (f.eb + f.fb) else 0
  if rm = 1 ∨ rm = 4 ∨ (rm = 2 ∧ neg = true) ∨ (rm = 3 ∧ neg = false) then (s + f.maxCode, fOF)
  else if sat then (s + f.maxCode, fOF + fSAT)
  else if f.hasInf then (s + (2 ^ f.eb - 1) * 2 ^ f.fb, fOF)
  else (f.nan.getD (s + f.maxCode), fOF)

/-- `r` is the value `x` other than 0 rounded once into a format: with `q` the spacing of the format's values in the binade of `x`, or in the
subnormal range, a whole number of `q` that the mode chooses; UF when `x` is below the least normal value and rounding changes it; beyond the
greatest finite value what R45 says (R43-R46). -/
def Sys2Proof.RoundsTo (f : Flt) (rm : Nat) (sat : Bool) (x : Rat) (r : Nat × Nat) : Prop :=
  ∀ e : Int, (2 : Rat) ^ e ≤ |x| → |x| < 2 ^ (e + 1) →
    let q : Rat := 2 ^ (max e (1 - (f.bias : Int)) - f.fb)
    let neg := decide (x < 0)
    ∃ m : Nat, Rounded rm neg (|x| / q) m ∧
      (m * q ≤ realOf f f.maxCode → Finite f r.1 ∧ signOf f r.1 = neg ∧ |realOf f r.1| = m * q ∧
        r.2 = if |x| < 2 ^ (1 - (f.bias : Int)) ∧ m * q ≠ |x| then fUF else 0) ∧
      (realOf f f.maxCode < m * q → r = overflowed f rm sat neg)

/-- A result whose exact value is `x`: rounded once when `x` is not 0, else the zero of the sign given, without flags. -/
def Sys2Proof.Gives (f : Flt) (rm : Nat) (sat : Bool) (x : Rat) (zeroSign : Bool) (r : Nat × Nat) : Prop :=
  (x ≠ 0 → RoundsTo f rm sat x r) ∧ (x = 0 → r = (if zeroSign then 2 ^ (f.eb + f.fb) else 0, 0))

/-- A value rounded once into an integer format: the integer the mode chooses, or beyond the range what R45 says. -/
def Sys2Proof.RoundsToInt (w : Nat) (lo hi : Int) (esc : Bool) (rm : Nat) (sat : Bool) (x : Rat) (r : Nat × Nat) : Prop :=
  let neg := decide (x < 0)
  ∃ m : Nat, Rounded rm neg |x| m ∧
    let v : Int := if neg then -(m : Int) else m
    let lim := (BitVec.ofInt w (if neg then lo else hi)).toNat
    r = if lo ≤ v ∧ v ≤ hi then ((BitVec.ofInt w v).toNat, 0)
      else if rm = 1 ∨ rm = 4 ∨ (rm = 2 ∧ neg = true) ∨ (rm = 3 ∧ neg = false) then (lim, fIOV)
      else if esc ∨ sat then (lim, fIOV + fSAT) else ((BitVec.ofInt w v).toNat, fIOV)

/-- The integer destinations: code, width, least and greatest value, whether its lowest pattern escapes (R33, R34, R303). -/
def Sys2Proof.intFormats : List (Nat × Nat × Int × Int × Bool) :=
  [ (0x20, 32, -2 ^ 31, 2 ^ 31 - 1, false), (0x21, 16, 0, 65535, false), (0x08, 16, -32768, 32767, false), (0x09, 8, -128, 127, false),
    (0x0A, 8, 0, 255, false), (0x0B, 4, -8, 7, false), (0x0C, 4, 0, 15, false), (0x16, 8, -127, 127, true), (0x17, 4, -7, 7, true) ]

/-- Conversions round once: an exact value into each float and each integer format, and a float element into each of them; a logarithm is
rounded to the nearest step, and out of range gives zero with UF, or NaR or the greatest magnitude with OF (R43-R47, R303). -/
def Obligations.ConversionsRoundOnce : Prop :=
  (∀ c f, (c, f) ∈ floatFormats → fltOf c = some f ∧ ∀ (rm n d : Nat) (neg sat z : Bool), rm < 5 → 0 < n → 0 < d →
    let x : Rat := if neg then -((n : Rat) / d) else n / d
    RoundsTo f rm sat x (convert c rm sat (.fin (if neg then -(n : Int) else n) d z)) ∧
    convert c rm sat (.fin 0 d neg) = (if neg then 2 ^ (f.eb + f.fb) else 0, 0)) ∧
  (∀ c w lo hi esc, (c, w, lo, hi, esc) ∈ intFormats → ∀ (rm d : Nat) (n : Int) (sat z : Bool), rm < 5 → 0 < d →
    RoundsToInt w lo hi esc rm sat ((n : Rat) / d) (convert c rm sat (.fin n d z))) ∧
  (∀ c f, (c, f) ∈ floatFormats → ∀ x, Finite f x → ∀ (rm : Nat) (sat : Bool), rm < 5 →
    (∀ c' g, (c', g) ∈ floatFormats → Gives g rm sat (realOf f x) (signOf f x) (convertElem c c' rm sat x)) ∧
    (∀ c' w lo hi esc, (c', w, lo, hi, esc) ∈ intFormats → RoundsToInt w lo hi esc rm sat (realOf f x) (convertElem c c' rm sat x))) ∧
  (∀ c w q top : Nat, (c, w, q, top) ∈ [(0x0D, 4, 2, 3), (0x0E, 6, 4, 15), (0x0F, 8, 8, 63)] →
    ∀ (rm n d : Nat) (neg sat z : Bool), 0 < n → 0 < d → ∀ l : Int,
    (2 : Rat) ^ (2 * l - 1) ≤ ((n : Rat) / d) ^ (2 * q) → ((n : Rat) / d) ^ (2 * q) ≤ 2 ^ (2 * l + 1) →
    let s := if neg then 2 ^ (w - 1) else 0
    convert c rm sat (.fin (if neg then -(n : Int) else n) d z) =
      if (top : Int) < l then (if sat then (s + top, fOF + fSAT) else (2 ^ (w - 1) + 2 ^ (w - 2), fOF))
      else if l < -(top : Int) then (2 ^ (w - 2), fUF) else (s + (BitVec.ofInt (w - 1) l).toNat, 0))

/-- The float formats of V operations. -/
def Sys2Proof.vectorFloats : List (Nat × Flt) := floatFormats.take 3

/-- Float elements, in words of the spec: VADD, VSUB, VMUL, VFMA, VMACC and VSCALE give the exact real rounded once, a zero its IEEE sign, a
NaN operand the canonical NaN; VMIN, VMAX, VCMP, VABS and VNEG as R292, R294 and R295 say; RCP is 1/x rounded once; a reduction and a block
of a routine round the block's exact sum to FP32, then its sum with the accumulator; a rescaled value is s·x + b rounded once, and a
quantised one (x - b)/s (R36, R41, R42, R49-R51, R291-R295, R299, R300, R304, R305, R332). -/
def Obligations.FloatArithmetic : Prop :=
  (∀ ty f, (ty, f) ∈ vectorFloats → ∀ fn a b d : Nat, fn < 5 → Finite f a → Finite f b → Finite f d →
    let x := realOf f a
    let y := realOf f b
    let z := realOf f d
    let sa := signOf f a
    let sb := signOf f b
    let sp := sa != sb
    let rd := fn == 3
    Gives f fn false (x + y) (if sa = sb then sa else rd) (vAdd ty fn a b) ∧
    Gives f fn false (x - y) (if sa = sb then rd else sa) (vSub ty fn a b) ∧
    Gives f fn false (x * y) sp (vMul ty fn a b) ∧
    Gives f fn false (x * y + z) (if sp = signOf f d then sp else rd) (vFma ty fn a b d) ∧
    (∀ e v : Nat, 0 < e → 0 < v → Gives f fn false (z + x * e / v) (if sa = signOf f d then sa else rd) (vMacc ty fn e v a d)) ∧
    (∀ e : Nat, vMacc ty fn e 0 a d = (d, fBLOT)) ∧
    (x ≠ 0 → Gives f fn false (1 / x) sa (finish ty fn false (sfu 2 (elemVal ty a)))) ∧
    vPick ty false a b = (if x < y ∨ (x = y ∧ (sa = true ∨ sb = false)) then a else b) ∧
    vPick ty true a b = (if y < x ∨ (x = y ∧ (sa = false ∨ sb = true)) then a else b) ∧
    (∀ k p, (k, p) ∈ [(0, decide (x = y)), (1, decide (x ≠ y)), (2, decide (x < y)), (3, decide (x ≤ y)), (4, decide (y < x)),
      (5, decide (y ≤ x))] → vCmp ty k a b = if p then 2 ^ (f.eb + f.fb + 1) - 1 else 0) ∧
    vAbs ty a = (magOf f a, 0) ∧ vNeg ty a = (magOf f a + (if sa then 0 else 2 ^ (f.eb + f.fb)), 0)) ∧
  (∀ ty f c, (ty, f) ∈ vectorFloats → f.nan = some c → ∀ fn a b : Nat, a < 2 ^ (f.eb + f.fb + 1) → b < 2 ^ (f.eb + f.fb + 1) →
    (2 ^ f.eb - 1) * 2 ^ f.fb < magOf f a →
    vAdd ty fn a b = (c, 0) ∧ vAdd ty fn b a = (c, 0) ∧ vSub ty fn a b = (c, 0) ∧ vMul ty fn a b = (c, 0) ∧ vMul ty fn b a = (c, 0) ∧
    vPick ty true a b = c ∧ vPick ty false b a = c ∧ vAbs ty a = (c, 0) ∧ vNeg ty a = (c, 0) ∧
    vCmp ty 1 a b = 2 ^ (f.eb + f.fb + 1) - 1 ∧ ∀ k, k < 6 → k ≠ 1 → vCmp ty k a b = 0) ∧
  (∀ (acc m : Nat) (p blk : List (Flagged XR)), p.length = 32 * m → 0 < blk.length → blk.length ≤ 32 →
    let r := sumFloat acc p
    let n := accAdd r.1 (blockSum blk)
    sumFloat acc [] = (acc, 0) ∧ sumFloat acc (p ++ blk) = (n.1, r.2 ||| n.2)) ∧
  (∀ ps : List (Flagged XR), (∀ p ∈ ps, p.1 = .nan ∨ p.2 = 0) →
    let has := fun x => x ∈ ps.map (·.1)
    let iv := if ∃ p ∈ ps, p.2 = fIV then fIV else 0
    (∀ p ∈ ps, p.2 = 0 ∨ p.2 = fIV) →
    (has (.inf false) → has (.inf true) → blockSum ps = (.nan, fIV)) ∧
    (¬(has (.inf false) ∧ has (.inf true)) → has .nan → blockSum ps = (.nan, iv)) ∧
    ∀ s, has (.inf s) → ¬has (.inf !s) → ¬has .nan → blockSum ps = (.inf s, 0)) ∧
  (∀ f, (0, f) ∈ vectorFloats → ∀ acc fa fb ga gb, Finite f acc → (fa, ga) ∈ floatFormats → (fb, gb) ∈ floatFormats →
    ∀ xs ys : List Nat, (∀ x ∈ xs, Finite ga x) → (∀ y ∈ ys, Finite gb y) → xs.length = ys.length → 0 < xs.length →
    ∀ ri ca cb ea eb : Nat, (ri = 0 ∧ ca = fa ∧ cb = fb ∧ ea = 127 ∧ eb = 127 ∨
        ri = 1 ∧ 3 ≤ fa ∧ 3 ≤ fb ∧ ca = fa + 0xD ∧ cb = fb + 0xD ∧ ea < 255 ∧ eb < 255) →
    let x := ((xs.zip ys).map fun p => realOf ga p.1 * realOf gb p.2).sum * 2 ^ ((ea : Int) - 127) * 2 ^ ((eb : Int) - 127)
    ∃ blk r : Nat × Nat, Gives f 0 false x ((xs.zip ys).all fun p => signOf ga p.1 != signOf gb p.2) blk ∧
      (Finite f blk.1 → Gives f 0 false (realOf f acc + realOf f blk.1) (signOf f acc && signOf f blk.1) r ∧
        blockElem ri ca cb ea eb (xs.map Int.ofNat) (ys.map Int.ofNat) acc = (r.1, blk.2 ||| r.2))) ∧
  (∀ f g c, (0, f) ∈ vectorFloats → (c, g) ∈ floatFormats → ∀ s b rm, Finite f s → Finite f b → rm < 5 → ∀ (n : Int) (sat : Bool),
    Gives g rm sat (n * realOf f s + realOf f b) (if (decide (n < 0) != signOf f s) = signOf f b then signOf f b else rm == 3)
      (rescale c rm sat (.ofInt n) (s, b)) ∧
    ∀ ty h, (ty, h) ∈ vectorFloats → ∀ x, Finite h x → ∀ dst w lo hi esc, (dst, w, lo, hi, esc) ∈ intFormats →
      (realOf f s = 0 → quantInt dst rm lo hi (s, b) x (elemVal ty x) = (0, 0)) ∧
      (realOf f s ≠ 0 →
        let y := (realOf h x - realOf f b) / realOf f s
        ∃ m : Nat, Rounded rm (decide (y < 0)) |y| m ∧
          quantInt dst rm lo hi (s, b) x (elemVal ty x) = (if y < 0 then -(m : Int) else m, 0))) ∧
  (∀ f ty h, (0, f) ∈ vectorFloats → (ty, h) ∈ vectorFloats → ∀ xs : List Nat, xs ≠ [] → (∀ x ∈ xs, Finite h x) →
    let vs := xs.map (elemVal ty)
    (∀ dst qmax : Nat, (dst, qmax) ∈ [(0x08, 32767), (0x09, 127), (0x16, 127), (0x0B, 7), (0x17, 7)] →
      ∃ m ∈ xs, ∃ s : Nat × Nat, (∀ x ∈ xs, |realOf h x| ≤ |realOf h m|) ∧ Gives f 0 false (|realOf h m| / qmax) false s ∧
        calibrate dst vs = ((s.1, 0), s.2)) ∧
    ∀ dst w : Nat, (dst, w) ∈ [(0x0A, 8), (0x0C, 4)] →
      ∃ lo ∈ xs, ∃ hi ∈ xs, ∃ b, ∃ s : Nat × Nat, (∀ x ∈ xs, realOf h lo ≤ realOf h x ∧ realOf h x ≤ realOf h hi) ∧ Finite f b ∧
        realOf f b = realOf h lo ∧ Gives f 0 false ((realOf h hi - realOf h lo) / (2 ^ w - 1)) false s ∧
        calibrate dst vs = ((s.1, b), if realOf h lo = realOf h hi then fCONST else s.2))

/-- An operation of the vector unit that writes a tile: its destination, what it reads of which tiles (handle register, element width, number of
elements), and what elements with which flags it makes of them, from the state it finds; for a produced tile its rows, columns and FMT. -/
structure Sys2Proof.VecRow where
  i : Instr
  hd : Nat
  wd : Nat
  srcs : List (Nat × Nat × Nat)
  out : State → List (List Nat) → List (Nat × Nat)
  made : Option (Nat × Nat × Nat)

/-- The element-wise operations and the reductions over a shape of `r` rows and `c` columns (R285-R305). -/
def Sys2Proof.vecRows (qp hd ha hb ty ca cb fn ext func src dst axis side sat inter r c : Nat) : List VecRow :=
  let k := tyCode ty
  let w := widthOf k
  let n := r * c
  let fl := isFlt k
  let a := (ha, w, n)
  let b := (hb, w, n)
  let d := (hd, w, n)
  let flat := some (r, c, metaFmt k)
  let plain := fun (xs : List Nat) => xs.map fun x => (x, 0)
  let two := fun (i : Instr) (f : Nat → Nat → Nat × Nat) =>
    ({ i := i, hd := hd, wd := w, srcs := [a, b], made := flat, out := fun _ l => List.zipWith f (l.getD 0 []) (l.getD 1 []) } : VecRow)
  let one := fun (i : Instr) (f : List Nat → List (Nat × Nat)) =>
    ({ i := i, hd := hd, wd := w, srcs := [a], made := flat, out := fun _ l => f (l.getD 0 []) } : VecRow)
  let inPlace := fun (i : Instr) (f : Nat → Nat → Nat → Nat × Nat) =>
    ({ i := i, hd := hd, wd := w, srcs := [a, b, d], made := none
       out := fun _ l => List.zipWith (fun p z => f p.1 p.2 z) (List.zip (l.getD 0 []) (l.getD 1 [])) (l.getD 2 []) } : VecRow)
  let none' := fun (i : Instr) (f : Nat → Nat × Nat) =>
    ({ i := i, hd := hd, wd := w, srcs := [], made := flat, out := fun _ _ => (List.range n).map f } : VecRow)
  let sums := fun (i : Instr) (rows : Bool) (srcs : List (Nat × Nat × Nat)) (f : List (List Nat) → List (Nat × Nat)) =>
    ({ i := i, hd := hd, wd := if fl then w else 32, srcs := srcs, out := fun _ => f
       made := some (if rows then r else 1, if rows then 1 else c, if fl then metaFmt k else 0x18) } : VecRow)
  let row := fun (l : List Nat) (y : Nat) => (l.drop (y * c)).take c
  let col := fun (l : List Nat) (x : Nat) => (List.range r).map fun y => l.getD (y * c + x) 0
  let top := fun (l : List Nat) => l.foldl (vPick k true) (vPick k true (l.headD 0) (l.headD 0))
  [ two (.vadd qp hd ha hb ty ca cb fn) (vAdd k fn), two (.vsub qp hd ha hb ty ca cb fn) (vSub k fn),
    two (.vmul qp hd ha hb ty ca cb fn) (vMul k fn), inPlace (.vfma qp hd ha hb ty ca cb fn) (vFma k fn),
    two (.vmin qp hd ha hb ty ca cb) (fun x y => (vPick k false x y, 0)), two (.vmax qp hd ha hb ty ca cb) (fun x y => (vPick k true x y, 0)),
    two (.vand qp hd ha hb ty ca cb) (fun x y => (x &&& y, 0)), two (.vor qp hd ha hb ty ca cb) (fun x y => (x ||| y, 0)),
    two (.vxor qp hd ha hb ty ca cb) (fun x y => (x ^^^ y, 0)), two (.vshl qp hd ha hb ty ca cb) (fun x y => (vShl k x y, 0)),
    two (.vshr qp hd ha hb ty ca cb) (fun x y => (vShr k x y, 0)), two (.vcmp qp hd ha hb ty ca cb fn) (fun x y => (vCmp k fn x y, 0)),
    inPlace (.vsel qp hd ha hb ty ca cb) (fun x y z => (if z = 0 then y else x, 0)),
    one (.vabs qp hd ha ty ca) (List.map (vAbs k)), one (.vneg qp hd ha ty ca) (List.map (vNeg k)), one (.vmov qp hd ha ty ca) plain,
    none' (.vfill qp hd ty) (fun _ => (0, 0)), none' (.vfillExt qp hd ty ext) (fun _ => (ext % 2 ^ w, 0)),
    none' (.viota qp hd ty fn) (vIota k fn),
    { one (.vbrow qp hd ha ty ca) plain with srcs := [(ha, w, c)], out := fun _ l => (List.range n).map fun i => ((l.getD 0 []).getD (i % c) 0, 0) },
    { one (.vbcol qp hd ha ty ca) plain with srcs := [(ha, w, r)], out := fun _ l => (List.range n).map fun i => ((l.getD 0 []).getD (i / c) 0, 0) },
    one (.vtrans qp hd ha ty ca) (fun l => (List.range n).map fun i => (l.getD (i % c * r + i / c) 0, 0)),
    { two (.vscale qp hd ha hb ty ca cb fn) (vMul k fn) with
      srcs := [a, (hb, w, r)], out := fun _ l => (List.range n).map fun i => vMul k fn ((l.getD 0 []).getD i 0) ((l.getD 1 []).getD (i / c) 0) },
    one (.vsfu qp hd ha ty ca fn func) (List.map fun x => finish k fn false (sfu func (elemVal k x))),
    sums (.vrsum qp hd ha ty ca fn) true [a] (fun l => (List.range r).map fun y => vRed k fn (vSum k (row (l.getD 0 []) y))),
    sums (.vcsum qp hd ha ty ca fn) false [a] (fun l => (List.range c).map fun x => vRed k fn (vSum k (col (l.getD 0 []) x))),
    sums (.vdot qp hd ha hb ty ca cb fn) true [a, b]
      (fun l => (List.range r).map fun y => vRed k fn (vDotSum k (List.zip (row (l.getD 0 []) y) (row (l.getD 1 []) y)))),
    { one (.vrmax qp hd ha ty ca) plain with
      made := some (r, 1, metaFmt k), out := fun _ l => (List.range r).map fun y => (top (row (l.getD 0 []) y), 0) },
    { one (.vcmax qp hd ha ty ca) plain with
      made := some (1, c, metaFmt k), out := fun _ l => (List.range c).map fun x => (top (col (l.getD 0 []) x), 0) },
    { one (.vcvt qp hd ha ca fn src dst sat inter) (List.map (convertElem src dst fn (sat == 1))) with
      wd := widthOf dst, srcs := [(ha, widthOf src, n)], made := some (r, c, metaFmt dst) },
    { one (.vdqnt qp hd ha hb ty ca cb fn src axis side sat) plain with
      srcs := [(ha, widthOf src, n), (hb, 64, if axis = 1 then r else c)]
      out := fun s l =>
        let long := match s.tile? s.curU s.cur (s.cur.rh side) with
          | some t => if escapes src && side != 0 then s.mem.readN (s.slotKey t) (s.operandLen s.curU s.cur (s.cur.rh side)) else []
          | none => []
        let vs := codeVals src (l.getD 0 []) (sideVals long)
        (List.range n).map fun i =>
          let e := (l.getD 1 []).getD (if axis = 1 then i / c else i % c) 0
          rescale k fn (sat == 1) (.ofInt (vs.getD i 0)) (e % 2 ^ 32, e / 2 ^ 32) },
    { inPlace (.vmacc qp hd ha hb ty ca cb fn) (fun x _ _ => (x, 0)) with
      srcs := [a, (hb, 32, 1), d]
      out := fun s l => (List.range n).map fun i =>
        let v := match s.tile? s.curU s.cur (s.cur.rh ha) with
          | some t => if s.vPending t (i * w / 4096) then 1 else (s.slot t).valid.look (i * w / 4096) 0
          | none => 0
        vMacc k fn ((l.getD 1 []).getD 0 0) v ((l.getD 0 []).getD i 0) ((l.getD 2 []).getD i 0) } ]

/-- A vector operation reads its sources' elements from their tiles and writes the elements it makes of them, packed, over the first bytes of
hd's slot; nothing else of the pads and banks changes; its job carries the flags, and lands by its bound; a produced hd gets its shape, FMT and
ha's SEQ. The results are computed at issue and readable once the job has landed. VSUMS writes its sum into its scalar register by the same
bound; VQNT writes its codes, its table and its side list (R284-R289, R301, R304). -/
def Obligations.VectorTiles : Prop :=
  (∀ qp hd ha hb ty ca cb fn ext func src dst axis side sat inter r c : Nat,
    ∀ x ∈ vecRows qp hd ha hb ty ca cb fn ext func src dst axis side sat inter r c, ∀ (s : State) (o : SlotSem) (td : TileRef),
    semOf x.i = some o → Issuable s o →
    let t := observeAll o.i (o.sees (hooked s o)) (hooked s o)
    let e := effect s o
    t.cur.vshRC = (r, c) → t.tile? t.curU t.cur (t.cur.rh x.hd) = some td →
    (∀ y ∈ x.srcs, ∃ f, t.tile? t.curU t.cur (t.cur.rh y.1) = some f) →
    let ins := x.srcs.map fun y => match t.tile? t.curU t.cur (t.cur.rh y.1) with
      | some f => elems y.2.1 y.2.2 (t.mem.readN (t.slotKey f) ((y.2.2 * y.2.1 + 7) / 8))
      | none => []
    let res := x.out t ins
    let bytes := pack x.wd (res.map (·.1))
    exec x.i s = .next (issued s o) ∧
    e.mem.readN (t.slotKey td) bytes.length = bytes ∧
    (∀ k, 2 ^ 57 ≤ k → (k < t.slotKey td ∨ t.slotKey td + bytes.length ≤ k) → e.mem.read k = t.mem.read k) ∧
    (∃ j ∈ (e.unit t.curU).jobs, j.jid = t.nextJid ∧ j.kind = .vec ∧ j.dst = some td ∧ j.flags = (res.map (·.2)).foldl (· ||| ·) 0) ∧
    ∀ m ∈ x.made, (e.slot td).rows + 1 = m.1 ∧ (e.slot td).cols + 1 = m.2.1 ∧ (e.slot td).fmt = m.2.2 ∧
      (e.slot td).seq = match x.srcs.head?.bind fun y => t.tile? t.curU t.cur (t.cur.rh y.1) with
        | some f => (t.slot f).seq
        | none => 0) ∧
  (∀ (qp sd ha sdhi ty ca : Nat) (s : State) (f : TileRef), Issuable s (semVsums qp sd ha sdhi ty ca) →
    let o := semVsums qp sd ha sdhi ty ca
    let t := observeAll o.i (o.sees (hooked s o)) (hooked s o)
    let w := widthOf (tyCode ty)
    let n := t.cur.vshRC.1 * t.cur.vshRC.2
    let sum := vSum (tyCode ty) (elems w n (t.mem.readN (t.slotKey f) ((n * w + 7) / 8)))
    t.tile? t.curU t.cur (t.cur.rh ha) = some f →
    exec o.i s = .next (issued s o) ∧
    (effect s o).cur.fly = t.cur.fly ++ [⟨t.cur.bundleNo, t.cur.bundleNo + ((n + lanesOf w - 1) / lanesOf w + 6), t.cur.ds (sd + 16 * sdhi),
      if ty < 3 then sum.1 else (BitVec.ofInt 64 (intOf 32 true sum.1)).toNat, sum.2⟩] ∧
    ∃ j ∈ ((effect s o).unit t.curU).jobs, j.jid = t.nextJid ∧ j.flags = sum.2) ∧
  (∀ (qp hd ha hb ty ca cb fn dst axis side cal : Nat) (s : State) (ta tb td ts : TileRef),
    let o := semVqnt qp hd ha hb ty ca cb fn dst axis side cal
    Issuable s o →
    let t := observeAll o.i (o.sees (hooked s o)) (hooked s o)
    let e := effect s o
    let at' := fun h => t.tile? t.curU t.cur (t.cur.rh h)
    let apart := fun x y : TileRef => t.slotKey x + t.slotSize x ≤ t.slotKey y ∨ t.slotKey y + t.slotSize y ≤ t.slotKey x
    at' ha = some ta → at' hb = some tb → at' hd = some td → (escapes dst = true → at' side = some ts ∧ apart ts td) →
    (cal ≠ 1 → apart tb td) → (escapes dst = true → cal ≠ 1 → apart ts tb) →
    let r := t.cur.vshRC.1
    let c := t.cur.vshRC.2
    let k := tyCode ty
    let a := elems (widthOf k) (r * c) (t.mem.readN (t.slotKey ta) ((r * c * widthOf k + 7) / 8))
    let chans := if axis = 1 then r else c
    let chan := fun i => if axis = 1 then i / c else i % c
    let made := (List.range chans).map fun j =>
      calibrate dst (((List.range (r * c)).filter fun i => chan i == j).map fun i => elemVal k (a.getD i 0))
    let table := if cal = 1 then (elems 64 chans (t.mem.readN (t.slotKey tb) (8 * chans))).map fun e => (e % 2 ^ 32, e / 2 ^ 32)
      else made.map (·.1)
    let q := (List.range (r * c)).foldl (fun q i =>
      q.add dst fn (cal == 1) i (table.getD (chan i) (0, 0)) (a.getD i 0) (elemVal k (a.getD i 0))) ({} : Quant)
    let codes := pack (widthOf dst) q.codes
    exec o.i s = .next (issued s o) ∧ e.mem.readN (t.slotKey td) codes.length = codes ∧
    (cal ≠ 1 → e.mem.readN (t.slotKey tb) (8 * chans) = table.flatMap fun x => leBytes 4 x.1 ++ leBytes 4 x.2) ∧
    (escapes dst = true → e.mem.readN (t.slotKey ts) (8 * q.side.length) =
      q.side.flatMap fun x => leBytes 8 (x.1 % 2 ^ 16 + (BitVec.ofInt 24 x.2).toNat * 2 ^ 16)) ∧
    ∃ j ∈ (e.unit t.curU).jobs, j.jid = t.nextJid ∧
      j.flags = (if cal = 1 then 0 else made.foldl (fun a m => a ||| m.2) 0) ||| q.flags)

/-! ## The four examinations of a bundle (R424) -/

/-- Steps 1 and 2 of R424: the fault of a job that the slot observes is raised before anything else of the bundle; then a failed check, with
the slot's number, syllable and sources in the record. Nothing of the bundle commits. -/
def Obligations.FaultsAreRaisedBeforeIssue : Prop :=
  (∀ i o s t, semOf i = some o → (supervisorOp i = true → s.cur.level ≠ 0) → Ready s i o.q →
      (shown s i).faultOf (shown s i).curU (o.obs (shown s i)) = some t → exec i s = .next (raised s i t)) ∧
  (∀ i o s t, semOf i = some o → (supervisorOp i = true → s.cur.level ≠ 0) → Ready s i o.q →
      (shown s i).faultOf (shown s i).curU (o.obs (shown s i)) = none → o.check (shown s i) = some t → t.engine = false →
      exec i s = .next (raised s i (slotTrap s i t)))

/-- Step 3 of R424: a slot that must hold, or whose semaphores or command port have no room, leaves its bundle under presentation, with
its checks done, what starts in the first cycle started, and none of its effect. -/
def Obligations.HeldBundlesWait : Prop :=
  ∀ i o s, semOf i = some o → (supervisorOp i = true → s.cur.level ≠ 0) → Ready s i o.q →
    (shown s i).faultOf (shown s i).curU (o.obs (shown s i)) = none → o.check (shown s i) = none → o.stuck (shown s i) = none →
    (o.hold (hooked s o) = true ∨ semRoom (hooked s o).cur (o.adds (hooked s o)) = false ∨
      (o.port ≠ 0 ∧ 64 < ((hooked s o).unit (shown s i).curU).jobs.countP Job.engine + o.port)) →
    exec i s = .next (heldAt s o)

/-- A supervisor operation at task level raises PRIV with reason 3 whatever its predicate, and nothing else of it happens (R68, R223). -/
def Obligations.PrivilegedOperationsTrap : Prop :=
  ∀ (s : State) (qp sd f sa sb e rights csr off n index : Nat), s.cur.level = 0 →
    ∀ i ∈ [.eret qp, .csrr qp sd sa csr, .csrw qp sa sb csr, .jobres qp sa, .iflush qp, .capopDerive qp sd sa sb rights,
      .capopRevoke qp sd sa sb, .capopInfo qp sd sa sb, .capopFree qp sd sa sb, .ctxctlStop qp sd sa sb, .ctxctlGo qp sd sa sb,
      .ctxctlKill qp sd sa sb, .ctxctlRead qp sd sa sb off, .ctxctlWrite qp sd sa sb off, .ctxctlBrkSet qp sd sa sb n,
      .ctxctlBrkClr qp sd sa sb n, .ctxctlTestMode qp sd sa sb, .audsealSeal qp sd f sa, .audsealConfig qp sd f sa,
      .audbisect qp sd f sa e, .audref qp sd f sa e, .audreplay qp sd f sa e, .ovl qp f sa sb e, .mprog qp index f sa,
      .mprogExt qp index f sa e],
      exec i s = .next (s.enterTrap s.curU s.curB { cause := 4, reason := 3, dreason := 3, mask := 2 ^ i.slot } s.cur.pc)

/-- The operations that start their work in the first cycle and hold until it has taken hold: presented first they start it, and hold while
it has not; presented again, with nothing left to wait for, they issue (R232, R239, R242, R333, R381, R424). -/
def Obligations.StartedOperationsIssue : Prop :=
  ∀ (qp sd f sa sb index csr : Nat) (s : State), s.cur.level ≠ 0 →
    ∀ i ∈ [.audsealSeal qp sd f sa, .mprog qp index f sa, .ctxctlStop qp sd sa sb, .csrw qp sa sb csr, .iflush qp,
      .capopRevoke qp sd sa sb], ∀ o, semOf i = some o →
      (Ready s i o.q → o.check (shown s i) = none → o.hold (hooked s o) = true → exec i s = .next (heldAt s o)) ∧
      (Issuable s o → exec i s = .next (issued s o)) ∧
      (∀ p, s.cur.pres = some p → p.checked = true → p.started = true → s.cur.rq o.q = true → s.cur.grpFrom.isSome = true →
        o.stuck (s.setCur s.cur) = none → o.hold (s.setCur s.cur) = false →
        exec i s = .next ((o.eff (s.setCur s.cur)).finishBundle p [i]))

/-! ## Control (09_control_class.md) -/

/-- BR, BRS, CALL and CALLS: outside loops the next bundle is the one at the target, past a line pad; the group ends; a call links to
the bundle after it, with bound 1. (A stall swap that has fallen due lands then, R133.) -/
def Obligations.TransfersGoToTheirTarget : Prop :=
  ∀ (qp disp21 ext sa : Nat) (s : State),
    let pc := s.begin.cur.pc
    let rel := fun d : Int => wrapN 64 (pc + d)
    let reg := (s.begin.cur.rs sa).toNat
    ∀ x ∈ ([ (.br qp disp21, rel (sext 21 disp21), false), (.brExt qp disp21 ext, rel (sext 53 (disp21 + ext * 2 ^ 21)), false),
        (.call qp disp21, rel (sext 21 disp21), true), (.callExt qp disp21 ext, rel (sext 53 (disp21 + ext * 2 ^ 21)), true),
        (.brs qp sa, reg, false), (.calls qp sa, reg, true) ] : List (Instr × Nat × Bool)),
      Ready s x.1 qp → s.begin.cur.li = [] →
      ∃ t : State, exec x.1 s = .next t.stallLands ∧ t.cur.pc = (skipPads (s.begin.codeByte s.begin.curU s.begin.cur) 65536 x.2.1).1 ∧ t.cur.grp = [] ∧
        t.cur.fly = s.begin.cur.fly ++ if x.2.2 then
          [⟨s.begin.cur.bundleNo, s.begin.cur.bundleNo + 1, .s 23, pc + 1 + x.1.syl.bytes.length, 0⟩] else []

/-- Branches, calls, loop starts and LBREAK change nothing but the sequencing, the loop entries and ROT: no register but by a result in
flight, no flag, no descriptor and no byte of memory. (With no pre-emption pending and no debug ring on, as a taken transfer would enter its record there;
a stall swap that has fallen due lands then, R133.) -/
def Obligations.ControlOperationsFrame : Prop :=
  ∀ (qp disp21 ext sa len cnt10 epi : Nat) (s : State),
    ∀ i ∈ [Instr.br qp disp21, .brExt qp disp21 ext, .call qp disp21, .callExt qp disp21 ext, .brs qp sa, .calls qp sa, .loop qp sa len,
      .loopi qp cnt10 len, .loopiExt qp cnt10 len ext, .loopr qp sa epi len, .lbreak qp], ∀ o, semOf i = some o → Issuable s o →
      s.begin.cur.preempt = false → (∀ q, (s.queue s.begin.cur.die q).dbg = 0) →
      ∃ c, exec i s = .next (s.begin.setCur c).stallLands ∧ CtxFrame { s.begin.cur with li := c.li, rot := c.rot, lbuf := c.lbuf } c ∧
        c.shadow = s.begin.cur.shadow

/-- A loop start with an iteration to run pushes its entry, from the byte after its bundle on; with none it goes to the end of its body, where the
test of the boundary is made for the loop around it. LOOPR puts q8 in flight through ROT. A body of no bytes raises IOPND, one above 1,024
bytes LOOPSIZE, a seventh loop LOOPDEPTH. -/
def Obligations.LoopStarts : Prop :=
  (∀ (qp sa len cnt10 ext epi : Nat) (s : State),
      let reg := (s.begin.cur.rs sa).toNat
      ∀ x ∈ ([ (.loop qp sa len, reg, 0, false), (.loopi qp cnt10 len, cnt10, 0, false),
          (.loopiExt qp cnt10 len ext, cnt10 + ext * 2 ^ 10, 0, false), (.loopr qp sa epi len, reg, epi, true) ] :
            List (Instr × Nat × Nat × Bool)),
        Ready s x.1 qp → 1 ≤ len → len ≤ 1024 → s.begin.cur.li.length < 6 →
        let nx := s.begin.cur.pc + 1 + x.1.syl.bytes.length
        let q8 : List Fly := if x.2.2.2 then
          [⟨s.begin.cur.bundleNo, s.begin.cur.bundleNo + 1, .q (physQ s.begin.cur.rot 8), if 0 < x.2.1 then 1 else 0, 0⟩] else []
        (0 < x.2.1 + x.2.2.1 → ∃ t : State, exec x.1 s = .next t.stallLands ∧
          t.cur.li = ⟨nx, nx + len, x.2.1 + x.2.2.1, x.2.1, 0, x.2.2.2⟩ :: s.begin.cur.li ∧ t.cur.grp = [] ∧
          t.cur.pc = afterBundle (shown s x.1) (presOf s x.1) ∧ t.cur.fly = s.begin.cur.fly ++ q8) ∧
        (x.2.1 + x.2.2.1 = 0 →
          let stop := (skipPads (s.begin.codeByte s.begin.curU s.begin.cur) 65536 (nx + len)).1
          let b := boundary s.begin.cur.pc { s.begin.cur with bundleNo := s.begin.cur.bundleNo + 1, fly := s.begin.cur.fly ++ q8 } stop
            s.begin.cur.li
          ∃ t : State, exec x.1 s = .next (if b.2.2 then t.preemptLands.stallLands else t.stallLands) ∧
            t.cur.li = b.1.li ∧ t.cur.pc = b.2.1 ∧ t.cur.rot = b.1.rot ∧ t.cur.fly = b.1.fly ∧
            (s.begin.cur.li = [] → t.cur.li = [] ∧ t.cur.pc = stop ∧ t.cur.fly = s.begin.cur.fly ++ q8))) ∧
  (∀ (qp sa len cnt10 ext epi : Nat) (s : State),
      ∀ i ∈ [Instr.loop qp sa len, .loopi qp cnt10 len, .loopiExt qp cnt10 len ext, .loopr qp sa epi len], Ready s i qp →
        (len = 0 → exec i s = .next (raised s i (slotTrap s i { cause := 3, reason := 4 }))) ∧
        (1024 < len → exec i s = .next (raised s i (slotTrap s i { cause := 7 }))) ∧
        (1 ≤ len → len ≤ 1024 → 6 ≤ s.begin.cur.li.length → exec i s = .next (raised s i (slotTrap s i { cause := 6 }))))

/-- The iteration boundary: after a bundle of the innermost body whose next address is the body's end, the iteration is counted; a
rotating loop turns ROT back by one and writes the stage predicate; while iterations are left the next address is the start, else
the entry goes and the test is repeated with the loop around it. Elsewhere nothing happens. -/
def Obligations.LoopBoundary : Prop :=
  ∀ (addr nx : Nat) (c : Ctx) (l : Loop) (ls : List Loop),
    let c' := if l.rot then
      let r := { c with rot := (c.rot + 7) % 8 }
      r.write (r.dq 8) (if l.index + 1 < l.kern then 1 else 0) 0 else c
    (¬ (l.start ≤ addr ∧ addr < l.stop ∧ nx = l.stop) → boundary addr c nx (l :: ls) = ({ c with li := l :: ls }, nx, false)) ∧
    (l.start ≤ addr ∧ addr < l.stop ∧ nx = l.stop → l.index + 1 < l.total →
      boundary addr c nx (l :: ls) = ({ c' with li := { l with index := l.index + 1 } :: ls }, l.start, true)) ∧
    (l.start ≤ addr ∧ addr < l.stop ∧ nx = l.stop → l.total ≤ l.index + 1 →
      (boundary addr c nx (l :: ls)).1 = (boundary addr c' nx ls).1 ∧
      (boundary addr c nx (l :: ls)).2.1 = (boundary addr c' nx ls).2.1 ∧ (boundary addr c nx (l :: ls)).2.2 = true)

/-- LBREAK pops the innermost loop and goes on at its end, where the test of the iteration boundary is repeated for the loop around it; ROT
and q8 stay, unless that test meets a boundary; with no active loop it raises LOOPDEPTH. The exit is a point at which a pending
pre-emption, and a stall swap that is due, land. -/
def Obligations.LbreakPopsTheLoop : Prop :=
  ∀ (qp : Nat) (s : State), Ready s (.lbreak qp) qp →
    (s.begin.cur.li = [] → exec (.lbreak qp) s = .next (raised s (.lbreak qp) (slotTrap s (.lbreak qp) { cause := 6 }))) ∧
    ∀ l ls, s.begin.cur.li = l :: ls →
      let nx := (skipPads (s.begin.codeByte s.begin.curU s.begin.cur) 65536 l.stop).1
      let b := boundary s.begin.cur.pc { s.begin.cur with bundleNo := s.begin.cur.bundleNo + 1, li := ls } nx ls
      ∃ t : State, exec (.lbreak qp) s = .next t.preemptLands.stallLands ∧ t.cur.li = b.1.li ∧ t.cur.pc = b.2.1 ∧ t.cur.rot = b.1.rot ∧ t.cur.fly = b.1.fly ∧
        t.cur.q = s.begin.cur.q ∧
        (b.2.2 = false → t.cur.li = ls ∧ t.cur.pc = nx ∧ t.cur.rot = s.begin.cur.rot ∧ t.cur.fly = s.begin.cur.fly)

/-- SEMSIG adds to VALUE at issue; SEMWAIT takes from it when it holds enough, and otherwise the bundle waits and nothing changes but
that it is under presentation and the tiles it waits for note it (R245). -/
def Obligations.SemaphoreCounts : Prop :=
  ∀ (qp e n : Nat) (s : State), 1 ≤ e →
    (Issuable s (semSemsig qp e n) → atLoopEnd (shown s (.semsig qp e n)) (presOf s (.semsig qp e n)) = false →
      ∃ c, exec (.semsig qp e n) s = .next (s.begin.setCur c).stallLands ∧ CtxFrame { s.begin.cur with semV := c.semV } c ∧
        c.semV = s.begin.cur.semV.put e (s.begin.cur.semV.look e 0 + n) ∧ c.fly = s.begin.cur.fly ∧ c.shadow = s.begin.cur.shadow ∧
        c.ticket = s.begin.cur.ticket ∧ c.tickets = s.begin.cur.tickets) ∧
    (Issuable s (semSemwait qp e n) → atLoopEnd (shown s (.semwait qp e n)) (presOf s (.semwait qp e n)) = false →
      n ≤ s.begin.cur.semV.look e 0 ∧
      ∃ c, exec (.semwait qp e n) s = .next (s.begin.setCur c).stallLands ∧ CtxFrame { s.begin.cur with semV := c.semV } c ∧
        c.semV = s.begin.cur.semV.put e (s.begin.cur.semV.look e 0 - n) ∧ c.fly = s.begin.cur.fly ∧ c.shadow = s.begin.cur.shadow ∧
        c.ticket = s.begin.cur.ticket ∧ c.tickets = s.begin.cur.tickets) ∧
    (Ready s (.semwait qp e n) qp → (shown s (.semwait qp e n)).faultOf (shown s (.semwait qp e n)).curU
        ((semSemwait qp e n).obs (shown s (.semwait qp e n))) = none → s.begin.cur.semV.look e 0 < n →
      exec (.semwait qp e n) s = .next (heldAt s (semSemwait qp e n)))

/-- A TFENCE issues. With no job of its context left it clears the pending flags at once; when one of them is enabled it takes ARITH after
its bundle, with the flags that were pending in DATA, and resumes at the next bundle. With jobs left it stalls its context at its
bundle; when they are over the stall ends with the same. TRAP commits its bundle and then takes TRAPINSN with reason 0 and its
immediate in DATA; the saved PC is the next bundle's. -/
def Obligations.TrapsFollowTheirBundle : Prop :=
  (∀ (qp : Nat) (s : State), Issuable s (semTfence qp) →
      atLoopEnd (effect s (semTfence qp)) (presOf s (.tfence qp)) = false →
      let t := shown s (.tfence qp)
      let e := effect s (semTfence qp)
      let d := goOn e (presOf s (.tfence qp))
      let c := t.cur.landWhere fun f => decide (f.bundle < s.begin.cur.bundleNo)
      (t.jobsOf t.curU t.cur.cid = [] → e.cur.pend = 0 ∧ d.pc = afterBundle e (presOf s (.tfence qp)) ∧
        (trapping c.pend c.fmt = 0 → exec (.tfence qp) s = .next (e.setCur d).stallLands) ∧
        (trapping c.pend c.fmt ≠ 0 → exec (.tfence qp) s = .next ((e.setCur d).enterTrap
          s.begin.curU s.begin.curB { cause := 0x20, slot := 1, data := c.pend.toNat, w := (Instr.tfence qp).syl.w } s.begin.cur.pc))) ∧
      (t.jobsOf t.curU t.cur.cid ≠ [] → exec (.tfence qp) s = .next (e.setCur d).stallLands ∧ d.pc = s.begin.cur.pc ∧ d.pend = t.cur.pend ∧
        ∃ f, d.fencing = some f ∧ f.word = none ∧ f.next = afterBundle e (presOf s (.tfence qp)) ∧ f.jid = s.begin.nextJid ∧
          ∀ w : State, (∀ j ∈ w.jobsOf w.curU w.cur.cid, f.jid ≤ j.jid) →
            trapping (w.cur.landWhere fun x => decide (x.bundle < f.bundle)).pend f.te = 0 →
            (w.fenceStep f).cur.pc = f.next ∧ (w.fenceStep f).cur.pend = 0 ∧ (w.fenceStep f).cur.fencing = none)) ∧
  (∀ (qp imm16 : Nat) (s : State), Ready s (.trap qp imm16) qp → atLoopEnd (shown s (.trap qp imm16)) (presOf s (.trap qp imm16)) = false →
      exec (.trap qp imm16) s = .next ((s.begin.setCur (goOn (shown s (.trap qp imm16)) (presOf s (.trap qp imm16)))).enterTrap
        s.begin.curU s.begin.curB { cause := 0x21, slot := 1, data := imm16, w := (Instr.trap qp imm16).syl.w } s.begin.cur.pc))

/-- TASKEND: the bundle is counted, the PC stays at it, and the context begins the steps of the task's end, when no pre-emption is
pending; a stall swap that is due lands. STATPOP takes the oldest record of its task from the unit's queue and writes its two words,
or zeros when there is none. -/
def Obligations.TaskendAndStatpop : Prop :=
  (∀ (qp : Nat) (s : State), Ready s (.taskend qp) qp → s.begin.cur.preempt = false →
      ∃ t, exec (.taskend qp) s = .next t ∧ t.cur.status = .ending ∧ t.cur.endPhase = 1 ∧ t.cur.pc = s.begin.cur.pc ∧
        t.cur.bundleNo = s.begin.cur.bundleNo + 1) ∧
  (∀ (qp sd sd2 : Nat) (s : State), Ready s (.statpop qp sd sd2) qp →
      let t := shown s (.statpop qp sd sd2)
      let r := (t.unit t.curU).stats.find? fun r => r.taskId == t.cur.taskId
      let w := (r.map StatRec.words).getD (0, 0)
      exec (.statpop qp sd sd2) s = .next (issued s (semStatpop qp sd sd2)) ∧
      ((effect s (semStatpop qp sd sd2)).unit t.curU).stats = (match r with
        | some r => (t.unit t.curU).stats.erase r
        | none => (t.unit t.curU).stats) ∧
      (effect s (semStatpop qp sd sd2)).cur.fly = t.cur.fly ++
        [⟨t.cur.bundleNo, t.cur.bundleNo + 1, t.cur.ds sd, w.1, 0⟩, ⟨t.cur.bundleNo, t.cur.bundleNo + 1, t.cur.ds sd2, w.2, 0⟩])

/-! ## Taking an exception (10_system_class.md) -/

/-- Taking an exception parks the context, whatever jobs its unit has: its vector operations under way have landed, and its results; nothing of
it is under presentation, its PC, loops and registers stay, and it holds the 128-byte record, which says whether it can resume. -/
def Obligations.ExceptionsParkTheContext : Prop :=
  ∀ (s : State) (u b obs : Nat) (t : Trap) (c : Ctx), s.ctx? u b = some c →
    let w := s.landAllVecs u c.cid
    (∀ j ∈ (w.unit u).jobs, j.cid = c.cid → j.kind ≠ .vec) ∧ ((∀ j ∈ (s.unit u).jobs, j.kind ≠ .vec) → w = s) ∧
    ∃ d p r h, w.ctx? u b = some d ∧ (s.enterTrap u b t obs).ctx? u b = some p ∧ r.length = 128 ∧
      p.status = .parked r (t.cause != 0x30 && t.cause != 0x32) (t.cause == 0x21 && t.reason == 1) h ∧
      p.fly = [] ∧ p.shadow = [] ∧ p.pres = none ∧ p.pc = c.pc ∧ p.level = c.level ∧ p.li = c.li ∧ p.s = d.landAll.s ∧
      p.q = d.landAll.q ∧ p.h = d.landAll.h ∧ p.flags = d.landAll.flags ∧ p.preempt = c.preempt

/-- The trap record's fields, each at its bytes: cause, reason, decode reason, slot mask, slot, flags, level, bank, the observing and the
issuing bundle, the virtual address, row, column, job tag, task, queue, unit, data, syllable and the sources' values; what lies between them
is zero. -/
def Obligations.TrapRecordFields : Prop :=
  ∀ (u b obs grp : Nat) (c : Ctx) (t : Trap) (noctx nested : Bool),
    let r := trapRecord u b c t obs grp noctx nested
    r.length = 128 ∧ leAt r 0 1 = t.cause % 256 ∧ leAt r 1 1 = t.reason % 256 ∧ leAt r 2 1 = t.dreason % 256 ∧
    leAt r 3 1 = t.mask % 256 ∧ leAt r 4 1 = t.slot % 256 ∧
    leAt r 5 1 = (if t.cause ≠ 0x30 ∧ t.cause ≠ 0x32 ∧ noctx = false then 1 else 0) + (if t.engine = true then 2 else 0) +
      (if noctx = true then 4 else 0) + (if nested = true then 8 else 0) + (if c.touchSeal = true then 16 else 0) ∧
    leAt r 6 1 = c.level % 256 ∧ leAt r 7 1 = b % 256 ∧ leAt r 8 8 = obs % 2 ^ 64 ∧
    leAt r 16 8 = (if t.engine = true then t.iss else obs) % 2 ^ 64 ∧ leAt r 24 10 = t.vaddr % 2 ^ 80 ∧ leAt r 34 6 = 0 ∧
    leAt r 40 2 = t.row % 2 ^ 16 ∧ leAt r 42 2 = t.col % 2 ^ 16 ∧ leAt r 44 4 = t.jobId % 2 ^ 32 ∧
    leAt r 48 4 = c.taskId % 2 ^ 32 ∧ leAt r 52 2 = c.queue % 2 ^ 16 ∧ leAt r 54 2 = u % 2 ^ 16 ∧
    leAt r 56 8 = (t.data + (if t.cause = 5 ∨ t.cause = 0x30 then grp % 2 ^ 32 else 0) + t.kdone * 2 ^ 32) % 2 ^ 64 ∧
    leAt r 64 4 = t.w % 2 ^ 32 ∧ leAt r 68 4 = t.ext % 2 ^ 32 ∧
    ∀ k, k < 7 → leAt r (72 + 8 * k) 8 = if c.touchSeal = true then 0 else (t.snap.getD k 0).toNat

/-- ERET in a handler: the context parked for it, when its record can resume, takes the handler's bank in a swap of 24 cycles; the handler
begins its end. That the parked context counts as live at once, as ERET has issued, is the model's reading (log 69). -/
def Obligations.EretResumesTheContext : Prop :=
  ∀ (qp cid b : Nat) (s : State) (p : Ctx) (r : Bytes) (brk h : Bool), Issuable s (semEret qp) → s.cur.level ≠ 0 →
    atLoopEnd (shown s (.eret qp)) (presOf s (.eret qp)) = false → (s.begin.unit s.begin.curU).jobs = [] →
    s.begin.cur.cid ≠ cid → s.begin.cur.handles = some (some cid) → s.begin.byCid? s.begin.curU cid = some p →
    (s.begin.unit s.begin.curU).bankOf cid = some b → s.begin.ctx? s.begin.curU b = some p → b ≠ s.begin.curB →
    p.status = .parked r true brk h → p.endPhase = 0 →
    ∃ t, exec (.eret qp) s = .next t ∧ t.cur.status = .ending ∧ t.cur.quiet = true ∧
      (∃ p', t.ctx? s.begin.curU b = some p' ∧ p'.status = .live ∧ p'.pc = p.pc ∧ p'.pres = none) ∧
      (t.unit s.begin.curU).swap = some ⟨b, 24⟩

/-- A control and status register reads back what a legal write put there: the trap handler, area, queue and fault mailbox, the
watchdog limits, the debug ring, the notice, the save area. -/
def Obligations.WrittenRegistersReadBack : Prop :=
  ∀ (s : State) (d level n idx val : Nat), n ∈ [1, 2, 3, 4, 0x12, 0x13, 0x14, 0x16, 0x41, 0x42] → csrIdxOk d n idx = true →
    s.csrValOk d n idx val = true → (s.csrWrite d n idx val).csr d level n idx = val

/-- CAPOP DERIVE makes an entry for the parent's queue, whose rights are those asked for that the parent has. -/
def Obligations.DerivedRightsNeverGrow : Prop :=
  ∀ (qp sd sa sb rights i : Nat) (s : State), s.cur.level ≠ 0 → Issuable s (semCapopDerive qp sd sa sb rights) →
    let t := shown s (.capopDerive qp sd sa sb rights)
    (t.die t.cur.die).freeCap = some i →
    exec (.capopDerive qp sd sa sb rights) s = .next (issued s (semCapopDerive qp sd sa sb rights)) ∧
    let parent := (t.die t.cur.die).cap (fld (t.cur.rs sa).toNat 0 13)
    let c := ((effect s (semCapopDerive qp sd sa sb rights)).die t.cur.die).cap i
    c.valid = true ∧ c.target = parent.target ∧ c.holder = fld (t.cur.rs sb).toNat 0 12 ∧ c.rights = rights &&& parent.rights ∧
      c.parent = fld (t.cur.rs sa).toNat 0 13

/-! ## Tiles and memory (06_memory.md, 12_copy_class.md, 13_store_class.md) -/

/-- The pad scalar loads: operation, handle register, bytes, whether the value is sign-extended, byte offset, destination. -/
def Sys2Proof.padLoads (qp sd hs sz sg imm9 sb : Nat) : List (Instr × Nat × Nat × (Ctx → Nat)) :=
  [ (.ldt qp sd hs sz sg imm9, 2 ^ sz, sg, fun _ => imm9 * 2 ^ sz), (.ldtr qp sd hs sz sg sb, 2 ^ sz, sg, fun c => (c.rs sb).toNat) ]

/-- LDT and LDTR read the bytes at their offset of the tile, little-endian, zero- or sign-extended, within the bound of the pad's
level; every byte of memory stays. A stall swap that has fallen due lands then (R133). -/
def Obligations.PadLoadsReadTheTile : Prop :=
  ∀ (qp sd hs sz sg imm9 sb : Nat) (s : State), ∀ x ∈ padLoads qp sd hs sz sg imm9 sb, ∀ o, semOf x.1 = some o → Issuable s o →
    atLoopEnd (shown s x.1) (presOf s x.1) = false →
    let t := shown s x.1
    let tile := t.dst hs
    let v := leVal (t.mem.readN (t.slotKey tile + x.2.2.2 t.cur) x.2.1)
    ∃ e c, exec x.1 s = .next (e.setCur c).stallLands ∧ e = effect s o ∧
      c.fly = t.cur.fly ++ [⟨t.cur.bundleNo, t.cur.bundleNo + (if padLevel tile.pad = 0 then 4 else if padLevel tile.pad = 1 then 32 else 96),
        t.cur.ds sd, if x.2.2.1 = 1 then wrapN 64 (sext (8 * x.2.1) v) else v, 0⟩] ∧
      c.touchSeal = (t.cur.touchSeal || (t.slot tile).sealed) ∧ (∀ a, (e.setCur c).mem.read a = t.mem.read a) ∧
      c.s = t.cur.s ∧ c.q = t.cur.q ∧ c.h = t.cur.h ∧ c.flags = t.cur.flags ∧ c.pend = t.cur.pend

/-- The pad scalar stores: operation, bytes, byte offset. -/
def Sys2Proof.padStores (qp sa hs sz imm9 sb : Nat) : List (Instr × Nat × (Ctx → Nat)) :=
  [ (.stt qp sa hs sz imm9, 2 ^ sz, fun _ => imm9 * 2 ^ sz), (.sttr qp sa hs sz sb, 2 ^ sz, fun c => (c.rs sb).toNat) ]

/-- STT and STTR write the low bytes of s[sa], little-endian, at their offset of the tile, and no other byte of memory; no register and
no flag changes. A stall swap that has fallen due lands then (R133). -/
def Obligations.PadStoresWriteTheirBytes : Prop :=
  ∀ (qp sa hs sz imm9 sb : Nat) (s : State), ∀ x ∈ padStores qp sa hs sz imm9 sb, ∀ o, semOf x.1 = some o → Issuable s o →
    atLoopEnd (shown s x.1) (presOf s x.1) = false →
    let t := shown s x.1
    let key := t.slotKey (t.dst hs) + x.2.2 t.cur
    ∃ (u : State) (c : Ctx), exec x.1 s = .next (u.setCur c).stallLands ∧ CtxFrame t.cur c ∧ c.fly = t.cur.fly ∧
      ∀ a, (u.setCur c).mem.read a =
        if key ≤ a ∧ a < key + x.2.1 then BitVec.ofNat 8 ((t.cur.rs sa).toNat / 2 ^ (8 * (a - key))) else t.mem.read a

/-- The checks of the scalar accesses at issue. In a pad, after the handle's: an offset that is no multiple of the size raises SHAPEALIGN, an
access past the tile's end TILESIZE. In global memory: an address that is no multiple of the size raises SHAPEALIGN, then f0 or an
empty record FOOTPRINT; both records hold the address. -/
def Obligations.ScalarAccessChecks : Prop :=
  (∀ (qp sd sa hs sz sg c imm9 sb : Nat) (s : State),
      ∀ x ∈ ([ (.ldt qp sd hs sz sg imm9, 2 ^ sz, imm9 * 2 ^ sz), (.ldtr qp sd hs sz sg sb, 2 ^ sz, (s.begin.cur.rs sb).toNat),
          (.tread qp sd hs c sb, 8, (s.begin.cur.rs sb).toNat), (.stt qp sa hs sz imm9, 2 ^ sz, imm9 * 2 ^ sz),
          (.sttr qp sa hs sz sb, 2 ^ sz, (s.begin.cur.rs sb).toNat) ] : List (Instr × Nat × Nat)),
        ∀ o tile, semOf x.1 = some o → Ready s x.1 qp → (shown s x.1).faultOf (shown s x.1).curU (o.obs (shown s x.1)) = none →
          (shown s x.1).handle (shown s x.1).curU (shown s x.1).cur ((shown s x.1).cur.rh hs) = .ok tile →
          ((shown s x.1).slot tile).okind = 1 →
          (x.2.2 % x.2.1 ≠ 0 → exec x.1 s = .next (raised s x.1 (slotTrap s x.1 { cause := 0x13 }))) ∧
          (x.2.2 % x.2.1 = 0 → ((shown s x.1).slot tile).len < x.2.2 + x.2.1 →
            exec x.1 s = .next (raised s x.1 (slotTrap s x.1 { cause := 0x15 })))) ∧
  (∀ (qp sd sb f sa sz sg e aop scope order size : Nat) (s : State),
      ∀ x ∈ ([ (.ldg qp sd f sa sz sg e, 2 ^ sz), (.stg qp sb f sa sz e, 2 ^ sz),
          (.atom qp sd f sa sb aop scope order size e, 4 + 4 * size),
          (.cas qp sd f sa sb scope order size e, 4 + 4 * size) ] : List (Instr × Nat)),
        Ready s x.1 qp →
        let va := (fpOf s.begin.cur.fp f).base + (s.begin.cur.rs sa).toNat
        (va % x.2 ≠ 0 → exec x.1 s = .next (raised s x.1 (slotTrap s x.1 { cause := 0x13, vaddr := wrapN 80 va }))) ∧
        (va % x.2 = 0 → (f = 0 ∨ (fpOf s.begin.cur.fp f).len = 0) →
          exec x.1 s = .next (raised s x.1 (slotTrap s x.1 { cause := 0x11, vaddr := wrapN 80 va }))))

/-- ALLOC, ALLOCR and ALLOCT take the lowest free slot of their pool while the reservation has room: it is the task's, with its reads to
come and nothing arrived, and counts in the pool-table entry; the handle is written with bound 2. ALLOCT never holds: with no slot to
take it writes the null handle and a predicate of 0. -/
def Obligations.AllocationTakesASlot : Prop :=
  (∀ (qp hd pool reads sa qs : Nat) (s : State),
      ∀ x ∈ ([ (.alloc qp hd pool reads, fun _ => reads, []), (.allocr qp hd pool sa, fun c => (c.rs sa).toNat, []),
          (.alloct qp hd pool reads qs, fun _ => reads, [qs]) ] : List (Instr × (Ctx → Nat) × List Nat)),
        ∀ o tile, semOf x.1 = some o → Issuable s o → (shown s x.1).allocReady (shown s x.1).curU ((shown s x.1).ptOf pool) = some tile →
          let t := shown s x.1
          let e := effect s o
          let p := t.ptOf pool
          let slot := fun i => (⟨padIdx t.curU p.level, p.pool * 16384 + i⟩ : TileRef)
          let free := fun i => (t.slot (slot i)).okind = 0 ∧ (t.slot (slot i)).busy = false ∧ (t.slot (slot i)).chan = none
          exec x.1 s = .next (issued s o) ∧
          (∃ i, tile = slot i ∧ i < ((t.pad (padIdx t.curU p.level)).pools.look p.pool ⟨0, 0, 0⟩).count ∧ free i ∧ ∀ k, k < i → ¬ free k) ∧
          (e.slot tile).okind = 1 ∧ (e.slot tile).oid = t.cur.taskId ∧ (e.slot tile).reads = x.2.1 t.cur ∧ (e.slot tile).arrival = 0 ∧
          (e.slot tile).produced = false ∧ (e.slot tile).gen = (t.slot tile).gen ∧
          (e.ptOf pool).inUse = (t.ptOf pool).inUse + 1 ∧ (∀ a, e.mem.read a = t.mem.read a) ∧
          e.cur.fly = t.cur.fly ++ ⟨t.cur.bundleNo, t.cur.bundleNo + 2, t.cur.dh hd, handleOf tile (t.slot tile).gen, 0⟩ ::
            x.2.2.map fun q => ⟨t.cur.bundleNo, t.cur.bundleNo + 2, t.cur.dq q, 1, 0⟩) ∧
  (∀ (qp hd pool reads qs : Nat) (s : State), Ready s (.alloct qp hd pool reads qs) qp →
      atLoopEnd (shown s (.alloct qp hd pool reads qs)) (presOf s (.alloct qp hd pool reads qs)) = false →
      ((shown s (.alloct qp hd pool reads qs)).ptOf pool).valid = true →
      (shown s (.alloct qp hd pool reads qs)).allocReady (shown s (.alloct qp hd pool reads qs)).curU
        ((shown s (.alloct qp hd pool reads qs)).ptOf pool) = none →
      ∃ c, exec (.alloct qp hd pool reads qs) s = .next (s.begin.setCur c).stallLands ∧ CtxFrame s.begin.cur c ∧
        c.fly = s.begin.cur.fly ++ [⟨s.begin.cur.bundleNo, s.begin.cur.bundleNo + 2, s.begin.cur.dh hd, 0, 0⟩,
          ⟨s.begin.cur.bundleNo, s.begin.cur.bundleNo + 2, s.begin.cur.dq qs, 0, 0⟩])

/-- An operation whose work is a job's enters its job at issue, with its own operation and its context, last in its unit's list. Memory stays;
of its context only the leaf index, the marks of registers in flight, the job count and the pending count of a semaphore move. Of the tiles
GATHER gives its destination its metadata and PRODUCED (R258), OVL clears the filled marks of the lines that it loads (R272), and nothing
else of any unit or pad changes. -/
def Obligations.JobsDoTheWorkLater : Prop :=
  ∀ (qp hd sh e sd f sa sb sz sg aop scope order size acc ov index : Nat) (s : State),
    ∀ x ∈ ([ (.gather qp hd sh e, false), (.ldg qp sd f sa sz sg e, false), (.stg qp sb f sa sz e, false),
      (.atom qp sd f sa sb aop scope order size e, false), (.cas qp sd f sa sb scope order size e, false), (.copyacc qp acc sh e, false),
      (.spawn qp f sa e, false), (.spawnOverlap qp f sa e ov, false), (.ovl qp f sa sb e, true), (.audbisect qp sd f sa e, true),
      (.audref qp sd f sa e, true), (.audreplay qp sd f sa e, true), (.mprogExt qp index f sa e, true) ] : List (Instr × Bool)),
      ∀ o, semOf x.1 = some o → Issuable s o → (x.2 = true → s.cur.level ≠ 0) →
      let t := shown s x.1
      let u := effect s o
      exec x.1 s = .next (issued s o) ∧ u.mem = t.mem ∧
      (∃ j, (u.unit t.curU).jobs = (t.unit t.curU).jobs ++ [j] ∧ j.instr = x.1 ∧ j.cid = t.cur.cid ∧ j.fault = none) ∧
      u.cur = { t.cur with
        leafNext := u.cur.leafNext, leaves := u.cur.leaves, ticket := u.cur.ticket, tickets := u.cur.tickets
        jobCount := u.cur.jobCount, semP := u.cur.semP } ∧
      (∀ r, (x.1 = .gather qp hd sh e → r ≠ t.dst hd) → u.slot r = t.slot r) ∧
      (x.1 = .gather qp hd sh e →
        let m := t.cur.sample sh
        u.slot (t.dst hd) = { t.slot (t.dst hd) with
          rows := shF m 16 - 1, cols := shF m 17 - 1, fmt := shF m 2, seq := shF m 18 % 2 ^ 32, produced := true }) ∧
      (∀ v, u.unit v = { t.unit v with jobs := (u.unit v).jobs, ctxs := (u.unit v).ctxs, filled := (u.unit v).filled }) ∧
      (∀ v, v ≠ t.curU → (u.unit v).jobs = (t.unit v).jobs ∧ (u.unit v).ctxs = (t.unit v).ctxs) ∧
      let w := (t.cur.rs sb).toNat
      ∀ v l, l ∈ (u.unit v).filled ↔ l ∈ (t.unit v).filled ∧ ¬(x.1 = .ovl qp f sa sb e ∧ v = t.curU / 128 * 128 + fld w 32 7 ∧
        fld w 0 16 / 64 ≤ l.1 ∧ l.1 < fld w 0 16 / 64 + fld w 16 16)

/-- What an atomic makes of a location of `w` bits and what it returns: the sum modulo 2^w, the bitwise operations, signed and unsigned
minimum and maximum, exchange, and the compare that stores only when it holds. -/
def Obligations.AtomicFunctions : Prop :=
  ∀ (qp sd f sa sb scope order size e : Nat) (w : Nat) (old b cmp : BitVec w), 1 ≤ w → w ≤ 64 →
    let atom := fun op => atomResult (.atom qp sd f sa sb op scope order size e) w old.toNat b.toNat cmp.toNat
    let cas := atomResult (.cas qp sd f sa sb scope order size e) w old.toNat b.toNat cmp.toNat
    atom 0 = (some (old + b).toNat, old.toNat) ∧ atom 1 = (some (old &&& b).toNat, old.toNat) ∧
    atom 2 = (some (old ||| b).toNat, old.toNat) ∧ atom 3 = (some (old ^^^ b).toNat, old.toNat) ∧
    (atom 4).1 = some (if b.toInt < old.toInt then b.toNat else old.toNat) ∧
    (atom 5).1 = some (if old.toInt < b.toInt then b.toNat else old.toNat) ∧
    (atom 4).2 = (old.signExtend 64).toNat ∧ (atom 5).2 = (old.signExtend 64).toNat ∧
    atom 6 = (some (if b.toNat < old.toNat then b.toNat else old.toNat), old.toNat) ∧
    atom 7 = (some (if old.toNat < b.toNat then b.toNat else old.toNat), old.toNat) ∧ atom 8 = (some b.toNat, old.toNat) ∧
    (old = cmp → cas = (some b.toNat, old.toNat)) ∧ (old ≠ cmp → cas = (none, old.toNat))

/-- Two non-empty footprint records conflict when their byte ranges intersect and one writes, or one is for atomics and the other is
not; two records for atomics never do. -/
def Obligations.FootprintsConflict : Prop :=
  ∀ a b : FpRec, a.len ≠ 0 → b.len ≠ 0 → a.mode ≤ 3 → b.mode ≤ 3 →
    let writes := fun r : FpRec => r.mode = 1 ∨ r.mode = 2
    let reads := fun r : FpRec => r.mode = 0 ∨ r.mode = 2
    (fpClash a b = true ↔
      (∃ x, (a.base ≤ x ∧ x < a.base + a.len) ∧ (b.base ≤ x ∧ x < b.base + b.len)) ∧
      ((writes a ∧ reads b) ∨ (reads a ∧ writes b) ∨ (writes a ∧ writes b) ∨ (a.mode = 3 ∧ b.mode ≠ 3) ∨ (a.mode ≠ 3 ∧ b.mode = 3)))

/-! ## Accumulator banks, rings, counters (16_matrix_class.md, 18_channel_class.md) -/

/-- ACCZERO sets every byte of the bank to 0 and its TYPE, KDONE and POISON, and changes no other byte, no leaf, no flag and nothing of another
bank: its TYPE, BUSY, KDONE and POISON stay. A busy bank raises ACCBUSY. -/
def Obligations.AcczeroClearsTheBank : Prop :=
  ∀ (qp acc ty : Nat) (s : State),
    let i := Instr.acczero qp acc ty
    let t := shown s i
    let e := effect s (semAcczero qp acc ty)
    let key := accKey t.curU (t.acc acc)
    (Issuable s (semAcczero qp acc ty) →
      exec i s = .next (issued s (semAcczero qp acc ty)) ∧
      (∀ a, e.mem.read a = if key ≤ a ∧ a < key + 65536 then 0 else t.mem.read a) ∧
      (e.accSt acc).int = (ty == 1) ∧ (e.accSt acc).kdone = 0 ∧ (e.accSt acc).poison = false ∧
      (e.accSt acc).busy = (t.accSt acc).busy ∧ (e.accSt acc).owner = (t.accSt acc).owner ∧
      (∀ n, n ≠ t.acc acc → (e.unit t.curU).accs.look n {} = (t.unit t.curU).accs.look n {}) ∧
      (∀ v, v ≠ t.curU → e.unit v = t.unit v) ∧ e.cur = t.cur) ∧
    (Ready s i qp → acc < t.cur.banks → t.faultOf t.curU (t.writerObs acc) = none → (t.accSt acc).busy = true →
      exec i s = .next (raised s i (slotTrap s i { cause := 0x19 })))

/-- ACCMOV copies the bytes, TYPE and KDONE of bank S to bank D, and with D = S leaves every byte; it adds no leaf. Busy banks raise
ACCBUSY, then poisoned ones ACCPOISON. -/
def Obligations.AccmovCopiesTheBank : Prop :=
  ∀ (qp d r : Nat) (s : State),
    let i := Instr.accmov qp d r
    let t := shown s i
    let e := effect s (semAccmov qp d r)
    (Issuable s (semAccmov qp d r) →
      exec i s = .next (issued s (semAccmov qp d r)) ∧
      (∀ k, k < 65536 → e.mem.read (accKey t.curU (t.acc d) + k) = t.mem.read (accKey t.curU (t.acc r) + k)) ∧
      (∀ a, (a < accKey t.curU (t.acc d) ∨ accKey t.curU (t.acc d) + 65536 ≤ a) → e.mem.read a = t.mem.read a) ∧
      (e.accSt d).int = (t.accSt r).int ∧ (e.accSt d).kdone = (t.accSt r).kdone ∧ e.cur = t.cur) ∧
    (Ready s i qp → d < t.cur.banks → r < t.cur.banks → t.faultOf t.curU (t.writerObs d ++ t.accObs r) = none →
      ((t.accSt d).busy = true ∨ (t.accSt r).busy = true → exec i s = .next (raised s i (slotTrap s i { cause := 0x19 }))) ∧
      ((t.accSt d).busy = false → (t.accSt r).busy = false → (t.accSt d).poison = true ∨ (t.accSt r).poison = true →
        exec i s = .next (raised s i (slotTrap s i { cause := 0x1A }))))

/-- RINGPUSH of a tile that the task owns appends its handle at the ring's tail and gives the tile to the ring; no byte of memory changes.
CTRADD on a counter of the endpoint adds the low 32 bits of s[sa] to it, modulo 2^32; no register, flag or byte changes. -/
def Obligations.RingsAndCounters : Prop :=
  (∀ (qp ring hs : Nat) (s : State) (tile : TileRef), Issuable s (semRingpush qp ring hs) →
      let t := shown s (.ringpush qp ring hs)
      let e := effect s (semRingpush qp ring hs)
      let r := t.cur.ring ring
      t.handle t.curU t.cur (t.cur.rh hs) = .ok tile →
      exec (.ringpush qp ring hs) s = .next (issued s (semRingpush qp ring hs)) ∧
      (e.slot tile).okind = 2 ∧ (e.slot tile).oid = t.curU * 8 + ring ∧
      e.cur.ring ring = { r with entries := r.entries.put ((r.head + r.count) % 16) (t.cur.rh hs), count := r.count + 1 } ∧
      e.cur.fly = t.cur.fly ∧ ∀ a, e.mem.read a = t.mem.read a) ∧
  (∀ (qp c sa : Nat) (s : State) (ep : Endpoint), Issuable s (semCtraddLocal qp c sa) →
      let t := shown s (.ctraddLocal qp c sa)
      let e := effect s (semCtraddLocal qp c sa)
      (t.unit t.curU).endpoint = some ep →
      exec (.ctraddLocal qp c sa) s = .next (issued s (semCtraddLocal qp c sa)) ∧
      (∃ ep', (e.unit t.curU).endpoint = some ep' ∧
        ep'.ctrs.look c 0 = (ep.ctrs.look c 0 + (t.cur.rs sa).toNat % 2 ^ 32) % 2 ^ 32 ∧ ∀ k, k ≠ c → ep'.ctrs.look k 0 = ep.ctrs.look k 0) ∧
      e.cur = t.cur ∧ e.mem = t.mem)

/-! ## Audit trees (19_audit_class.md) -/

/-- The root over leaf digests: 64 zero bytes over none, the digest over one, else the node of the roots of two parts of which the left
holds the largest power of two of leaves below the number of leaves. AUDMARK takes the next leaf index and places a leaf of type 0x0D
there that holds both its registers; registers, flags and memory stay. -/
def Obligations.LeavesAndTreeRoots : Prop :=
  (rootOfList [] = List.replicate 64 0 ∧ (∀ d, rootOfList [d] = d) ∧
    ∀ ds : List Bytes, 2 ≤ ds.length → ∃ n, 2 ^ n < ds.length ∧ ds.length ≤ 2 * 2 ^ n ∧
      rootOfList ds = digest 4 (rootOfList (ds.take (2 ^ n)) ++ rootOfList (ds.drop (2 ^ n)))) ∧
  (∀ (qp sa sb : Nat) (s : State), Issuable s (semAudmark qp sa sb) →
      let i := Instr.audmark qp sa sb
      let t := shown s i
      let e := effect s (semAudmark qp sa sb)
      (t.unit t.curU).bankOf t.cur.cid = some t.curB →
      exec i s = .next (issued s (semAudmark qp sa sb)) ∧ e.cur.leafNext = t.cur.leafNext + 1 ∧
      ((e.cur.leaves.entry? t.cur.leafNext).bind (·.record)) = some (LeafRec.bytes
        { type := 0x0D, slot := 1, idx := t.cur.leafNext, addr := s.begin.cur.pc, w := i.syl.w, ext := i.syl.ext
          c := leBytes 8 (t.cur.rs sa).toNat ++ leBytes 8 (t.cur.rs sb).toNat }) ∧
      e.cur = { t.cur with leafNext := e.cur.leafNext, leaves := e.cur.leaves } ∧ e.mem = t.mem)

/-! ## Events (95_what_each_step_holds.md): where each completes -/

/-- A job that an event can act on: it is in its unit's list, has not faulted, and its unit is not frozen (R170). -/
abbrev Sys2Proof.LiveJob (s : State) (u jid : Nat) (j : Job) : Prop := s.job? u jid = some j ∧ j.fault = none ∧ (s.unit u).freeze = 0

/-- The events of in jobs and loads: a chunk whose bytes can be fetched arrives, and an element of a job can be read ahead of the rest of
its chunk; a tile job whose chunks have all landed completes with its leaf, whose RESULT is TD over the chunks as the job landed them;
a load or a scratchpad fill performed completes; a fault found is held for its observer (R164, R258, R264, R265, R268, R272). The
events of out jobs: an element can arrive at its home by itself; an out job performed completes with its leaf and, of an atomic, its
result, its egress record written first; a crossing first in the order of requests whose bytes have their tokens goes on (R180, R275,
R276, R282, R415, R417). That an element's number is counted on from those of chunks is the model's choice (log 125). -/
def Obligations.MemoryJobEvents : Prop :=
  (∀ (s t : State) (u jid : Nat) (j j' : Job) (tile : TileRef), LiveJob s u jid j →
      (∀ k, k < 65536 → j.kind = .copyIn ∨ j.kind = .gather ∨ j.kind = .tmove → s.arrive u j k = some t →
        exec (.chunkArrives u jid k) s = .next t) ∧
      (∀ k, j.kind = .copyIn ∨ j.kind = .gather ∨ (j.kind = .routine ∧ j.phase = 1) → s.readAhead u j k = some t →
        exec (.chunkArrives u jid (65536 + k)) s = .next t) ∧
      (j.dst = some tile → j.left = [] → j.kind = .copyIn ∨ (j.kind = .gather ∧ j.closed = true) ∨ j.kind = .tmove →
        exec (.tileJobComplete u jid) s = .next (s.finishJob u j (some j.inLeaf) (s.slot tile).len (s.slot tile).seq)) ∧
      (∀ w ws, j.tds = w :: ws → w.pos = 4 → (∀ c ∈ w.cells, c.isSome = true) →
        j.inLeaf.res = tdOf w.desc ((w.cells.filterMap id).map Prod.fst)) ∧
      (∀ s', j.kind = .ldg → s.ready u j (s.jobKeys u j) = some s' → s'.doLdg u j = .done t j' →
        exec (.ldgComplete u jid) s = .next (t.finishJob u j' none 0 0)) ∧
      (∀ s', j.kind = .ovl → s.ready u j (s.jobKeys u j) = some s' → s'.runOvl u j = .done t j' →
        exec (.ovlComplete u jid) s = .next (t.finishJob u j' none 0 0)) ∧
      (j.kind ≠ .audit → s.jobFaultNow u j = some t → exec (.jobFault u jid) s = .next t)) ∧
  (∀ (s t v : State) (u jid : Nat) (j j' x : Job) (b : Nat),
      (∀ k, LiveJob s u jid j → j.kind.out = true → s.arriveEl u j k = some t → exec (.chunkArrives u jid (65536 + k)) s = .next t) ∧
      (LiveJob s u jid j → j.kind.out = true → s.perform u j = .done t j' → t.logEgress u j' = some v →
        let r := match j'.dreg with
          | some (dest, ticket) => v.updCid u j'.cid fun c => c.engineWrite dest ticket j'.res
          | none => v
        exec (.outJobComplete u jid) s = .next (r.finishJob u j' j'.outLeaf (j'.stored.length * shWidth j'.shape / 8) j'.seq)) ∧
      (s.sec.reqs = [] → (s.unit u).freeze = 0 → s.wantsToken u jid = some (x, b) → s.sendBad x = none → s.crossRefused b = false →
        ({ s with sec := { s.sec with reqs := [(u, jid)] } } : State).cross u x b = some t →
        exec (.crossingGrant u jid) s = .next { t with sec := { t.sec with reqs := t.sec.reqs.drop 1 } }))

/-- The events of the vector unit and the matrix array: the oldest vector result lands: its chunks arrive with VALID = 1, its flags are
set, with the register of VSUMS, and its job goes; an ACCRD writes its tile with the elements of its bank, rescaled by its table, and
completes; the oldest routine starts, on its first start with its side lists checked and zero-first applied; its next block is summed
into every element of the bank and KDONE counts it, or its fault stops it; with its last block it retires (R288, R313, R321-R325,
R332). The microprogram stores and the banks: an image that is read and verified enters the store of each unit of the die that has no
routine of its index, and the job completes once every unit of the die holds it; an uncorrectable error poisons its bank (R171, R314,
R333). -/
def Obligations.ArrayEvents : Prop :=
  (∀ (s t : State) (u jid : Nat) (j j' : Job) (tile : TileRef) (xs ys : List (List Int)), LiveJob s u jid j →
      (j.kind = .vec → ((s.unit u).jobs.any fun i => i.kind == JobKind.vec && decide (i.jid < j.jid)) = false →
        ∃ e, exec (.vectorResultLands u jid) s = .next e ∧ e = s.landVec u j ∧ e.job? u jid = none ∧ e.mem = s.mem ∧
          (∀ k, j.dst = some tile → bit j.lands k = true → k < (s.slot tile).chunks →
            ((s.unit u).jobs.any fun i => decide (j.jid < i.jid) && i.covers tile k) = false →
            bit (e.slot tile).arrival k = true ∧ (e.slot tile).valid.look k 0 = 1) ∧
          ∀ b c, (s.unit u).bankOf j.cid = some b → s.ctx? u b = some c → c.cid = j.cid →
            ∃ c', e.ctx? u b = some c' ∧
              (j.dreg = none → c'.flags = c.flags ||| BitVec.ofNat 32 j.flags ∧ c'.fly = c.fly) ∧
              ∀ reg m, j.dreg = some (reg, m) →
                let l := c.landWhere fun f => f.dest == reg && f.bundle == m
                c'.s = l.s ∧ c'.flags = l.flags ∧ c'.fly = l.fly) ∧
      (j.kind = .accrd → j.dst = some tile →
        let r := fld j.vsh.toNat 0 7 + 1
        let c := fld j.vsh.toNat 7 11 + 1
        let factor := fun col => ((j.aux.map fun x => tableEntries c (s.mem.readN (s.slotKey x) (8 * c))).getD []).getD col (0x3F800000, 0)
        let out := (List.range (r * c)).map fun i => (rescale j.a j.b (j.c == 1) (s.accVal u j.bank (i / c) (i % c)) (factor (i % c))).1
        ∃ e, exec (.accrdComplete u jid) s = .next e ∧ e.job? u jid = none ∧
          e.mem = (s.writeTile tile (pack (widthOf j.a) out) fun _ => 1).mem) ∧
      ((s.nextRoutine u).map (·.jid) = some j.jid → ((s.unit u).accs.look j.bank {}).poison = false →
        (j.granted = true → exec (.routineStart u jid) s = .next (s.putJob u { j with phase := 1 })) ∧
        (j.granted = false → s.sideBad j false = true ∨ s.sideBad j true = true →
          exec (.routineStart u jid) s = .next (s.stopRoutine u j { cause := 0x1C })) ∧
        (j.granted = false → s.sideBad j false = false → s.sideBad j true = false →
          ∃ e, exec (.routineStart u jid) s = .next e ∧ e.job? u jid = some { j with phase := 1, granted := true } ∧
            (∀ a, e.mem.read a =
              if j.closed = true ∧ accKey u j.bank ≤ a ∧ a < accKey u j.bank + 65536 then 0 else s.mem.read a) ∧
            ((e.unit u).accs.look j.bank {}).int = if j.closed = true then intBank j.ch else ((s.unit u).accs.look j.bank {}).int)) ∧
      (∀ w, j.kind = .routine → j.phase = 1 → j.next < j.nblocks → s.blockReady u j = some w →
        (w.blockIn u j j.next = (t, j', .ok (xs, ys)) →
          exec (.routineBlockComplete u jid) s = .next
            (((t.sumBlock u j' j'.next xs ys).1.updAcc u j'.bank fun a => { a with kdone := min j'.mnk.2.2 (32 * (j'.next + 1)) }).putJob u
              { j' with next := j'.next + 1, flags := j'.flags ||| (t.sumBlock u j' j'.next xs ys).2 })) ∧
        ∀ tr, w.blockIn u j j.next = (t, j', .error tr) → exec (.routineFault u jid) s = .next (t.stopRoutine u j' tr)) ∧
      (j.mnk.1 ≤ 128 → j.mnk.2.1 ≤ 128 → j.ch < 8 → j.image = sha3_512 (Config.standardImage j.ch) →
        ∀ b r c, r < j.mnk.1 → c < j.mnk.2.1 →
          let key := accKey u j.bank + 512 * r + 4 * c
          leVal ((s.sumBlock u j b xs ys).1.mem.readN key 4) = (blockElem j.ch (j.opFmt false) (j.opFmt true) (s.scaleOf j false b r)
            (s.scaleOf j true b c) (xs.getD r []) (ys.getD c []) (leVal (s.mem.readN key 4))).1) ∧
      (j.kind = .routine → j.phase = 1 → j.nblocks ≤ j.next →
        ∃ e, exec (.routineRetire u jid) s = .next e ∧ e.job? u jid = none)) ∧
  (∀ (s t w : State) (u jid n ri : Nat) (j j' : Job) (m : Image) (held : List Nat),
      let ends := fun (t : State) (j : Job) (m : Image) =>
        let r := t.install u j.c m j.early
        let j := { j with performed := true, image := m.bytes, digA := m.digest, early := r.2 }
        if 128 ≤ r.2.length then r.1.finishJob u j none 0 0 else r.1.putJob u j
      (LiveJob s u jid j → j.kind = .mprog → j.performed = false → s.ready u j (s.jobKeys u j) = some w → w.readImage u j = (t, j', .ok m) →
        exec (.mprogComplete u jid) s = .next (ends t j' m)) ∧
      (LiveJob s u jid j → j.kind = .mprog → j.performed = true → exec (.mprogComplete u jid) s = .next (ends s j ⟨j.image, j.digA⟩)) ∧
      (∀ v, ((s.install u ri m held).1.unit v).store =
        if v / 128 = u / 128 ∧ v ∉ held ∧ (s.unit v).runs ri = false then (s.unit v).store.put ri m else (s.unit v).store) ∧
      (∀ v, v ∈ (s.install u ri m held).2 ↔ v ∈ held ∨ (v / 128 = u / 128 ∧ (s.unit v).runs ri = false)) ∧
      ((s.unit u).jobs = [] → exec (.bankUncorrectable u n) s = .next (s.updAcc u n fun a => { a with poison := true })))

/-- The events of sends and primes: a SEND that may fire fires with its tile; a SENDT fires once its counter has reached its threshold; a
send whose packets are acknowledged completes, its egress record written first; a prime copies its tile's bytes, chunk digests and
counts into the landing slot, with ARRIVAL clear, notes the reads of its arrival and completes (R354-R358, R417). Landings and their
slots: a landing whose chunks have all arrived gets its digests and is counted in arrival order, on NEXTIN and on the counter of its
end; a blot deadline that has run out fills the missing chunks of its landing with zeros; a slot that holds no tile and that no job
uses returns its storage (R161, R344, R349, R350). -/
def Obligations.ChannelEvents : Prop :=
  (∀ (s t v : State) (u jid : Nat) (j : Job) (tile : TileRef) (e : ChanEnd) (ep : Endpoint), LiveJob s u jid j →
      ((∀ a b c d e f g, j.instr ≠ .sendt a b c d e f g) → s.mayFire u j = true → j.src = some tile → s.fireTile u j tile = some t →
        exec (.sendFire u jid) s = .next t) ∧
      (∀ q ch hs c sem thr ctr, j.instr = .sendt q ch hs c sem thr ctr → s.mayFire u j = true → (s.unit u).endpoint = some ep →
        j.b ≤ ep.ctrs.look j.c 0 → s.sentTrap u (s.jobCtx u j) j.ch j.a = none →
        s.tile? u (s.jobCtx u j) j.a = some tile → s.fireTile u j tile = some t → ((t.job? u j.jid).any fun j => j.fault.isSome) = false →
        exec (.sendtFire u jid) s = .next (t.readTile u j.cid tile j.a (if j.closed then 1 else 0))) ∧
      (s.end? u j.ch = some e → j.kind = .send → j.phase = 1 → j.stored.length ≤ j.done → s.packetsOf u j.jid = false →
        s.logEgress u j = some v → exec (.sendComplete u jid) s = .next (v.finishJob u j (some (sendLeaf e j)) 0 0)) ∧
      (j.kind = .prime → j.src = some tile → s.end? u j.ch = some e → s.primeBad j = none → s.acquiring u j = false →
        let d := e.slotOf j.arr
        ∃ z, exec (.primeComplete u jid) s = .next z ∧ z.job? u jid = none ∧ z.mem = s.mem.writeN (s.slotKey d) (s.tileBytes tile) ∧
          (z.slot d).valid = (s.slot tile).valid ∧ (z.slot d).cds = (s.slot tile).cds ∧ (z.slot d).arrival = 0 ∧
          ∃ e', z.end? u j.ch = some e' ∧ ((e'.landings.entry? j.arr).bind (·.reads)) = some j.b)) ∧
  (∀ (s : State) (u ch pad slot : Nat) (e : ChanEnd) (l : Landing) (ep : Endpoint),
      (s.end? u ch = some e → (s.unit u).freeze = 0 →
        let whole := (e.landings.map (·.2)).filter fun l => l.begun && !l.done && (s.slot (e.slotOf l.n)).whole
        exec (.landingComplete u ch) s =
          .next (((whole.foldl (fun s l => s.landDone u ch l) s).countLandings u ch (e.landings.length + 1)).applyAdds u ch)) ∧
      ((s.unit u).endpoint = some ep → ep.ends.entry? ch = some e → e.landings = [(e.nextIn, l)] → l.n = e.nextIn → l.begun = true →
        l.done = false → (s.slot (e.slotOf l.n)).whole = true → e.adds = [] → (s.unit u).freeze = 0 →
        ∃ t ep' e', exec (.landingComplete u ch) s = .next t ∧ (t.unit u).endpoint = some ep' ∧ ep'.ends.entry? ch = some e' ∧
          e'.nextIn = (e.nextIn + 1) % 2 ^ 32 ∧ ep'.ctrs.look e.ctr 0 = (ep.ctrs.look e.ctr 0 + 1) % 2 ^ 32 ∧
          (t.slot (e.slotOf l.n)).td = (s.slot (e.slotOf l.n)).tdNow ∧ t.mem = s.mem) ∧
      (s.end? u ch = some e → e.landings = [(l.n, l)] → l.dl = some 0 → l.done = false → l.begun = true → (s.unit u).freeze = 0 →
        exec (.blotDeadline u ch) s = .next ((List.range (chunksOf e.len)).foldl (fun s k => s.landChunk u ch l.n k none) s)) ∧
      ((s.slot ⟨pad, slot⟩).okind = 0 → (s.slot ⟨pad, slot⟩).busy = true → (s.slot ⟨pad, slot⟩).chan = none →
        (512 ≤ pad ∨ (s.unit pad).freeze = 0) → (s.units.any fun x => x.2.jobs.any fun j => j.onSlot ⟨pad, slot⟩) = false →
        exec (.slotStorageReturns pad slot) s = .next (s.updSlot ⟨pad, slot⟩ fun x => { x with busy := false })))

/-- A blot packet of a live port, which carries no number of the link, lands, its chunk marked when its digest does not fit; in a freeze
of the unit it waits for its end. The other received packets, in sequence and intact, act and are acknowledged: data land, slot-ready
packets raise READY, counter adds are queued and applied, bind notices bind, messages are accepted, refusals mark what was refused; in
a freeze of the unit data wait for its end (R170, R341, R342, R348, R359). The link: an acknowledgement releases what it covers; a
negative acknowledgement, or 8,192 cycles of the sending die since the oldest packet last left, sends again from the packet on; a
packet that the error correction lost is answered; loss of signal is timed and at 2^20 cycles drops the port dead; a port in training
comes up with its sequence numbers at 0; a packet's bytes, little-endian in the layout of R341, are the packet (R1, R341, R342). -/
def Obligations.PacketsAndLinkEvents : Prop :=
  (∀ (s : State) (port u : Nat) (p : Packet), (s.port port).dead = false → p.dstChip = s.chipId → s.unitOfEp p.dstEp p.ch = some u →
      (p.kind = 0 → p.blot = true →
        exec (.serifData port p) s = .next (if (s.unit u).freeze ≠ 0 ∨ (s.unit u).landQ ≠ [] then
          s.updUnit u fun x => { x with landQ := x.landQ ++ [(p, !digestOk p)] } else s.landData u p.ch p (!digestOk p))) ∧
      (digestOk p = true → p.lseq = (s.port port).expSeq →
      let r := s.updPort port fun x => { x with expSeq := (x.expSeq + 1) % 2 ^ 16, nackSent := false }
      r.unitOfEp p.dstEp p.ch = some u →
      let done := fun t : State => Host.Outcome.next (t.reply port (answer 1 t p p.lseq))
      (p.kind = 0 → p.blot = false → (r.unit u).freeze = 0 → (r.unit u).landQ = [] →
        exec (.serifData port p) s = done (r.landData u p.ch p false)) ∧
      (p.kind = 0 → p.blot = false → (r.unit u).freeze ≠ 0 →
        exec (.serifData port p) s = done (r.updUnit u fun x => { x with landQ := x.landQ ++ [(p, false)] })) ∧
      (p.kind = 3 → exec (.slotReady port p) s = done (r.updEnd u p.ch fun e => { e with ready := (e.ready + 1) % 2 ^ 32 })) ∧
      (p.kind = 4 → exec (.counterAdd port p) s =
        done ((r.updEnd u p.ch fun e => { e with adds := e.adds ++ [(p.tag % 2 ^ 32, p.n)] }).applyAdds u p.ch)) ∧
      (p.kind = 7 → exec (.bindNotice port p) s = done (r.applyNotice u p.ch p)) ∧
      (∀ t, p.kind = 5 → r.accept (fld p.n 10 2) (fld p.n 0 10) p.payload = some t → exec (.serifMailbox port p) s = done t) ∧
      (∀ o, p.kind = 6 → (markRefused p (r.port port).unacked).2 = some o → exec (.refusal port p) s =
        done ((r.updPort port fun x => { x with unacked := (markRefused p (r.port port).unacked).1 }).refused o.job o.cid)))) ∧
  (∀ (s : State) (port lseq now t0 : Nat) (p : Packet) (o : OutPkt) (r : List OutPkt),
      ((s.port port).dead = false → ((s.port port).unacked.any fun o => o.p.lseq == lseq) = true →
        exec (.serifNack port lseq) s = .next (s.goBack port lseq (max (s.port port).waitFrom (s.portNow port))) ∧
        exec (.serifAck port lseq) s = .next (((s.port port).unacked.filter fun o => seqLe o.p.lseq lseq).foldl (fun s o => s.ackPkt o)
          (s.updPort port fun x => PortSt.pump (s.portNow port)
            { x with rounds := 0, unacked := x.unacked.filter fun o => !seqLe o.p.lseq lseq }))) ∧
      ((s.port port).dead = false → (s.port port).unacked = o :: r →
        o.sentAt + 8192 ≤ max now (s.portNow port) →
        exec (.retransmitTimeout port now) s = .next (s.goBack port o.p.lseq (max now (s.portNow port)))) ∧
      ((s.port port).dead = false → p.dstChip = s.chipId → numbered p = true →
        exec (.fecFailure port p) s = .next (s.reply port (answer 2 s p p.lseq))) ∧
      ((s.port port).los = none → ∃ t, exec (.lossOfSignalChanges port true now) s = .next t ∧ (t.port port).los = some now) ∧
      (∃ t, exec (.lossOfSignalChanges port false now) s = .next t ∧ (t.port port).los = none) ∧
      ((s.port port).los = some t0 → (s.port port).dead = false → t0 + 2 ^ 20 ≤ now →
        exec (.lossOfSignalDead port now) s = .next (s.portDead port)) ∧
      ((s.port port).training = true → ∃ t : State, exec (.linkTrainingComplete port) s = .next ([0, 1, 2, 3].foldl State.flushWaiting t) ∧
        (t.port port).dead = false ∧ (t.port port).training = false ∧ (t.port port).nextSeq = 0 ∧ (t.port port).expSeq = 0) ∧
      (p.kind < 8 → p.red < 4 → p.dstChip < 2 ^ 20 → p.srcChip < 2 ^ 20 → p.dstEp < 2 ^ 8 → p.ch < 2 ^ 8 → p.srcEp < 2 ^ 8 → p.valid < 2 ^ 8 →
        p.n < 2 ^ 32 → p.chunk < 2 ^ 9 → p.lseq < 2 ^ 16 → p.tseq < 2 ^ 32 → p.tag < 2 ^ 64 →
        p.payload.length = (if p.kind = 0 then 512 else if p.kind = 5 then 64 else 0) → p.digest.length = (if p.kind = 0 then 32 else 0) →
        packetOf (packetBytes p) = some p ∧ leAt (packetBytes p) 2 3 = p.dstChip ∧ leAt (packetBytes p) 12 4 = p.n ∧
          leAt (packetBytes p) 18 2 = p.lseq ∧ leAt (packetBytes p) 24 8 = p.tag))

/-- The graph engine: a waiting node enters a free place of the window with its records and its edges; a ready node is queued on the
unit chosen for it; a unit with a free bank starts or steals, but nothing while the oldest ready node of a queue has waited 2^20 cycles and a
unit that has room fits it; the oldest ready node of a queue that has waited 2^20 graph-engine cycles,
and is bound to no unit, starts on the first unit that it fits (R116-R120, R125-R128). -/
def Obligations.SchedulerEvents : Prop :=
  ∀ (s t : State) (d q n u b now gk : Nat) (g : Graph) (x : Node) (k : Todo) (ks : List Todo) (bs : List Nat) (o : Obj) (tk : TaskRec)
      (fps : Map FpRec),
    ((s.die d).turnQ = some q → (s.die d).freeWin = some n → (s.die d).nextTodo q = some (gk, g) → g.todo = k :: ks → g.bindWait = false →
      (s.die d).objs.entry? g.obj = some o → o.tasks[k.task]? = some tk → instFps o tk k.params = some fps →
      ∃ e, exec (.nodeEntersWindow d q) s = .next e ∧ ∃ m, (e.die d).window.entry? n = some m ∧ m.queue = q ∧ m.graph = gk ∧ m.fps = fps ∧
        m.desc = ⟨o.base, tk, o.poolsOf tk⟩ ∧
        ∀ i, i ∈ m.deps ↔ ∃ z, (i, z) ∈ (s.die d).window ∧ z.queue = q ∧ ((fpsOf z.fps).any fun a => (fpsOf fps).any fun b => fpClash a b)) ∧
    ((s.die d).window.entry? n = some x → s.nodeReady d x = true → s.chooseUnit d x = some u →
      ((s.die d).window.any fun e => decide (e.2.age < x.age) && s.nodeReady d e.2 && s.chooseUnit d e.2 == some u) = false →
      (s.unit u).deque.length < 64 → ∃ e, exec (.nodeDispatch d n) s = .next e ∧
        (e.unit u).deque = (s.unit u).deque ++ [(n, x.desc.task.prio, x.queue)] ∧
        (e.die d).window.entry? n = some { x with state := .queued u, readyAt := x.readyAt.or (some (s.die d).cycle) }) ∧
    (s.takesWork u = true → (s.unit u).freeBanks = b :: bs → s.starvedFirst (u / 128) = false →
      s.tryStart (u / 128) u b true (s.unit u).tryOrder = some t → exec (.taskStart u) s = .next t) ∧
    (s.takesWork u = true → (s.unit u).freeBanks = b :: bs → s.starvedFirst (u / 128) = false →
      s.tryStart (u / 128) u b true (s.unit u).tryOrder = none →
      ((((List.range 16).map (u / 16 * 16 + ·)).filter fun v => v != u && (s.unit v).deque != []).foldl (fun l v => insVictim s v l) [] ++
        (((List.range 128).map (u / 128 * 128 + ·)).filter fun v => v / 16 != u / 16 && (s.unit v).deque != []).foldl
          (fun l v => insVictim s v l) []).findSome? (fun v => s.tryStart (u / 128) u b false (s.stealOrder (u / 128) v)) = some t →
      exec (.steal u) s = .next t) ∧
    (s.takesWork u = true → (s.unit u).freeBanks = b :: bs →
      (∃ m z v a as pt, (m, z) ∈ (s.die (u / 128)).window ∧ s.oldestReady (u / 128) z.queue = some (m, z) ∧
        s.waitSince (u / 128) z.queue z + 2 ^ 20 ≤ (s.die (u / 128)).cycle ∧ z.desc.task.bound = false ∧ v / 128 = u / 128 ∧
        s.takesWork v = true ∧ (s.unit v).freeBanks = a :: as ∧ s.fitNode (u / 128) v z = .ok pt) →
      exec (.taskStart u) s = .next s ∧ exec (.steal u) s = .next s) ∧
    (let r := s.clockTo d now
     (r.die d).cycle = max (s.die d).cycle now ∧
     (r.oldestReady d q = none → exec (.queueStarvation d q now) s = .next r) ∧
     (r.oldestReady d q = some (n, x) → (r.die d).cycle < r.waitSince d q x + 2 ^ 20 → exec (.queueStarvation d q now) s = .next r) ∧
     (∀ i pt, r.oldestReady d q = some (n, x) → r.waitSince d q x + 2 ^ 20 ≤ (r.die d).cycle → i < 128 → u = d * 128 + i →
       x.desc.task.bound = false →
       (∀ v, d * 128 ≤ v → v < u → r.takesWork v = false ∨ (r.unit v).freeBanks = [] ∨ ∀ pz, r.fitNode d v x ≠ .ok pz) →
       r.takesWork u = true → (r.unit u).freeBanks = b :: bs → r.fitNode d u x = .ok pt →
       exec (.queueStarvation d q now) s =
         .next ((r.startNode d n u b x pt).updQueue d q fun y => { y with waitFrom := (r.die d).cycle })))

/-- Tasks, graphs and messages end and arrive: a task that has ended leaves the window and releases its successors; a graph with nothing
left and nothing of it on its way passes its residue, writes its record when the earlier graphs of its queue have and the root of its residue
stands in the session's tree, or waits, and goes; a graph spawned is admitted, or
refused with its record to come, which then owes the signal; a message in order is delivered (R122, R134, R143, R220, R344). -/
def Obligations.CompletionEvents : Prop :=
  ∀ (s t w : State) (d n g u jid i : Nat) (x : Node) (y : Graph) (j j' : Job) (bs : Bytes) (m : Msg),
    ((s.die d).window.entry? n = some x → x.state = .ended u → ∃ e, exec (.taskComplete d n) s = .next e ∧
      (e.die d).window.entry? n = none ∧ (∀ k z, (e.die d).window.entry? k = some z → n ∉ z.deps) ∧
      ∀ r ∈ e.dir, ¬ (r.die = d ∧ r.node = n)) ∧
    ((s.die d).graphs.entry? g = some y → y.left = 0 → y.todo = [] → (∀ k ∈ y.sent, s.airborne k s.nextJid = false) → (if y.residued then some s else s.endChans d g y) = some w →
      let z := (w.die d).graphs.look g y
      let first := ∀ k h, (k, h) ∈ (s.die d).graphs → h.queue = y.queue → k < g → h.record = false
      let record := leBytes 8 z.seq ++ leBytes 4 z.flags ++ leBytes 4 z.status ++ leBytes 8 z.fences ++ leBytes 8 z.leaf
      let rooted := ∀ e ∈ (w.die d).rootQ, ¬(e.isSeal = false ∧ e.status = 2 ∧ e.queue = z.queue ∧ e.idx = z.leaf)
      (z.record = true → z.tried = false → first ∨ z.overlap = true → rooted → w.writeRec (w.whoQ d z.queue) z.sig record = (t, true) →
        exec (.graphComplete d g) s = .next ((t.updDie d fun v =>
          { v with graphs := if z.chans = [] then v.graphs.del g else v.graphs.put g { z with record := false } }).refusalRecorded z)) ∧
      (z.record = true → z.tried = false → first ∨ z.overlap = true → rooted → w.writeRec (w.whoQ d z.queue) z.sig record = (t, false) →
        exec (.graphComplete d g) s = .next (t.updDie d fun v => { v with graphs := v.graphs.put g { z with tried := true } })) ∧
      (z.record = true → z.tried = true ∨ (¬ first ∧ z.overlap = false) ∨ ¬ rooted →
        exec (.graphComplete d g) s = .next (w.freeChans d g z)) ∧
      (z.record = false →
        exec (.graphComplete d g) s = .next ((w.freeChans d g z).updDie d fun v => { v with graphs := v.graphs.del g }))) ∧
    (∀ r s' t', LiveJob s u jid j → j.kind = .spawn → s.ready u j (s.jobKeys u j) = some r →
      r.spawnHeader u j = (s', j', .ok bs) →
      s'.launchGraph j'.die j'.queue (wrapN 80 ((fpOf j'.fps j'.a).base + j'.b : Nat)) bs (j'.c == 1) (some (u, j'.cid, j'.jid)) =
        some t' →
      let refused := (((t'.die j'.die).graphs.entry? (s'.die j'.die).nextGraph).map fun z => z.status != 0 && z.record).getD false
      let owing := t'.updDie j'.die fun v => { v with graphs := v.graphs.adj (s'.die j'.die).nextGraph Graph.none fun z =>
        { z with owes := some (u, j'.cid, j'.sem) } }
      exec (.spawnAccepted u jid) s = .next (if refused then owing.dropJob u j'.jid else t'.finishJob u j' none 0 0)) ∧
    (∀ k e, y.owes = some (u, k, e) → e ≠ 0 → e ≠ 16 → s.refusalRecorded y =
      s.updCid u k fun c => { c with semV := c.semV.adj e 0 (· + 1), semP := c.semP.adj e 0 (· - 1) }) ∧
    (s.msgs[i]? = some m → m.request = 0 → s.msgFirst i m = true →
      exec (.mboxLocalDelivery i) s = .next (s.deliver i m (s.accept m.die m.mb m.bytes m.sealed)))

/-- A unit: its cycle runs; an empty bundle is a bundle of no slot; the secondary that has waited 64 cycles issues; a result in flight
lands early; a freeze ends; the watchdog looks at a context; soft errors freeze, uncorrectable ones poison (R65, R132, R136, R170,
R171). Banks: a handler is launched for the context parked in a bank or for a race; a swap whose cycles have run out ends, and the
spill engine takes the context that left, outside a freeze; a live context stalled for more than 256 cycles, between bundles or held
at the first bundle of its group, with no shape write in its shadow, is exchanged with the shadow's context, which may issue once the
24 cycles of the swap have passed: its results in flight have landed, and the held bundle is presented anew (R133, R170, R225, R236,
R250). That an empty live bank takes the shadow's context, an empty shadow a saved one, and that a saved context of another unit
moves, is the model's choice (log 40). -/
def Obligations.UnitEvents : Prop :=
  (∀ (s : State) (u b i pad slot k cl line cid p q : Nat) (ps : List Nat) (c : Ctx) (f : Fly) (acc : Bool),
      exec (.bundleIssue u) s = .next (s.cycleUnit u) ∧ exec .emptyBundle s = .next (s.runBundle []) ∧
      ((s.unit u).order = p :: q :: ps → (s.unit u).freeze = 0 → (s.die (u / 128)).idle = false → 64 ≤ (s.ctxAt u q).waited →
        exec (.mergeStarvation u) s = .next (s.starved u p q)) ∧
      (s.ctx? u b = some c → c.fly[i]? = some f → (s.unit u).freeze = 0 →
        exec (.fixedLatencyResultLands u b i) s = .next (s.setCtx u b (c.landWhere fun g => g == f))) ∧
      exec (.freezeEnd u) s = .next (s.updUnit u UnitSt.thaw) ∧
      ((s.unit u).freeze = 0 → exec (.watchdogW1 u b) s = .next (s.watch1 u b) ∧ exec (.watchdogW2 u b) s = .next (s.watch2 u b) ∧
        exec (.watchdogW3 u cid) s = .next (s.watch3 u cid)) ∧
      ((s.unit u).freeze ≠ 0 → exec (.watchdogW1 u b) s = .next s ∧ exec (.watchdogW2 u b) s = .next s ∧
        exec (.watchdogW3 u cid) s = .next s) ∧
      (∃ t, exec (.softErrorCorrected u acc) s = .next t ∧ (t.unit u).freeze ≠ 0) ∧
      exec (.padUncorrectable (.pad pad slot k)) s = .next (s.updSlot ⟨pad, slot⟩ fun x => { x with poison := setBit x.poison k }) ∧
      exec (.padUncorrectable (.global k)) s = .next { s with gpoison := s.gpoison.put (k / 64) () } ∧
      exec (.padUncorrectable (.code cl line)) s = .next { s with gpoison := s.gpoison.put (memKey (regCode cl) (64 * line) / 64) () }) ∧
  (∀ (s : State) (u b d n k : Nat) (w : Swap) (c o : Ctx),
      ((s.unit u).freeze = 0 → exec (.handlerLaunch (.parked u b)) s = .next (s.launchHandler u b)) ∧
      ((s.unit u).freeze = 0 → exec (.handlerLaunch (.race d n u)) s = .next (s.launchRace d n u)) ∧
      ((s.unit u).freeze = 0 → (s.unit u).swap = some w → w.left = 0 →
        exec (.contextSwapComplete u) s = .next ((s.updUnit u fun x => { x with swap := none }).spillShadow u)) ∧
      ((s.unit u).swap = none → (s.unit u).freeze = 0 → (s.unit u).liveBanks.contains b = true →
        ((s.unit u).ctxs.entry? b = some c → (s.unit u).ctxs.entry? (s.unit u).shadow = some o → o.startable = true → c.startable = true →
          (∀ e ∈ (s.unit u).ctxs, e.2.cid = c.cid → e.1 = b) → 256 < c.stall ∨ c.swapDue = true →
          (c.pres = none ∧ c.grpFrom = none ∨ ∃ p, c.pres = some p ∧ p.started = false ∧ c.grpFrom = some p.addr) →
          c.shapeOpen = false → (s.die (u / 128)).freeSave.isSome = true →
          ∃ t, exec (.stallSwap u b) s = .next t ∧ (t.unit u).shadow = b ∧ (t.unit u).swap = some ⟨(s.unit u).shadow, 24⟩ ∧
            t.ctx? u (s.unit u).shadow = some o ∧ ∃ c', t.ctx? u b = some c' ∧ c'.cid = c.cid ∧ c'.pc = c.pc ∧ c'.grpFrom = c.grpFrom ∧
              c'.stall = 0 ∧ c'.pres = none ∧ c'.fly = [] ∧ c'.shadow = c.shadow.filter fun x => decide (c.bundleNo < x.bundle + x.w.delay)) ∧
        (s.mayGive u b = true → (s.unit u).ctxs.entry? (s.unit u).shadow = none → (s.die (u / 128)).savedOf u = some (k, c) →
          exec (.stallSwap u b) s = .next ((s.setCtx u (s.unit u).shadow c).updDie (u / 128) fun y => { y with saved := y.saved.del k })) ∧
        (s.mayGive u b = true → (s.unit u).ctxs.entry? (s.unit u).shadow = none → (s.die (u / 128)).savedOf u = none →
          ((s.die (u / 128)).saved.find? fun e => s.migrates u e.2) = some (k, c) →
          exec (.stallSwap u b) s = .next (s.migrate u k c)) ∧
        ((s.unit u).ctxs.entry? (s.unit u).shadow = some o → o.startable = true → (s.unit u).ctxs.entry? b = none →
          exec (.stallSwap u b) s = .next (s.swapIn u (s.unit u).shadow b))))

/-- The host: a doorbell writes TAIL and the queue reads on, or stops when TAIL is further from HEAD than the ring is long; a register of a
disabled queue is written, TAIL always; queue q of die d has its registers at d * 0x4_0000 + q * 64 of BAR0; the packet at the head of a
queue acts and completes: LAUNCH admits its graph, PATCH makes a version, LOAD and its completion make an object, BARRIER waits for the
graphs, SIGNAL sets a signal, SEAL starts a seal, BIND binds, UNLOAD drops the reference, or begins to wait for earlier
graphs (R140, R399-R408). -/
def Obligations.HostEvents : Prop :=
  ∀ (s t v : State) (d q off tail val base al : Nat) (p : Pkt) (bs nb code : Bytes) (o : Obj),
    (let r := s.updQueue d q fun x => { x with tail := tail % 2 ^ 32 }
     let far := (tail % 2 ^ 32 + 2 ^ 32 - (s.queue d q).head) % 2 ^ 32
     (far ≤ 2 ^ (s.queue d q).rsize → exec (.doorbell d q tail) s = .next (r.readOn d q 65537)) ∧
     (2 ^ (s.queue d q).rsize < far → exec (.doorbell d q tail) s = .next (r.updQueue d q fun x => { x with stopped := true }))) ∧
    exec (.registerWrite d q 0x10 tail) s = exec (.doorbell d q tail) s ∧
    ((s.queue d q).en = false → 1 ≤ val → val ≤ 16 → exec (.registerWrite d q 8 val) s = .next (s.updQueue d q fun x => { x with rsize := val })) ∧
    ((s.queue d q).en = false →
      exec (.registerWrite d q 0 val) s = .next (s.updQueue d q fun x => { x with rbase := fld val 0 3 + fld val 12 40 * 2 ^ 12 })) ∧
    ((s.queue d q).en = true → off ≠ 0x10 → exec (.registerWrite d q off val) s = .next s) ∧
    (d < 4 → q < 4096 → off < 64 →
      exec (.registerWrite d q off val) s = .next (s.hostWrite (d * 0x40000 + q * 64 + off) val) ∧
      s.hostRead (d * 0x40000 + q * 64 + off) = s.regRead d q off) ∧
    (s.regRead d q 0 = (s.queue d q).rbase ∧ s.regRead d q 8 = (s.queue d q).rsize ∧ s.regRead d q 0x10 = (s.queue d q).tail ∧
      s.regRead d q 0x18 = (s.queue d q).head ∧
      s.regRead d q 0x20 = (if (s.queue d q).en then 1 else 0) + (if (s.queue d q).stopped then 2 else 0)) ∧
    (s.pktAt d q 1 = some p → s.readVA (s.whoQ d q) p.addr1 64 = (t, some bs) → t.launchGraph d q p.addr1 bs (p.flags == 1) none = some v →
      exec (.launch d q) s = .next (v.pktDone d q 0 0 0)) ∧
    (s.pktAt d q 2 = some p → s.readVA (s.whoQ d q) p.addr1 64 = (t, some bs) → t.readVA (s.whoQ d q) p.addr2 64 = (v, some nb) →
      p.arg32 < (graphHdr bs).npblk →
      ((s.die d).blocks.any fun x => x.hdr == hdrKey q p.addr1 && x.idx == p.arg32 && decide (4 ≤ x.live)) = false →
      exec (.patch d q) s = .next ((v.updDie d fun x => x.patch (hdrKey q p.addr1) p.arg32 (wordsOf nb)).pktDone d q p.rec' 0 0)) ∧
    (s.pktAt d q 3 = some p → s.readVA (s.whoQ d q) p.addr1 p.arg64 = (t, some bs) → loadObj bs q = .ok (o, code, al) →
      codeBase (2 ^ al) code.length 0 (((t.die d).objs.map fun e => (e.2.base, e.2.code)).foldl (fun l r => insRange r l) []) = some base →
      ∃ e, exec (.load d q) s = .next e ∧ (e.queue d q).loading = some ((t.die d).nextObj, p.rec')) ∧
    (∀ h r, (s.queue d q).strays = [] → (s.queue d q).loading = some (h, r) →
      ∃ e : State, exec (.loadComplete d q) s = .next (e.pktDone d q r 0 h) ∧ (e.queue d q).loading = none) ∧
    (s.pktAt d q 5 = some p → ((s.die d).graphs.any fun g => g.2.queue == q && g.2.record && g.2.spawned.isNone) = false →
      exec (.barrier d q) s = .next (s.pktDone d q p.rec' 0 0)) ∧
    (∀ k g, s.pktAt d q 6 = some p →
      ((s.die d).graphs.find? fun g => g.2.queue == q && g.2.seq == p.arg64 && (s.die d).window.any fun n => n.2.graph == g.1) = some (k, g) →
      ∃ e : State, exec (.signal d q) s = .next (e.pktDone d q p.rec' 0 0) ∧
        ∃ g', (e.die d).graphs.entry? k = some g' ∧ p.arg32 ∈ g'.signals ∧ ∀ n ∈ g.signals, n ∈ g'.signals) ∧
    (s.pktAt d q 7 = some p → (s.queue d q).strays = [] → s.sealTrap d q = none →
      exec (.hostSeal d q) s = .next ((s.updDie d fun x => x.putSeal q (sealKey q (s.queue d q).sess)).updQueue d q fun x =>
        { x with sealing := some p.rec' })) ∧
    (s.pktAt d q 8 = some p → ((s.die d).objs.entry? p.arg32) = some o → o.refs.contains q = true → s.endpointUnit d q = none → p.addr1 = 0 →
      exec (.bind d q) s = .next ((s.updQueue d q fun x => { x with binding := some (p.arg32, fld p.arg64 0 8, fld p.arg64 8 7, []) }).pktDone
        d q p.rec' 0 0)) ∧
    (s.pktAt d q 4 = some p → (s.queue d q).unloads = [] → ((s.die d).objs.entry? p.arg32) = some o → o.refs.contains q = true →
      (s.launched d q = [] → exec (.unload d q) s = .next ((s.updDie d fun x => x.dropRef q p.arg32).pktDone d q p.rec' 0 0)) ∧
      (s.launched d q ≠ [] →
        ∃ e : State, exec (.unload d q) s = .next (e.pktDone d q 0 0 0) ∧ (e.queue d q).unloads.length = 1))

/-- The supervisor's registers and the configuration mailbox: translation entries go; a queue's root, enable and disable, a pool's
layout, a fence, a held node, a statistics record; the chip identifier, the route table and a port's training (R124, R156, R238, R239,
R340, R374, R407, R419). -/
def Obligations.ConfigurationEvents : Prop :=
  ∀ (s : State) (d q u n idx val cap i : Nat) (m : Msg),
    (csrIdxOk d 0x40 idx = true → exec (.xinv d idx val) s = .next (s.xinv d idx val)) ∧
    (csrIdxOk d 0x11 q = true → s.csrValOk d 0x11 q val = true → exec (.qrootWrite d q val) s = .next (s.setQroot d q val)) ∧
    exec (.nodectlRelease d n) s = .next (s.releaseNode d n) ∧ exec (.nodectlFail d n) s = .next (s.failNode d n) ∧
    (u < 128 → exec (.ufenceClear d u) s = .next (s.ufenceClear (d * 128 + u)) ∧
      exec (.ufenceSet d u) s = .next (s.fenceUnit (d * 128 + u) 4)) ∧
    (q < 4096 → (s.queue d q).en = false → exec (.qctlEnable d q) s = .next (s.enableQueue d q)) ∧
    (q < 4096 → (s.queue d q).en = true → exec (.qctlDisable d q) s = .next (s.disableQueue d q)) ∧
    (s.poolOk d idx val = true → exec (.poolcfgWrite d idx val) s = .next (s.setPool d idx val)) ∧
    (s.statTrap d cap = none → exec (.statrd d cap) s = .next (s.popStat d cap).1) ∧
    (s.configMsg d 1 = some (i, m) → s.chipSet = false →
      exec (.setchip d) s = .next (s.deliver i m (some { s with chipId := fld (leAt m.bytes 4 4) 0 20, chipSet := true }))) ∧
    (s.configMsg d 2 = some (i, m) →
      let table := s.routeTable (leAt m.bytes 8 8 % 2 ^ 3) (leAt m.bytes 8 8 / 2 ^ 16 % 2 ^ 36 * 2 ^ 16)
      let blocks := (List.range (2 ^ 14)).filterMap fun b =>
        placeKey (leAt m.bytes 8 8 % 2 ^ 3) (leAt m.bytes 8 8 / 2 ^ 16 % 2 ^ 36 * 2 ^ 16 + 64 * b)
      exec (.setroute d) s = .next ((s.deliver i m (some ((s.countVA d blocks).updDie d fun x => { x with routes := table }))).flushWaiting d)) ∧
    (∀ place pa chip port, (chip, port) ∈ s.routeTable place pa ↔ chip < 2 ^ 20 ∧ ∃ key, placeKey place (pa + chip) = some key ∧
      (s.mem.read key).getLsbD 7 = true ∧ port = (s.mem.read key).toNat % 32 ∧ port < 20) ∧
    (s.configMsg d 3 = some (i, m) → leAt m.bytes 4 1 / 5 = d → leAt m.bytes 4 1 < 20 →
      exec (.retrain d) s = .next (s.deliver i m (some (s.updPort (leAt m.bytes 4 1) fun x => if x.dead then { x with training := true } else x))))

/-- The security core: while no record head is kept, each request is answered; GET_VERSION always is. What fuses, keys and random sources
hold are free values (log 6); the answer to a request of another OP, with its OP, its region and step 0, is the model's reading (log
85). Egress meters: a refill adds the rate to every region's tokens, up to its burst (R414). -/
def Obligations.SecurityCoreAnswers : Prop :=
  (∀ (s t v : State) (code off len idx : Nat) (nonce : Bytes) (req : ImportReq) (bs : List (Nat × Bytes)) (r : Region),
      exec .getVersion s = .next (s.answer .version) ∧
      (s.sec.heads = [] →
        exec .getCapabilities s = .next (s.answer .capabilities) ∧ exec .negotiateAlgorithms s = .next (s.answer .algorithms) ∧
        exec .getDigests s = .next (s.answer (.digests (sha3_512 Config.certChain))) ∧
        exec (.getCertificate 0 off len) s = .next (s.answer (.certificate ((Config.certChain.drop off).take len))) ∧
        (∃ sig, exec (.challenge 0 nonce) s = .next (s.answer (.challengeAuth sig))) ∧
        (s.measureBlocks idx = some bs → exec (.getMeasurements idx false nonce) s = .next (s.answer (.measurements bs []))) ∧
        exec (.unsupportedRequest code) s = .next (s.answer (.errorUnsupported code)) ∧
        (req.op = 1 → s.importTo req = .ok t → t.logRecord { kind := 1 } = some v →
          exec (.importRegion req) s = .next (v.answer (.vendorDone 1 req.region))) ∧
        (∀ step, req.op = 1 → s.importTo req = .error (step, t) → t.logRecord { kind := 4 } = some v →
          exec (.importRegion req) s = .next (v.answer (.errorInvalid 1 req.region step))) ∧
        (req.op = 2 → exec (.importRegion req) s = exec (.release req.region) s) ∧
        (req.op ≠ 1 → req.op ≠ 2 → exec (.importRegion req) s = .next (s.answer (.errorInvalid req.op req.region 0))) ∧
        (s.sec.regions.entry? idx = some r → (s.tasksRunning.any fun q => s.mapsRegion (s.space q.1 q.2) idx) = false →
          (s.writeGlobal (placeKeys r.place r.base r.len) (zeros r.len)).logRecord { kind := 2 } = some v →
          exec (.release idx) s = .next (State.answer { v with sec := { v.sec with regions := v.sec.regions.del idx } } (.vendorDone 2 idx))) ∧
        (s.signHead = some v → exec .signLogHead s = .next (v.answer (.vendorDone 0 0))))) ∧
  (∀ (s : State) (i : Nat) (r : Region), s.sec.regions.entry? i = some r →
      ∃ t, exec .meterRefill s = .next t ∧ ∃ r', t.sec.regions.entry? i = some r' ∧ r'.tok = min r.burst (r.tok + r.rate) ∧ r'.rate = r.rate ∧
        r'.burst = r.burst ∧ r'.base = r.base ∧ r'.len = r.len ∧ t.mem = s.mem ∧ t.units = s.units ∧ t.dies = s.dies)

/-- The audit engine: the head of the root queue is written when the ring has room; a question about a node is answered with two messages;
a configuration read takes effect with an empty log and tree; an audit job that has run writes its word and completes, or stops at its
fault. That a replay first finds in an event of its own how much it captures is the model's way (log 77) (R376, R381-R384). -/
def Obligations.AuditEvents : Prop :=
  ∀ (s t : State) (d u jid : Nat) (a : AudCfg) (e : RootEnt) (es : List RootEnt) (j j' : Job) (msg : Bytes) (ans : List NodeAnswer),
    ((s.die d).aud = some a → (s.die d).rootQ = e :: es → e.isSeal = false →
      (s.updDie d fun x => { x with rootQ := es }).writeRoot d a e = some t → exec (.rootLogWrite d) s = .next t) ∧
    ((s.die d).serves = true → isNodeRequest msg = true → leAt msg 4 4 = s.chipId → ∃ z, exec (.auditNodeRequest d msg) s = .next z ∧
      ∃ m n, z.msgs = s.msgs ++ [m, n] ∧ n.bytes = padTo 64 (s.answerOf d (leAt msg 10 2) (leAt msg 16 8) (leAt msg 24 8) (leAt msg 32 8)).digest) ∧
    (∀ w, LiveJob s u jid j → j.kind = .audConfig → s.ready u j (s.jobKeys u j) = some w → w.readCfg u j = (t, j', .ok a) →
      exec (.auditConfigTakesEffect u jid) s = .next (((t.writeLog j'.die a 0 (zeros 64)).updDie j'.die fun x =>
        { x with aud := some a, logWrite := 0, tree := [], treeW := 0 }).finishJob u j' none 0 0)) ∧
    (∀ w f, LiveJob s u jid j → j.kind = .audit → (j.c = 2 → j.cap.isSome = true) → s.ready u j (s.jobKeys u j) = some w →
      w.runAudit u j ans = .fault t j' f → exec (.auditJobComplete u jid ans) s = .next (t.putJob u { j' with fault := some f, paid := 0 })) ∧
    (∀ w, LiveJob s u jid j → j.kind = .audit → j.c = 2 → j.cap = none →
      s.ready u { j with cap := some 0 } (s.jobKeys u { j with cap := some 0 }) = some w → w.runAudit u j ans = .done t j' →
      exec (.auditJobComplete u jid ans) s = .next (w.putJob u { j with cap := some (j'.cap.getD 0) })) ∧
    (∀ w, LiveJob s u jid j → j.kind = .audit → (j.c = 2 → ∃ n, j.cap = some n ∧ j'.cap.getD 0 ≤ n) →
      s.ready u j (s.jobKeys u j) = some w → w.runAudit u j ans = .done t j' →
      let r := match j'.dreg with
        | some (dest, ticket) => t.updCid u j'.cid fun c => c.engineWrite dest ticket j'.next
        | none => t
      exec (.auditJobComplete u jid ans) s = .next (r.finishJob u j' none 0 0))

/-- Power and heat: power-on counts the start and begins the tests; a gated die issues nothing and a release ends the gating; the thermal
shutdown drops every port dead, fences every unit and powers down (R420, R421). Two clauses are the model's choices and no rule's: that power-on
of a module that is on leaves the state as it is (log 5, DESIGN CHOICE), and that after the shutdown only power-on goes on, a step with no event
due answering the fault poweredDown (log 53, DEDUCED). -/
def Obligations.PowerAndHeat : Prop :=
  ∀ (s : State) (d port u : Nat) (nonce : Bytes),
    (s.power ≠ .on → ∃ t, exec (.powerOn nonce) s = .next t ∧ t.power = .on ∧ t.sec.bootc = min 4096 (s.sec.bootc + 1)) ∧
    (s.power = .on → exec (.powerOn nonce) s = .next s) ∧
    exec (.thermalGate d) s = .next (s.updDie d fun x => { x with gated := true }) ∧
    exec (.thermalGateRelease d) s = .next (s.updDie d fun x => { x with gated := false }) ∧
    (∃ t, exec .thermalShutdown s = .next t ∧ t.power = .down ∧ (t.port port).dead = true ∧ (t.unit u).fence ≠ 0 ∧
      (t.agenda = [] → step t = .fault .poweredDown))

/-! ## Encoding, the step, reset (03_bundles.md, 95_what_each_step_holds.md) -/

/-- The operations: what a slot can hold. -/
def Sys2Proof.IsOperation (i : Instr) : Prop := (encodeSyl i).isSome = true

/-- Every well-formed operation, encoded as a bundle of its own, decodes to itself, whatever follows it in its line: no bit of an
encoding is dropped. -/
def Obligations.EncodedOperationsDecode : Prop :=
  ∀ (i : Instr) (rest : Bytes), i.wf = true → IsOperation i → decodeOne (encode i ++ rest) = some i

/-- Bundles whose bytes the spec writes out decode to the operations it names, and the two special headers are what it says. -/
def Obligations.WrittenBundlesDecode : Prop :=
  decodeOne [0x81, 0x40, 0x56, 0x2A, 0x01] = some (.add 9 10 10 25) ∧ decodeOne [0x81, 0x00, 0x00, 0x18, 0x49] = some (.movs 8 24 0) ∧
  decodeOne [0x82, 0x0A, 0x10, 0x01, 0x18] = some (.loopr 0 1 1 10) ∧ decodeOne [0x82, 0x00, 0x00, 0x00, 0x44] = some (.taskend 0) ∧
  decodeOne [0x82, 0x00, 0x60, 0x09, 0x40] = some (.fence 0 9 3) ∧ decodeOne [0x82, 0x07, 0x00, 0x00, 0x80] = some (.trap 0 7) ∧
  decodeOne [0x82, 0x00, 0x00, 0x00, 0x84] = some (.eret 0) ∧ decodeOne [0x82, 0x00, 0x00, 0x00, 0x94] = some (.iflush 0) ∧
  decodeOne [0x84, 0xF8, 0x07, 0x00, 0x18] = some (.vshape 0 0 255) ∧
  decodeOne [0x84, 0x0A, 0x21, 0x06, 0x1C] = some (.fpnarrow 0 3 1 0 4 5) ∧
  decodeOne [0x88, 0x2B, 0x18, 0x09, 0x1C] = some (.ldt 0 9 1 2 0 43) ∧ decodeOne [0x88, 0x00, 0x00, 0x02, 0x2C] = some (.trel 0 1) ∧
  decodeOne [0xA0, 0x20, 0x0A, 0x00, 0x00] = some (.mcall 0 0 2 1 1) ∧ decodeOne [0xC0, 0x80, 0x69, 0x04, 0x00] = some (.copyout 0 2 1 1 1 3) ∧
  decodeOne [0x90, 0x40, 0x20, 0x04, 0x52, 0x00, 0x00, 0x00, 0x00] = some (.vsfu 0 2 1 1 0 0 0) ∧
  decodeOne [0x80] = some .emptyBundle ∧ decodeLine [0x00, 0x01] = .linePad

/-- A syllable whose op the map of its slot marks reserved is refused as such, whatever its other bits. -/
def Obligations.ReservedOpsAreRefused : Prop :=
  ∀ y : Syl, y.w < 2 ^ 32 →
    let op := fld y.w 26 6
    (y.slot = 0 ∧ 0x13 ≤ op) ∨ (y.slot = 1 ∧ ((0x15 ≤ op ∧ op ≤ 0x1F) ∨ (0x28 ≤ op ∧ op ≤ 0x2F) ∨ 0x36 ≤ op)) ∨ (y.slot = 2 ∧ 9 ≤ op) ∨
      (y.slot = 3 ∧ 0xF ≤ op) ∨ (y.slot = 4 ∧ 0x21 ≤ op) ∨ (y.slot = 5 ∧ 9 ≤ op) ∨ (y.slot = 6 ∧ 0xE ≤ op) →
    decodeSyl y = .err .reservedOp

/-- The unit whose cycle the next step is, when no event is due (log 2). -/
def Sys2Proof.nextUnit (s : State) : Nat := State.turnUnit { s with turn := s.turn + 1 } (s.turn / 2)

/-- The machine in that cycle before its merge stage: CYCLE and the graph engine's cycle have counted, and what else a cycle of the unit
does has been done (R13, R128, R133, R136, R170, R219, R424). -/
def Sys2Proof.cycled (s : State) (b : Nat) : State :=
  let u := nextUnit s
  let t : State := (({ s with turn := s.turn + 1 } : State).tickDie u).updUnit u fun x => { x with cycle := (x.cycle + 1) % 2 ^ 64 }
  let t := ((t.updUnit u UnitSt.thaw).tickSwap u).updUnit u fun x => x.tickWatch.tickDeadlines.tickLanes
  { ((((t.endSteps u).landHeld u).leaveWaiting u).drainGather u).settleLeaves u with curU := u, curB := b }

/-- That machine as bank `b` of the unit presents its bundle: the wait counts of the merge stage are looked at, what is due has landed, and the
context has fetched (R65, R132, R168). -/
def Sys2Proof.presenting (s : State) (b : Nat) : State :=
  let t := ((cycled s b).updUnit (nextUnit s) UnitSt.onlySecondary).begin
  t.updCur fun c => t.fetchLines t.curU c

/-- A STEP RUNS THE DECODED OPERATION: in a cycle of a unit one of whose banks issues, when the bytes at the PC of its context decode to a
bundle of one operation, the step is that operation's exec at the machine that presents it; a bundle that is held counts a stall. -/
def Obligations.StepRunsTheDecodedOperation : Prop :=
  ∀ (s : State) (b len : Nat) (y : Syl) (i : Instr), s.power = .on → s.agenda = [] → s.turn % 2 = 0 →
    (s.unit (nextUnit s)).freeze ≤ 1 →
    let w := cycled s b
    let r := presenting s b
    (w.die (nextUnit s / 128)).idle = false → (w.unit (nextUnit s)).order = [b] → w.cur.wdKill = false → w.cur.stopReq = false →
    w.cur.fencing = none → w.cur.pres = none → r.begin = r → (skipPads (r.codeByte r.curU r.cur) 65536 r.cur.pc).1 = r.cur.pc →
    (r.cur.inRun = true ∨ r.scanRun r.curU r.cur 1048576 r.cur.pc = none) → r.brkHit r.cur = none →
    decodeLine (r.codeLine r.curU r.cur r.cur.pc) = .bundle true len [y] → decodeBundle r.cur.level r.cur.m3 r.cur.grp [y] = .ok [i] →
    len = 1 + i.syl.bytes.length → (semOf i).isSome = true → (supervisorOp i = true → r.cur.level ≠ 0) →
    ∃ z, exec i r = .next z ∧ step s = .next z.noteStall

/-- AN INVARIANT: from every state whose memory is in its canonical form, every operation, every event and every step leaves it in that
form: addresses rise, and no entry equals what an unlisted byte reads as. Equal memories stay equal data. The machine right after reset
has it (ResetState). -/
def Obligations.StepsKeepMemoryCanonical : Prop :=
  (∀ (i : Instr) (s t : State), MemOk s → exec i s = .next t → MemOk t) ∧ ∀ s t : State, MemOk s → step s = .next t → MemOk t

/-- Right after reset the module is off, no event is due, every unit is fenced, every port is dead, every queue is disabled, and each
register of R238 reads what its table gives: LEVEL the reader's level, the capacities what is installed, UFENCE fenced with reason 5,
SAVEN 128, every other 0. That no unit holds a context or a job, and no die a capability or a graph, is the model's choice (log 16).
Right after reset the memory is in its canonical form, and every byte reads as what an unlisted byte does: 0, the model's choice (log
1). -/
def Obligations.ResetState : Prop :=
  (State.reset.power = .off ∧ State.reset.agenda = [] ∧
    (∀ u, (State.reset.unit u).fence = 5 ∧ (State.reset.unit u).ctxs = [] ∧ (State.reset.unit u).jobs = [] ∧ (State.reset.unit u).secorr = 0) ∧
    (∀ p, (State.reset.port p).dead = true) ∧
    (∀ d q, (State.reset.queue d q).en = false ∧ (State.reset.die d).caps = [] ∧ (State.reset.die d).graphs = []) ∧
    ∀ d level n idx, State.reset.csr d level n idx =
      if n = 0x000 then level else if n = 0x033 then 2 ^ 37 else if n = 0x034 then 96 * 2 ^ 30 else if n = 0x035 then 0xB
      else if n = 0x042 then 128 else 0) ∧
  (MemOk State.reset ∧ ∀ a, State.reset.mem.read a = 0)

end
end

