-- ==== Sys2Proof/Laws/Map.lean ====
section
/-!
SUPPORT. Finite maps: an entry reads as it was last set, and setting one leaves every other alone. Byte memory: a write is read back,
leaves every other byte alone, and keeps the canonical form.
-/
set_option Elab.async false

namespace Sys2Proof.Machine

variable {α β : Type}

@[simp] theorem Map.entry_put_same (m : Map α) (k : Nat) (v : α) : Map.entry? (Map.put m k v) k = some v := by
  induction m with
  | nil => simp [Map.put, Map.entry?]
  | cons e m ih =>
    unfold Map.put
    split
    · simp [Map.entry?]
    · split
      · simp [Map.entry?]
      · next h => simp [Map.entry?, h, ih]

theorem Map.entry_put_other (m : Map α) (k j : Nat) (v : α) (h : j ≠ k) : Map.entry? (Map.put m k v) j = Map.entry? m j := by
  induction m with
  | nil => simp [Map.put, Map.entry?, h.symm]
  | cons e m ih =>
    unfold Map.put
    split
    · simp [Map.entry?, h.symm]
    · split
      · next _ h2 => simp [Map.entry?, h.symm, h2]
      · simp [Map.entry?, ih]

@[simp] theorem Map.look_put_same (m : Map α) (k : Nat) (v d : α) : Map.look (Map.put m k v) k d = v := by simp [Map.look]

theorem Map.look_put_other (m : Map α) (k j : Nat) (v d : α) (h : j ≠ k) : Map.look (Map.put m k v) j d = Map.look m j d := by
  simp [Map.look, Map.entry_put_other m k j v h]

@[simp] theorem Map.put_put (m : Map α) (k : Nat) (v w : α) : Map.put (Map.put m k v) k w = Map.put m k w := by
  induction m with
  | nil => simp [Map.put]
  | cons e m ih =>
    simp only [Map.put]
    split
    · simp [Map.put]
    · split
      · simp [Map.put]
      · next h1 h2 => simp [Map.put, h1, h2, ih]

theorem Map.entry_del (m : Map α) (k j : Nat) : Map.entry? (Map.del m k) j = if j = k then none else Map.entry? m j := by
  induction m with
  | nil => simp [Map.del, Map.entry?]
  | cons e m ih =>
    unfold Map.del at ih ⊢
    by_cases h : e.1 = k
    · simp only [h, ne_eq, not_true_eq_false, decide_false, Bool.false_eq_true, not_false_eq_true, List.filter_cons_of_neg, ih]
      by_cases h2 : j = k
      · simp [h2]
      · simp [Map.entry?, h, h2, Ne.symm h2]
    · simp only [ne_eq, h, not_false_eq_true, decide_true, List.filter_cons_of_pos, Map.entry?, ih]
      by_cases h2 : j = k
      · simp [h2, h]
      · simp [h2]

/-! ## Byte memory -/

/-- A map changed entry by entry. -/
theorem Map.entry_mapv {β : Type} (m : Map α) (f : α → β) (k : Nat) : Map.entry? (Map.mapv m f) k = (Map.entry? m k).map f := by
  induction m with
  | nil => rfl
  | cons e es ih =>
    simp [Map.mapv, Map.entry?] at *
    split <;> simp_all

theorem Mem.wfFrom_mono {a b : Nat} (h : b ≤ a) (m : Mem) (w : Mem.wfFrom a m = true) : Mem.wfFrom b m = true := by
  cases m with
  | nil => rfl
  | cons c m =>
    simp only [Mem.wfFrom, Bool.and_eq_true, decide_eq_true_eq] at w ⊢
    exact ⟨⟨h.trans w.1.1, w.1.2⟩, w.2⟩

theorem Mem.wfFrom_filter (p : Host.Cell → Bool) (m : Mem) : ∀ a, Mem.wfFrom a m = true → Mem.wfFrom a (m.filter p) = true := by
  induction m with
  | nil => intro a _; rfl
  | cons c m ih =>
    intro a w
    simp only [Mem.wfFrom, Bool.and_eq_true, decide_eq_true_eq] at w
    by_cases h : p c = true
    · simp only [List.filter_cons_of_pos h, Mem.wfFrom, Bool.and_eq_true, decide_eq_true_eq]
      exact ⟨w.1, ih _ w.2⟩
    · rw [List.filter_cons_of_neg h]
      exact ih _ (Mem.wfFrom_mono (by omega) m w.2)

theorem Mem.wfFrom_append (m n : Mem) (b : Nat) : ∀ a, a ≤ b → Mem.wfFrom a m = true → (∀ c ∈ m, c.1 < b) →
    Mem.wfFrom b n = true → Mem.wfFrom a (m ++ n) = true := by
  induction m with
  | nil => intro a h _ _ w; exact Mem.wfFrom_mono h n w
  | cons c m ih =>
    intro a _ w hb wn
    simp only [Mem.wfFrom, Bool.and_eq_true, decide_eq_true_eq, List.cons_append] at w ⊢
    have hc : c.1 < b := hb c (by simp)
    exact ⟨w.1, ih _ (by omega) w.2 (fun x hx => hb x (by simp [hx])) wn⟩

theorem Mem.cells_wf (bs : Bytes) : ∀ a, Mem.wfFrom a (Mem.cells a bs) = true := by
  induction bs with
  | nil => intro a; rfl
  | cons b bs ih =>
    intro a
    unfold Mem.cells
    split
    · exact Mem.wfFrom_mono (by omega) _ (ih (a + 1))
    · next h => simp only [Mem.wfFrom, Bool.and_eq_true, decide_eq_true_eq]; exact ⟨⟨le_refl a, h⟩, ih (a + 1)⟩

theorem Mem.cells_lt (bs : Bytes) : ∀ a, ∀ c ∈ Mem.cells a bs, a ≤ c.1 ∧ c.1 < a + bs.length := by
  induction bs with
  | nil => intro a c h; cases h
  | cons b bs ih =>
    intro a c h
    unfold Mem.cells at h
    split at h
    · have := ih _ c h; simp only [List.length_cons]; omega
    · rcases List.mem_cons.mp h with rfl | h
      · simp
      · have := ih _ c h; simp only [List.length_cons]; omega

theorem Mem.wfFrom_above (m : Mem) (b : Nat) : ∀ a, Mem.wfFrom a m = true →
    Mem.wfFrom b (m.filter fun c => decide (b ≤ c.1)) = true := by
  induction m with
  | nil => intro a _; rfl
  | cons c m ih =>
    intro a w
    simp only [Mem.wfFrom, Bool.and_eq_true, decide_eq_true_eq] at w
    by_cases h : b ≤ c.1
    · rw [List.filter_cons_of_pos (by simpa using h)]
      simp only [Mem.wfFrom, Bool.and_eq_true, decide_eq_true_eq]
      exact ⟨⟨h, w.1.2⟩, Mem.wfFrom_filter _ m _ w.2⟩
    · rw [List.filter_cons_of_neg (by simpa using h)]
      exact ih _ w.2

/-- A write keeps the canonical form. -/
theorem Mem.wf_writeN (m : Mem) (a : Nat) (bs : Bytes) (h : m.wf = true) : (m.writeN a bs).wf = true := by
  unfold Mem.wf Mem.writeN at *
  refine Mem.wfFrom_append _ _ (a + bs.length) 0 (by omega) ?_ ?_ (Mem.wfFrom_above m _ 0 h)
  · refine Mem.wfFrom_append _ _ a 0 (by omega) (Mem.wfFrom_filter _ m 0 h) ?_ (Mem.cells_wf bs a)
    intro c hc; simpa using (List.mem_filter.mp hc).2
  · intro c hc
    rcases List.mem_append.mp hc with hc | hc
    · have : c.1 < a := by simpa using (List.mem_filter.mp hc).2
      omega
    · exact (Mem.cells_lt bs a c hc).2

end Sys2Proof.Machine
end

