-- ==== Sys2Proof/Laws/State.lean ====
section
/-!
SUPPORT. Updates of the state: what each leaves alone, field by field, and that each part reads as it was last set.
-/
set_option Elab.async false

namespace Sys2Proof.Machine

variable (s : State)

/-! ## `setUnit` -/

@[simp] theorem State.setUnit_power (u : Nat) (x : UnitSt) : (s.setUnit u x).power = s.power := rfl
@[simp] theorem State.setUnit_agenda (u : Nat) (x : UnitSt) : (s.setUnit u x).agenda = s.agenda := rfl
@[simp] theorem State.setUnit_turn (u : Nat) (x : UnitSt) : (s.setUnit u x).turn = s.turn := rfl
@[simp] theorem State.setUnit_curU (u : Nat) (x : UnitSt) : (s.setUnit u x).curU = s.curU := rfl
@[simp] theorem State.setUnit_curB (u : Nat) (x : UnitSt) : (s.setUnit u x).curB = s.curB := rfl
@[simp] theorem State.setUnit_nextCid (u : Nat) (x : UnitSt) : (s.setUnit u x).nextCid = s.nextCid := rfl
@[simp] theorem State.setUnit_nextJid (u : Nat) (x : UnitSt) : (s.setUnit u x).nextJid = s.nextJid := rfl
@[simp] theorem State.setUnit_mem (u : Nat) (x : UnitSt) : (s.setUnit u x).mem = s.mem := rfl
@[simp] theorem State.setUnit_tags (u : Nat) (x : UnitSt) : (s.setUnit u x).tags = s.tags := rfl
@[simp] theorem State.setUnit_gpoison (u : Nat) (x : UnitSt) : (s.setUnit u x).gpoison = s.gpoison := rfl
@[simp] theorem State.setUnit_chipId (u : Nat) (x : UnitSt) : (s.setUnit u x).chipId = s.chipId := rfl
@[simp] theorem State.setUnit_chipSet (u : Nat) (x : UnitSt) : (s.setUnit u x).chipSet = s.chipSet := rfl
@[simp] theorem State.setUnit_pads (u : Nat) (x : UnitSt) : (s.setUnit u x).pads = s.pads := rfl
@[simp] theorem State.setUnit_dies (u : Nat) (x : UnitSt) : (s.setUnit u x).dies = s.dies := rfl
@[simp] theorem State.setUnit_dir (u : Nat) (x : UnitSt) : (s.setUnit u x).dir = s.dir := rfl
@[simp] theorem State.setUnit_ports (u : Nat) (x : UnitSt) : (s.setUnit u x).ports = s.ports := rfl
@[simp] theorem State.setUnit_msgs (u : Nat) (x : UnitSt) : (s.setUnit u x).msgs = s.msgs := rfl
@[simp] theorem State.setUnit_sec (u : Nat) (x : UnitSt) : (s.setUnit u x).sec = s.sec := rfl

/-! ## `updUnit` -/

@[simp] theorem State.updUnit_power (u : Nat) (f : UnitSt → UnitSt) : (s.updUnit u f).power = s.power := rfl
@[simp] theorem State.updUnit_agenda (u : Nat) (f : UnitSt → UnitSt) : (s.updUnit u f).agenda = s.agenda := rfl
@[simp] theorem State.updUnit_turn (u : Nat) (f : UnitSt → UnitSt) : (s.updUnit u f).turn = s.turn := rfl
@[simp] theorem State.updUnit_curU (u : Nat) (f : UnitSt → UnitSt) : (s.updUnit u f).curU = s.curU := rfl
@[simp] theorem State.updUnit_curB (u : Nat) (f : UnitSt → UnitSt) : (s.updUnit u f).curB = s.curB := rfl
@[simp] theorem State.updUnit_nextCid (u : Nat) (f : UnitSt → UnitSt) : (s.updUnit u f).nextCid = s.nextCid := rfl
@[simp] theorem State.updUnit_nextJid (u : Nat) (f : UnitSt → UnitSt) : (s.updUnit u f).nextJid = s.nextJid := rfl
@[simp] theorem State.updUnit_mem (u : Nat) (f : UnitSt → UnitSt) : (s.updUnit u f).mem = s.mem := rfl
@[simp] theorem State.updUnit_tags (u : Nat) (f : UnitSt → UnitSt) : (s.updUnit u f).tags = s.tags := rfl
@[simp] theorem State.updUnit_gpoison (u : Nat) (f : UnitSt → UnitSt) : (s.updUnit u f).gpoison = s.gpoison := rfl
@[simp] theorem State.updUnit_chipId (u : Nat) (f : UnitSt → UnitSt) : (s.updUnit u f).chipId = s.chipId := rfl
@[simp] theorem State.updUnit_chipSet (u : Nat) (f : UnitSt → UnitSt) : (s.updUnit u f).chipSet = s.chipSet := rfl
@[simp] theorem State.updUnit_pads (u : Nat) (f : UnitSt → UnitSt) : (s.updUnit u f).pads = s.pads := rfl
@[simp] theorem State.updUnit_dies (u : Nat) (f : UnitSt → UnitSt) : (s.updUnit u f).dies = s.dies := rfl
@[simp] theorem State.updUnit_dir (u : Nat) (f : UnitSt → UnitSt) : (s.updUnit u f).dir = s.dir := rfl
@[simp] theorem State.updUnit_ports (u : Nat) (f : UnitSt → UnitSt) : (s.updUnit u f).ports = s.ports := rfl
@[simp] theorem State.updUnit_msgs (u : Nat) (f : UnitSt → UnitSt) : (s.updUnit u f).msgs = s.msgs := rfl
@[simp] theorem State.updUnit_sec (u : Nat) (f : UnitSt → UnitSt) : (s.updUnit u f).sec = s.sec := rfl

/-! ## `updDie` -/

@[simp] theorem State.updDie_power (d : Nat) (f : DieSt → DieSt) : (s.updDie d f).power = s.power := rfl
@[simp] theorem State.updDie_agenda (d : Nat) (f : DieSt → DieSt) : (s.updDie d f).agenda = s.agenda := rfl
@[simp] theorem State.updDie_turn (d : Nat) (f : DieSt → DieSt) : (s.updDie d f).turn = s.turn := rfl
@[simp] theorem State.updDie_curU (d : Nat) (f : DieSt → DieSt) : (s.updDie d f).curU = s.curU := rfl
@[simp] theorem State.updDie_curB (d : Nat) (f : DieSt → DieSt) : (s.updDie d f).curB = s.curB := rfl
@[simp] theorem State.updDie_nextCid (d : Nat) (f : DieSt → DieSt) : (s.updDie d f).nextCid = s.nextCid := rfl
@[simp] theorem State.updDie_nextJid (d : Nat) (f : DieSt → DieSt) : (s.updDie d f).nextJid = s.nextJid := rfl
@[simp] theorem State.updDie_mem (d : Nat) (f : DieSt → DieSt) : (s.updDie d f).mem = s.mem := rfl
@[simp] theorem State.updDie_tags (d : Nat) (f : DieSt → DieSt) : (s.updDie d f).tags = s.tags := rfl
@[simp] theorem State.updDie_gpoison (d : Nat) (f : DieSt → DieSt) : (s.updDie d f).gpoison = s.gpoison := rfl
@[simp] theorem State.updDie_chipId (d : Nat) (f : DieSt → DieSt) : (s.updDie d f).chipId = s.chipId := rfl
@[simp] theorem State.updDie_chipSet (d : Nat) (f : DieSt → DieSt) : (s.updDie d f).chipSet = s.chipSet := rfl
@[simp] theorem State.updDie_units (d : Nat) (f : DieSt → DieSt) : (s.updDie d f).units = s.units := rfl
@[simp] theorem State.updDie_pads (d : Nat) (f : DieSt → DieSt) : (s.updDie d f).pads = s.pads := rfl
@[simp] theorem State.updDie_dir (d : Nat) (f : DieSt → DieSt) : (s.updDie d f).dir = s.dir := rfl
@[simp] theorem State.updDie_ports (d : Nat) (f : DieSt → DieSt) : (s.updDie d f).ports = s.ports := rfl
@[simp] theorem State.updDie_msgs (d : Nat) (f : DieSt → DieSt) : (s.updDie d f).msgs = s.msgs := rfl
@[simp] theorem State.updDie_sec (d : Nat) (f : DieSt → DieSt) : (s.updDie d f).sec = s.sec := rfl

/-! ## `updQueue` -/

@[simp] theorem State.updQueue_power (d q : Nat) (f : QueueSt → QueueSt) : (s.updQueue d q f).power = s.power := rfl
@[simp] theorem State.updQueue_agenda (d q : Nat) (f : QueueSt → QueueSt) : (s.updQueue d q f).agenda = s.agenda := rfl
@[simp] theorem State.updQueue_turn (d q : Nat) (f : QueueSt → QueueSt) : (s.updQueue d q f).turn = s.turn := rfl
@[simp] theorem State.updQueue_curU (d q : Nat) (f : QueueSt → QueueSt) : (s.updQueue d q f).curU = s.curU := rfl
@[simp] theorem State.updQueue_curB (d q : Nat) (f : QueueSt → QueueSt) : (s.updQueue d q f).curB = s.curB := rfl
@[simp] theorem State.updQueue_nextCid (d q : Nat) (f : QueueSt → QueueSt) : (s.updQueue d q f).nextCid = s.nextCid := rfl
@[simp] theorem State.updQueue_nextJid (d q : Nat) (f : QueueSt → QueueSt) : (s.updQueue d q f).nextJid = s.nextJid := rfl
@[simp] theorem State.updQueue_mem (d q : Nat) (f : QueueSt → QueueSt) : (s.updQueue d q f).mem = s.mem := rfl
@[simp] theorem State.updQueue_tags (d q : Nat) (f : QueueSt → QueueSt) : (s.updQueue d q f).tags = s.tags := rfl
@[simp] theorem State.updQueue_gpoison (d q : Nat) (f : QueueSt → QueueSt) : (s.updQueue d q f).gpoison = s.gpoison := rfl
@[simp] theorem State.updQueue_chipId (d q : Nat) (f : QueueSt → QueueSt) : (s.updQueue d q f).chipId = s.chipId := rfl
@[simp] theorem State.updQueue_chipSet (d q : Nat) (f : QueueSt → QueueSt) : (s.updQueue d q f).chipSet = s.chipSet := rfl
@[simp] theorem State.updQueue_units (d q : Nat) (f : QueueSt → QueueSt) : (s.updQueue d q f).units = s.units := rfl
@[simp] theorem State.updQueue_pads (d q : Nat) (f : QueueSt → QueueSt) : (s.updQueue d q f).pads = s.pads := rfl
@[simp] theorem State.updQueue_dir (d q : Nat) (f : QueueSt → QueueSt) : (s.updQueue d q f).dir = s.dir := rfl
@[simp] theorem State.updQueue_ports (d q : Nat) (f : QueueSt → QueueSt) : (s.updQueue d q f).ports = s.ports := rfl
@[simp] theorem State.updQueue_msgs (d q : Nat) (f : QueueSt → QueueSt) : (s.updQueue d q f).msgs = s.msgs := rfl
@[simp] theorem State.updQueue_sec (d q : Nat) (f : QueueSt → QueueSt) : (s.updQueue d q f).sec = s.sec := rfl

/-! ## `updPort` -/

@[simp] theorem State.updPort_power (p : Nat) (f : PortSt → PortSt) : (s.updPort p f).power = s.power := rfl
@[simp] theorem State.updPort_agenda (p : Nat) (f : PortSt → PortSt) : (s.updPort p f).agenda = s.agenda := rfl
@[simp] theorem State.updPort_turn (p : Nat) (f : PortSt → PortSt) : (s.updPort p f).turn = s.turn := rfl
@[simp] theorem State.updPort_curU (p : Nat) (f : PortSt → PortSt) : (s.updPort p f).curU = s.curU := rfl
@[simp] theorem State.updPort_curB (p : Nat) (f : PortSt → PortSt) : (s.updPort p f).curB = s.curB := rfl
@[simp] theorem State.updPort_nextCid (p : Nat) (f : PortSt → PortSt) : (s.updPort p f).nextCid = s.nextCid := rfl
@[simp] theorem State.updPort_nextJid (p : Nat) (f : PortSt → PortSt) : (s.updPort p f).nextJid = s.nextJid := rfl
@[simp] theorem State.updPort_mem (p : Nat) (f : PortSt → PortSt) : (s.updPort p f).mem = s.mem := rfl
@[simp] theorem State.updPort_tags (p : Nat) (f : PortSt → PortSt) : (s.updPort p f).tags = s.tags := rfl
@[simp] theorem State.updPort_gpoison (p : Nat) (f : PortSt → PortSt) : (s.updPort p f).gpoison = s.gpoison := rfl
@[simp] theorem State.updPort_chipId (p : Nat) (f : PortSt → PortSt) : (s.updPort p f).chipId = s.chipId := rfl
@[simp] theorem State.updPort_chipSet (p : Nat) (f : PortSt → PortSt) : (s.updPort p f).chipSet = s.chipSet := rfl
@[simp] theorem State.updPort_units (p : Nat) (f : PortSt → PortSt) : (s.updPort p f).units = s.units := rfl
@[simp] theorem State.updPort_pads (p : Nat) (f : PortSt → PortSt) : (s.updPort p f).pads = s.pads := rfl
@[simp] theorem State.updPort_dies (p : Nat) (f : PortSt → PortSt) : (s.updPort p f).dies = s.dies := rfl
@[simp] theorem State.updPort_dir (p : Nat) (f : PortSt → PortSt) : (s.updPort p f).dir = s.dir := rfl
@[simp] theorem State.updPort_msgs (p : Nat) (f : PortSt → PortSt) : (s.updPort p f).msgs = s.msgs := rfl
@[simp] theorem State.updPort_sec (p : Nat) (f : PortSt → PortSt) : (s.updPort p f).sec = s.sec := rfl

/-! ## `updPad` -/

@[simp] theorem State.updPad_power (p : Nat) (f : PadSt → PadSt) : (s.updPad p f).power = s.power := rfl
@[simp] theorem State.updPad_agenda (p : Nat) (f : PadSt → PadSt) : (s.updPad p f).agenda = s.agenda := rfl
@[simp] theorem State.updPad_turn (p : Nat) (f : PadSt → PadSt) : (s.updPad p f).turn = s.turn := rfl
@[simp] theorem State.updPad_curU (p : Nat) (f : PadSt → PadSt) : (s.updPad p f).curU = s.curU := rfl
@[simp] theorem State.updPad_curB (p : Nat) (f : PadSt → PadSt) : (s.updPad p f).curB = s.curB := rfl
@[simp] theorem State.updPad_nextCid (p : Nat) (f : PadSt → PadSt) : (s.updPad p f).nextCid = s.nextCid := rfl
@[simp] theorem State.updPad_nextJid (p : Nat) (f : PadSt → PadSt) : (s.updPad p f).nextJid = s.nextJid := rfl
@[simp] theorem State.updPad_mem (p : Nat) (f : PadSt → PadSt) : (s.updPad p f).mem = s.mem := rfl
@[simp] theorem State.updPad_tags (p : Nat) (f : PadSt → PadSt) : (s.updPad p f).tags = s.tags := rfl
@[simp] theorem State.updPad_gpoison (p : Nat) (f : PadSt → PadSt) : (s.updPad p f).gpoison = s.gpoison := rfl
@[simp] theorem State.updPad_chipId (p : Nat) (f : PadSt → PadSt) : (s.updPad p f).chipId = s.chipId := rfl
@[simp] theorem State.updPad_chipSet (p : Nat) (f : PadSt → PadSt) : (s.updPad p f).chipSet = s.chipSet := rfl
@[simp] theorem State.updPad_units (p : Nat) (f : PadSt → PadSt) : (s.updPad p f).units = s.units := rfl
@[simp] theorem State.updPad_dies (p : Nat) (f : PadSt → PadSt) : (s.updPad p f).dies = s.dies := rfl
@[simp] theorem State.updPad_dir (p : Nat) (f : PadSt → PadSt) : (s.updPad p f).dir = s.dir := rfl
@[simp] theorem State.updPad_ports (p : Nat) (f : PadSt → PadSt) : (s.updPad p f).ports = s.ports := rfl
@[simp] theorem State.updPad_msgs (p : Nat) (f : PadSt → PadSt) : (s.updPad p f).msgs = s.msgs := rfl
@[simp] theorem State.updPad_sec (p : Nat) (f : PadSt → PadSt) : (s.updPad p f).sec = s.sec := rfl

/-! ## `updSlot` -/

@[simp] theorem State.updSlot_power (t : TileRef) (f : SlotSt → SlotSt) : (s.updSlot t f).power = s.power := rfl
@[simp] theorem State.updSlot_agenda (t : TileRef) (f : SlotSt → SlotSt) : (s.updSlot t f).agenda = s.agenda := rfl
@[simp] theorem State.updSlot_turn (t : TileRef) (f : SlotSt → SlotSt) : (s.updSlot t f).turn = s.turn := rfl
@[simp] theorem State.updSlot_curU (t : TileRef) (f : SlotSt → SlotSt) : (s.updSlot t f).curU = s.curU := rfl
@[simp] theorem State.updSlot_curB (t : TileRef) (f : SlotSt → SlotSt) : (s.updSlot t f).curB = s.curB := rfl
@[simp] theorem State.updSlot_nextCid (t : TileRef) (f : SlotSt → SlotSt) : (s.updSlot t f).nextCid = s.nextCid := rfl
@[simp] theorem State.updSlot_nextJid (t : TileRef) (f : SlotSt → SlotSt) : (s.updSlot t f).nextJid = s.nextJid := rfl
@[simp] theorem State.updSlot_mem (t : TileRef) (f : SlotSt → SlotSt) : (s.updSlot t f).mem = s.mem := rfl
@[simp] theorem State.updSlot_tags (t : TileRef) (f : SlotSt → SlotSt) : (s.updSlot t f).tags = s.tags := rfl
@[simp] theorem State.updSlot_gpoison (t : TileRef) (f : SlotSt → SlotSt) : (s.updSlot t f).gpoison = s.gpoison := rfl
@[simp] theorem State.updSlot_chipId (t : TileRef) (f : SlotSt → SlotSt) : (s.updSlot t f).chipId = s.chipId := rfl
@[simp] theorem State.updSlot_chipSet (t : TileRef) (f : SlotSt → SlotSt) : (s.updSlot t f).chipSet = s.chipSet := rfl
@[simp] theorem State.updSlot_units (t : TileRef) (f : SlotSt → SlotSt) : (s.updSlot t f).units = s.units := rfl
@[simp] theorem State.updSlot_dies (t : TileRef) (f : SlotSt → SlotSt) : (s.updSlot t f).dies = s.dies := rfl
@[simp] theorem State.updSlot_dir (t : TileRef) (f : SlotSt → SlotSt) : (s.updSlot t f).dir = s.dir := rfl
@[simp] theorem State.updSlot_ports (t : TileRef) (f : SlotSt → SlotSt) : (s.updSlot t f).ports = s.ports := rfl
@[simp] theorem State.updSlot_msgs (t : TileRef) (f : SlotSt → SlotSt) : (s.updSlot t f).msgs = s.msgs := rfl
@[simp] theorem State.updSlot_sec (t : TileRef) (f : SlotSt → SlotSt) : (s.updSlot t f).sec = s.sec := rfl

/-! ## `setCtx` -/

@[simp] theorem State.setCtx_power (u b : Nat) (c : Ctx) : (s.setCtx u b c).power = s.power := rfl
@[simp] theorem State.setCtx_agenda (u b : Nat) (c : Ctx) : (s.setCtx u b c).agenda = s.agenda := rfl
@[simp] theorem State.setCtx_turn (u b : Nat) (c : Ctx) : (s.setCtx u b c).turn = s.turn := rfl
@[simp] theorem State.setCtx_curU (u b : Nat) (c : Ctx) : (s.setCtx u b c).curU = s.curU := rfl
@[simp] theorem State.setCtx_curB (u b : Nat) (c : Ctx) : (s.setCtx u b c).curB = s.curB := rfl
@[simp] theorem State.setCtx_nextCid (u b : Nat) (c : Ctx) : (s.setCtx u b c).nextCid = s.nextCid := rfl
@[simp] theorem State.setCtx_nextJid (u b : Nat) (c : Ctx) : (s.setCtx u b c).nextJid = s.nextJid := rfl
@[simp] theorem State.setCtx_mem (u b : Nat) (c : Ctx) : (s.setCtx u b c).mem = s.mem := rfl
@[simp] theorem State.setCtx_tags (u b : Nat) (c : Ctx) : (s.setCtx u b c).tags = s.tags := rfl
@[simp] theorem State.setCtx_gpoison (u b : Nat) (c : Ctx) : (s.setCtx u b c).gpoison = s.gpoison := rfl
@[simp] theorem State.setCtx_chipId (u b : Nat) (c : Ctx) : (s.setCtx u b c).chipId = s.chipId := rfl
@[simp] theorem State.setCtx_chipSet (u b : Nat) (c : Ctx) : (s.setCtx u b c).chipSet = s.chipSet := rfl
@[simp] theorem State.setCtx_pads (u b : Nat) (c : Ctx) : (s.setCtx u b c).pads = s.pads := rfl
@[simp] theorem State.setCtx_dies (u b : Nat) (c : Ctx) : (s.setCtx u b c).dies = s.dies := rfl
@[simp] theorem State.setCtx_dir (u b : Nat) (c : Ctx) : (s.setCtx u b c).dir = s.dir := rfl
@[simp] theorem State.setCtx_ports (u b : Nat) (c : Ctx) : (s.setCtx u b c).ports = s.ports := rfl
@[simp] theorem State.setCtx_msgs (u b : Nat) (c : Ctx) : (s.setCtx u b c).msgs = s.msgs := rfl
@[simp] theorem State.setCtx_sec (u b : Nat) (c : Ctx) : (s.setCtx u b c).sec = s.sec := rfl

/-! ## `setCur` -/

@[simp] theorem State.setCur_power (c : Ctx) : (s.setCur c).power = s.power := rfl
@[simp] theorem State.setCur_agenda (c : Ctx) : (s.setCur c).agenda = s.agenda := rfl
@[simp] theorem State.setCur_turn (c : Ctx) : (s.setCur c).turn = s.turn := rfl
@[simp] theorem State.setCur_curU (c : Ctx) : (s.setCur c).curU = s.curU := rfl
@[simp] theorem State.setCur_curB (c : Ctx) : (s.setCur c).curB = s.curB := rfl
@[simp] theorem State.setCur_nextCid (c : Ctx) : (s.setCur c).nextCid = s.nextCid := rfl
@[simp] theorem State.setCur_nextJid (c : Ctx) : (s.setCur c).nextJid = s.nextJid := rfl
@[simp] theorem State.setCur_mem (c : Ctx) : (s.setCur c).mem = s.mem := rfl
@[simp] theorem State.setCur_tags (c : Ctx) : (s.setCur c).tags = s.tags := rfl
@[simp] theorem State.setCur_gpoison (c : Ctx) : (s.setCur c).gpoison = s.gpoison := rfl
@[simp] theorem State.setCur_chipId (c : Ctx) : (s.setCur c).chipId = s.chipId := rfl
@[simp] theorem State.setCur_chipSet (c : Ctx) : (s.setCur c).chipSet = s.chipSet := rfl
@[simp] theorem State.setCur_pads (c : Ctx) : (s.setCur c).pads = s.pads := rfl
@[simp] theorem State.setCur_dies (c : Ctx) : (s.setCur c).dies = s.dies := rfl
@[simp] theorem State.setCur_dir (c : Ctx) : (s.setCur c).dir = s.dir := rfl
@[simp] theorem State.setCur_ports (c : Ctx) : (s.setCur c).ports = s.ports := rfl
@[simp] theorem State.setCur_msgs (c : Ctx) : (s.setCur c).msgs = s.msgs := rfl
@[simp] theorem State.setCur_sec (c : Ctx) : (s.setCur c).sec = s.sec := rfl

/-! ## `updCur` -/

@[simp] theorem State.updCur_power (f : Ctx → Ctx) : (s.updCur f).power = s.power := rfl
@[simp] theorem State.updCur_agenda (f : Ctx → Ctx) : (s.updCur f).agenda = s.agenda := rfl
@[simp] theorem State.updCur_turn (f : Ctx → Ctx) : (s.updCur f).turn = s.turn := rfl
@[simp] theorem State.updCur_curU (f : Ctx → Ctx) : (s.updCur f).curU = s.curU := rfl
@[simp] theorem State.updCur_curB (f : Ctx → Ctx) : (s.updCur f).curB = s.curB := rfl
@[simp] theorem State.updCur_nextCid (f : Ctx → Ctx) : (s.updCur f).nextCid = s.nextCid := rfl
@[simp] theorem State.updCur_nextJid (f : Ctx → Ctx) : (s.updCur f).nextJid = s.nextJid := rfl
@[simp] theorem State.updCur_mem (f : Ctx → Ctx) : (s.updCur f).mem = s.mem := rfl
@[simp] theorem State.updCur_tags (f : Ctx → Ctx) : (s.updCur f).tags = s.tags := rfl
@[simp] theorem State.updCur_gpoison (f : Ctx → Ctx) : (s.updCur f).gpoison = s.gpoison := rfl
@[simp] theorem State.updCur_chipId (f : Ctx → Ctx) : (s.updCur f).chipId = s.chipId := rfl
@[simp] theorem State.updCur_chipSet (f : Ctx → Ctx) : (s.updCur f).chipSet = s.chipSet := rfl
@[simp] theorem State.updCur_pads (f : Ctx → Ctx) : (s.updCur f).pads = s.pads := rfl
@[simp] theorem State.updCur_dies (f : Ctx → Ctx) : (s.updCur f).dies = s.dies := rfl
@[simp] theorem State.updCur_dir (f : Ctx → Ctx) : (s.updCur f).dir = s.dir := rfl
@[simp] theorem State.updCur_ports (f : Ctx → Ctx) : (s.updCur f).ports = s.ports := rfl
@[simp] theorem State.updCur_msgs (f : Ctx → Ctx) : (s.updCur f).msgs = s.msgs := rfl
@[simp] theorem State.updCur_sec (f : Ctx → Ctx) : (s.updCur f).sec = s.sec := rfl

/-! ## Parts read as they were last set -/

@[simp] theorem State.unit_setUnit (u : Nat) (x : UnitSt) : (s.setUnit u x).unit u = x := by simp [State.unit, State.setUnit]

theorem State.unit_setUnit_other (u v : Nat) (x : UnitSt) (h : v ≠ u) : (s.setUnit u x).unit v = s.unit v := by
  simp [State.unit, State.setUnit, Map.look_put_other _ _ _ _ _ h]

@[simp] theorem State.unit_updUnit (u : Nat) (f : UnitSt → UnitSt) : (s.updUnit u f).unit u = f (s.unit u) := by simp [State.updUnit]

theorem State.unit_updUnit_other (u v : Nat) (f : UnitSt → UnitSt) (h : v ≠ u) : (s.updUnit u f).unit v = s.unit v :=
  s.unit_setUnit_other u v _ h

@[simp] theorem State.unit_updDie (d u : Nat) (f : DieSt → DieSt) : (s.updDie d f).unit u = s.unit u := rfl
@[simp] theorem State.unit_updPort (p u : Nat) (f : PortSt → PortSt) : (s.updPort p f).unit u = s.unit u := rfl
@[simp] theorem State.unit_updPad (p u : Nat) (f : PadSt → PadSt) : (s.updPad p f).unit u = s.unit u := rfl
@[simp] theorem State.unit_updSlot (t : TileRef) (u : Nat) (f : SlotSt → SlotSt) : (s.updSlot t f).unit u = s.unit u := rfl

@[simp] theorem State.die_updDie (d : Nat) (f : DieSt → DieSt) : (s.updDie d f).die d = f (s.die d) := by simp [State.die, State.updDie]

theorem State.die_updDie_other (d e : Nat) (f : DieSt → DieSt) (h : e ≠ d) : (s.updDie d f).die e = s.die e := by
  simp [State.die, State.updDie, Map.look_put_other _ _ _ _ _ h]

@[simp] theorem State.die_setUnit (u d : Nat) (x : UnitSt) : (s.setUnit u x).die d = s.die d := rfl
@[simp] theorem State.die_updUnit (u d : Nat) (f : UnitSt → UnitSt) : (s.updUnit u f).die d = s.die d := rfl
@[simp] theorem State.die_setCur (d : Nat) (c : Ctx) : (s.setCur c).die d = s.die d := rfl

@[simp] theorem State.queue_updQueue (d q : Nat) (f : QueueSt → QueueSt) : (s.updQueue d q f).queue d q = f (s.queue d q) := by
  simp [State.queue, State.updQueue, Map.adj]

@[simp] theorem State.port_updPort (p : Nat) (f : PortSt → PortSt) : (s.updPort p f).port p = f (s.port p) := by
  simp [State.port, State.updPort]

theorem State.port_updPort_other (p r : Nat) (f : PortSt → PortSt) (h : r ≠ p) : (s.updPort p f).port r = s.port r := by
  simp [State.port, State.updPort, Map.look_put_other _ _ _ _ _ h]

@[simp] theorem State.pad_updPad (p : Nat) (f : PadSt → PadSt) : (s.updPad p f).pad p = f (s.pad p) := by simp [State.pad, State.updPad]

theorem State.pad_updPad_other (p r : Nat) (f : PadSt → PadSt) (h : r ≠ p) : (s.updPad p f).pad r = s.pad r := by
  simp [State.pad, State.updPad, Map.look_put_other _ _ _ _ _ h]

@[simp] theorem State.slot_updSlot (t : TileRef) (f : SlotSt → SlotSt) : (s.updSlot t f).slot t = f (s.slot t) := by
  simp [State.slot, State.updSlot, Map.adj]

theorem State.slot_updSlot_other (t r : TileRef) (f : SlotSt → SlotSt) (h : r ≠ t) : (s.updSlot t f).slot r = s.slot r := by
  unfold State.slot State.updSlot
  by_cases hp : r.pad = t.pad
  · have hs : r.slot ≠ t.slot := fun e => h (by cases r; cases t; simp_all)
    rw [hp, State.pad_updPad, Map.adj, Map.look_put_other _ _ _ _ _ hs]
  · rw [State.pad_updPad_other _ _ _ _ hp]

/-! ## Contexts -/

@[simp] theorem State.ctxAt_setCtx (u b : Nat) (c : Ctx) : (s.setCtx u b c).ctxAt u b = c := by simp [State.ctxAt, State.setCtx]

@[simp] theorem State.ctx?_setCtx (u b : Nat) (c : Ctx) : (s.setCtx u b c).ctx? u b = some c := by simp [State.ctx?, State.setCtx]

theorem State.ctxAt_setCtx_bank (u b d : Nat) (c : Ctx) (h : d ≠ b) : (s.setCtx u b c).ctxAt u d = s.ctxAt u d := by
  simp [State.ctxAt, State.setCtx, Map.look_put_other _ _ _ _ _ h]

theorem State.ctxAt_setCtx_unit (u v b d : Nat) (c : Ctx) (h : v ≠ u) : (s.setCtx u b c).ctxAt v d = s.ctxAt v d := by
  simp [State.ctxAt, State.setCtx, State.unit_updUnit_other _ _ _ _ h]

@[simp] theorem State.cur_setCur (c : Ctx) : (s.setCur c).cur = c := by simp [State.cur, State.setCur]

@[simp] theorem State.cur_updCur (f : Ctx → Ctx) : (s.updCur f).cur = f s.cur := by simp [State.updCur]

@[simp] theorem State.setUnit_setUnit (u : Nat) (x y : UnitSt) : (s.setUnit u x).setUnit u y = s.setUnit u y := by
  simp [State.setUnit]

@[simp] theorem State.setCtx_setCtx (u b : Nat) (c d : Ctx) : (s.setCtx u b c).setCtx u b d = s.setCtx u b d := by
  simp [State.setCtx, State.updUnit]

@[simp] theorem State.setCur_setCur (c d : Ctx) : (s.setCur c).setCur d = s.setCur d := by simp [State.setCur]

@[simp] theorem State.updCur_setCur (c : Ctx) (f : Ctx → Ctx) : (s.setCur c).updCur f = s.setCur (f c) := by simp [State.updCur]

@[simp] theorem State.cur_updDie (d : Nat) (f : DieSt → DieSt) : (s.updDie d f).cur = s.cur := rfl
@[simp] theorem State.cur_updPad (p : Nat) (f : PadSt → PadSt) : (s.updPad p f).cur = s.cur := rfl
@[simp] theorem State.cur_updSlot (t : TileRef) (f : SlotSt → SlotSt) : (s.updSlot t f).cur = s.cur := rfl
@[simp] theorem State.cur_updPort (p : Nat) (f : PortSt → PortSt) : (s.updPort p f).cur = s.cur := rfl

/-- Setting a unit changed outside its contexts leaves the current context. -/
theorem State.cur_updUnit (u : Nat) (f : UnitSt → UnitSt) (h : ∀ x, (f x).ctxs = x.ctxs) : (s.updUnit u f).cur = s.cur := by
  unfold State.cur State.ctxAt
  by_cases e : s.curU = u
  · subst e; simp [h]
  · simp [State.unit_updUnit_other _ _ _ _ e]

end Sys2Proof.Machine
end

