-- ==== Sys2Proof/Laws/Issue.lean ====
section
/-!
SUPPORT. What the issue of a bundle of one slot does (R424).
-/
set_option Elab.async false

namespace Sys2Proof.Laws

open Machine

@[simp] theorem faultOf_nil (s : State) (u : Nat) : s.faultOf u [] = none := by
  have : (s.unit u).jobs.find? (fun j => ([] : List Nat).contains j.jid && j.fault.isSome) = none := by simp
  rw [State.faultOf, this]; rfl

@[simp] theorem observeAll_nil (i : Instr) (t : State) : observeAll i [] t = t := rfl

@[simp] theorem semRoom_nil (c : Ctx) : semRoom c [] = true := rfl

@[simp] theorem spent_nil (s : State) (u : Nat) (own : List Nat) : s.spent u own [] = s := rfl

/-- The checks of a bundle of one slot are that slot's (R424). -/
@[simp] theorem slotChecks_one (s : State) (o : SlotSem) : s.slotChecks [] [o] = (o.check s).map (o.fill s) := by
  simp only [State.slotChecks, spent_nil]
  cases o.check s <;> rfl

@[simp] theorem takeEffect_one (s : State) (o : SlotSem) : s.takeEffect [o] = o.eff s := rfl

/-- A slot alone never presents two operations for one port (R132). -/
@[simp] theorem twoForPort_one (o : SlotSem) : twoForPort [o] = false := by
  cases h : padPort o.i <;> cases k : cmdPort o.i <;> simp [twoForPort, h, k]

/-- A slot whose bundle passes its examinations issues: its effect happens on the machine it found, and the sequencer does its part. -/
theorem issue1_issuable {s : State} {o : SlotSem} (h : Issuable s o) : s.issue1 o = .next (issued s o) := by
  obtain ⟨hr, hobs, hcheck, hstuck, hhold, hroom, hport⟩ := h
  have hp : s.begin.cur.rq o.q = true := hr.2.1
  have hs : s.begin.setCur { s.begin.cur with
      pres := some (presOf s o.i), grpFrom := s.begin.cur.grpFrom.or (some (presOf s o.i).addr) } = shown s o.i := rfl
  unfold State.issue1 State.runBundle
  have hpres : (s.begin.cur.pres.getD { addr := s.begin.cur.pc, stop := true, len := 1 + ([o].map fun o => o.i.syl.bytes.length).foldl (· + ·) 0
                                        leaf0 := s.begin.cur.leafNext }) = presOf s o.i := by
    rw [hr.1]; simp [presOf]
  simp only [hpres, hs]
  have hst : (([o].filter fun o : SlotSem => o.start.isSome).foldl (fun s o => (o.start.getD id) s) (o.hook (shown s o.i))) = hooked s o := by
    cases h : o.start <;> simp [hooked, h]
  have hq : (presOf s o.i).started = false := rfl
  have hlive : ([o].filter fun o : SlotSem => s.begin.cur.rq o.q) = [o] := by simp [hp]
  simp only [hlive, hq, Bool.false_eq_true, if_false, List.flatMap_cons, List.flatMap_nil, List.append_nil, hobs, slotChecks_one, hcheck,
    Option.map_none, List.map_cons, List.map_nil, hstuck, firstTrap, List.foldl_cons, List.foldl_nil, hst, List.any_cons, List.any_nil,
    Bool.or_false, hhold, hroom, Bool.not_true, twoForPort_one, Bool.false_and, Bool.false_or]
  have hc : (presOf s o.i).checked = false := rfl
  simp only [hc, Bool.not_false, Bool.true_and, Bool.false_eq_true, if_false]
  rw [if_neg (by
    intro h
    have hn := hr.2.2.2.2
    split at h
    · next l ls hli =>
      simp [presOf] at h
      obtain ⟨h1, h2, h3⟩ := of_decide_eq_true h.1
      simp [noStraddle, hli] at hn
      omega
    · simp at h), if_neg]
  · simp [observeAll, issued, effect]
  · intro h
    simp only [Bool.and_eq_true, bne_iff_ne, ne_eq, decide_eq_true_eq] at h
    obtain ⟨h0, h1⟩ := h
    rcases hport with h | h
    · exact h0 h
    · rw [List.countP_eq_length_filter] at h; omega

/-- The sequencer's part of a bundle that ends its group, asks for nothing and does not end an iteration: the bundle is counted and
the PC moves past it; then a stall swap that is due lands. -/
theorem finishBundle_plain (t : State) (p : Pres) (ops : List Instr) (ha : t.cur.after = .none) (hs : p.stop = true)
    (hl : atLoopEnd t p = false) : t.finishBundle p ops = (t.setCur (goOn t p)).stallLands := by
  have hb : ∀ c : Ctx, c.li = t.cur.li → boundary p.addr c (afterBundle t p) c.li = (c, afterBundle t p, false) := by
    intro c hc
    cases h : c.li with
    | nil => rw [boundary, ← h]
    | cons l ls =>
      rw [boundary, if_neg]
      · rw [← h]
      · rintro ⟨h1, h2, h3⟩
        simp [atLoopEnd, ← hc, h, h1, h2, h3] at hl
  unfold State.finishBundle
  have e := hb { t.cur with bundleNo := t.cur.bundleNo + 1, pres := none, after := .none, last := .issued, stall := 0, brkSkip := none } rfl
  have hc : t.codeByte t.curU { t.cur with bundleNo := t.cur.bundleNo + 1, pres := none, after := .none, last := .issued, stall := 0, brkSkip := none } =
      t.codeByte t.curU t.cur := by funext a; rfl
  simp only [ha, hc]
  unfold afterBundle at e
  simp only [e]
  simp [hs, goOn, afterBundle]

@[simp] theorem shown_cur (s : State) (i : Instr) : (shown s i).cur =
    { s.begin.cur with pres := some (presOf s i), grpFrom := s.begin.cur.grpFrom.or (some s.begin.cur.pc) } := by
  simp [shown]

@[simp] theorem shown_setCur (s : State) (i : Instr) (c : Ctx) : (shown s i).setCur c = s.begin.setCur c := by simp [shown]

@[simp] theorem shown_mem (s : State) (i : Instr) : (shown s i).mem = s.begin.mem := rfl

theorem fetchTrap_setCur (s : State) (c d : Ctx) (a : Nat) :
    (s.setCur c).fetchTrap s.curU d a = s.fetchTrap s.curU d a := by
  have h : ((s.setCur c).unit s.curU).filled = (s.unit s.curU).filled := by simp [State.setCur, State.setCtx]
  unfold State.fetchTrap
  rw [h]; rfl

theorem codeByte_setCur (s : State) (c d : Ctx) : (s.setCur c).codeByte s.curU d = s.codeByte s.curU d := by
  funext a; simp [State.codeByte, fetchTrap_setCur]

/-- The address after a bundle does not depend on what the bundle did to the registers. -/
theorem afterBundle_setCur (s : State) (c : Ctx) (p : Pres) (h : s.codeByte s.curU c = s.codeByte s.curU s.cur) :
    afterBundle (s.setCur c) p = afterBundle s p := by
  simp [afterBundle, codeByte_setCur, h]

theorem atLoopEnd_setCur (s : State) (c : Ctx) (p : Pres) (h : s.codeByte s.curU c = s.codeByte s.curU s.cur)
    (hl : c.li = s.cur.li) : atLoopEnd (s.setCur c) p = atLoopEnd s p := by
  simp [atLoopEnd, afterBundle_setCur s c p h, hl]

/-- An operation's meaning is the issue of its slot, or for a supervisor operation the issue behind the check of the level. -/
theorem exec_semOf {i : Instr} {o : SlotSem} (h : semOf i = some o) (s : State) : exec i s = s.issue1 o ∨ exec i s = s.issuePriv o := by
  cases i <;> simp only [semOf, Option.some.injEq, reduceCtorEq] at h <;> subst h <;> first | exact .inl rfl | exact .inr rfl

/-- The slot of an operation is its own. -/
theorem semOf_i {i : Instr} {o : SlotSem} (h : semOf i = some o) : o.i = i := by
  cases i <;> simp only [semOf, Option.some.injEq, reduceCtorEq] at h <;> subst h <;> rfl

theorem issuePriv_level {s : State} (o : SlotSem) (h : s.cur.level ≠ 0) : s.issuePriv o = s.issue1 o := by simp [State.issuePriv, h]

/-- An operation issues its slot's bundle, at level 1 or above where it needs that (R223). -/
theorem exec_issue {i : Instr} {o : SlotSem} (h : semOf i = some o) (s : State) (hl : supervisorOp i = true → s.cur.level ≠ 0) :
    exec i s = s.issue1 o := by
  cases i <;> simp only [semOf, Option.some.injEq, reduceCtorEq] at h <;> subst h <;> first | rfl | exact issuePriv_level _ (hl rfl)

/-- A row of an operation that only writes registers and descriptors holds, by the operation's slot. -/
theorem regRow_holds (r : RegRow) (o : SlotSem) (hi : o.i = r.i) (hq : o.q = r.q)
    (hx : ∀ s : State, r.sup = false ∨ s.cur.level ≠ 0 → exec r.i s = s.issue1 o)
    (hcheck : ∀ t, r.pre t = true → o.check t = none) (hobs : o.obs = fun _ => []) (hstuck : o.stuck = fun _ => none)
    (hstart : o.start = none) (hhold : o.hold = fun _ => false) (hook : o.hook = fun s => s) (hadds : o.adds = fun _ => [])
    (hport : o.port = 0) (hsees : o.sees = fun _ => [])
    (heff : ∀ t : State, r.pre t = true → o.eff t = t.setCur ((r.descs t).foldl Ctx.shadowed
      ((r.writes t).foldl (fun c x => c.write x.dest x.val x.bound x.flags) t.cur))) : r.Holds := by
  obtain ⟨i, q, pre, writes, descs, sup⟩ := r
  subst hi hq
  intro s hm
  simp only [RegRow.met, Bool.and_eq_true, decide_eq_true_eq, Bool.not_eq_true', Bool.or_eq_true, bne_iff_ne] at hm
  obtain ⟨⟨⟨hr, hp⟩, hl⟩, hsup⟩ := hm
  have h : s.issue1 o = .next (issued s o) := issue1_issuable
    ⟨hr, by simp [hobs], hcheck _ hp, by simp [hstuck], by simp [hhold], by simp [hadds], .inl hport⟩
  rw [hx s hsup, h, issued, effect, hooked, hsees, hook, hstart, observeAll_nil, Option.getD_none, id, heff _ hp]
  have key : ∀ (l : List RegWrite) (c : Ctx), let d := l.foldl (fun c x => c.write x.dest x.val x.bound x.flags) c
      d = { c with
        fly := c.fly ++ l.map fun x => ⟨c.bundleNo, c.bundleNo + x.bound, x.dest, x.val, x.flags⟩
        ticket := d.ticket, tickets := d.tickets } := by
    intro l
    induction l with
    | nil => intro c; simp
    | cons x l ih => intro c; simp only [List.foldl_cons]; rw [ih]; simp [Ctx.write, Ctx.claim]
  have key2 : ∀ (l : List ShadowW) (c : Ctx),
      l.foldl Ctx.shadowed c = { c with shadow := c.shadow ++ l.map fun w => ⟨c.bundleNo, w⟩ } := by
    intro l
    induction l with
    | nil => intro c; simp
    | cons x l ih => intro c; simp only [List.foldl_cons]; rw [ih]; simp [Ctx.shadowed]
  have k := key (writes (shown s o.i)) (shown s o.i).cur
  rw [key2]
  generalize hD : (writes (shown s o.i)).foldl (fun c x => c.write x.dest x.val x.bound x.flags) (shown s o.i).cur = D at *
  dsimp only at k
  generalize hE : ({ D with shadow := D.shadow ++ (descs (shown s o.i)).map fun w => ⟨D.bundleNo, w⟩ } : Ctx) = E
  have hcb : (shown s o.i).codeByte (shown s o.i).curU E = (shown s o.i).codeByte (shown s o.i).curU (shown s o.i).cur := by
    rw [← hE, k]; funext a; rfl
  have hli : E.li = (shown s o.i).cur.li := by rw [← hE, k]
  rw [finishBundle_plain _ _ _ (by simp only [State.cur_setCur]; rw [← hE, k]; simp [hr.2.2.1]) rfl
    (by rwa [atLoopEnd_setCur _ _ _ hcb hli])]
  simp only [State.setCur_setCur, shown_setCur]
  have hx : (shown s o.i).cur.bundleNo = s.begin.cur.bundleNo := by simp
  have hfe : E.fencing = none := by rw [← hE, k]; simp [hr.2.2.2.1]
  refine ⟨_, rfl, ?_, ?_, ?_, rfl, rfl, ?_, ?_⟩
  · rw [CtxFrame, goOn, State.cur_setCur, hfe, ← hE, k]; simp [hr.2.2.2.1]
  · rw [goOn, State.cur_setCur, ← hE, k]; simp
  · exact (afterBundle_setCur _ _ _ hcb) ▸ by rw [goOn, shown_setCur, State.cur_setCur, hfe]; rfl
  · rw [goOn, State.cur_setCur, ← hE, k]; simp
  · rw [goOn, State.cur_setCur, ← hE, k]; simp

end Sys2Proof.Laws
end

