-- ==== Sys2Proof/Laws/Jobs.lean ====
section
/-!
SUPPORT. The jobs of a unit: what dropping, replacing and finishing one leaves of its list; what the operations on writes on their
way leave alone.
-/
set_option Elab.async false

namespace Sys2Proof.Machine

variable (s : State)

@[simp] theorem State.jobs_dropJob (u jid : Nat) : ((s.dropJob u jid).unit u).jobs = (s.unit u).jobs.filter fun j => j.jid != jid := by
  simp [State.dropJob]

/-- A dropped job is not in its unit's list. -/
@[simp] theorem State.job?_dropJob (u jid : Nat) : (s.dropJob u jid).job? u jid = none := by
  simp [State.job?]

/-- A job that is found has the name it was asked for. -/
theorem State.jid_of_job? {u jid : Nat} {j : Job} (h : s.job? u jid = some j) : j.jid = jid := by
  simpa using List.find?_some h

/-- A finished job is gone (R258). -/
@[simp] theorem State.job?_finishJob (u : Nat) (j : Job) (l : Option LeafRec) (m q : Nat) : (s.finishJob u j l m q).job? u j.jid = none := by
  simp [State.finishJob]

/-- With no vector operation under way in a unit none lands (R284). -/
theorem State.landVecs_none (u cid : Nat) (p : Job → Bool) (h : ∀ j ∈ (s.unit u).jobs, j.kind ≠ .vec) : s.landVecs u cid p = s := by
  have : (s.unit u).jobs.filter (fun j => j.kind == JobKind.vec) = [] := List.filter_eq_nil_iff.2 fun j m => by simpa using h j m
  simp [State.landVecs, this]

/-- An event of a job of a unit, when it happens. -/
theorem State.onJob_live {u jid : Nat} {j : Job} {f : Job → Option State} {t : State} (h : s.job? u jid = some j)
    (hf : j.fault = none) (hz : (s.unit u).freeze = 0) (ht : f j = some t) : s.onJob u jid f = .next t := by
  simp [State.onJob, h, hf, hz, ht]

/-- An event of a job of a unit, when it changes nothing. -/
theorem State.onJob_none {u jid : Nat} {j : Job} {f : Job → Option State} (h : s.job? u jid = some j) (ht : f j = none) :
    s.onJob u jid f = .next s := by
  simp [State.onJob, h, ht]

@[simp] theorem State.mem_issueJob (j : Job) : (s.issueJob j).mem = s.mem := rfl

@[simp] theorem State.curU_issueJob (j : Job) : (s.issueJob j).curU = s.curU := rfl

@[simp] theorem State.curB_issueJob (j : Job) : (s.issueJob j).curB = s.curB := rfl

@[simp] theorem State.slot_issueJob (j : Job) (r : TileRef) : (s.issueJob j).slot r = s.slot r := rfl

/-- Of the units an issued job changes the job list and the contexts of its own, and nothing else (R257). -/
theorem State.unit_issueJob (j : Job) (v : Nat) : (s.issueJob j).unit v =
    { s.unit v with jobs := ((s.issueJob j).unit v).jobs, ctxs := ((s.issueJob j).unit v).ctxs } := by
  have h : ∃ js cs, (s.issueJob j).unit v = { s.unit v with jobs := js, ctxs := cs } := by
    unfold State.issueJob State.updCur State.setCur State.setCtx
    by_cases h : v = s.curU
    · subst h
      exact ⟨_, _, (State.unit_updUnit _ s.curU _).trans (by rw [State.unit_updUnit]; rfl)⟩
    · exact ⟨_, _, (State.unit_updUnit_other _ s.curU v _ h).trans ((State.unit_updUnit_other _ s.curU v _ h).trans rfl)⟩
  obtain ⟨js, cs, h⟩ := h
  rw [h]

@[simp] theorem State.filled_issueJob (j : Job) (v : Nat) : ((s.issueJob j).unit v).filled = (s.unit v).filled := by
  rw [s.unit_issueJob j v]

/-- An issued job is the last of its unit's list. -/
@[simp] theorem State.jobs_issueJob (j : Job) : ((s.issueJob j).unit s.curU).jobs = (s.unit s.curU).jobs ++ [j] := by
  have h : ∀ (t : State) (f : Ctx → Ctx), ((t.updCur f).unit t.curU).jobs = (t.unit t.curU).jobs := by
    intro t f; simp [State.updCur, State.setCur, State.setCtx]
  exact (h _ _).trans (by simp; rfl)

/-- The context that issues a job counts it, and its semaphore's pending count (R213, R231). -/
@[simp] theorem State.cur_issueJob (j : Job) : (s.issueJob j).cur =
    { s.cur with
      jobCount := if j.kind.tagged then s.cur.jobCount + 1 else s.cur.jobCount
      semP := if j.sem = 0 ∨ j.sem = 16 then s.cur.semP else s.cur.semP.adj j.sem 0 (· + 1) } := by
  unfold State.issueJob
  dsimp only
  rw [State.cur_updCur, show ∀ v : State, ∀ f : UnitSt → UnitSt, (∀ x, (f x).ctxs = x.ctxs) → (v.updUnit v.curU f).cur = v.cur from
    fun v f h => State.cur_updUnit v _ f h]
  · rfl
  · intro x; rfl

/-! ## Chunks noted, records kept, writes on their way -/

/-- Noting chunks changes what the jobs know, and nothing else (R370). -/
theorem State.noteChunks_eq (t : TileRef) (ks : List Nat) : ∃ us, s.noteChunks t ks = { s with units := us } := ⟨_, rfl⟩

@[simp] theorem State.mem_noteChunks (t : TileRef) (ks : List Nat) : (s.noteChunks t ks).mem = s.mem := rfl

@[simp] theorem State.slot_noteChunks (r t : TileRef) (ks : List Nat) : (s.noteChunks t ks).slot r = s.slot r := rfl

/-- Keeping what a record held changes the jobs that have read part of it, and nothing else (R176). -/
theorem State.keepOld_eq (ks : List Nat) : ∃ us, s.keepOld ks = { s with units := us } := ⟨_, rfl⟩

@[simp] theorem State.mem_keepOld (ks : List Nat) : (s.keepOld ks).mem = s.mem := rfl

/-- What a context's read finds out changes what the jobs on their way are for it, and nothing else (R183-R185). -/
theorem State.othersAloft_eq (cid : Nat) (f : Job → Job) : ∃ us, s.othersAloft cid f = { s with units := us } := ⟨_, rfl⟩

@[simp] theorem State.mem_othersAloft (cid : Nat) (f : Job → Job) : (s.othersAloft cid f).mem = s.mem := rfl

/-- An acquire changes what the jobs on their way are for its context, and nothing else (R183, R185). -/
theorem State.acquire_eq (u cid sc word tag : Nat) (late : Bool) : ∃ us, s.acquire u cid sc word tag late = { s with units := us } := by
  unfold State.acquire
  split
  · exact ⟨_, rfl⟩
  · exact s.othersAloft_eq _ _

@[simp] theorem State.mem_acquire (u cid sc word tag : Nat) (late : Bool) : (s.acquire u cid sc word tag late).mem = s.mem := by
  obtain ⟨us, h⟩ := s.acquire_eq u cid sc word tag late
  rw [h]

@[simp] theorem State.mem_updJob (u jid : Nat) (f : Job → Job) : (s.updJob u jid f).mem = s.mem := rfl

@[simp] theorem State.mem_orderAir (a : Job) (b : Nat × Job) : (s.orderAir a b).mem = s.mem := by
  unfold State.orderAir
  split <;> rfl

/-- Steps that each leave the memory leave it together. -/
theorem State.mem_foldl {α : Type} (f : State → α → State) (h : ∀ s a, (f s a).mem = s.mem) (l : List α) : (l.foldl f s).mem = s.mem := by
  induction l generalizing s with
  | nil => rfl
  | cons a l ih => rw [List.foldl_cons, ih, h]

@[simp] theorem State.mem_cutWord (w : Nat) : (s.cutWord w).mem = s.mem := rfl

/-- A mark moves no byte: the writes that it speaks of are still on their way (R173). -/
@[simp] theorem State.mem_mark (u cid jid sc : Nat) (word : Option Nat) : (s.mark u cid jid sc word).mem = s.mem := by
  unfold State.mark
  dsimp only
  rw [State.mem_foldl, State.mem_foldl, State.mem_foldl]
  · cases word with
    | none => rfl
    | some w => dsimp only; split <;> rfl
  · intro s i; rfl
  · intro s i
    rw [State.mem_foldl]
    intro s x; rfl
  · intro s i
    rw [State.mem_foldl]
    intro s o
    split
    · exact State.mem_orderAir s _ _
    · rfl

/-- A release that would write nothing, and a job that is no release, wait for nothing (R182, R183). -/
theorem State.released_plain (u : Nat) (j : Job) (h : j.kind ≠ .atomic ∨ j.phase < 2) : s.released u j = some s := by
  unfold State.released
  rcases h with h | h <;> simp [h]

/-- With no write on its way nothing has to arrive before a party reads (R173). -/
theorem State.landSeen_nil (sees : Job → Bool) (ks : List Span) (h : s.aloft = []) : s.landSeen sees ks = s := by
  simp [State.landSeen, h]

/-- With no write on its way nothing has to arrive before an engine writes (R173). -/
theorem State.showWrite_nil (sees : Job → Bool) (ks : List Nat) (h : s.aloft = []) : s.showWrite sees ks = s :=
  s.landSeen_nil _ _ h

/-- With no write on its way an engine's plain write at some places changes these bytes, the tags of their words and the counts of its die
(R154, R185). -/
theorem State.dieWrite_nil (d : Nat) (ks : List Nat) (bs : Bytes) (h : s.aloft = []) :
    s.dieWrite d ks bs = (s.countVA d ks).writeGlobal ks bs := by
  rw [State.dieWrite, s.showWrite_nil _ _ h]

/-- A job that has arrived whole, or is on its way whole, is not sent again (R274). -/
theorem State.loft_sent (u : Nat) (j : Job) (h : j.performed = true ∨ (j.air ≠ [] ∧ j.rest = [])) : s.loft u j = some s := by
  unfold State.loft
  rcases h with h | ⟨h, g⟩ <;> simp [*]

end Sys2Proof.Machine
end

