-- ==== Sys2Proof/Laws/Memory.lean ====
section
/-!
SUPPORT. Byte memory: read after write, and the canonical form under every memory operation.
-/
set_option Elab.async false

namespace Sys2Proof.Machine

theorem Mem.read_append_right (m n : Mem) (a : Nat) (h : ∀ c ∈ m, c.1 ≠ a) : Mem.read (m ++ n) a = Mem.read n a := by
  induction m with
  | nil => rfl
  | cons c m ih => simp [Mem.read, h c (by simp), ih fun x hx => h x (by simp [hx])]

theorem Mem.read_unlisted (m : Mem) (a : Nat) (h : ∀ c ∈ m, c.1 ≠ a) : Mem.read m a = Mem.empty := by
  simpa [Mem.read] using Mem.read_append_right m [] a h

theorem Mem.read_append_left (m n : Mem) (a : Nat) (h : ∀ c ∈ n, c.1 ≠ a) : Mem.read (m ++ n) a = Mem.read m a := by
  induction m with
  | nil => simpa [Mem.read] using Mem.read_unlisted n a h
  | cons c m ih => simp [Mem.read, ih]

theorem Mem.read_filter (p : Nat → Bool) (m : Mem) (a : Nat) :
    Mem.read (m.filter fun c => p c.1) a = if p a then Mem.read m a else Mem.empty := by
  induction m with
  | nil => simp [Mem.read]
  | cons c m ih =>
    by_cases hp : p c.1 = true
    · rw [List.filter_cons_of_pos (by simpa using hp)]
      by_cases h : c.1 = a
      · subst h; simp [Mem.read, hp]
      · simp [Mem.read, h, ih]
    · rw [List.filter_cons_of_neg (by simpa using hp), ih]
      by_cases h : c.1 = a
      · subst h; simp [hp]
      · simp [Mem.read, h]

theorem Mem.read_cells (bs : Bytes) : ∀ a b, Mem.read (Mem.cells a bs) b =
    if a ≤ b ∧ b < a + bs.length then bs.getD (b - a) 0 else Mem.empty := by
  induction bs with
  | nil => intro a b; simp [Mem.cells, Mem.read]
  | cons x bs ih =>
    intro a b
    have key : Mem.read (Mem.cells (a + 1) bs) b =
        if a + 1 ≤ b ∧ b < a + 1 + bs.length then bs.getD (b - (a + 1)) 0 else Mem.empty := ih (a + 1) b
    by_cases hab : b = a
    · subst hab
      unfold Mem.cells
      split
      · next h => rw [key]; simp [h]
      · simp [Mem.read]
    · have hr : Mem.read (Mem.cells a (x :: bs)) b = Mem.read (Mem.cells (a + 1) bs) b := by
        by_cases hx : x = Mem.empty
        · simp [Mem.cells, hx]
        · simp [Mem.cells, hx, Mem.read, Ne.symm hab]
      rw [hr, key]
      by_cases h : a ≤ b
      · have e : b - a = (b - (a + 1)) + 1 := by omega
        simp only [e, List.getD_cons_succ, List.length_cons]
        congr 1
        simp only [eq_iff_iff]; omega
      · rw [if_neg (by omega), if_neg (by omega)]

/-- A byte after a write of a run of bytes. -/
theorem Mem.read_writeN (m : Mem) (a : Nat) (bs : Bytes) (b : Nat) :
    (m.writeN a bs).read b = if a ≤ b ∧ b < a + bs.length then bs.getD (b - a) 0 else m.read b := by
  have hc := Mem.cells_lt bs a
  unfold Mem.writeN
  by_cases h1 : b < a
  · rw [if_neg (by omega), Mem.read_append_left, Mem.read_append_left, Mem.read_filter (fun x => decide (x < a))]
    · simp [h1]
    · intro c h; have := hc c h; omega
    · intro c h; have : a + bs.length ≤ c.1 := by simpa using (List.mem_filter.mp h).2
      omega
  · by_cases h2 : b < a + bs.length
    · rw [if_pos ⟨by omega, h2⟩, Mem.read_append_left, Mem.read_append_right, Mem.read_cells, if_pos ⟨by omega, h2⟩]
      · intro c h; have : c.1 < a := by simpa using (List.mem_filter.mp h).2
        omega
      · intro c h; have : a + bs.length ≤ c.1 := by simpa using (List.mem_filter.mp h).2
        omega
    · rw [if_neg (by omega), Mem.read_append_right, Mem.read_filter (fun x => decide (a + bs.length ≤ x))]
      · have : a + bs.length ≤ b := by omega
        simp [this]
      · intro c h
        rcases List.mem_append.mp h with h | h
        · have : c.1 < a := by simpa using (List.mem_filter.mp h).2
          omega
        · have := hc c h; omega

/-- A byte outside a written run is left alone. -/
theorem Mem.read_writeN_other (m : Mem) (a : Nat) (bs : Bytes) (b : Nat) (h : b < a ∨ a + bs.length ≤ b) :
    (m.writeN a bs).read b = m.read b := by
  rw [Mem.read_writeN, if_neg (by omega)]

/-- Byte-by-byte writes keep the canonical form. -/
theorem Mem.wf_writeAt (ks : List Nat) : ∀ (m : Mem) (bs : Bytes), m.wf = true → (m.writeAt ks bs).wf = true := by
  induction ks with
  | nil => intro m bs h; simpa [Mem.writeAt] using h
  | cons k ks ih =>
    intro m bs h
    cases bs with
    | nil => simpa [Mem.writeAt] using h
    | cons b bs => exact ih _ _ (Mem.wf_writeN m k [b] h)

/-- Places not written to read as before. -/
theorem Mem.read_writeAt_other (ks : List Nat) (b : Nat) (hb : b ∉ ks) :
    ∀ (m : Mem) (bs : Bytes), (m.writeAt ks bs).read b = m.read b := by
  induction ks with
  | nil => intro m bs; simp [Mem.writeAt]
  | cons k ks ih =>
    intro m bs
    simp only [List.mem_cons, not_or] at hb
    cases bs with
    | nil => simp [Mem.writeAt]
    | cons x bs =>
      rw [Mem.writeAt, ih hb.2, Mem.read_writeN_other]
      have := hb.1
      simp only [List.length_cons, List.length_nil]; omega

/-- A selection of memory's entries keeps the canonical form. -/
theorem Mem.wf_filter (p : Host.Cell → Bool) (m : Mem) (h : m.wf = true) : Mem.wf (m.filter p) = true := Mem.wfFrom_filter p m 0 h

/-- The memory right after reset is in its canonical form. -/
theorem State.reset_mem_wf : State.reset.mem.wf = true := rfl

end Sys2Proof.Machine
end

