-- ==== Sys2Proof/Laws/PerInstr.lean ====
section
/-!
SUPPORT. For every constructor, one lemma: decoding the syllable of a well-formed operation gives the operation back, with every field
at every value that the encoding admits (03_bundles.md R58, R59).
-/
set_option Elab.async false

namespace Sys2Proof.Laws.RoundTrip

/-- The syllable of a well-formed operation fits its slot, and decodes to the operation. -/
def Statement (i : Instr) : Prop :=
  i.wf = true → ∀ y, encodeSyl i = some y →
    y.slot < 7 ∧ y.w < 2 ^ 32 ∧ y.ext < 2 ^ 32 ∧ (fld y.w 25 1 = 0 → y.ext = 0) ∧ decodeSyl y = .ok i

/-! ## The fields of a word, by layout -/

theorem word0 {op x fn : Nat} (w q a0 a1 a2 : Nat) (hw : w = op * 67108864 + x * 33554432 + fn * 1 + q * 2097152 + a0 * 65536 + a1 * 2048 + a2 * 64) (ho : op < 64) (hx : x < 2) (hf : fn < 64) (hq : q < 16) (h0 : a0 < 32) (h1 : a1 < 32) (h2 : a2 < 32) :
    w < 2 ^ 32 ∧ fld w 26 6 = op ∧ fld w 25 1 = x ∧ fld w 0 6 = fn ∧ fld w 21 4 = q ∧ fld w 16 5 = a0 ∧ fld w 11 5 = a1 ∧ fld w 6 5 = a2 := by
  unfold fld; subst hw; refine ⟨?_, ?_, ?_, ?_, ?_, ?_, ?_, ?_⟩ <;> omega

theorem word1 {op x fn : Nat} (w q a0 a1 : Nat) (hw : w = op * 67108864 + x * 33554432 + fn * 1 + q * 2097152 + a0 * 65536 + a1 * 2048) (ho : op < 64) (hx : x < 2) (hf : fn < 64) (hq : q < 16) (h0 : a0 < 32) (h1 : a1 < 32) :
    w < 2 ^ 32 ∧ fld w 26 6 = op ∧ fld w 25 1 = x ∧ fld w 0 6 = fn ∧ fld w 21 4 = q ∧ fld w 16 5 = a0 ∧ fld w 11 5 = a1 ∧ fld w 6 5 = 0 := by
  unfold fld; subst hw; refine ⟨?_, ?_, ?_, ?_, ?_, ?_, ?_, ?_⟩ <;> omega

theorem word2 {op x : Nat} (w q a0 a1 a2 : Nat) (hw : w = op * 67108864 + x * 33554432 + q * 2097152 + a0 * 65536 + a1 * 2048 + a2) (ho : op < 64) (hx : x < 2) (hq : q < 16) (h0 : a0 < 32) (h1 : a1 < 32) (h2 : a2 < 2048) :
    w < 2 ^ 32 ∧ fld w 26 6 = op ∧ fld w 25 1 = x ∧ fld w 21 4 = q ∧ fld w 16 5 = a0 ∧ fld w 11 5 = a1 ∧ fld w 0 11 = a2 := by
  unfold fld; subst hw; refine ⟨?_, ?_, ?_, ?_, ?_, ?_, ?_⟩ <;> omega

theorem ext0  (w a0 : Nat) (hw : w = a0)  (h0 : a0 < 4294967296) :
    w < 2 ^ 32 ∧ fld w 0 32 = a0 := by
  unfold fld; subst hw; refine ⟨?_, ?_⟩ <;> omega

theorem word3 {op x : Nat} (w q a0 a1 : Nat) (hw : w = op * 67108864 + x * 33554432 + q * 2097152 + a0 * 65536 + a1) (ho : op < 64) (hx : x < 2) (hq : q < 16) (h0 : a0 < 32) (h1 : a1 < 65536) :
    w < 2 ^ 32 ∧ fld w 26 6 = op ∧ fld w 25 1 = x ∧ fld w 21 4 = q ∧ fld w 16 5 = a0 ∧ fld w 0 16 = a1 := by
  unfold fld; subst hw; refine ⟨?_, ?_, ?_, ?_, ?_, ?_⟩ <;> omega

theorem word4 {op x : Nat} (w q a0 a1 a2 a3 a4 : Nat) (hw : w = op * 67108864 + x * 33554432 + q * 2097152 + a0 * 131072 + a1 * 8192 + a2 * 256 + a3 * 8 + a4) (ho : op < 64) (hx : x < 2) (hq : q < 16) (h0 : a0 < 16) (h1 : a1 < 16) (h2 : a2 < 32) (h3 : a3 < 32) (h4 : a4 < 8) :
    w < 2 ^ 32 ∧ fld w 26 6 = op ∧ fld w 25 1 = x ∧ fld w 21 4 = q ∧ fld w 17 4 = a0 ∧ fld w 13 4 = a1 ∧ fld w 8 5 = a2 ∧ fld w 3 5 = a3 ∧ fld w 0 3 = a4 := by
  unfold fld; subst hw; refine ⟨?_, ?_, ?_, ?_, ?_, ?_, ?_, ?_, ?_⟩ <;> omega

theorem word5 {op x : Nat} (w q a0 a1 a2 a3 : Nat) (hw : w = op * 67108864 + x * 33554432 + q * 2097152 + a0 * 65536 + a1 * 2048 + a2 * 64 + a3 * 4) (ho : op < 64) (hx : x < 2) (hq : q < 16) (h0 : a0 < 32) (h1 : a1 < 32) (h2 : a2 < 32) (h3 : a3 < 16) :
    w < 2 ^ 32 ∧ fld w 26 6 = op ∧ fld w 25 1 = x ∧ fld w 21 4 = q ∧ fld w 16 5 = a0 ∧ fld w 11 5 = a1 ∧ fld w 6 5 = a2 ∧ fld w 2 4 = a3 ∧ fld w 0 2 = 0 := by
  unfold fld; subst hw; refine ⟨?_, ?_, ?_, ?_, ?_, ?_, ?_, ?_, ?_⟩ <;> omega

theorem word6 {op x : Nat} (w q a0 a1 : Nat) (hw : w = op * 67108864 + x * 33554432 + q * 2097152 + a0 * 65536 + a1 * 2048) (ho : op < 64) (hx : x < 2) (hq : q < 16) (h0 : a0 < 32) (h1 : a1 < 32) :
    w < 2 ^ 32 ∧ fld w 26 6 = op ∧ fld w 25 1 = x ∧ fld w 21 4 = q ∧ fld w 16 5 = a0 ∧ fld w 11 5 = a1 ∧ fld w 0 11 = 0 := by
  unfold fld; subst hw; refine ⟨?_, ?_, ?_, ?_, ?_, ?_, ?_⟩ <;> omega

theorem ext1  (w a0 a1 : Nat) (hw : w = a0 + a1 * 256)  (h0 : a0 < 64) (h1 : a1 < 64) :
    w < 2 ^ 32 ∧ fld w 0 6 = a0 ∧ fld w 8 6 = a1 ∧ fld w 6 2 = 0 ∧ fld w 14 18 = 0 := by
  unfold fld; subst hw; refine ⟨?_, ?_, ?_, ?_, ?_⟩ <;> omega

theorem word7 {op x : Nat} (w q a0 a1 a2 a3 : Nat) (hw : w = op * 67108864 + x * 33554432 + q * 2097152 + a0 * 65536 + a1 * 2048 + a2 * 64 + a3) (ho : op < 64) (hx : x < 2) (hq : q < 16) (h0 : a0 < 32) (h1 : a1 < 32) (h2 : a2 < 32) (h3 : a3 < 8) :
    w < 2 ^ 32 ∧ fld w 26 6 = op ∧ fld w 25 1 = x ∧ fld w 21 4 = q ∧ fld w 16 5 = a0 ∧ fld w 11 5 = a1 ∧ fld w 6 5 = a2 ∧ fld w 0 3 = a3 ∧ fld w 3 3 = 0 := by
  unfold fld; subst hw; refine ⟨?_, ?_, ?_, ?_, ?_, ?_, ?_, ?_, ?_⟩ <;> omega

theorem word8 {op x : Nat} (w q a0 a1 : Nat) (hw : w = op * 67108864 + x * 33554432 + q * 2097152 + a0 * 65536 + a1) (ho : op < 64) (hx : x < 2) (hq : q < 16) (h0 : a0 < 32) (h1 : a1 < 256) :
    w < 2 ^ 32 ∧ fld w 26 6 = op ∧ fld w 25 1 = x ∧ fld w 21 4 = q ∧ fld w 16 5 = a0 ∧ fld w 0 8 = a1 ∧ fld w 8 8 = 0 := by
  unfold fld; subst hw; refine ⟨?_, ?_, ?_, ?_, ?_, ?_, ?_⟩ <;> omega

theorem word9 {op x : Nat} (w q a0 : Nat) (hw : w = op * 67108864 + x * 33554432 + q * 2097152 + a0) (ho : op < 64) (hx : x < 2) (hq : q < 16) (h0 : a0 < 2097152) :
    w < 2 ^ 32 ∧ fld w 26 6 = op ∧ fld w 25 1 = x ∧ fld w 21 4 = q ∧ fld w 0 21 = a0 := by
  unfold fld; subst hw; refine ⟨?_, ?_, ?_, ?_, ?_⟩ <;> omega

theorem word10 {op x : Nat} (w q a0 : Nat) (hw : w = op * 67108864 + x * 33554432 + q * 2097152 + a0 * 65536) (ho : op < 64) (hx : x < 2) (hq : q < 16) (h0 : a0 < 32) :
    w < 2 ^ 32 ∧ fld w 26 6 = op ∧ fld w 25 1 = x ∧ fld w 21 4 = q ∧ fld w 16 5 = a0 ∧ fld w 0 16 = 0 := by
  unfold fld; subst hw; refine ⟨?_, ?_, ?_, ?_, ?_, ?_⟩ <;> omega

theorem word11 {op x : Nat} (w q a0 a1 : Nat) (hw : w = op * 67108864 + x * 33554432 + q * 2097152 + a0 * 65536 + a1) (ho : op < 64) (hx : x < 2) (hq : q < 16) (h0 : a0 < 32) (h1 : a1 < 2048) :
    w < 2 ^ 32 ∧ fld w 26 6 = op ∧ fld w 25 1 = x ∧ fld w 21 4 = q ∧ fld w 16 5 = a0 ∧ fld w 0 11 = a1 ∧ fld w 11 5 = 0 := by
  unfold fld; subst hw; refine ⟨?_, ?_, ?_, ?_, ?_, ?_, ?_⟩ <;> omega

theorem word12 {op x : Nat} (w q a0 a1 : Nat) (hw : w = op * 67108864 + x * 33554432 + q * 2097152 + a0 * 2048 + a1) (ho : op < 64) (hx : x < 2) (hq : q < 16) (h0 : a0 < 1024) (h1 : a1 < 2048) :
    w < 2 ^ 32 ∧ fld w 26 6 = op ∧ fld w 25 1 = x ∧ fld w 21 4 = q ∧ fld w 11 10 = a0 ∧ fld w 0 11 = a1 := by
  unfold fld; subst hw; refine ⟨?_, ?_, ?_, ?_, ?_, ?_⟩ <;> omega

theorem word13 {op x : Nat} (w q a0 a1 a2 : Nat) (hw : w = op * 67108864 + x * 33554432 + q * 2097152 + a0 * 65536 + a1 * 4096 + a2) (ho : op < 64) (hx : x < 2) (hq : q < 16) (h0 : a0 < 32) (h1 : a1 < 16) (h2 : a2 < 4096) :
    w < 2 ^ 32 ∧ fld w 26 6 = op ∧ fld w 25 1 = x ∧ fld w 21 4 = q ∧ fld w 16 5 = a0 ∧ fld w 12 4 = a1 ∧ fld w 0 12 = a2 := by
  unfold fld; subst hw; refine ⟨?_, ?_, ?_, ?_, ?_, ?_, ?_⟩ <;> omega

theorem word14 {op x : Nat} (w q : Nat) (hw : w = op * 67108864 + x * 33554432 + q * 2097152) (ho : op < 64) (hx : x < 2) (hq : q < 16)  :
    w < 2 ^ 32 ∧ fld w 26 6 = op ∧ fld w 25 1 = x ∧ fld w 21 4 = q ∧ fld w 0 21 = 0 := by
  unfold fld; subst hw; refine ⟨?_, ?_, ?_, ?_, ?_⟩ <;> omega

theorem word15 {op x : Nat} (w q a0 a1 a2 a3 : Nat) (hw : w = op * 67108864 + x * 33554432 + q * 2097152 + a0 * 131072 + a1 * 8192 + a2 * 512 + a3) (ho : op < 64) (hx : x < 2) (hq : q < 16) (h0 : a0 < 16) (h1 : a1 < 16) (h2 : a2 < 16) (h3 : a3 < 8) :
    w < 2 ^ 32 ∧ fld w 26 6 = op ∧ fld w 25 1 = x ∧ fld w 21 4 = q ∧ fld w 17 4 = a0 ∧ fld w 13 4 = a1 ∧ fld w 9 4 = a2 ∧ fld w 0 3 = a3 ∧ fld w 3 6 = 0 := by
  unfold fld; subst hw; refine ⟨?_, ?_, ?_, ?_, ?_, ?_, ?_, ?_, ?_⟩ <;> omega

theorem word16 {op x : Nat} (w q a0 a1 : Nat) (hw : w = op * 67108864 + x * 33554432 + q * 2097152 + a0 * 131072 + a1 * 512) (ho : op < 64) (hx : x < 2) (hq : q < 16) (h0 : a0 < 16) (h1 : a1 < 256) :
    w < 2 ^ 32 ∧ fld w 26 6 = op ∧ fld w 25 1 = x ∧ fld w 21 4 = q ∧ fld w 17 4 = a0 ∧ fld w 9 8 = a1 ∧ fld w 0 9 = 0 := by
  unfold fld; subst hw; refine ⟨?_, ?_, ?_, ?_, ?_, ?_, ?_⟩ <;> omega

theorem word17 {op x : Nat} (w q a0 a1 a2 : Nat) (hw : w = op * 67108864 + x * 33554432 + q * 2097152 + a0 * 131072 + a1 * 16384 + a2 * 512) (ho : op < 64) (hx : x < 2) (hq : q < 16) (h0 : a0 < 16) (h1 : a1 < 8) (h2 : a2 < 32) :
    w < 2 ^ 32 ∧ fld w 26 6 = op ∧ fld w 25 1 = x ∧ fld w 21 4 = q ∧ fld w 17 4 = a0 ∧ fld w 14 3 = a1 ∧ fld w 9 5 = a2 ∧ fld w 0 9 = 0 := by
  unfold fld; subst hw; refine ⟨?_, ?_, ?_, ?_, ?_, ?_, ?_, ?_⟩ <;> omega

theorem word18 {op x : Nat} (w q a0 a1 : Nat) (hw : w = op * 67108864 + x * 33554432 + q * 2097152 + a0 * 32768 + a1 * 1024) (ho : op < 64) (hx : x < 2) (hq : q < 16) (h0 : a0 < 64) (h1 : a1 < 32) :
    w < 2 ^ 32 ∧ fld w 26 6 = op ∧ fld w 25 1 = x ∧ fld w 21 4 = q ∧ fld w 15 6 = a0 ∧ fld w 10 5 = a1 ∧ fld w 0 10 = 0 := by
  unfold fld; subst hw; refine ⟨?_, ?_, ?_, ?_, ?_, ?_, ?_⟩ <;> omega

theorem word19 {op x : Nat} (w q a0 a1 : Nat) (hw : w = op * 67108864 + x * 33554432 + q * 2097152 + a0 * 65536 + a1 * 8192) (ho : op < 64) (hx : x < 2) (hq : q < 16) (h0 : a0 < 32) (h1 : a1 < 8) :
    w < 2 ^ 32 ∧ fld w 26 6 = op ∧ fld w 25 1 = x ∧ fld w 21 4 = q ∧ fld w 16 5 = a0 ∧ fld w 13 3 = a1 ∧ fld w 0 13 = 0 := by
  unfold fld; subst hw; refine ⟨?_, ?_, ?_, ?_, ?_, ?_, ?_⟩ <;> omega

theorem word20 {op x : Nat} (w q a0 a1 a2 : Nat) (hw : w = op * 67108864 + x * 33554432 + q * 2097152 + a0 * 131072 + a1 * 4096 + a2 * 256) (ho : op < 64) (hx : x < 2) (hq : q < 16) (h0 : a0 < 16) (h1 : a1 < 32) (h2 : a2 < 16) :
    w < 2 ^ 32 ∧ fld w 26 6 = op ∧ fld w 25 1 = x ∧ fld w 21 4 = q ∧ fld w 17 4 = a0 ∧ fld w 12 5 = a1 ∧ fld w 8 4 = a2 ∧ fld w 0 8 = 0 := by
  unfold fld; subst hw; refine ⟨?_, ?_, ?_, ?_, ?_, ?_, ?_, ?_⟩ <;> omega

theorem ext2  (w a0 : Nat) (hw : w = a0)  (h0 : a0 < 2) :
    w < 2 ^ 32 ∧ fld w 0 1 = a0 ∧ fld w 1 31 = 0 := by
  unfold fld; subst hw; refine ⟨?_, ?_, ?_⟩ <;> omega

theorem word21 {op x : Nat} (w q a0 : Nat) (hw : w = op * 67108864 + x * 33554432 + q * 2097152 + a0) (ho : op < 64) (hx : x < 2) (hq : q < 16) (h0 : a0 < 65536) :
    w < 2 ^ 32 ∧ fld w 26 6 = op ∧ fld w 25 1 = x ∧ fld w 21 4 = q ∧ fld w 0 16 = a0 ∧ fld w 16 5 = 0 := by
  unfold fld; subst hw; refine ⟨?_, ?_, ?_, ?_, ?_, ?_⟩ <;> omega

theorem word22 {op x fn : Nat} (w q a0 a1 a2 : Nat) (hw : w = op * 67108864 + x * 33554432 + fn * 1 + q * 2097152 + a0 * 65536 + a1 * 2048 + a2 * 64) (ho : op < 64) (hx : x < 2) (hf : fn < 8) (hq : q < 16) (h0 : a0 < 32) (h1 : a1 < 32) (h2 : a2 < 32) :
    w < 2 ^ 32 ∧ fld w 26 6 = op ∧ fld w 25 1 = x ∧ fld w 0 3 = fn ∧ fld w 21 4 = q ∧ fld w 16 5 = a0 ∧ fld w 11 5 = a1 ∧ fld w 6 5 = a2 ∧ fld w 3 3 = 0 := by
  unfold fld; subst hw; refine ⟨?_, ?_, ?_, ?_, ?_, ?_, ?_, ?_, ?_⟩ <;> omega

theorem ext3  (w a0 : Nat) (hw : w = a0)  (h0 : a0 < 64) :
    w < 2 ^ 32 ∧ fld w 0 6 = a0 ∧ fld w 6 26 = 0 := by
  unfold fld; subst hw; refine ⟨?_, ?_, ?_⟩ <;> omega

theorem word23 {op x fn : Nat} (w q a0 a1 a2 : Nat) (hw : w = op * 67108864 + x * 33554432 + fn * 1 + q * 2097152 + a0 * 65536 + a1 * 2048 + a2 * 64) (ho : op < 64) (hx : x < 2) (hf : fn < 32) (hq : q < 16) (h0 : a0 < 32) (h1 : a1 < 32) (h2 : a2 < 32) :
    w < 2 ^ 32 ∧ fld w 26 6 = op ∧ fld w 25 1 = x ∧ fld w 0 5 = fn ∧ fld w 21 4 = q ∧ fld w 16 5 = a0 ∧ fld w 11 5 = a1 ∧ fld w 6 5 = a2 ∧ fld w 5 1 = 0 := by
  unfold fld; subst hw; refine ⟨?_, ?_, ?_, ?_, ?_, ?_, ?_, ?_, ?_⟩ <;> omega

theorem ext4  (w a0 : Nat) (hw : w = a0)  (h0 : a0 < 65536) :
    w < 2 ^ 32 ∧ fld w 0 16 = a0 ∧ fld w 16 16 = 0 := by
  unfold fld; subst hw; refine ⟨?_, ?_, ?_⟩ <;> omega

theorem ext5  (w a0 : Nat) (hw : w = a0)  (h0 : a0 < 4) :
    w < 2 ^ 32 ∧ fld w 0 2 = a0 ∧ fld w 2 30 = 0 := by
  unfold fld; subst hw; refine ⟨?_, ?_, ?_⟩ <;> omega

theorem word24 {op x fn : Nat} (w q a0 a1 a2 : Nat) (hw : w = op * 67108864 + x * 33554432 + fn * 1 + q * 2097152 + a0 * 65536 + a1 * 4096 + a2 * 128) (ho : op < 64) (hx : x < 2) (hf : fn < 8) (hq : q < 16) (h0 : a0 < 32) (h1 : a1 < 16) (h2 : a2 < 32) :
    w < 2 ^ 32 ∧ fld w 26 6 = op ∧ fld w 25 1 = x ∧ fld w 0 3 = fn ∧ fld w 21 4 = q ∧ fld w 16 5 = a0 ∧ fld w 12 4 = a1 ∧ fld w 7 5 = a2 ∧ fld w 3 4 = 0 := by
  unfold fld; subst hw; refine ⟨?_, ?_, ?_, ?_, ?_, ?_, ?_, ?_, ?_⟩ <;> omega

theorem word25 {op x : Nat} (w q a0 a1 a2 a3 : Nat) (hw : w = op * 67108864 + x * 33554432 + q * 2097152 + a0 * 65536 + a1 * 4096 + a2 * 128 + a3) (ho : op < 64) (hx : x < 2) (hq : q < 16) (h0 : a0 < 32) (h1 : a1 < 16) (h2 : a2 < 32) (h3 : a3 < 16) :
    w < 2 ^ 32 ∧ fld w 26 6 = op ∧ fld w 25 1 = x ∧ fld w 21 4 = q ∧ fld w 16 5 = a0 ∧ fld w 12 4 = a1 ∧ fld w 7 5 = a2 ∧ fld w 0 4 = a3 ∧ fld w 4 3 = 0 := by
  unfold fld; subst hw; refine ⟨?_, ?_, ?_, ?_, ?_, ?_, ?_, ?_, ?_⟩ <;> omega

theorem word26 {op x : Nat} (w q a0 a1 : Nat) (hw : w = op * 67108864 + x * 33554432 + q * 2097152 + a0 * 131072 + a1 * 16384) (ho : op < 64) (hx : x < 2) (hq : q < 16) (h0 : a0 < 16) (h1 : a1 < 8) :
    w < 2 ^ 32 ∧ fld w 26 6 = op ∧ fld w 25 1 = x ∧ fld w 21 4 = q ∧ fld w 17 4 = a0 ∧ fld w 14 3 = a1 ∧ fld w 0 14 = 0 := by
  unfold fld; subst hw; refine ⟨?_, ?_, ?_, ?_, ?_, ?_, ?_⟩ <;> omega

theorem word27 {op x : Nat} (w q a0 a1 a2 : Nat) (hw : w = op * 67108864 + x * 33554432 + q * 2097152 + a0 * 262144 + a1 * 8192 + a2 * 256) (ho : op < 64) (hx : x < 2) (hq : q < 16) (h0 : a0 < 8) (h1 : a1 < 32) (h2 : a2 < 32) :
    w < 2 ^ 32 ∧ fld w 26 6 = op ∧ fld w 25 1 = x ∧ fld w 21 4 = q ∧ fld w 18 3 = a0 ∧ fld w 13 5 = a1 ∧ fld w 8 5 = a2 ∧ fld w 0 8 = 0 := by
  unfold fld; subst hw; refine ⟨?_, ?_, ?_, ?_, ?_, ?_, ?_, ?_⟩ <;> omega

theorem word28 {op x : Nat} (w q a0 a1 : Nat) (hw : w = op * 67108864 + x * 33554432 + q * 2097152 + a0 * 262144 + a1 * 8192) (ho : op < 64) (hx : x < 2) (hq : q < 16) (h0 : a0 < 8) (h1 : a1 < 32) :
    w < 2 ^ 32 ∧ fld w 26 6 = op ∧ fld w 25 1 = x ∧ fld w 21 4 = q ∧ fld w 18 3 = a0 ∧ fld w 13 5 = a1 ∧ fld w 0 13 = 0 := by
  unfold fld; subst hw; refine ⟨?_, ?_, ?_, ?_, ?_, ?_, ?_⟩ <;> omega

theorem word29 {op x : Nat} (w q a0 a1 : Nat) (hw : w = op * 67108864 + x * 33554432 + q * 2097152 + a0 * 262144 + a1 * 32768) (ho : op < 64) (hx : x < 2) (hq : q < 16) (h0 : a0 < 8) (h1 : a1 < 8) :
    w < 2 ^ 32 ∧ fld w 26 6 = op ∧ fld w 25 1 = x ∧ fld w 21 4 = q ∧ fld w 18 3 = a0 ∧ fld w 15 3 = a1 ∧ fld w 0 15 = 0 := by
  unfold fld; subst hw; refine ⟨?_, ?_, ?_, ?_, ?_, ?_, ?_⟩ <;> omega

theorem word30 {op x : Nat} (w q a0 a1 a2 : Nat) (hw : w = op * 67108864 + x * 33554432 + q * 2097152 + a0 * 262144 + a1 * 65536 + a2 * 2048) (ho : op < 64) (hx : x < 2) (hq : q < 16) (h0 : a0 < 8) (h1 : a1 < 4) (h2 : a2 < 32) :
    w < 2 ^ 32 ∧ fld w 26 6 = op ∧ fld w 25 1 = x ∧ fld w 21 4 = q ∧ fld w 18 3 = a0 ∧ fld w 16 2 = a1 ∧ fld w 11 5 = a2 ∧ fld w 0 11 = 0 := by
  unfold fld; subst hw; refine ⟨?_, ?_, ?_, ?_, ?_, ?_, ?_, ?_⟩ <;> omega

theorem word31 {op x : Nat} (w q a0 a1 a2 : Nat) (hw : w = op * 67108864 + x * 33554432 + q * 2097152 + a0 * 262144 + a1 * 131072 + a2 * 4096) (ho : op < 64) (hx : x < 2) (hq : q < 16) (h0 : a0 < 8) (h1 : a1 < 2) (h2 : a2 < 32) :
    w < 2 ^ 32 ∧ fld w 26 6 = op ∧ fld w 25 1 = x ∧ fld w 21 4 = q ∧ fld w 18 3 = a0 ∧ fld w 17 1 = a1 ∧ fld w 12 5 = a2 ∧ fld w 0 12 = 0 := by
  unfold fld; subst hw; refine ⟨?_, ?_, ?_, ?_, ?_, ?_, ?_, ?_⟩ <;> omega

theorem word32 {op x : Nat} (w q a0 a1 : Nat) (hw : w = op * 67108864 + x * 33554432 + q * 2097152 + a0 * 262144 + a1 * 65536) (ho : op < 64) (hx : x < 2) (hq : q < 16) (h0 : a0 < 8) (h1 : a1 < 4) :
    w < 2 ^ 32 ∧ fld w 26 6 = op ∧ fld w 25 1 = x ∧ fld w 21 4 = q ∧ fld w 18 3 = a0 ∧ fld w 16 2 = a1 ∧ fld w 0 16 = 0 := by
  unfold fld; subst hw; refine ⟨?_, ?_, ?_, ?_, ?_, ?_, ?_⟩ <;> omega

theorem word33 {op x : Nat} (w q a0 a1 : Nat) (hw : w = op * 67108864 + x * 33554432 + q * 2097152 + a0 * 16384 + a1 * 8) (ho : op < 64) (hx : x < 2) (hq : q < 16) (h0 : a0 < 128) (h1 : a1 < 2048) :
    w < 2 ^ 32 ∧ fld w 26 6 = op ∧ fld w 25 1 = x ∧ fld w 21 4 = q ∧ fld w 14 7 = a0 ∧ fld w 3 11 = a1 ∧ fld w 0 3 = 0 := by
  unfold fld; subst hw; refine ⟨?_, ?_, ?_, ?_, ?_, ?_, ?_⟩ <;> omega

theorem word34 {op x : Nat} (w q a0 a1 a2 a3 a4 : Nat) (hw : w = op * 67108864 + x * 33554432 + q * 2097152 + a0 * 131072 + a1 * 8192 + a2 * 2048 + a3 * 64 + a4 * 2) (ho : op < 64) (hx : x < 2) (hq : q < 16) (h0 : a0 < 16) (h1 : a1 < 16) (h2 : a2 < 4) (h3 : a3 < 32) (h4 : a4 < 32) :
    w < 2 ^ 32 ∧ fld w 26 6 = op ∧ fld w 25 1 = x ∧ fld w 21 4 = q ∧ fld w 17 4 = a0 ∧ fld w 13 4 = a1 ∧ fld w 11 2 = a2 ∧ fld w 6 5 = a3 ∧ fld w 1 5 = a4 ∧ fld w 0 1 = 0 := by
  unfold fld; subst hw; refine ⟨?_, ?_, ?_, ?_, ?_, ?_, ?_, ?_, ?_, ?_⟩ <;> omega

theorem word35 {op x : Nat} (w q a0 a1 a2 a3 : Nat) (hw : w = op * 67108864 + x * 33554432 + q * 2097152 + a0 * 65536 + a1 * 32768 + a2 * 4096 + a3 * 128) (ho : op < 64) (hx : x < 2) (hq : q < 16) (h0 : a0 < 32) (h1 : a1 < 2) (h2 : a2 < 8) (h3 : a3 < 32) :
    w < 2 ^ 32 ∧ fld w 26 6 = op ∧ fld w 25 1 = x ∧ fld w 21 4 = q ∧ fld w 16 5 = a0 ∧ fld w 15 1 = a1 ∧ fld w 12 3 = a2 ∧ fld w 7 5 = a3 ∧ fld w 0 7 = 0 := by
  unfold fld; subst hw; refine ⟨?_, ?_, ?_, ?_, ?_, ?_, ?_, ?_, ?_⟩ <;> omega

theorem word36 {op x : Nat} (w q a0 a1 a2 : Nat) (hw : w = op * 67108864 + x * 33554432 + q * 2097152 + a0 * 131072 + a1 * 8192 + a2 * 32) (ho : op < 64) (hx : x < 2) (hq : q < 16) (h0 : a0 < 16) (h1 : a1 < 16) (h2 : a2 < 256) :
    w < 2 ^ 32 ∧ fld w 26 6 = op ∧ fld w 25 1 = x ∧ fld w 21 4 = q ∧ fld w 17 4 = a0 ∧ fld w 13 4 = a1 ∧ fld w 5 8 = a2 ∧ fld w 0 5 = 0 := by
  unfold fld; subst hw; refine ⟨?_, ?_, ?_, ?_, ?_, ?_, ?_, ?_⟩ <;> omega

theorem word37 {op x : Nat} (w q a0 a1 a2 : Nat) (hw : w = op * 67108864 + x * 33554432 + q * 2097152 + a0 * 131072 + a1 * 8192 + a2 * 256) (ho : op < 64) (hx : x < 2) (hq : q < 16) (h0 : a0 < 16) (h1 : a1 < 16) (h2 : a2 < 32) :
    w < 2 ^ 32 ∧ fld w 26 6 = op ∧ fld w 25 1 = x ∧ fld w 21 4 = q ∧ fld w 17 4 = a0 ∧ fld w 13 4 = a1 ∧ fld w 8 5 = a2 ∧ fld w 0 8 = 0 := by
  unfold fld; subst hw; refine ⟨?_, ?_, ?_, ?_, ?_, ?_, ?_, ?_⟩ <;> omega

theorem word38 {op x : Nat} (w q a0 a1 a2 a3 : Nat) (hw : w = op * 67108864 + x * 33554432 + q * 2097152 + a0 * 131072 + a1 * 8192 + a2 * 32 + a3 * 2) (ho : op < 64) (hx : x < 2) (hq : q < 16) (h0 : a0 < 16) (h1 : a1 < 16) (h2 : a2 < 256) (h3 : a3 < 16) :
    w < 2 ^ 32 ∧ fld w 26 6 = op ∧ fld w 25 1 = x ∧ fld w 21 4 = q ∧ fld w 17 4 = a0 ∧ fld w 13 4 = a1 ∧ fld w 5 8 = a2 ∧ fld w 1 4 = a3 ∧ fld w 0 1 = 0 := by
  unfold fld; subst hw; refine ⟨?_, ?_, ?_, ?_, ?_, ?_, ?_, ?_, ?_⟩ <;> omega

theorem word39 {op x : Nat} (w q a0 a1 a2 : Nat) (hw : w = op * 67108864 + x * 33554432 + q * 2097152 + a0 * 131072 + a1 * 16384 + a2 * 1024) (ho : op < 64) (hx : x < 2) (hq : q < 16) (h0 : a0 < 16) (h1 : a1 < 8) (h2 : a2 < 16) :
    w < 2 ^ 32 ∧ fld w 26 6 = op ∧ fld w 25 1 = x ∧ fld w 21 4 = q ∧ fld w 17 4 = a0 ∧ fld w 14 3 = a1 ∧ fld w 10 4 = a2 ∧ fld w 0 10 = 0 := by
  unfold fld; subst hw; refine ⟨?_, ?_, ?_, ?_, ?_, ?_, ?_, ?_⟩ <;> omega

theorem word40 {op x : Nat} (w q a0 a1 a2 : Nat) (hw : w = op * 67108864 + x * 33554432 + q * 2097152 + a0 * 131072 + a1 * 4096 + a2 * 2048) (ho : op < 64) (hx : x < 2) (hq : q < 16) (h0 : a0 < 16) (h1 : a1 < 32) (h2 : a2 < 2) :
    w < 2 ^ 32 ∧ fld w 26 6 = op ∧ fld w 25 1 = x ∧ fld w 21 4 = q ∧ fld w 17 4 = a0 ∧ fld w 12 5 = a1 ∧ fld w 11 1 = a2 ∧ fld w 0 11 = 0 := by
  unfold fld; subst hw; refine ⟨?_, ?_, ?_, ?_, ?_, ?_, ?_, ?_⟩ <;> omega

theorem word41 {op x : Nat} (w q a0 a1 a2 a3 : Nat) (hw : w = op * 67108864 + x * 33554432 + q * 2097152 + a0 * 131072 + a1 * 8192 + a2 * 4096 + a3 * 256) (ho : op < 64) (hx : x < 2) (hq : q < 16) (h0 : a0 < 16) (h1 : a1 < 16) (h2 : a2 < 2) (h3 : a3 < 16) :
    w < 2 ^ 32 ∧ fld w 26 6 = op ∧ fld w 25 1 = x ∧ fld w 21 4 = q ∧ fld w 17 4 = a0 ∧ fld w 13 4 = a1 ∧ fld w 12 1 = a2 ∧ fld w 8 4 = a3 ∧ fld w 0 8 = 0 := by
  unfold fld; subst hw; refine ⟨?_, ?_, ?_, ?_, ?_, ?_, ?_, ?_, ?_⟩ <;> omega

theorem word42 {op x : Nat} (w q a0 a1 a2 a3 a4 : Nat) (hw : w = op * 67108864 + x * 33554432 + q * 2097152 + a0 * 65536 + a1 * 4096 + a2 * 1024 + a3 * 512 + a4) (ho : op < 64) (hx : x < 2) (hq : q < 16) (h0 : a0 < 32) (h1 : a1 < 16) (h2 : a2 < 4) (h3 : a3 < 2) (h4 : a4 < 512) :
    w < 2 ^ 32 ∧ fld w 26 6 = op ∧ fld w 25 1 = x ∧ fld w 21 4 = q ∧ fld w 16 5 = a0 ∧ fld w 12 4 = a1 ∧ fld w 10 2 = a2 ∧ fld w 9 1 = a3 ∧ fld w 0 9 = a4 := by
  unfold fld; subst hw; refine ⟨?_, ?_, ?_, ?_, ?_, ?_, ?_, ?_, ?_⟩ <;> omega

theorem word43 {op x : Nat} (w q a0 a1 a2 a3 a4 : Nat) (hw : w = op * 67108864 + x * 33554432 + q * 2097152 + a0 * 65536 + a1 * 4096 + a2 * 1024 + a3 * 512 + a4 * 16) (ho : op < 64) (hx : x < 2) (hq : q < 16) (h0 : a0 < 32) (h1 : a1 < 16) (h2 : a2 < 4) (h3 : a3 < 2) (h4 : a4 < 32) :
    w < 2 ^ 32 ∧ fld w 26 6 = op ∧ fld w 25 1 = x ∧ fld w 21 4 = q ∧ fld w 16 5 = a0 ∧ fld w 12 4 = a1 ∧ fld w 10 2 = a2 ∧ fld w 9 1 = a3 ∧ fld w 4 5 = a4 ∧ fld w 0 4 = 0 := by
  unfold fld; subst hw; refine ⟨?_, ?_, ?_, ?_, ?_, ?_, ?_, ?_, ?_, ?_⟩ <;> omega

theorem word44 {op x : Nat} (w q a0 a1 a2 a3 a4 a5 : Nat) (hw : w = op * 67108864 + x * 33554432 + q * 2097152 + a0 * 65536 + a1 * 4096 + a2 * 128 + a3 * 32 + a4 * 16 + a5) (ho : op < 64) (hx : x < 2) (hq : q < 16) (h0 : a0 < 32) (h1 : a1 < 16) (h2 : a2 < 32) (h3 : a3 < 4) (h4 : a4 < 2) (h5 : a5 < 16) :
    w < 2 ^ 32 ∧ fld w 26 6 = op ∧ fld w 25 1 = x ∧ fld w 21 4 = q ∧ fld w 16 5 = a0 ∧ fld w 12 4 = a1 ∧ fld w 7 5 = a2 ∧ fld w 5 2 = a3 ∧ fld w 4 1 = a4 ∧ fld w 0 4 = a5 := by
  unfold fld; subst hw; refine ⟨?_, ?_, ?_, ?_, ?_, ?_, ?_, ?_, ?_, ?_⟩ <;> omega

theorem word45 {op x : Nat} (w q a0 a1 a2 a3 : Nat) (hw : w = op * 67108864 + x * 33554432 + q * 2097152 + a0 * 65536 + a1 * 4096 + a2 * 2048 + a3 * 64) (ho : op < 64) (hx : x < 2) (hq : q < 16) (h0 : a0 < 32) (h1 : a1 < 16) (h2 : a2 < 2) (h3 : a3 < 32) :
    w < 2 ^ 32 ∧ fld w 26 6 = op ∧ fld w 25 1 = x ∧ fld w 21 4 = q ∧ fld w 16 5 = a0 ∧ fld w 12 4 = a1 ∧ fld w 11 1 = a2 ∧ fld w 6 5 = a3 ∧ fld w 0 6 = 0 := by
  unfold fld; subst hw; refine ⟨?_, ?_, ?_, ?_, ?_, ?_, ?_, ?_, ?_⟩ <;> omega

theorem word46 {op x : Nat} (w q a0 : Nat) (hw : w = op * 67108864 + x * 33554432 + q * 2097152 + a0 * 131072) (ho : op < 64) (hx : x < 2) (hq : q < 16) (h0 : a0 < 16) :
    w < 2 ^ 32 ∧ fld w 26 6 = op ∧ fld w 25 1 = x ∧ fld w 21 4 = q ∧ fld w 17 4 = a0 ∧ fld w 0 17 = 0 := by
  unfold fld; subst hw; refine ⟨?_, ?_, ?_, ?_, ?_, ?_⟩ <;> omega

theorem word47 {op x : Nat} (w q a0 a1 a2 : Nat) (hw : w = op * 67108864 + x * 33554432 + q * 2097152 + a0 * 65536 + a1 * 4096 + a2 * 256) (ho : op < 64) (hx : x < 2) (hq : q < 16) (h0 : a0 < 32) (h1 : a1 < 16) (h2 : a2 < 16) :
    w < 2 ^ 32 ∧ fld w 26 6 = op ∧ fld w 25 1 = x ∧ fld w 21 4 = q ∧ fld w 16 5 = a0 ∧ fld w 12 4 = a1 ∧ fld w 8 4 = a2 ∧ fld w 0 8 = 0 := by
  unfold fld; subst hw; refine ⟨?_, ?_, ?_, ?_, ?_, ?_, ?_, ?_⟩ <;> omega

theorem word48 {op x : Nat} (w q a0 a1 a2 a3 : Nat) (hw : w = op * 67108864 + x * 33554432 + q * 2097152 + a0 * 131072 + a1 * 4096 + a2 * 128 + a3 * 8) (ho : op < 64) (hx : x < 2) (hq : q < 16) (h0 : a0 < 16) (h1 : a1 < 32) (h2 : a2 < 32) (h3 : a3 < 16) :
    w < 2 ^ 32 ∧ fld w 26 6 = op ∧ fld w 25 1 = x ∧ fld w 21 4 = q ∧ fld w 17 4 = a0 ∧ fld w 12 5 = a1 ∧ fld w 7 5 = a2 ∧ fld w 3 4 = a3 ∧ fld w 0 3 = 0 := by
  unfold fld; subst hw; refine ⟨?_, ?_, ?_, ?_, ?_, ?_, ?_, ?_, ?_⟩ <;> omega

theorem word49 {op x : Nat} (w q a0 a1 a2 : Nat) (hw : w = op * 67108864 + x * 33554432 + q * 2097152 + a0 * 131072 + a1 * 512 + a2 * 16) (ho : op < 64) (hx : x < 2) (hq : q < 16) (h0 : a0 < 16) (h1 : a1 < 256) (h2 : a2 < 32) :
    w < 2 ^ 32 ∧ fld w 26 6 = op ∧ fld w 25 1 = x ∧ fld w 21 4 = q ∧ fld w 17 4 = a0 ∧ fld w 9 8 = a1 ∧ fld w 4 5 = a2 ∧ fld w 0 4 = 0 := by
  unfold fld; subst hw; refine ⟨?_, ?_, ?_, ?_, ?_, ?_, ?_, ?_⟩ <;> omega

theorem word50 {op x : Nat} (w q a0 a1 a2 a3 a4 a5 a6 : Nat) (hw : w = op * 67108864 + x * 33554432 + q * 2097152 + a0 * 131072 + a1 * 8192 + a2 * 512 + a3 * 64 + a4 * 32 + a5 * 16 + a6) (ho : op < 64) (hx : x < 2) (hq : q < 16) (h0 : a0 < 16) (h1 : a1 < 16) (h2 : a2 < 16) (h3 : a3 < 8) (h4 : a4 < 2) (h5 : a5 < 2) (h6 : a6 < 16) :
    w < 2 ^ 32 ∧ fld w 26 6 = op ∧ fld w 25 1 = x ∧ fld w 21 4 = q ∧ fld w 17 4 = a0 ∧ fld w 13 4 = a1 ∧ fld w 9 4 = a2 ∧ fld w 6 3 = a3 ∧ fld w 5 1 = a4 ∧ fld w 4 1 = a5 ∧ fld w 0 4 = a6 := by
  unfold fld; subst hw; refine ⟨?_, ?_, ?_, ?_, ?_, ?_, ?_, ?_, ?_, ?_, ?_⟩ <;> omega

theorem word51 {op x fn : Nat} (w q a0 a1 a2 a3 a4 a5 : Nat) (hw : w = op * 67108864 + x * 33554432 + fn * 1 + q * 2097152 + a0 * 131072 + a1 * 8192 + a2 * 512 + a3 * 64 + a4 * 32 + a5 * 16) (ho : op < 64) (hx : x < 2) (hf : fn < 16) (hq : q < 16) (h0 : a0 < 16) (h1 : a1 < 16) (h2 : a2 < 16) (h3 : a3 < 8) (h4 : a4 < 2) (h5 : a5 < 2) :
    w < 2 ^ 32 ∧ fld w 26 6 = op ∧ fld w 25 1 = x ∧ fld w 0 4 = fn ∧ fld w 21 4 = q ∧ fld w 17 4 = a0 ∧ fld w 13 4 = a1 ∧ fld w 9 4 = a2 ∧ fld w 6 3 = a3 ∧ fld w 5 1 = a4 ∧ fld w 4 1 = a5 := by
  unfold fld; subst hw; refine ⟨?_, ?_, ?_, ?_, ?_, ?_, ?_, ?_, ?_, ?_, ?_⟩ <;> omega

theorem word52 {op x fn : Nat} (w q a0 a1 a2 a3 : Nat) (hw : w = op * 67108864 + x * 33554432 + fn * 1 + q * 2097152 + a0 * 131072 + a1 * 8192 + a2 * 64 + a3 * 32) (ho : op < 64) (hx : x < 2) (hf : fn < 16) (hq : q < 16) (h0 : a0 < 16) (h1 : a1 < 16) (h2 : a2 < 8) (h3 : a3 < 2) :
    w < 2 ^ 32 ∧ fld w 26 6 = op ∧ fld w 25 1 = x ∧ fld w 0 4 = fn ∧ fld w 21 4 = q ∧ fld w 17 4 = a0 ∧ fld w 13 4 = a1 ∧ fld w 6 3 = a2 ∧ fld w 5 1 = a3 ∧ fld w 4 1 = 0 ∧ fld w 9 4 = 0 := by
  unfold fld; subst hw; refine ⟨?_, ?_, ?_, ?_, ?_, ?_, ?_, ?_, ?_, ?_, ?_⟩ <;> omega

theorem word53 {op x fn : Nat} (w q a0 a1 : Nat) (hw : w = op * 67108864 + x * 33554432 + fn * 1 + q * 2097152 + a0 * 131072 + a1 * 64) (ho : op < 64) (hx : x < 2) (hf : fn < 16) (hq : q < 16) (h0 : a0 < 16) (h1 : a1 < 8) :
    w < 2 ^ 32 ∧ fld w 26 6 = op ∧ fld w 25 1 = x ∧ fld w 0 4 = fn ∧ fld w 21 4 = q ∧ fld w 17 4 = a0 ∧ fld w 6 3 = a1 ∧ fld w 4 2 = 0 ∧ fld w 9 8 = 0 := by
  unfold fld; subst hw; refine ⟨?_, ?_, ?_, ?_, ?_, ?_, ?_, ?_, ?_⟩ <;> omega

theorem word54 {op x : Nat} (w q a0 a1 a2 a3 a4 : Nat) (hw : w = op * 67108864 + x * 33554432 + q * 2097152 + a0 * 131072 + a1 * 8192 + a2 * 64 + a3 * 32 + a4) (ho : op < 64) (hx : x < 2) (hq : q < 16) (h0 : a0 < 16) (h1 : a1 < 16) (h2 : a2 < 8) (h3 : a3 < 2) (h4 : a4 < 16) :
    w < 2 ^ 32 ∧ fld w 26 6 = op ∧ fld w 25 1 = x ∧ fld w 21 4 = q ∧ fld w 17 4 = a0 ∧ fld w 13 4 = a1 ∧ fld w 6 3 = a2 ∧ fld w 5 1 = a3 ∧ fld w 0 4 = a4 ∧ fld w 4 1 = 0 ∧ fld w 9 4 = 0 := by
  unfold fld; subst hw; refine ⟨?_, ?_, ?_, ?_, ?_, ?_, ?_, ?_, ?_, ?_, ?_⟩ <;> omega

theorem ext6  (w a0 : Nat) (hw : w = a0)  (h0 : a0 < 8) :
    w < 2 ^ 32 ∧ fld w 0 3 = a0 ∧ fld w 3 29 = 0 := by
  unfold fld; subst hw; refine ⟨?_, ?_, ?_⟩ <;> omega

theorem word55 {op x : Nat} (w q a0 a1 a2 a3 : Nat) (hw : w = op * 67108864 + x * 33554432 + q * 2097152 + a0 * 131072 + a1 * 8192 + a2 * 32 + a3) (ho : op < 64) (hx : x < 2) (hq : q < 16) (h0 : a0 < 16) (h1 : a1 < 16) (h2 : a2 < 2) (h3 : a3 < 16) :
    w < 2 ^ 32 ∧ fld w 26 6 = op ∧ fld w 25 1 = x ∧ fld w 21 4 = q ∧ fld w 17 4 = a0 ∧ fld w 13 4 = a1 ∧ fld w 5 1 = a2 ∧ fld w 0 4 = a3 ∧ fld w 4 1 = 0 ∧ fld w 6 7 = 0 := by
  unfold fld; subst hw; refine ⟨?_, ?_, ?_, ?_, ?_, ?_, ?_, ?_, ?_, ?_⟩ <;> omega

theorem ext7  (w a0 a1 a2 a3 : Nat) (hw : w = a0 + a1 * 64 + a2 * 4096 + a3 * 8192)  (h0 : a0 < 64) (h1 : a1 < 64) (h2 : a2 < 2) (h3 : a3 < 2) :
    w < 2 ^ 32 ∧ fld w 0 6 = a0 ∧ fld w 6 6 = a1 ∧ fld w 12 1 = a2 ∧ fld w 13 1 = a3 ∧ fld w 14 18 = 0 := by
  unfold fld; subst hw; refine ⟨?_, ?_, ?_, ?_, ?_, ?_⟩ <;> omega

theorem ext8  (w a0 a1 a2 a3 : Nat) (hw : w = a0 + a1 * 32 + a2 * 64 + a3 * 1024)  (h0 : a0 < 32) (h1 : a1 < 2) (h2 : a2 < 16) (h3 : a3 < 2) :
    w < 2 ^ 32 ∧ fld w 0 5 = a0 ∧ fld w 5 1 = a1 ∧ fld w 6 4 = a2 ∧ fld w 10 1 = a3 ∧ fld w 11 21 = 0 := by
  unfold fld; subst hw; refine ⟨?_, ?_, ?_, ?_, ?_, ?_⟩ <;> omega

theorem word56 {op x : Nat} (w q a0 a1 a2 : Nat) (hw : w = op * 67108864 + x * 33554432 + q * 2097152 + a0 * 131072 + a1 * 64 + a2) (ho : op < 64) (hx : x < 2) (hq : q < 16) (h0 : a0 < 16) (h1 : a1 < 8) (h2 : a2 < 16) :
    w < 2 ^ 32 ∧ fld w 26 6 = op ∧ fld w 25 1 = x ∧ fld w 21 4 = q ∧ fld w 17 4 = a0 ∧ fld w 6 3 = a1 ∧ fld w 0 4 = a2 ∧ fld w 4 2 = 0 ∧ fld w 9 8 = 0 := by
  unfold fld; subst hw; refine ⟨?_, ?_, ?_, ?_, ?_, ?_, ?_, ?_, ?_⟩ <;> omega

theorem word57 {op x fn : Nat} (w q a0 a1 a2 a3 a4 : Nat) (hw : w = op * 67108864 + x * 33554432 + fn * 1 + q * 2097152 + a0 * 131072 + a1 * 8192 + a2 * 4096 + a3 * 64 + a4 * 32) (ho : op < 64) (hx : x < 2) (hf : fn < 16) (hq : q < 16) (h0 : a0 < 16) (h1 : a1 < 16) (h2 : a2 < 2) (h3 : a3 < 8) (h4 : a4 < 2) :
    w < 2 ^ 32 ∧ fld w 26 6 = op ∧ fld w 25 1 = x ∧ fld w 0 4 = fn ∧ fld w 21 4 = q ∧ fld w 17 4 = a0 ∧ fld w 13 4 = a1 ∧ fld w 12 1 = a2 ∧ fld w 6 3 = a3 ∧ fld w 5 1 = a4 ∧ fld w 4 1 = 0 ∧ fld w 9 3 = 0 := by
  unfold fld; subst hw; refine ⟨?_, ?_, ?_, ?_, ?_, ?_, ?_, ?_, ?_, ?_, ?_, ?_⟩ <;> omega

theorem word58 {op x : Nat} (w q a0 a1 a2 a3 : Nat) (hw : w = op * 67108864 + x * 33554432 + q * 2097152 + a0 * 8192 + a1 * 1024 + a2 * 512 + a3 * 32) (ho : op < 64) (hx : x < 2) (hq : q < 16) (h0 : a0 < 256) (h1 : a1 < 8) (h2 : a2 < 2) (h3 : a3 < 16) :
    w < 2 ^ 32 ∧ fld w 26 6 = op ∧ fld w 25 1 = x ∧ fld w 21 4 = q ∧ fld w 13 8 = a0 ∧ fld w 10 3 = a1 ∧ fld w 9 1 = a2 ∧ fld w 5 4 = a3 ∧ fld w 0 5 = 0 := by
  unfold fld; subst hw; refine ⟨?_, ?_, ?_, ?_, ?_, ?_, ?_, ?_, ?_⟩ <;> omega

theorem word59 {op x : Nat} (w q a0 a1 : Nat) (hw : w = op * 67108864 + x * 33554432 + q * 2097152 + a0 * 262144 + a1 * 131072) (ho : op < 64) (hx : x < 2) (hq : q < 16) (h0 : a0 < 8) (h1 : a1 < 2) :
    w < 2 ^ 32 ∧ fld w 26 6 = op ∧ fld w 25 1 = x ∧ fld w 21 4 = q ∧ fld w 18 3 = a0 ∧ fld w 17 1 = a1 ∧ fld w 0 17 = 0 := by
  unfold fld; subst hw; refine ⟨?_, ?_, ?_, ?_, ?_, ?_, ?_⟩ <;> omega

theorem word60 {op x : Nat} (w q a0 a1 a2 a3 a4 a5 a6 : Nat) (hw : w = op * 67108864 + x * 33554432 + q * 2097152 + a0 * 131072 + a1 * 16384 + a2 * 1024 + a3 * 32 + a4 * 4 + a5 * 2 + a6) (ho : op < 64) (hx : x < 2) (hq : q < 16) (h0 : a0 < 16) (h1 : a1 < 8) (h2 : a2 < 16) (h3 : a3 < 32) (h4 : a4 < 8) (h5 : a5 < 2) (h6 : a6 < 2) :
    w < 2 ^ 32 ∧ fld w 26 6 = op ∧ fld w 25 1 = x ∧ fld w 21 4 = q ∧ fld w 17 4 = a0 ∧ fld w 14 3 = a1 ∧ fld w 10 4 = a2 ∧ fld w 5 5 = a3 ∧ fld w 2 3 = a4 ∧ fld w 1 1 = a5 ∧ fld w 0 1 = a6 := by
  unfold fld; subst hw; refine ⟨?_, ?_, ?_, ?_, ?_, ?_, ?_, ?_, ?_, ?_, ?_⟩ <;> omega

theorem word61 {op x : Nat} (w q a0 a1 a2 a3 : Nat) (hw : w = op * 67108864 + x * 33554432 + q * 2097152 + a0 * 262144 + a1 * 16384 + a2 * 8192 + a3 * 4096) (ho : op < 64) (hx : x < 2) (hq : q < 16) (h0 : a0 < 8) (h1 : a1 < 16) (h2 : a2 < 2) (h3 : a3 < 2) :
    w < 2 ^ 32 ∧ fld w 26 6 = op ∧ fld w 25 1 = x ∧ fld w 21 4 = q ∧ fld w 18 3 = a0 ∧ fld w 14 4 = a1 ∧ fld w 13 1 = a2 ∧ fld w 12 1 = a3 ∧ fld w 0 12 = 0 := by
  unfold fld; subst hw; refine ⟨?_, ?_, ?_, ?_, ?_, ?_, ?_, ?_, ?_⟩ <;> omega

theorem word62 {op x : Nat} (w q a0 a1 : Nat) (hw : w = op * 67108864 + x * 33554432 + q * 2097152 + a0 * 262144 + a1 * 16384) (ho : op < 64) (hx : x < 2) (hq : q < 16) (h0 : a0 < 8) (h1 : a1 < 16) :
    w < 2 ^ 32 ∧ fld w 26 6 = op ∧ fld w 25 1 = x ∧ fld w 21 4 = q ∧ fld w 18 3 = a0 ∧ fld w 14 4 = a1 ∧ fld w 0 14 = 0 := by
  unfold fld; subst hw; refine ⟨?_, ?_, ?_, ?_, ?_, ?_, ?_⟩ <;> omega

theorem word63 {op x : Nat} (w q a0 a1 a2 : Nat) (hw : w = op * 67108864 + x * 33554432 + q * 2097152 + a0 * 8192 + a1 * 512 + a2 * 16) (ho : op < 64) (hx : x < 2) (hq : q < 16) (h0 : a0 < 256) (h1 : a1 < 16) (h2 : a2 < 32) :
    w < 2 ^ 32 ∧ fld w 26 6 = op ∧ fld w 25 1 = x ∧ fld w 21 4 = q ∧ fld w 13 8 = a0 ∧ fld w 9 4 = a1 ∧ fld w 4 5 = a2 ∧ fld w 0 4 = 0 := by
  unfold fld; subst hw; refine ⟨?_, ?_, ?_, ?_, ?_, ?_, ?_, ?_⟩ <;> omega

theorem ext9  (w a0 : Nat) (hw : w = a0)  (h0 : a0 < 16) :
    w < 2 ^ 32 ∧ fld w 0 4 = a0 ∧ fld w 4 28 = 0 := by
  unfold fld; subst hw; refine ⟨?_, ?_, ?_⟩ <;> omega

theorem word64 {op x : Nat} (w q a0 a1 a2 a3 a4 : Nat) (hw : w = op * 67108864 + x * 33554432 + q * 2097152 + a0 * 131072 + a1 * 16384 + a2 * 8192 + a3 * 2048 + a4 * 128) (ho : op < 64) (hx : x < 2) (hq : q < 16) (h0 : a0 < 16) (h1 : a1 < 8) (h2 : a2 < 2) (h3 : a3 < 4) (h4 : a4 < 16) :
    w < 2 ^ 32 ∧ fld w 26 6 = op ∧ fld w 25 1 = x ∧ fld w 21 4 = q ∧ fld w 17 4 = a0 ∧ fld w 14 3 = a1 ∧ fld w 13 1 = a2 ∧ fld w 11 2 = a3 ∧ fld w 7 4 = a4 ∧ fld w 0 7 = 0 := by
  unfold fld; subst hw; refine ⟨?_, ?_, ?_, ?_, ?_, ?_, ?_, ?_, ?_, ?_⟩ <;> omega

theorem word65 {op x : Nat} (w q a0 a1 a2 : Nat) (hw : w = op * 67108864 + x * 33554432 + q * 2097152 + a0 * 262144 + a1 * 32768 + a2 * 2048) (ho : op < 64) (hx : x < 2) (hq : q < 16) (h0 : a0 < 8) (h1 : a1 < 8) (h2 : a2 < 16) :
    w < 2 ^ 32 ∧ fld w 26 6 = op ∧ fld w 25 1 = x ∧ fld w 21 4 = q ∧ fld w 18 3 = a0 ∧ fld w 15 3 = a1 ∧ fld w 11 4 = a2 ∧ fld w 0 11 = 0 := by
  unfold fld; subst hw; refine ⟨?_, ?_, ?_, ?_, ?_, ?_, ?_, ?_⟩ <;> omega

theorem word66 {op x : Nat} (w q a0 a1 a2 a3 : Nat) (hw : w = op * 67108864 + x * 33554432 + q * 2097152 + a0 * 65536 + a1 * 4096 + a2 * 1024 + a3) (ho : op < 64) (hx : x < 2) (hq : q < 16) (h0 : a0 < 32) (h1 : a1 < 16) (h2 : a2 < 4) (h3 : a3 < 512) :
    w < 2 ^ 32 ∧ fld w 26 6 = op ∧ fld w 25 1 = x ∧ fld w 21 4 = q ∧ fld w 16 5 = a0 ∧ fld w 12 4 = a1 ∧ fld w 10 2 = a2 ∧ fld w 0 9 = a3 ∧ fld w 9 1 = 0 := by
  unfold fld; subst hw; refine ⟨?_, ?_, ?_, ?_, ?_, ?_, ?_, ?_, ?_⟩ <;> omega

theorem word67 {op x : Nat} (w q a0 a1 a2 a3 : Nat) (hw : w = op * 67108864 + x * 33554432 + q * 2097152 + a0 * 65536 + a1 * 4096 + a2 * 1024 + a3 * 16) (ho : op < 64) (hx : x < 2) (hq : q < 16) (h0 : a0 < 32) (h1 : a1 < 16) (h2 : a2 < 4) (h3 : a3 < 32) :
    w < 2 ^ 32 ∧ fld w 26 6 = op ∧ fld w 25 1 = x ∧ fld w 21 4 = q ∧ fld w 16 5 = a0 ∧ fld w 12 4 = a1 ∧ fld w 10 2 = a2 ∧ fld w 4 5 = a3 ∧ fld w 0 4 = 0 ∧ fld w 9 1 = 0 := by
  unfold fld; subst hw; refine ⟨?_, ?_, ?_, ?_, ?_, ?_, ?_, ?_, ?_, ?_⟩ <;> omega

theorem word68 {op x : Nat} (w q a0 a1 a2 a3 a4 : Nat) (hw : w = op * 67108864 + x * 33554432 + q * 2097152 + a0 * 65536 + a1 * 4096 + a2 * 128 + a3 * 32 + a4) (ho : op < 64) (hx : x < 2) (hq : q < 16) (h0 : a0 < 32) (h1 : a1 < 16) (h2 : a2 < 32) (h3 : a3 < 4) (h4 : a4 < 16) :
    w < 2 ^ 32 ∧ fld w 26 6 = op ∧ fld w 25 1 = x ∧ fld w 21 4 = q ∧ fld w 16 5 = a0 ∧ fld w 12 4 = a1 ∧ fld w 7 5 = a2 ∧ fld w 5 2 = a3 ∧ fld w 0 4 = a4 ∧ fld w 4 1 = 0 := by
  unfold fld; subst hw; refine ⟨?_, ?_, ?_, ?_, ?_, ?_, ?_, ?_, ?_, ?_⟩ <;> omega

theorem word69 {op x : Nat} (w q a0 a1 a2 a3 : Nat) (hw : w = op * 67108864 + x * 33554432 + q * 2097152 + a0 * 65536 + a1 * 4096 + a2 * 128 + a3 * 4) (ho : op < 64) (hx : x < 2) (hq : q < 16) (h0 : a0 < 32) (h1 : a1 < 16) (h2 : a2 < 32) (h3 : a3 < 32) :
    w < 2 ^ 32 ∧ fld w 26 6 = op ∧ fld w 25 1 = x ∧ fld w 21 4 = q ∧ fld w 16 5 = a0 ∧ fld w 12 4 = a1 ∧ fld w 7 5 = a2 ∧ fld w 2 5 = a3 ∧ fld w 0 2 = 0 := by
  unfold fld; subst hw; refine ⟨?_, ?_, ?_, ?_, ?_, ?_, ?_, ?_, ?_⟩ <;> omega

theorem ext10  (w a0 a1 a2 a3 a4 : Nat) (hw : w = a0 + a1 * 16 + a2 * 128 + a3 * 512 + a4 * 1024)  (h0 : a0 < 16) (h1 : a1 < 8) (h2 : a2 < 4) (h3 : a3 < 2) (h4 : a4 < 16) :
    w < 2 ^ 32 ∧ fld w 0 4 = a0 ∧ fld w 4 3 = a1 ∧ fld w 7 2 = a2 ∧ fld w 9 1 = a3 ∧ fld w 10 4 = a4 ∧ fld w 14 18 = 0 := by
  unfold fld; subst hw; refine ⟨?_, ?_, ?_, ?_, ?_, ?_, ?_⟩ <;> omega

theorem ext11  (w a0 a1 a2 a3 : Nat) (hw : w = a0 * 16 + a1 * 128 + a2 * 512 + a3 * 1024)  (h0 : a0 < 8) (h1 : a1 < 4) (h2 : a2 < 2) (h3 : a3 < 16) :
    w < 2 ^ 32 ∧ fld w 4 3 = a0 ∧ fld w 7 2 = a1 ∧ fld w 9 1 = a2 ∧ fld w 10 4 = a3 ∧ fld w 0 4 = 0 ∧ fld w 14 18 = 0 := by
  unfold fld; subst hw; refine ⟨?_, ?_, ?_, ?_, ?_, ?_, ?_⟩ <;> omega

theorem word70 {op x : Nat} (w q a0 a1 a2 a3 : Nat) (hw : w = op * 67108864 + x * 33554432 + q * 2097152 + a0 * 8192 + a1 * 512 + a2 * 256 + a3 * 16) (ho : op < 64) (hx : x < 2) (hq : q < 16) (h0 : a0 < 256) (h1 : a1 < 16) (h2 : a2 < 2) (h3 : a3 < 16) :
    w < 2 ^ 32 ∧ fld w 26 6 = op ∧ fld w 25 1 = x ∧ fld w 21 4 = q ∧ fld w 13 8 = a0 ∧ fld w 9 4 = a1 ∧ fld w 8 1 = a2 ∧ fld w 4 4 = a3 ∧ fld w 0 4 = 0 := by
  unfold fld; subst hw; refine ⟨?_, ?_, ?_, ?_, ?_, ?_, ?_, ?_, ?_⟩ <;> omega

theorem ext12  (w a0 a1 : Nat) (hw : w = a0 + a1 * 67108864)  (h0 : a0 < 67108864) (h1 : a1 < 64) :
    w < 2 ^ 32 ∧ fld w 0 26 = a0 ∧ fld w 26 6 = a1 := by
  unfold fld; subst hw; refine ⟨?_, ?_, ?_⟩ <;> omega

theorem word71 {op x : Nat} (w q a0 a1 a2 a3 : Nat) (hw : w = op * 67108864 + x * 33554432 + q * 2097152 + a0 * 8192 + a1 * 512 + a2 * 256 + a3 * 8) (ho : op < 64) (hx : x < 2) (hq : q < 16) (h0 : a0 < 256) (h1 : a1 < 16) (h2 : a2 < 2) (h3 : a3 < 32) :
    w < 2 ^ 32 ∧ fld w 26 6 = op ∧ fld w 25 1 = x ∧ fld w 21 4 = q ∧ fld w 13 8 = a0 ∧ fld w 9 4 = a1 ∧ fld w 8 1 = a2 ∧ fld w 3 5 = a3 ∧ fld w 0 3 = 0 := by
  unfold fld; subst hw; refine ⟨?_, ?_, ?_, ?_, ?_, ?_, ?_, ?_, ?_⟩ <;> omega

theorem word72 {op x fn : Nat} (w q a0 a1 : Nat) (hw : w = op * 67108864 + x * 33554432 + fn * 1048576 + q * 2097152 + a0 * 4096 + a1 * 128) (ho : op < 64) (hx : x < 2) (hf : fn < 2) (hq : q < 16) (h0 : a0 < 256) (h1 : a1 < 32) :
    w < 2 ^ 32 ∧ fld w 26 6 = op ∧ fld w 25 1 = x ∧ fld w 20 1 = fn ∧ fld w 21 4 = q ∧ fld w 12 8 = a0 ∧ fld w 7 5 = a1 ∧ fld w 0 7 = 0 := by
  unfold fld; subst hw; refine ⟨?_, ?_, ?_, ?_, ?_, ?_, ?_, ?_⟩ <;> omega

theorem word73 {op x fn : Nat} (w q a0 a1 : Nat) (hw : w = op * 67108864 + x * 33554432 + fn * 1048576 + q * 2097152 + a0 * 4096 + a1 * 128) (ho : op < 64) (hx : x < 2) (hf : fn < 2) (hq : q < 16) (h0 : a0 < 64) (h1 : a1 < 32) :
    w < 2 ^ 32 ∧ fld w 26 6 = op ∧ fld w 25 1 = x ∧ fld w 20 1 = fn ∧ fld w 21 4 = q ∧ fld w 12 6 = a0 ∧ fld w 7 5 = a1 ∧ fld w 0 7 = 0 ∧ fld w 18 2 = 0 := by
  unfold fld; subst hw; refine ⟨?_, ?_, ?_, ?_, ?_, ?_, ?_, ?_, ?_⟩ <;> omega

theorem word74 {op x : Nat} (w q a0 a1 a2 a3 : Nat) (hw : w = op * 67108864 + x * 33554432 + q * 2097152 + a0 * 131072 + a1 * 65536 + a2 * 2048 + a3 * 128) (ho : op < 64) (hx : x < 2) (hq : q < 16) (h0 : a0 < 16) (h1 : a1 < 2) (h2 : a2 < 32) (h3 : a3 < 16) :
    w < 2 ^ 32 ∧ fld w 26 6 = op ∧ fld w 25 1 = x ∧ fld w 21 4 = q ∧ fld w 17 4 = a0 ∧ fld w 16 1 = a1 ∧ fld w 11 5 = a2 ∧ fld w 7 4 = a3 ∧ fld w 0 7 = 0 := by
  unfold fld; subst hw; refine ⟨?_, ?_, ?_, ?_, ?_, ?_, ?_, ?_, ?_⟩ <;> omega

theorem word75 {op x : Nat} (w q a0 a1 a2 a3 a4 a5 a6 : Nat) (hw : w = op * 67108864 + x * 33554432 + q * 2097152 + a0 * 131072 + a1 * 8192 + a2 * 1024 + a3 * 512 + a4 * 256 + a5 * 64 + a6 * 4) (ho : op < 64) (hx : x < 2) (hq : q < 16) (h0 : a0 < 16) (h1 : a1 < 16) (h2 : a2 < 8) (h3 : a3 < 2) (h4 : a4 < 2) (h5 : a5 < 4) (h6 : a6 < 16) :
    w < 2 ^ 32 ∧ fld w 26 6 = op ∧ fld w 25 1 = x ∧ fld w 21 4 = q ∧ fld w 17 4 = a0 ∧ fld w 13 4 = a1 ∧ fld w 10 3 = a2 ∧ fld w 9 1 = a3 ∧ fld w 8 1 = a4 ∧ fld w 6 2 = a5 ∧ fld w 2 4 = a6 ∧ fld w 0 2 = 0 := by
  unfold fld; subst hw; refine ⟨?_, ?_, ?_, ?_, ?_, ?_, ?_, ?_, ?_, ?_, ?_, ?_⟩ <;> omega

theorem word76 {op x : Nat} (w q a0 a1 a2 a3 : Nat) (hw : w = op * 67108864 + x * 33554432 + q * 2097152 + a0 * 8192 + a1 * 512 + a2 * 256 + a3) (ho : op < 64) (hx : x < 2) (hq : q < 16) (h0 : a0 < 256) (h1 : a1 < 16) (h2 : a2 < 2) (h3 : a3 < 256) :
    w < 2 ^ 32 ∧ fld w 26 6 = op ∧ fld w 25 1 = x ∧ fld w 21 4 = q ∧ fld w 13 8 = a0 ∧ fld w 9 4 = a1 ∧ fld w 8 1 = a2 ∧ fld w 0 8 = a3 := by
  unfold fld; subst hw; refine ⟨?_, ?_, ?_, ?_, ?_, ?_, ?_, ?_⟩ <;> omega

/-! ## One lemma for each constructor -/

theorem bundleIssue (x0 : Nat) : Statement (.bundleIssue x0) := fun _ _ e => nomatch (show none = some _ from e)

theorem emptyBundle : Statement (.emptyBundle) := fun _ _ e => nomatch (show none = some _ from e)

theorem handlerLaunch (x0 : HandlerFor) : Statement (.handlerLaunch x0) := fun _ _ e => nomatch (show none = some _ from e)

theorem contextSwapComplete (x0 : Nat) : Statement (.contextSwapComplete x0) := fun _ _ e => nomatch (show none = some _ from e)

theorem stallSwap (x0 : Nat) (x1 : Nat) : Statement (.stallSwap x0 x1) := fun _ _ e => nomatch (show none = some _ from e)

theorem mergeStarvation (x0 : Nat) : Statement (.mergeStarvation x0) := fun _ _ e => nomatch (show none = some _ from e)

theorem add (qp sd sa sb : Nat) : Statement (.add qp sd sa sb) := by
  intro wf y he
  replace wf : (decide (qp < 16) && decide (sd < 32) && decide (sa < 32) && decide (sb < 32)) = true := wf
  obtain rfl : y = ⟨0, 0 + qp * 2097152 + sd * 65536 + sa * 2048 + sb * 64, 0⟩ := (Option.some.inj he).symm
  simp only [Bool.and_eq_true, decide_eq_true_eq] at wf
  obtain ⟨⟨⟨hqp, hsd⟩, hsa⟩, hsb⟩ := wf
  obtain ⟨w, hw⟩ : ∃ w, w = 0 + qp * 2097152 + sd * 65536 + sa * 2048 + sb * 64 := ⟨_, rfl⟩
  have a := word0 (op := 0) (x := 0) (fn := 0) w qp sd sa sb hw (by decide) (by decide) (by decide) hqp hsd hsa hsb
  rw [← hw]
  refine ⟨Nat.lt_of_sub_eq_succ rfl, a.1, Nat.two_pow_pos 32, fun _ => rfl, ?_⟩
  show decodeA w 0 = _
  unfold decodeA
  obtain ⟨-, a0, a1, a2, a3, a4, a5, a6⟩ := a
  simp only [a0, a1, a2, a3, a4, a5, a6]
  rfl

theorem sub (qp sd sa sb : Nat) : Statement (.sub qp sd sa sb) := by
  intro wf y he
  replace wf : (decide (qp < 16) && decide (sd < 32) && decide (sa < 32) && decide (sb < 32)) = true := wf
  obtain rfl : y = ⟨0, 1 + qp * 2097152 + sd * 65536 + sa * 2048 + sb * 64, 0⟩ := (Option.some.inj he).symm
  simp only [Bool.and_eq_true, decide_eq_true_eq] at wf
  obtain ⟨⟨⟨hqp, hsd⟩, hsa⟩, hsb⟩ := wf
  obtain ⟨w, hw⟩ : ∃ w, w = 1 + qp * 2097152 + sd * 65536 + sa * 2048 + sb * 64 := ⟨_, rfl⟩
  have a := word0 (op := 0) (x := 0) (fn := 1) w qp sd sa sb hw (by decide) (by decide) (by decide) hqp hsd hsa hsb
  rw [← hw]
  refine ⟨Nat.lt_of_sub_eq_succ rfl, a.1, Nat.two_pow_pos 32, fun _ => rfl, ?_⟩
  show decodeA w 0 = _
  unfold decodeA
  obtain ⟨-, a0, a1, a2, a3, a4, a5, a6⟩ := a
  simp only [a0, a1, a2, a3, a4, a5, a6]
  rfl

theorem and (qp sd sa sb : Nat) : Statement (.and qp sd sa sb) := by
  intro wf y he
  replace wf : (decide (qp < 16) && decide (sd < 32) && decide (sa < 32) && decide (sb < 32)) = true := wf
  obtain rfl : y = ⟨0, 2 + qp * 2097152 + sd * 65536 + sa * 2048 + sb * 64, 0⟩ := (Option.some.inj he).symm
  simp only [Bool.and_eq_true, decide_eq_true_eq] at wf
  obtain ⟨⟨⟨hqp, hsd⟩, hsa⟩, hsb⟩ := wf
  obtain ⟨w, hw⟩ : ∃ w, w = 2 + qp * 2097152 + sd * 65536 + sa * 2048 + sb * 64 := ⟨_, rfl⟩
  have a := word0 (op := 0) (x := 0) (fn := 2) w qp sd sa sb hw (by decide) (by decide) (by decide) hqp hsd hsa hsb
  rw [← hw]
  refine ⟨Nat.lt_of_sub_eq_succ rfl, a.1, Nat.two_pow_pos 32, fun _ => rfl, ?_⟩
  show decodeA w 0 = _
  unfold decodeA
  obtain ⟨-, a0, a1, a2, a3, a4, a5, a6⟩ := a
  simp only [a0, a1, a2, a3, a4, a5, a6]
  rfl

theorem or (qp sd sa sb : Nat) : Statement (.or qp sd sa sb) := by
  intro wf y he
  replace wf : (decide (qp < 16) && decide (sd < 32) && decide (sa < 32) && decide (sb < 32)) = true := wf
  obtain rfl : y = ⟨0, 3 + qp * 2097152 + sd * 65536 + sa * 2048 + sb * 64, 0⟩ := (Option.some.inj he).symm
  simp only [Bool.and_eq_true, decide_eq_true_eq] at wf
  obtain ⟨⟨⟨hqp, hsd⟩, hsa⟩, hsb⟩ := wf
  obtain ⟨w, hw⟩ : ∃ w, w = 3 + qp * 2097152 + sd * 65536 + sa * 2048 + sb * 64 := ⟨_, rfl⟩
  have a := word0 (op := 0) (x := 0) (fn := 3) w qp sd sa sb hw (by decide) (by decide) (by decide) hqp hsd hsa hsb
  rw [← hw]
  refine ⟨Nat.lt_of_sub_eq_succ rfl, a.1, Nat.two_pow_pos 32, fun _ => rfl, ?_⟩
  show decodeA w 0 = _
  unfold decodeA
  obtain ⟨-, a0, a1, a2, a3, a4, a5, a6⟩ := a
  simp only [a0, a1, a2, a3, a4, a5, a6]
  rfl

theorem xor (qp sd sa sb : Nat) : Statement (.xor qp sd sa sb) := by
  intro wf y he
  replace wf : (decide (qp < 16) && decide (sd < 32) && decide (sa < 32) && decide (sb < 32)) = true := wf
  obtain rfl : y = ⟨0, 4 + qp * 2097152 + sd * 65536 + sa * 2048 + sb * 64, 0⟩ := (Option.some.inj he).symm
  simp only [Bool.and_eq_true, decide_eq_true_eq] at wf
  obtain ⟨⟨⟨hqp, hsd⟩, hsa⟩, hsb⟩ := wf
  obtain ⟨w, hw⟩ : ∃ w, w = 4 + qp * 2097152 + sd * 65536 + sa * 2048 + sb * 64 := ⟨_, rfl⟩
  have a := word0 (op := 0) (x := 0) (fn := 4) w qp sd sa sb hw (by decide) (by decide) (by decide) hqp hsd hsa hsb
  rw [← hw]
  refine ⟨Nat.lt_of_sub_eq_succ rfl, a.1, Nat.two_pow_pos 32, fun _ => rfl, ?_⟩
  show decodeA w 0 = _
  unfold decodeA
  obtain ⟨-, a0, a1, a2, a3, a4, a5, a6⟩ := a
  simp only [a0, a1, a2, a3, a4, a5, a6]
  rfl

theorem shl (qp sd sa sb : Nat) : Statement (.shl qp sd sa sb) := by
  intro wf y he
  replace wf : (decide (qp < 16) && decide (sd < 32) && decide (sa < 32) && decide (sb < 32)) = true := wf
  obtain rfl : y = ⟨0, 5 + qp * 2097152 + sd * 65536 + sa * 2048 + sb * 64, 0⟩ := (Option.some.inj he).symm
  simp only [Bool.and_eq_true, decide_eq_true_eq] at wf
  obtain ⟨⟨⟨hqp, hsd⟩, hsa⟩, hsb⟩ := wf
  obtain ⟨w, hw⟩ : ∃ w, w = 5 + qp * 2097152 + sd * 65536 + sa * 2048 + sb * 64 := ⟨_, rfl⟩
  have a := word0 (op := 0) (x := 0) (fn := 5) w qp sd sa sb hw (by decide) (by decide) (by decide) hqp hsd hsa hsb
  rw [← hw]
  refine ⟨Nat.lt_of_sub_eq_succ rfl, a.1, Nat.two_pow_pos 32, fun _ => rfl, ?_⟩
  show decodeA w 0 = _
  unfold decodeA
  obtain ⟨-, a0, a1, a2, a3, a4, a5, a6⟩ := a
  simp only [a0, a1, a2, a3, a4, a5, a6]
  rfl

theorem shr (qp sd sa sb : Nat) : Statement (.shr qp sd sa sb) := by
  intro wf y he
  replace wf : (decide (qp < 16) && decide (sd < 32) && decide (sa < 32) && decide (sb < 32)) = true := wf
  obtain rfl : y = ⟨0, 6 + qp * 2097152 + sd * 65536 + sa * 2048 + sb * 64, 0⟩ := (Option.some.inj he).symm
  simp only [Bool.and_eq_true, decide_eq_true_eq] at wf
  obtain ⟨⟨⟨hqp, hsd⟩, hsa⟩, hsb⟩ := wf
  obtain ⟨w, hw⟩ : ∃ w, w = 6 + qp * 2097152 + sd * 65536 + sa * 2048 + sb * 64 := ⟨_, rfl⟩
  have a := word0 (op := 0) (x := 0) (fn := 6) w qp sd sa sb hw (by decide) (by decide) (by decide) hqp hsd hsa hsb
  rw [← hw]
  refine ⟨Nat.lt_of_sub_eq_succ rfl, a.1, Nat.two_pow_pos 32, fun _ => rfl, ?_⟩
  show decodeA w 0 = _
  unfold decodeA
  obtain ⟨-, a0, a1, a2, a3, a4, a5, a6⟩ := a
  simp only [a0, a1, a2, a3, a4, a5, a6]
  rfl

theorem sar (qp sd sa sb : Nat) : Statement (.sar qp sd sa sb) := by
  intro wf y he
  replace wf : (decide (qp < 16) && decide (sd < 32) && decide (sa < 32) && decide (sb < 32)) = true := wf
  obtain rfl : y = ⟨0, 7 + qp * 2097152 + sd * 65536 + sa * 2048 + sb * 64, 0⟩ := (Option.some.inj he).symm
  simp only [Bool.and_eq_true, decide_eq_true_eq] at wf
  obtain ⟨⟨⟨hqp, hsd⟩, hsa⟩, hsb⟩ := wf
  obtain ⟨w, hw⟩ : ∃ w, w = 7 + qp * 2097152 + sd * 65536 + sa * 2048 + sb * 64 := ⟨_, rfl⟩
  have a := word0 (op := 0) (x := 0) (fn := 7) w qp sd sa sb hw (by decide) (by decide) (by decide) hqp hsd hsa hsb
  rw [← hw]
  refine ⟨Nat.lt_of_sub_eq_succ rfl, a.1, Nat.two_pow_pos 32, fun _ => rfl, ?_⟩
  show decodeA w 0 = _
  unfold decodeA
  obtain ⟨-, a0, a1, a2, a3, a4, a5, a6⟩ := a
  simp only [a0, a1, a2, a3, a4, a5, a6]
  rfl

theorem mul (qp sd sa sb : Nat) : Statement (.mul qp sd sa sb) := by
  intro wf y he
  replace wf : (decide (qp < 16) && decide (sd < 32) && decide (sa < 32) && decide (sb < 32)) = true := wf
  obtain rfl : y = ⟨0, 8 + qp * 2097152 + sd * 65536 + sa * 2048 + sb * 64, 0⟩ := (Option.some.inj he).symm
  simp only [Bool.and_eq_true, decide_eq_true_eq] at wf
  obtain ⟨⟨⟨hqp, hsd⟩, hsa⟩, hsb⟩ := wf
  obtain ⟨w, hw⟩ : ∃ w, w = 8 + qp * 2097152 + sd * 65536 + sa * 2048 + sb * 64 := ⟨_, rfl⟩
  have a := word0 (op := 0) (x := 0) (fn := 8) w qp sd sa sb hw (by decide) (by decide) (by decide) hqp hsd hsa hsb
  rw [← hw]
  refine ⟨Nat.lt_of_sub_eq_succ rfl, a.1, Nat.two_pow_pos 32, fun _ => rfl, ?_⟩
  show decodeA w 0 = _
  unfold decodeA
  obtain ⟨-, a0, a1, a2, a3, a4, a5, a6⟩ := a
  simp only [a0, a1, a2, a3, a4, a5, a6]
  rfl

theorem mulh (qp sd sa sb : Nat) : Statement (.mulh qp sd sa sb) := by
  intro wf y he
  replace wf : (decide (qp < 16) && decide (sd < 32) && decide (sa < 32) && decide (sb < 32)) = true := wf
  obtain rfl : y = ⟨0, 9 + qp * 2097152 + sd * 65536 + sa * 2048 + sb * 64, 0⟩ := (Option.some.inj he).symm
  simp only [Bool.and_eq_true, decide_eq_true_eq] at wf
  obtain ⟨⟨⟨hqp, hsd⟩, hsa⟩, hsb⟩ := wf
  obtain ⟨w, hw⟩ : ∃ w, w = 9 + qp * 2097152 + sd * 65536 + sa * 2048 + sb * 64 := ⟨_, rfl⟩
  have a := word0 (op := 0) (x := 0) (fn := 9) w qp sd sa sb hw (by decide) (by decide) (by decide) hqp hsd hsa hsb
  rw [← hw]
  refine ⟨Nat.lt_of_sub_eq_succ rfl, a.1, Nat.two_pow_pos 32, fun _ => rfl, ?_⟩
  show decodeA w 0 = _
  unfold decodeA
  obtain ⟨-, a0, a1, a2, a3, a4, a5, a6⟩ := a
  simp only [a0, a1, a2, a3, a4, a5, a6]
  rfl

theorem mulhn (qp sd sa sb : Nat) : Statement (.mulhn qp sd sa sb) := by
  intro wf y he
  replace wf : (decide (qp < 16) && decide (sd < 32) && decide (sa < 32) && decide (sb < 32)) = true := wf
  obtain rfl : y = ⟨0, 10 + qp * 2097152 + sd * 65536 + sa * 2048 + sb * 64, 0⟩ := (Option.some.inj he).symm
  simp only [Bool.and_eq_true, decide_eq_true_eq] at wf
  obtain ⟨⟨⟨hqp, hsd⟩, hsa⟩, hsb⟩ := wf
  obtain ⟨w, hw⟩ : ∃ w, w = 10 + qp * 2097152 + sd * 65536 + sa * 2048 + sb * 64 := ⟨_, rfl⟩
  have a := word0 (op := 0) (x := 0) (fn := 10) w qp sd sa sb hw (by decide) (by decide) (by decide) hqp hsd hsa hsb
  rw [← hw]
  refine ⟨Nat.lt_of_sub_eq_succ rfl, a.1, Nat.two_pow_pos 32, fun _ => rfl, ?_⟩
  show decodeA w 0 = _
  unfold decodeA
  obtain ⟨-, a0, a1, a2, a3, a4, a5, a6⟩ := a
  simp only [a0, a1, a2, a3, a4, a5, a6]
  rfl

theorem div (qp sd sa sb : Nat) : Statement (.div qp sd sa sb) := by
  intro wf y he
  replace wf : (decide (qp < 16) && decide (sd < 32) && decide (sa < 32) && decide (sb < 32)) = true := wf
  obtain rfl : y = ⟨0, 11 + qp * 2097152 + sd * 65536 + sa * 2048 + sb * 64, 0⟩ := (Option.some.inj he).symm
  simp only [Bool.and_eq_true, decide_eq_true_eq] at wf
  obtain ⟨⟨⟨hqp, hsd⟩, hsa⟩, hsb⟩ := wf
  obtain ⟨w, hw⟩ : ∃ w, w = 11 + qp * 2097152 + sd * 65536 + sa * 2048 + sb * 64 := ⟨_, rfl⟩
  have a := word0 (op := 0) (x := 0) (fn := 11) w qp sd sa sb hw (by decide) (by decide) (by decide) hqp hsd hsa hsb
  rw [← hw]
  refine ⟨Nat.lt_of_sub_eq_succ rfl, a.1, Nat.two_pow_pos 32, fun _ => rfl, ?_⟩
  show decodeA w 0 = _
  unfold decodeA
  obtain ⟨-, a0, a1, a2, a3, a4, a5, a6⟩ := a
  simp only [a0, a1, a2, a3, a4, a5, a6]
  rfl

theorem divn (qp sd sa sb : Nat) : Statement (.divn qp sd sa sb) := by
  intro wf y he
  replace wf : (decide (qp < 16) && decide (sd < 32) && decide (sa < 32) && decide (sb < 32)) = true := wf
  obtain rfl : y = ⟨0, 12 + qp * 2097152 + sd * 65536 + sa * 2048 + sb * 64, 0⟩ := (Option.some.inj he).symm
  simp only [Bool.and_eq_true, decide_eq_true_eq] at wf
  obtain ⟨⟨⟨hqp, hsd⟩, hsa⟩, hsb⟩ := wf
  obtain ⟨w, hw⟩ : ∃ w, w = 12 + qp * 2097152 + sd * 65536 + sa * 2048 + sb * 64 := ⟨_, rfl⟩
  have a := word0 (op := 0) (x := 0) (fn := 12) w qp sd sa sb hw (by decide) (by decide) (by decide) hqp hsd hsa hsb
  rw [← hw]
  refine ⟨Nat.lt_of_sub_eq_succ rfl, a.1, Nat.two_pow_pos 32, fun _ => rfl, ?_⟩
  show decodeA w 0 = _
  unfold decodeA
  obtain ⟨-, a0, a1, a2, a3, a4, a5, a6⟩ := a
  simp only [a0, a1, a2, a3, a4, a5, a6]
  rfl

theorem rem (qp sd sa sb : Nat) : Statement (.rem qp sd sa sb) := by
  intro wf y he
  replace wf : (decide (qp < 16) && decide (sd < 32) && decide (sa < 32) && decide (sb < 32)) = true := wf
  obtain rfl : y = ⟨0, 13 + qp * 2097152 + sd * 65536 + sa * 2048 + sb * 64, 0⟩ := (Option.some.inj he).symm
  simp only [Bool.and_eq_true, decide_eq_true_eq] at wf
  obtain ⟨⟨⟨hqp, hsd⟩, hsa⟩, hsb⟩ := wf
  obtain ⟨w, hw⟩ : ∃ w, w = 13 + qp * 2097152 + sd * 65536 + sa * 2048 + sb * 64 := ⟨_, rfl⟩
  have a := word0 (op := 0) (x := 0) (fn := 13) w qp sd sa sb hw (by decide) (by decide) (by decide) hqp hsd hsa hsb
  rw [← hw]
  refine ⟨Nat.lt_of_sub_eq_succ rfl, a.1, Nat.two_pow_pos 32, fun _ => rfl, ?_⟩
  show decodeA w 0 = _
  unfold decodeA
  obtain ⟨-, a0, a1, a2, a3, a4, a5, a6⟩ := a
  simp only [a0, a1, a2, a3, a4, a5, a6]
  rfl

theorem remn (qp sd sa sb : Nat) : Statement (.remn qp sd sa sb) := by
  intro wf y he
  replace wf : (decide (qp < 16) && decide (sd < 32) && decide (sa < 32) && decide (sb < 32)) = true := wf
  obtain rfl : y = ⟨0, 14 + qp * 2097152 + sd * 65536 + sa * 2048 + sb * 64, 0⟩ := (Option.some.inj he).symm
  simp only [Bool.and_eq_true, decide_eq_true_eq] at wf
  obtain ⟨⟨⟨hqp, hsd⟩, hsa⟩, hsb⟩ := wf
  obtain ⟨w, hw⟩ : ∃ w, w = 14 + qp * 2097152 + sd * 65536 + sa * 2048 + sb * 64 := ⟨_, rfl⟩
  have a := word0 (op := 0) (x := 0) (fn := 14) w qp sd sa sb hw (by decide) (by decide) (by decide) hqp hsd hsa hsb
  rw [← hw]
  refine ⟨Nat.lt_of_sub_eq_succ rfl, a.1, Nat.two_pow_pos 32, fun _ => rfl, ?_⟩
  show decodeA w 0 = _
  unfold decodeA
  obtain ⟨-, a0, a1, a2, a3, a4, a5, a6⟩ := a
  simp only [a0, a1, a2, a3, a4, a5, a6]
  rfl

theorem min (qp sd sa sb : Nat) : Statement (.min qp sd sa sb) := by
  intro wf y he
  replace wf : (decide (qp < 16) && decide (sd < 32) && decide (sa < 32) && decide (sb < 32)) = true := wf
  obtain rfl : y = ⟨0, 15 + qp * 2097152 + sd * 65536 + sa * 2048 + sb * 64, 0⟩ := (Option.some.inj he).symm
  simp only [Bool.and_eq_true, decide_eq_true_eq] at wf
  obtain ⟨⟨⟨hqp, hsd⟩, hsa⟩, hsb⟩ := wf
  obtain ⟨w, hw⟩ : ∃ w, w = 15 + qp * 2097152 + sd * 65536 + sa * 2048 + sb * 64 := ⟨_, rfl⟩
  have a := word0 (op := 0) (x := 0) (fn := 15) w qp sd sa sb hw (by decide) (by decide) (by decide) hqp hsd hsa hsb
  rw [← hw]
  refine ⟨Nat.lt_of_sub_eq_succ rfl, a.1, Nat.two_pow_pos 32, fun _ => rfl, ?_⟩
  show decodeA w 0 = _
  unfold decodeA
  obtain ⟨-, a0, a1, a2, a3, a4, a5, a6⟩ := a
  simp only [a0, a1, a2, a3, a4, a5, a6]
  rfl

theorem max (qp sd sa sb : Nat) : Statement (.max qp sd sa sb) := by
  intro wf y he
  replace wf : (decide (qp < 16) && decide (sd < 32) && decide (sa < 32) && decide (sb < 32)) = true := wf
  obtain rfl : y = ⟨0, 16 + qp * 2097152 + sd * 65536 + sa * 2048 + sb * 64, 0⟩ := (Option.some.inj he).symm
  simp only [Bool.and_eq_true, decide_eq_true_eq] at wf
  obtain ⟨⟨⟨hqp, hsd⟩, hsa⟩, hsb⟩ := wf
  obtain ⟨w, hw⟩ : ∃ w, w = 16 + qp * 2097152 + sd * 65536 + sa * 2048 + sb * 64 := ⟨_, rfl⟩
  have a := word0 (op := 0) (x := 0) (fn := 16) w qp sd sa sb hw (by decide) (by decide) (by decide) hqp hsd hsa hsb
  rw [← hw]
  refine ⟨Nat.lt_of_sub_eq_succ rfl, a.1, Nat.two_pow_pos 32, fun _ => rfl, ?_⟩
  show decodeA w 0 = _
  unfold decodeA
  obtain ⟨-, a0, a1, a2, a3, a4, a5, a6⟩ := a
  simp only [a0, a1, a2, a3, a4, a5, a6]
  rfl

theorem minn (qp sd sa sb : Nat) : Statement (.minn qp sd sa sb) := by
  intro wf y he
  replace wf : (decide (qp < 16) && decide (sd < 32) && decide (sa < 32) && decide (sb < 32)) = true := wf
  obtain rfl : y = ⟨0, 17 + qp * 2097152 + sd * 65536 + sa * 2048 + sb * 64, 0⟩ := (Option.some.inj he).symm
  simp only [Bool.and_eq_true, decide_eq_true_eq] at wf
  obtain ⟨⟨⟨hqp, hsd⟩, hsa⟩, hsb⟩ := wf
  obtain ⟨w, hw⟩ : ∃ w, w = 17 + qp * 2097152 + sd * 65536 + sa * 2048 + sb * 64 := ⟨_, rfl⟩
  have a := word0 (op := 0) (x := 0) (fn := 17) w qp sd sa sb hw (by decide) (by decide) (by decide) hqp hsd hsa hsb
  rw [← hw]
  refine ⟨Nat.lt_of_sub_eq_succ rfl, a.1, Nat.two_pow_pos 32, fun _ => rfl, ?_⟩
  show decodeA w 0 = _
  unfold decodeA
  obtain ⟨-, a0, a1, a2, a3, a4, a5, a6⟩ := a
  simp only [a0, a1, a2, a3, a4, a5, a6]
  rfl

theorem maxn (qp sd sa sb : Nat) : Statement (.maxn qp sd sa sb) := by
  intro wf y he
  replace wf : (decide (qp < 16) && decide (sd < 32) && decide (sa < 32) && decide (sb < 32)) = true := wf
  obtain rfl : y = ⟨0, 18 + qp * 2097152 + sd * 65536 + sa * 2048 + sb * 64, 0⟩ := (Option.some.inj he).symm
  simp only [Bool.and_eq_true, decide_eq_true_eq] at wf
  obtain ⟨⟨⟨hqp, hsd⟩, hsa⟩, hsb⟩ := wf
  obtain ⟨w, hw⟩ : ∃ w, w = 18 + qp * 2097152 + sd * 65536 + sa * 2048 + sb * 64 := ⟨_, rfl⟩
  have a := word0 (op := 0) (x := 0) (fn := 18) w qp sd sa sb hw (by decide) (by decide) (by decide) hqp hsd hsa hsb
  rw [← hw]
  refine ⟨Nat.lt_of_sub_eq_succ rfl, a.1, Nat.two_pow_pos 32, fun _ => rfl, ?_⟩
  show decodeA w 0 = _
  unfold decodeA
  obtain ⟨-, a0, a1, a2, a3, a4, a5, a6⟩ := a
  simp only [a0, a1, a2, a3, a4, a5, a6]
  rfl

theorem clz (qp sd sa : Nat) : Statement (.clz qp sd sa) := by
  intro wf y he
  replace wf : (decide (qp < 16) && decide (sd < 32) && decide (sa < 32)) = true := wf
  obtain rfl : y = ⟨0, 19 + qp * 2097152 + sd * 65536 + sa * 2048, 0⟩ := (Option.some.inj he).symm
  simp only [Bool.and_eq_true, decide_eq_true_eq] at wf
  obtain ⟨⟨hqp, hsd⟩, hsa⟩ := wf
  obtain ⟨w, hw⟩ : ∃ w, w = 19 + qp * 2097152 + sd * 65536 + sa * 2048 := ⟨_, rfl⟩
  have a := word1 (op := 0) (x := 0) (fn := 19) w qp sd sa hw (by decide) (by decide) (by decide) hqp hsd hsa
  rw [← hw]
  refine ⟨Nat.lt_of_sub_eq_succ rfl, a.1, Nat.two_pow_pos 32, fun _ => rfl, ?_⟩
  show decodeA w 0 = _
  unfold decodeA
  obtain ⟨-, a0, a1, a2, a3, a4, a5, a6⟩ := a
  simp only [a0, a1, a2, a3, a4, a5, a6]
  rfl

theorem ctz (qp sd sa : Nat) : Statement (.ctz qp sd sa) := by
  intro wf y he
  replace wf : (decide (qp < 16) && decide (sd < 32) && decide (sa < 32)) = true := wf
  obtain rfl : y = ⟨0, 20 + qp * 2097152 + sd * 65536 + sa * 2048, 0⟩ := (Option.some.inj he).symm
  simp only [Bool.and_eq_true, decide_eq_true_eq] at wf
  obtain ⟨⟨hqp, hsd⟩, hsa⟩ := wf
  obtain ⟨w, hw⟩ : ∃ w, w = 20 + qp * 2097152 + sd * 65536 + sa * 2048 := ⟨_, rfl⟩
  have a := word1 (op := 0) (x := 0) (fn := 20) w qp sd sa hw (by decide) (by decide) (by decide) hqp hsd hsa
  rw [← hw]
  refine ⟨Nat.lt_of_sub_eq_succ rfl, a.1, Nat.two_pow_pos 32, fun _ => rfl, ?_⟩
  show decodeA w 0 = _
  unfold decodeA
  obtain ⟨-, a0, a1, a2, a3, a4, a5, a6⟩ := a
  simp only [a0, a1, a2, a3, a4, a5, a6]
  rfl

theorem popc (qp sd sa : Nat) : Statement (.popc qp sd sa) := by
  intro wf y he
  replace wf : (decide (qp < 16) && decide (sd < 32) && decide (sa < 32)) = true := wf
  obtain rfl : y = ⟨0, 21 + qp * 2097152 + sd * 65536 + sa * 2048, 0⟩ := (Option.some.inj he).symm
  simp only [Bool.and_eq_true, decide_eq_true_eq] at wf
  obtain ⟨⟨hqp, hsd⟩, hsa⟩ := wf
  obtain ⟨w, hw⟩ : ∃ w, w = 21 + qp * 2097152 + sd * 65536 + sa * 2048 := ⟨_, rfl⟩
  have a := word1 (op := 0) (x := 0) (fn := 21) w qp sd sa hw (by decide) (by decide) (by decide) hqp hsd hsa
  rw [← hw]
  refine ⟨Nat.lt_of_sub_eq_succ rfl, a.1, Nat.two_pow_pos 32, fun _ => rfl, ?_⟩
  show decodeA w 0 = _
  unfold decodeA
  obtain ⟨-, a0, a1, a2, a3, a4, a5, a6⟩ := a
  simp only [a0, a1, a2, a3, a4, a5, a6]
  rfl

theorem andn (qp sd sa sb : Nat) : Statement (.andn qp sd sa sb) := by
  intro wf y he
  replace wf : (decide (qp < 16) && decide (sd < 32) && decide (sa < 32) && decide (sb < 32)) = true := wf
  obtain rfl : y = ⟨0, 22 + qp * 2097152 + sd * 65536 + sa * 2048 + sb * 64, 0⟩ := (Option.some.inj he).symm
  simp only [Bool.and_eq_true, decide_eq_true_eq] at wf
  obtain ⟨⟨⟨hqp, hsd⟩, hsa⟩, hsb⟩ := wf
  obtain ⟨w, hw⟩ : ∃ w, w = 22 + qp * 2097152 + sd * 65536 + sa * 2048 + sb * 64 := ⟨_, rfl⟩
  have a := word0 (op := 0) (x := 0) (fn := 22) w qp sd sa sb hw (by decide) (by decide) (by decide) hqp hsd hsa hsb
  rw [← hw]
  refine ⟨Nat.lt_of_sub_eq_succ rfl, a.1, Nat.two_pow_pos 32, fun _ => rfl, ?_⟩
  show decodeA w 0 = _
  unfold decodeA
  obtain ⟨-, a0, a1, a2, a3, a4, a5, a6⟩ := a
  simp only [a0, a1, a2, a3, a4, a5, a6]
  rfl

theorem orn (qp sd sa sb : Nat) : Statement (.orn qp sd sa sb) := by
  intro wf y he
  replace wf : (decide (qp < 16) && decide (sd < 32) && decide (sa < 32) && decide (sb < 32)) = true := wf
  obtain rfl : y = ⟨0, 23 + qp * 2097152 + sd * 65536 + sa * 2048 + sb * 64, 0⟩ := (Option.some.inj he).symm
  simp only [Bool.and_eq_true, decide_eq_true_eq] at wf
  obtain ⟨⟨⟨hqp, hsd⟩, hsa⟩, hsb⟩ := wf
  obtain ⟨w, hw⟩ : ∃ w, w = 23 + qp * 2097152 + sd * 65536 + sa * 2048 + sb * 64 := ⟨_, rfl⟩
  have a := word0 (op := 0) (x := 0) (fn := 23) w qp sd sa sb hw (by decide) (by decide) (by decide) hqp hsd hsa hsb
  rw [← hw]
  refine ⟨Nat.lt_of_sub_eq_succ rfl, a.1, Nat.two_pow_pos 32, fun _ => rfl, ?_⟩
  show decodeA w 0 = _
  unfold decodeA
  obtain ⟨-, a0, a1, a2, a3, a4, a5, a6⟩ := a
  simp only [a0, a1, a2, a3, a4, a5, a6]
  rfl

theorem addi (qp sd sa imm11 : Nat) : Statement (.addi qp sd sa imm11) := by
  intro wf y he
  replace wf : (decide (qp < 16) && decide (sd < 32) && decide (sa < 32) && decide (imm11 < 2048)) = true := wf
  obtain rfl : y = ⟨0, 67108864 + qp * 2097152 + sd * 65536 + sa * 2048 + imm11, 0⟩ := (Option.some.inj he).symm
  simp only [Bool.and_eq_true, decide_eq_true_eq] at wf
  obtain ⟨⟨⟨hqp, hsd⟩, hsa⟩, himm11⟩ := wf
  obtain ⟨w, hw⟩ : ∃ w, w = 67108864 + qp * 2097152 + sd * 65536 + sa * 2048 + imm11 := ⟨_, rfl⟩
  have a := word2 (op := 1) (x := 0) w qp sd sa imm11 hw (by decide) (by decide) hqp hsd hsa himm11
  rw [← hw]
  refine ⟨Nat.lt_of_sub_eq_succ rfl, a.1, Nat.two_pow_pos 32, fun _ => rfl, ?_⟩
  show decodeA w 0 = _
  unfold decodeA
  obtain ⟨-, a0, a1, a2, a3, a4, a5⟩ := a
  simp only [a0, a1, a2, a3, a4, a5]
  rfl

theorem addiExt (qp sd sa imm11 ext : Nat) : Statement (.addiExt qp sd sa imm11 ext) := by
  intro wf y he
  replace wf : (decide (qp < 16) && decide (sd < 32) && decide (sa < 32) && decide (imm11 < 2048) && decide (ext < 4294967296)) = true := wf
  obtain rfl : y = ⟨0, 100663296 + qp * 2097152 + sd * 65536 + sa * 2048 + imm11, ext⟩ := (Option.some.inj he).symm
  simp only [Bool.and_eq_true, decide_eq_true_eq] at wf
  obtain ⟨⟨⟨⟨hqp, hsd⟩, hsa⟩, himm11⟩, hext⟩ := wf
  obtain ⟨w, hw⟩ : ∃ w, w = 100663296 + qp * 2097152 + sd * 65536 + sa * 2048 + imm11 := ⟨_, rfl⟩
  have a := word2 (op := 1) (x := 1) w qp sd sa imm11 hw (by decide) (by decide) hqp hsd hsa himm11
  rw [← hw]
  have b := ext0 ext ext rfl hext
  refine ⟨Nat.lt_of_sub_eq_succ rfl, a.1, b.1, fun z => absurd (a.2.2.1.symm.trans z) (by decide), ?_⟩
  show decodeA w ext = _
  unfold decodeA
  obtain ⟨-, a0, a1, a2, a3, a4, a5⟩ := a
  obtain ⟨-, b0⟩ := b
  simp only [a0, a1, a2, a3, a4, a5, b0]
  rfl

theorem andi (qp sd sa imm11 : Nat) : Statement (.andi qp sd sa imm11) := by
  intro wf y he
  replace wf : (decide (qp < 16) && decide (sd < 32) && decide (sa < 32) && decide (imm11 < 2048)) = true := wf
  obtain rfl : y = ⟨0, 134217728 + qp * 2097152 + sd * 65536 + sa * 2048 + imm11, 0⟩ := (Option.some.inj he).symm
  simp only [Bool.and_eq_true, decide_eq_true_eq] at wf
  obtain ⟨⟨⟨hqp, hsd⟩, hsa⟩, himm11⟩ := wf
  obtain ⟨w, hw⟩ : ∃ w, w = 134217728 + qp * 2097152 + sd * 65536 + sa * 2048 + imm11 := ⟨_, rfl⟩
  have a := word2 (op := 2) (x := 0) w qp sd sa imm11 hw (by decide) (by decide) hqp hsd hsa himm11
  rw [← hw]
  refine ⟨Nat.lt_of_sub_eq_succ rfl, a.1, Nat.two_pow_pos 32, fun _ => rfl, ?_⟩
  show decodeA w 0 = _
  unfold decodeA
  obtain ⟨-, a0, a1, a2, a3, a4, a5⟩ := a
  simp only [a0, a1, a2, a3, a4, a5]
  rfl

theorem andiExt (qp sd sa imm11 ext : Nat) : Statement (.andiExt qp sd sa imm11 ext) := by
  intro wf y he
  replace wf : (decide (qp < 16) && decide (sd < 32) && decide (sa < 32) && decide (imm11 < 2048) && decide (ext < 4294967296)) = true := wf
  obtain rfl : y = ⟨0, 167772160 + qp * 2097152 + sd * 65536 + sa * 2048 + imm11, ext⟩ := (Option.some.inj he).symm
  simp only [Bool.and_eq_true, decide_eq_true_eq] at wf
  obtain ⟨⟨⟨⟨hqp, hsd⟩, hsa⟩, himm11⟩, hext⟩ := wf
  obtain ⟨w, hw⟩ : ∃ w, w = 167772160 + qp * 2097152 + sd * 65536 + sa * 2048 + imm11 := ⟨_, rfl⟩
  have a := word2 (op := 2) (x := 1) w qp sd sa imm11 hw (by decide) (by decide) hqp hsd hsa himm11
  rw [← hw]
  have b := ext0 ext ext rfl hext
  refine ⟨Nat.lt_of_sub_eq_succ rfl, a.1, b.1, fun z => absurd (a.2.2.1.symm.trans z) (by decide), ?_⟩
  show decodeA w ext = _
  unfold decodeA
  obtain ⟨-, a0, a1, a2, a3, a4, a5⟩ := a
  obtain ⟨-, b0⟩ := b
  simp only [a0, a1, a2, a3, a4, a5, b0]
  rfl

theorem ori (qp sd sa imm11 : Nat) : Statement (.ori qp sd sa imm11) := by
  intro wf y he
  replace wf : (decide (qp < 16) && decide (sd < 32) && decide (sa < 32) && decide (imm11 < 2048)) = true := wf
  obtain rfl : y = ⟨0, 201326592 + qp * 2097152 + sd * 65536 + sa * 2048 + imm11, 0⟩ := (Option.some.inj he).symm
  simp only [Bool.and_eq_true, decide_eq_true_eq] at wf
  obtain ⟨⟨⟨hqp, hsd⟩, hsa⟩, himm11⟩ := wf
  obtain ⟨w, hw⟩ : ∃ w, w = 201326592 + qp * 2097152 + sd * 65536 + sa * 2048 + imm11 := ⟨_, rfl⟩
  have a := word2 (op := 3) (x := 0) w qp sd sa imm11 hw (by decide) (by decide) hqp hsd hsa himm11
  rw [← hw]
  refine ⟨Nat.lt_of_sub_eq_succ rfl, a.1, Nat.two_pow_pos 32, fun _ => rfl, ?_⟩
  show decodeA w 0 = _
  unfold decodeA
  obtain ⟨-, a0, a1, a2, a3, a4, a5⟩ := a
  simp only [a0, a1, a2, a3, a4, a5]
  rfl

theorem oriExt (qp sd sa imm11 ext : Nat) : Statement (.oriExt qp sd sa imm11 ext) := by
  intro wf y he
  replace wf : (decide (qp < 16) && decide (sd < 32) && decide (sa < 32) && decide (imm11 < 2048) && decide (ext < 4294967296)) = true := wf
  obtain rfl : y = ⟨0, 234881024 + qp * 2097152 + sd * 65536 + sa * 2048 + imm11, ext⟩ := (Option.some.inj he).symm
  simp only [Bool.and_eq_true, decide_eq_true_eq] at wf
  obtain ⟨⟨⟨⟨hqp, hsd⟩, hsa⟩, himm11⟩, hext⟩ := wf
  obtain ⟨w, hw⟩ : ∃ w, w = 234881024 + qp * 2097152 + sd * 65536 + sa * 2048 + imm11 := ⟨_, rfl⟩
  have a := word2 (op := 3) (x := 1) w qp sd sa imm11 hw (by decide) (by decide) hqp hsd hsa himm11
  rw [← hw]
  have b := ext0 ext ext rfl hext
  refine ⟨Nat.lt_of_sub_eq_succ rfl, a.1, b.1, fun z => absurd (a.2.2.1.symm.trans z) (by decide), ?_⟩
  show decodeA w ext = _
  unfold decodeA
  obtain ⟨-, a0, a1, a2, a3, a4, a5⟩ := a
  obtain ⟨-, b0⟩ := b
  simp only [a0, a1, a2, a3, a4, a5, b0]
  rfl

theorem xori (qp sd sa imm11 : Nat) : Statement (.xori qp sd sa imm11) := by
  intro wf y he
  replace wf : (decide (qp < 16) && decide (sd < 32) && decide (sa < 32) && decide (imm11 < 2048)) = true := wf
  obtain rfl : y = ⟨0, 268435456 + qp * 2097152 + sd * 65536 + sa * 2048 + imm11, 0⟩ := (Option.some.inj he).symm
  simp only [Bool.and_eq_true, decide_eq_true_eq] at wf
  obtain ⟨⟨⟨hqp, hsd⟩, hsa⟩, himm11⟩ := wf
  obtain ⟨w, hw⟩ : ∃ w, w = 268435456 + qp * 2097152 + sd * 65536 + sa * 2048 + imm11 := ⟨_, rfl⟩
  have a := word2 (op := 4) (x := 0) w qp sd sa imm11 hw (by decide) (by decide) hqp hsd hsa himm11
  rw [← hw]
  refine ⟨Nat.lt_of_sub_eq_succ rfl, a.1, Nat.two_pow_pos 32, fun _ => rfl, ?_⟩
  show decodeA w 0 = _
  unfold decodeA
  obtain ⟨-, a0, a1, a2, a3, a4, a5⟩ := a
  simp only [a0, a1, a2, a3, a4, a5]
  rfl

theorem xoriExt (qp sd sa imm11 ext : Nat) : Statement (.xoriExt qp sd sa imm11 ext) := by
  intro wf y he
  replace wf : (decide (qp < 16) && decide (sd < 32) && decide (sa < 32) && decide (imm11 < 2048) && decide (ext < 4294967296)) = true := wf
  obtain rfl : y = ⟨0, 301989888 + qp * 2097152 + sd * 65536 + sa * 2048 + imm11, ext⟩ := (Option.some.inj he).symm
  simp only [Bool.and_eq_true, decide_eq_true_eq] at wf
  obtain ⟨⟨⟨⟨hqp, hsd⟩, hsa⟩, himm11⟩, hext⟩ := wf
  obtain ⟨w, hw⟩ : ∃ w, w = 301989888 + qp * 2097152 + sd * 65536 + sa * 2048 + imm11 := ⟨_, rfl⟩
  have a := word2 (op := 4) (x := 1) w qp sd sa imm11 hw (by decide) (by decide) hqp hsd hsa himm11
  rw [← hw]
  have b := ext0 ext ext rfl hext
  refine ⟨Nat.lt_of_sub_eq_succ rfl, a.1, b.1, fun z => absurd (a.2.2.1.symm.trans z) (by decide), ?_⟩
  show decodeA w ext = _
  unfold decodeA
  obtain ⟨-, a0, a1, a2, a3, a4, a5⟩ := a
  obtain ⟨-, b0⟩ := b
  simp only [a0, a1, a2, a3, a4, a5, b0]
  rfl

theorem shli (qp sd sa imm11 : Nat) : Statement (.shli qp sd sa imm11) := by
  intro wf y he
  replace wf : (decide (qp < 16) && decide (sd < 32) && decide (sa < 32) && decide (imm11 < 2048) && decide (imm11 < 64)) = true := wf
  obtain rfl : y = ⟨0, 335544320 + qp * 2097152 + sd * 65536 + sa * 2048 + imm11, 0⟩ := (Option.some.inj he).symm
  obtain ⟨wf, hx0⟩ := (Bool.and_eq_true_iff).mp wf
  simp only [Bool.and_eq_true, decide_eq_true_eq] at wf
  obtain ⟨⟨⟨hqp, hsd⟩, hsa⟩, himm11⟩ := wf
  obtain ⟨w, hw⟩ : ∃ w, w = 335544320 + qp * 2097152 + sd * 65536 + sa * 2048 + imm11 := ⟨_, rfl⟩
  have a := word2 (op := 5) (x := 0) w qp sd sa imm11 hw (by decide) (by decide) hqp hsd hsa himm11
  rw [← hw]
  refine ⟨Nat.lt_of_sub_eq_succ rfl, a.1, Nat.two_pow_pos 32, fun _ => rfl, ?_⟩
  show decodeA w 0 = _
  unfold decodeA
  obtain ⟨-, a0, a1, a2, a3, a4, a5⟩ := a
  simp only [a0, a1, a2, a3, a4, a5, hx0]
  rfl

theorem shliExt (qp sd sa imm11 ext : Nat) : Statement (.shliExt qp sd sa imm11 ext) := by
  intro wf y he
  replace wf : (decide (qp < 16) && decide (sd < 32) && decide (sa < 32) && decide (imm11 < 2048) && decide (ext < 4294967296) && decide (ext = 0) && decide (imm11 < 64)) = true := wf
  obtain rfl : y = ⟨0, 369098752 + qp * 2097152 + sd * 65536 + sa * 2048 + imm11, ext⟩ := (Option.some.inj he).symm
  obtain ⟨wf, hx1⟩ := (Bool.and_eq_true_iff).mp wf
  obtain ⟨wf, hx0⟩ := (Bool.and_eq_true_iff).mp wf
  simp only [Bool.and_eq_true, decide_eq_true_eq] at wf
  obtain ⟨⟨⟨⟨hqp, hsd⟩, hsa⟩, himm11⟩, hext⟩ := wf
  obtain ⟨w, hw⟩ : ∃ w, w = 369098752 + qp * 2097152 + sd * 65536 + sa * 2048 + imm11 := ⟨_, rfl⟩
  have a := word2 (op := 5) (x := 1) w qp sd sa imm11 hw (by decide) (by decide) hqp hsd hsa himm11
  rw [← hw]
  have b := ext0 ext ext rfl hext
  refine ⟨Nat.lt_of_sub_eq_succ rfl, a.1, b.1, fun z => absurd (a.2.2.1.symm.trans z) (by decide), ?_⟩
  show decodeA w ext = _
  unfold decodeA
  obtain ⟨-, a0, a1, a2, a3, a4, a5⟩ := a
  obtain ⟨-, b0⟩ := b
  simp only [a0, a1, a2, a3, a4, a5, b0, hx0, hx1]
  rfl

theorem shri (qp sd sa imm11 : Nat) : Statement (.shri qp sd sa imm11) := by
  intro wf y he
  replace wf : (decide (qp < 16) && decide (sd < 32) && decide (sa < 32) && decide (imm11 < 2048) && decide (imm11 < 64)) = true := wf
  obtain rfl : y = ⟨0, 402653184 + qp * 2097152 + sd * 65536 + sa * 2048 + imm11, 0⟩ := (Option.some.inj he).symm
  obtain ⟨wf, hx0⟩ := (Bool.and_eq_true_iff).mp wf
  simp only [Bool.and_eq_true, decide_eq_true_eq] at wf
  obtain ⟨⟨⟨hqp, hsd⟩, hsa⟩, himm11⟩ := wf
  obtain ⟨w, hw⟩ : ∃ w, w = 402653184 + qp * 2097152 + sd * 65536 + sa * 2048 + imm11 := ⟨_, rfl⟩
  have a := word2 (op := 6) (x := 0) w qp sd sa imm11 hw (by decide) (by decide) hqp hsd hsa himm11
  rw [← hw]
  refine ⟨Nat.lt_of_sub_eq_succ rfl, a.1, Nat.two_pow_pos 32, fun _ => rfl, ?_⟩
  show decodeA w 0 = _
  unfold decodeA
  obtain ⟨-, a0, a1, a2, a3, a4, a5⟩ := a
  simp only [a0, a1, a2, a3, a4, a5, hx0]
  rfl

theorem shriExt (qp sd sa imm11 ext : Nat) : Statement (.shriExt qp sd sa imm11 ext) := by
  intro wf y he
  replace wf : (decide (qp < 16) && decide (sd < 32) && decide (sa < 32) && decide (imm11 < 2048) && decide (ext < 4294967296) && decide (ext = 0) && decide (imm11 < 64)) = true := wf
  obtain rfl : y = ⟨0, 436207616 + qp * 2097152 + sd * 65536 + sa * 2048 + imm11, ext⟩ := (Option.some.inj he).symm
  obtain ⟨wf, hx1⟩ := (Bool.and_eq_true_iff).mp wf
  obtain ⟨wf, hx0⟩ := (Bool.and_eq_true_iff).mp wf
  simp only [Bool.and_eq_true, decide_eq_true_eq] at wf
  obtain ⟨⟨⟨⟨hqp, hsd⟩, hsa⟩, himm11⟩, hext⟩ := wf
  obtain ⟨w, hw⟩ : ∃ w, w = 436207616 + qp * 2097152 + sd * 65536 + sa * 2048 + imm11 := ⟨_, rfl⟩
  have a := word2 (op := 6) (x := 1) w qp sd sa imm11 hw (by decide) (by decide) hqp hsd hsa himm11
  rw [← hw]
  have b := ext0 ext ext rfl hext
  refine ⟨Nat.lt_of_sub_eq_succ rfl, a.1, b.1, fun z => absurd (a.2.2.1.symm.trans z) (by decide), ?_⟩
  show decodeA w ext = _
  unfold decodeA
  obtain ⟨-, a0, a1, a2, a3, a4, a5⟩ := a
  obtain ⟨-, b0⟩ := b
  simp only [a0, a1, a2, a3, a4, a5, b0, hx0, hx1]
  rfl

theorem sari (qp sd sa imm11 : Nat) : Statement (.sari qp sd sa imm11) := by
  intro wf y he
  replace wf : (decide (qp < 16) && decide (sd < 32) && decide (sa < 32) && decide (imm11 < 2048) && decide (imm11 < 64)) = true := wf
  obtain rfl : y = ⟨0, 469762048 + qp * 2097152 + sd * 65536 + sa * 2048 + imm11, 0⟩ := (Option.some.inj he).symm
  obtain ⟨wf, hx0⟩ := (Bool.and_eq_true_iff).mp wf
  simp only [Bool.and_eq_true, decide_eq_true_eq] at wf
  obtain ⟨⟨⟨hqp, hsd⟩, hsa⟩, himm11⟩ := wf
  obtain ⟨w, hw⟩ : ∃ w, w = 469762048 + qp * 2097152 + sd * 65536 + sa * 2048 + imm11 := ⟨_, rfl⟩
  have a := word2 (op := 7) (x := 0) w qp sd sa imm11 hw (by decide) (by decide) hqp hsd hsa himm11
  rw [← hw]
  refine ⟨Nat.lt_of_sub_eq_succ rfl, a.1, Nat.two_pow_pos 32, fun _ => rfl, ?_⟩
  show decodeA w 0 = _
  unfold decodeA
  obtain ⟨-, a0, a1, a2, a3, a4, a5⟩ := a
  simp only [a0, a1, a2, a3, a4, a5, hx0]
  rfl

theorem sariExt (qp sd sa imm11 ext : Nat) : Statement (.sariExt qp sd sa imm11 ext) := by
  intro wf y he
  replace wf : (decide (qp < 16) && decide (sd < 32) && decide (sa < 32) && decide (imm11 < 2048) && decide (ext < 4294967296) && decide (ext = 0) && decide (imm11 < 64)) = true := wf
  obtain rfl : y = ⟨0, 503316480 + qp * 2097152 + sd * 65536 + sa * 2048 + imm11, ext⟩ := (Option.some.inj he).symm
  obtain ⟨wf, hx1⟩ := (Bool.and_eq_true_iff).mp wf
  obtain ⟨wf, hx0⟩ := (Bool.and_eq_true_iff).mp wf
  simp only [Bool.and_eq_true, decide_eq_true_eq] at wf
  obtain ⟨⟨⟨⟨hqp, hsd⟩, hsa⟩, himm11⟩, hext⟩ := wf
  obtain ⟨w, hw⟩ : ∃ w, w = 503316480 + qp * 2097152 + sd * 65536 + sa * 2048 + imm11 := ⟨_, rfl⟩
  have a := word2 (op := 7) (x := 1) w qp sd sa imm11 hw (by decide) (by decide) hqp hsd hsa himm11
  rw [← hw]
  have b := ext0 ext ext rfl hext
  refine ⟨Nat.lt_of_sub_eq_succ rfl, a.1, b.1, fun z => absurd (a.2.2.1.symm.trans z) (by decide), ?_⟩
  show decodeA w ext = _
  unfold decodeA
  obtain ⟨-, a0, a1, a2, a3, a4, a5⟩ := a
  obtain ⟨-, b0⟩ := b
  simp only [a0, a1, a2, a3, a4, a5, b0, hx0, hx1]
  rfl

theorem muli (qp sd sa imm11 : Nat) : Statement (.muli qp sd sa imm11) := by
  intro wf y he
  replace wf : (decide (qp < 16) && decide (sd < 32) && decide (sa < 32) && decide (imm11 < 2048)) = true := wf
  obtain rfl : y = ⟨0, 536870912 + qp * 2097152 + sd * 65536 + sa * 2048 + imm11, 0⟩ := (Option.some.inj he).symm
  simp only [Bool.and_eq_true, decide_eq_true_eq] at wf
  obtain ⟨⟨⟨hqp, hsd⟩, hsa⟩, himm11⟩ := wf
  obtain ⟨w, hw⟩ : ∃ w, w = 536870912 + qp * 2097152 + sd * 65536 + sa * 2048 + imm11 := ⟨_, rfl⟩
  have a := word2 (op := 8) (x := 0) w qp sd sa imm11 hw (by decide) (by decide) hqp hsd hsa himm11
  rw [← hw]
  refine ⟨Nat.lt_of_sub_eq_succ rfl, a.1, Nat.two_pow_pos 32, fun _ => rfl, ?_⟩
  show decodeA w 0 = _
  unfold decodeA
  obtain ⟨-, a0, a1, a2, a3, a4, a5⟩ := a
  simp only [a0, a1, a2, a3, a4, a5]
  rfl

theorem muliExt (qp sd sa imm11 ext : Nat) : Statement (.muliExt qp sd sa imm11 ext) := by
  intro wf y he
  replace wf : (decide (qp < 16) && decide (sd < 32) && decide (sa < 32) && decide (imm11 < 2048) && decide (ext < 4294967296)) = true := wf
  obtain rfl : y = ⟨0, 570425344 + qp * 2097152 + sd * 65536 + sa * 2048 + imm11, ext⟩ := (Option.some.inj he).symm
  simp only [Bool.and_eq_true, decide_eq_true_eq] at wf
  obtain ⟨⟨⟨⟨hqp, hsd⟩, hsa⟩, himm11⟩, hext⟩ := wf
  obtain ⟨w, hw⟩ : ∃ w, w = 570425344 + qp * 2097152 + sd * 65536 + sa * 2048 + imm11 := ⟨_, rfl⟩
  have a := word2 (op := 8) (x := 1) w qp sd sa imm11 hw (by decide) (by decide) hqp hsd hsa himm11
  rw [← hw]
  have b := ext0 ext ext rfl hext
  refine ⟨Nat.lt_of_sub_eq_succ rfl, a.1, b.1, fun z => absurd (a.2.2.1.symm.trans z) (by decide), ?_⟩
  show decodeA w ext = _
  unfold decodeA
  obtain ⟨-, a0, a1, a2, a3, a4, a5⟩ := a
  obtain ⟨-, b0⟩ := b
  simp only [a0, a1, a2, a3, a4, a5, b0]
  rfl

theorem movi (qp sd imm16 : Nat) : Statement (.movi qp sd imm16) := by
  intro wf y he
  replace wf : (decide (qp < 16) && decide (sd < 32) && decide (imm16 < 65536)) = true := wf
  obtain rfl : y = ⟨0, 603979776 + qp * 2097152 + sd * 65536 + imm16, 0⟩ := (Option.some.inj he).symm
  simp only [Bool.and_eq_true, decide_eq_true_eq] at wf
  obtain ⟨⟨hqp, hsd⟩, himm16⟩ := wf
  obtain ⟨w, hw⟩ : ∃ w, w = 603979776 + qp * 2097152 + sd * 65536 + imm16 := ⟨_, rfl⟩
  have a := word3 (op := 9) (x := 0) w qp sd imm16 hw (by decide) (by decide) hqp hsd himm16
  rw [← hw]
  refine ⟨Nat.lt_of_sub_eq_succ rfl, a.1, Nat.two_pow_pos 32, fun _ => rfl, ?_⟩
  show decodeA w 0 = _
  unfold decodeA
  obtain ⟨-, a0, a1, a2, a3, a4⟩ := a
  simp only [a0, a1, a2, a3, a4]
  rfl

theorem moviExt (qp sd imm16 ext : Nat) : Statement (.moviExt qp sd imm16 ext) := by
  intro wf y he
  replace wf : (decide (qp < 16) && decide (sd < 32) && decide (imm16 < 65536) && decide (ext < 4294967296)) = true := wf
  obtain rfl : y = ⟨0, 637534208 + qp * 2097152 + sd * 65536 + imm16, ext⟩ := (Option.some.inj he).symm
  simp only [Bool.and_eq_true, decide_eq_true_eq] at wf
  obtain ⟨⟨⟨hqp, hsd⟩, himm16⟩, hext⟩ := wf
  obtain ⟨w, hw⟩ : ∃ w, w = 637534208 + qp * 2097152 + sd * 65536 + imm16 := ⟨_, rfl⟩
  have a := word3 (op := 9) (x := 1) w qp sd imm16 hw (by decide) (by decide) hqp hsd himm16
  rw [← hw]
  have b := ext0 ext ext rfl hext
  refine ⟨Nat.lt_of_sub_eq_succ rfl, a.1, b.1, fun z => absurd (a.2.2.1.symm.trans z) (by decide), ?_⟩
  show decodeA w ext = _
  unfold decodeA
  obtain ⟨-, a0, a1, a2, a3, a4⟩ := a
  obtain ⟨-, b0⟩ := b
  simp only [a0, a1, a2, a3, a4, b0]
  rfl

theorem movhi (qp sd imm16 : Nat) : Statement (.movhi qp sd imm16) := by
  intro wf y he
  replace wf : (decide (qp < 16) && decide (sd < 32) && decide (imm16 < 65536)) = true := wf
  obtain rfl : y = ⟨0, 671088640 + qp * 2097152 + sd * 65536 + imm16, 0⟩ := (Option.some.inj he).symm
  simp only [Bool.and_eq_true, decide_eq_true_eq] at wf
  obtain ⟨⟨hqp, hsd⟩, himm16⟩ := wf
  obtain ⟨w, hw⟩ : ∃ w, w = 671088640 + qp * 2097152 + sd * 65536 + imm16 := ⟨_, rfl⟩
  have a := word3 (op := 10) (x := 0) w qp sd imm16 hw (by decide) (by decide) hqp hsd himm16
  rw [← hw]
  refine ⟨Nat.lt_of_sub_eq_succ rfl, a.1, Nat.two_pow_pos 32, fun _ => rfl, ?_⟩
  show decodeA w 0 = _
  unfold decodeA
  obtain ⟨-, a0, a1, a2, a3, a4⟩ := a
  simp only [a0, a1, a2, a3, a4]
  rfl

theorem cmp (qp qt qf sa sb cond : Nat) : Statement (.cmp qp qt qf sa sb cond) := by
  intro wf y he
  replace wf : (decide (qp < 16) && decide (qt < 16) && decide (qf < 16) && decide (sa < 32) && decide (sb < 32) && decide (cond < 8)) = true := wf
  obtain rfl : y = ⟨0, 738197504 + qp * 2097152 + qt * 131072 + qf * 8192 + sa * 256 + sb * 8 + cond, 0⟩ := (Option.some.inj he).symm
  simp only [Bool.and_eq_true, decide_eq_true_eq] at wf
  obtain ⟨⟨⟨⟨⟨hqp, hqt⟩, hqf⟩, hsa⟩, hsb⟩, hcond⟩ := wf
  obtain ⟨w, hw⟩ : ∃ w, w = 738197504 + qp * 2097152 + qt * 131072 + qf * 8192 + sa * 256 + sb * 8 + cond := ⟨_, rfl⟩
  have a := word4 (op := 11) (x := 0) w qp qt qf sa sb cond hw (by decide) (by decide) hqp hqt hqf hsa hsb hcond
  rw [← hw]
  refine ⟨Nat.lt_of_sub_eq_succ rfl, a.1, Nat.two_pow_pos 32, fun _ => rfl, ?_⟩
  show decodeA w 0 = _
  unfold decodeA
  obtain ⟨-, a0, a1, a2, a3, a4, a5, a6, a7⟩ := a
  simp only [a0, a1, a2, a3, a4, a5, a6, a7]
  rfl

theorem cmpi (qp qt qf sa imm5 cond : Nat) : Statement (.cmpi qp qt qf sa imm5 cond) := by
  intro wf y he
  replace wf : (decide (qp < 16) && decide (qt < 16) && decide (qf < 16) && decide (sa < 32) && decide (imm5 < 32) && decide (cond < 8)) = true := wf
  obtain rfl : y = ⟨0, 805306368 + qp * 2097152 + qt * 131072 + qf * 8192 + sa * 256 + imm5 * 8 + cond, 0⟩ := (Option.some.inj he).symm
  simp only [Bool.and_eq_true, decide_eq_true_eq] at wf
  obtain ⟨⟨⟨⟨⟨hqp, hqt⟩, hqf⟩, hsa⟩, himm5⟩, hcond⟩ := wf
  obtain ⟨w, hw⟩ : ∃ w, w = 805306368 + qp * 2097152 + qt * 131072 + qf * 8192 + sa * 256 + imm5 * 8 + cond := ⟨_, rfl⟩
  have a := word4 (op := 12) (x := 0) w qp qt qf sa imm5 cond hw (by decide) (by decide) hqp hqt hqf hsa himm5 hcond
  rw [← hw]
  refine ⟨Nat.lt_of_sub_eq_succ rfl, a.1, Nat.two_pow_pos 32, fun _ => rfl, ?_⟩
  show decodeA w 0 = _
  unfold decodeA
  obtain ⟨-, a0, a1, a2, a3, a4, a5, a6, a7⟩ := a
  simp only [a0, a1, a2, a3, a4, a5, a6, a7]
  rfl

theorem cmpiExt (qp qt qf sa imm5 cond ext : Nat) : Statement (.cmpiExt qp qt qf sa imm5 cond ext) := by
  intro wf y he
  replace wf : (decide (qp < 16) && decide (qt < 16) && decide (qf < 16) && decide (sa < 32) && decide (imm5 < 32) && decide (cond < 8) && decide (ext < 4294967296)) = true := wf
  obtain rfl : y = ⟨0, 838860800 + qp * 2097152 + qt * 131072 + qf * 8192 + sa * 256 + imm5 * 8 + cond, ext⟩ := (Option.some.inj he).symm
  simp only [Bool.and_eq_true, decide_eq_true_eq] at wf
  obtain ⟨⟨⟨⟨⟨⟨hqp, hqt⟩, hqf⟩, hsa⟩, himm5⟩, hcond⟩, hext⟩ := wf
  obtain ⟨w, hw⟩ : ∃ w, w = 838860800 + qp * 2097152 + qt * 131072 + qf * 8192 + sa * 256 + imm5 * 8 + cond := ⟨_, rfl⟩
  have a := word4 (op := 12) (x := 1) w qp qt qf sa imm5 cond hw (by decide) (by decide) hqp hqt hqf hsa himm5 hcond
  rw [← hw]
  have b := ext0 ext ext rfl hext
  refine ⟨Nat.lt_of_sub_eq_succ rfl, a.1, b.1, fun z => absurd (a.2.2.1.symm.trans z) (by decide), ?_⟩
  show decodeA w ext = _
  unfold decodeA
  obtain ⟨-, a0, a1, a2, a3, a4, a5, a6, a7⟩ := a
  obtain ⟨-, b0⟩ := b
  simp only [a0, a1, a2, a3, a4, a5, a6, a7, b0]
  rfl

theorem sel (qp sd sa sb qs : Nat) : Statement (.sel qp sd sa sb qs) := by
  intro wf y he
  replace wf : (decide (qp < 16) && decide (sd < 32) && decide (sa < 32) && decide (sb < 32) && decide (qs < 16)) = true := wf
  obtain rfl : y = ⟨0, 872415232 + qp * 2097152 + sd * 65536 + sa * 2048 + sb * 64 + qs * 4, 0⟩ := (Option.some.inj he).symm
  simp only [Bool.and_eq_true, decide_eq_true_eq] at wf
  obtain ⟨⟨⟨⟨hqp, hsd⟩, hsa⟩, hsb⟩, hqs⟩ := wf
  obtain ⟨w, hw⟩ : ∃ w, w = 872415232 + qp * 2097152 + sd * 65536 + sa * 2048 + sb * 64 + qs * 4 := ⟨_, rfl⟩
  have a := word5 (op := 13) (x := 0) w qp sd sa sb qs hw (by decide) (by decide) hqp hsd hsa hsb hqs
  rw [← hw]
  refine ⟨Nat.lt_of_sub_eq_succ rfl, a.1, Nat.two_pow_pos 32, fun _ => rfl, ?_⟩
  show decodeA w 0 = _
  unfold decodeA
  obtain ⟨-, a0, a1, a2, a3, a4, a5, a6, a7⟩ := a
  simp only [a0, a1, a2, a3, a4, a5, a6, a7]
  rfl

theorem bfx (qp sd sa pos lenm1 : Nat) : Statement (.bfx qp sd sa pos lenm1) := by
  intro wf y he
  replace wf : (decide (qp < 16) && decide (sd < 32) && decide (sa < 32) && decide (pos < 64) && decide (lenm1 < 64) && decide (pos + lenm1 + 1 ≤ 64)) = true := wf
  obtain rfl : y = ⟨0, 973078528 + qp * 2097152 + sd * 65536 + sa * 2048, pos + lenm1 * 256⟩ := (Option.some.inj he).symm
  obtain ⟨wf, hx0⟩ := (Bool.and_eq_true_iff).mp wf
  simp only [Bool.and_eq_true, decide_eq_true_eq] at wf
  obtain ⟨⟨⟨⟨hqp, hsd⟩, hsa⟩, hpos⟩, hlenm1⟩ := wf
  obtain ⟨w, hw⟩ : ∃ w, w = 973078528 + qp * 2097152 + sd * 65536 + sa * 2048 := ⟨_, rfl⟩
  have a := word6 (op := 14) (x := 1) w qp sd sa hw (by decide) (by decide) hqp hsd hsa
  rw [← hw]
  obtain ⟨v, hv⟩ : ∃ v, v = pos + lenm1 * 256 := ⟨_, rfl⟩
  have b := ext1 v pos lenm1 hv hpos hlenm1
  rw [← hv]
  refine ⟨Nat.lt_of_sub_eq_succ rfl, a.1, b.1, fun z => absurd (a.2.2.1.symm.trans z) (by decide), ?_⟩
  show decodeA w v = _
  unfold decodeA
  obtain ⟨-, a0, a1, a2, a3, a4, a5⟩ := a
  obtain ⟨-, b0, b1, b2, b3⟩ := b
  simp only [a0, a1, a2, a3, a4, a5, b0, b1, b2, b3, hx0]
  rfl

theorem bfxs (qp sd sa pos lenm1 : Nat) : Statement (.bfxs qp sd sa pos lenm1) := by
  intro wf y he
  replace wf : (decide (qp < 16) && decide (sd < 32) && decide (sa < 32) && decide (pos < 64) && decide (lenm1 < 64) && decide (pos + lenm1 + 1 ≤ 64)) = true := wf
  obtain rfl : y = ⟨0, 1040187392 + qp * 2097152 + sd * 65536 + sa * 2048, pos + lenm1 * 256⟩ := (Option.some.inj he).symm
  obtain ⟨wf, hx0⟩ := (Bool.and_eq_true_iff).mp wf
  simp only [Bool.and_eq_true, decide_eq_true_eq] at wf
  obtain ⟨⟨⟨⟨hqp, hsd⟩, hsa⟩, hpos⟩, hlenm1⟩ := wf
  obtain ⟨w, hw⟩ : ∃ w, w = 1040187392 + qp * 2097152 + sd * 65536 + sa * 2048 := ⟨_, rfl⟩
  have a := word6 (op := 15) (x := 1) w qp sd sa hw (by decide) (by decide) hqp hsd hsa
  rw [← hw]
  obtain ⟨v, hv⟩ : ∃ v, v = pos + lenm1 * 256 := ⟨_, rfl⟩
  have b := ext1 v pos lenm1 hv hpos hlenm1
  rw [← hv]
  refine ⟨Nat.lt_of_sub_eq_succ rfl, a.1, b.1, fun z => absurd (a.2.2.1.symm.trans z) (by decide), ?_⟩
  show decodeA w v = _
  unfold decodeA
  obtain ⟨-, a0, a1, a2, a3, a4, a5⟩ := a
  obtain ⟨-, b0, b1, b2, b3⟩ := b
  simp only [a0, a1, a2, a3, a4, a5, b0, b1, b2, b3, hx0]
  rfl

theorem bfi (qp sd sa pos lenm1 : Nat) : Statement (.bfi qp sd sa pos lenm1) := by
  intro wf y he
  replace wf : (decide (qp < 16) && decide (sd < 32) && decide (sa < 32) && decide (pos < 64) && decide (lenm1 < 64) && decide (pos + lenm1 + 1 ≤ 64)) = true := wf
  obtain rfl : y = ⟨0, 1107296256 + qp * 2097152 + sd * 65536 + sa * 2048, pos + lenm1 * 256⟩ := (Option.some.inj he).symm
  obtain ⟨wf, hx0⟩ := (Bool.and_eq_true_iff).mp wf
  simp only [Bool.and_eq_true, decide_eq_true_eq] at wf
  obtain ⟨⟨⟨⟨hqp, hsd⟩, hsa⟩, hpos⟩, hlenm1⟩ := wf
  obtain ⟨w, hw⟩ : ∃ w, w = 1107296256 + qp * 2097152 + sd * 65536 + sa * 2048 := ⟨_, rfl⟩
  have a := word6 (op := 16) (x := 1) w qp sd sa hw (by decide) (by decide) hqp hsd hsa
  rw [← hw]
  obtain ⟨v, hv⟩ : ∃ v, v = pos + lenm1 * 256 := ⟨_, rfl⟩
  have b := ext1 v pos lenm1 hv hpos hlenm1
  rw [← hv]
  refine ⟨Nat.lt_of_sub_eq_succ rfl, a.1, b.1, fun z => absurd (a.2.2.1.symm.trans z) (by decide), ?_⟩
  show decodeA w v = _
  unfold decodeA
  obtain ⟨-, a0, a1, a2, a3, a4, a5⟩ := a
  obtain ⟨-, b0, b1, b2, b3⟩ := b
  simp only [a0, a1, a2, a3, a4, a5, b0, b1, b2, b3, hx0]
  rfl

theorem lea (qp sd sa sb shift : Nat) : Statement (.lea qp sd sa sb shift) := by
  intro wf y he
  replace wf : (decide (qp < 16) && decide (sd < 32) && decide (sa < 32) && decide (sb < 32) && decide (shift < 8)) = true := wf
  obtain rfl : y = ⟨0, 1140850688 + qp * 2097152 + sd * 65536 + sa * 2048 + sb * 64 + shift, 0⟩ := (Option.some.inj he).symm
  simp only [Bool.and_eq_true, decide_eq_true_eq] at wf
  obtain ⟨⟨⟨⟨hqp, hsd⟩, hsa⟩, hsb⟩, hshift⟩ := wf
  obtain ⟨w, hw⟩ : ∃ w, w = 1140850688 + qp * 2097152 + sd * 65536 + sa * 2048 + sb * 64 + shift := ⟨_, rfl⟩
  have a := word7 (op := 17) (x := 0) w qp sd sa sb shift hw (by decide) (by decide) hqp hsd hsa hsb hshift
  rw [← hw]
  refine ⟨Nat.lt_of_sub_eq_succ rfl, a.1, Nat.two_pow_pos 32, fun _ => rfl, ?_⟩
  show decodeA w 0 = _
  unfold decodeA
  obtain ⟨-, a0, a1, a2, a3, a4, a5, a6, a7⟩ := a
  simp only [a0, a1, a2, a3, a4, a5, a6, a7]
  rfl

theorem movs (qp sd special : Nat) : Statement (.movs qp sd special) := by
  intro wf y he
  replace wf : (decide (qp < 16) && decide (sd < 32) && decide (special < 256) && (decide (special < 6) || (decide (8 ≤ special) && decide (special ≤ 15)))) = true := wf
  obtain rfl : y = ⟨0, 1207959552 + qp * 2097152 + sd * 65536 + special, 0⟩ := (Option.some.inj he).symm
  obtain ⟨wf, hx0⟩ := (Bool.and_eq_true_iff).mp wf
  simp only [Bool.and_eq_true, decide_eq_true_eq] at wf
  obtain ⟨⟨hqp, hsd⟩, hspecial⟩ := wf
  obtain ⟨w, hw⟩ : ∃ w, w = 1207959552 + qp * 2097152 + sd * 65536 + special := ⟨_, rfl⟩
  have a := word8 (op := 18) (x := 0) w qp sd special hw (by decide) (by decide) hqp hsd hspecial
  rw [← hw]
  refine ⟨Nat.lt_of_sub_eq_succ rfl, a.1, Nat.two_pow_pos 32, fun _ => rfl, ?_⟩
  show decodeA w 0 = _
  unfold decodeA
  obtain ⟨-, a0, a1, a2, a3, a4, a5⟩ := a
  simp only [a0, a1, a2, a3, a4, a5, hx0]
  rfl

theorem br (qp disp21 : Nat) : Statement (.br qp disp21) := by
  intro wf y he
  replace wf : (decide (qp < 16) && decide (disp21 < 2097152)) = true := wf
  obtain rfl : y = ⟨1, 0 + qp * 2097152 + disp21, 0⟩ := (Option.some.inj he).symm
  simp only [Bool.and_eq_true, decide_eq_true_eq] at wf
  obtain ⟨hqp, hdisp21⟩ := wf
  obtain ⟨w, hw⟩ : ∃ w, w = 0 + qp * 2097152 + disp21 := ⟨_, rfl⟩
  have a := word9 (op := 0) (x := 0) w qp disp21 hw (by decide) (by decide) hqp hdisp21
  rw [← hw]
  refine ⟨Nat.lt_of_sub_eq_succ rfl, a.1, Nat.two_pow_pos 32, fun _ => rfl, ?_⟩
  show decodeB w 0 = _
  unfold decodeB
  obtain ⟨-, a0, a1, a2, a3⟩ := a
  simp only [a0, a1, a2, a3]
  rfl

theorem brExt (qp disp21 ext : Nat) : Statement (.brExt qp disp21 ext) := by
  intro wf y he
  replace wf : (decide (qp < 16) && decide (disp21 < 2097152) && decide (ext < 4294967296)) = true := wf
  obtain rfl : y = ⟨1, 33554432 + qp * 2097152 + disp21, ext⟩ := (Option.some.inj he).symm
  simp only [Bool.and_eq_true, decide_eq_true_eq] at wf
  obtain ⟨⟨hqp, hdisp21⟩, hext⟩ := wf
  obtain ⟨w, hw⟩ : ∃ w, w = 33554432 + qp * 2097152 + disp21 := ⟨_, rfl⟩
  have a := word9 (op := 0) (x := 1) w qp disp21 hw (by decide) (by decide) hqp hdisp21
  rw [← hw]
  have b := ext0 ext ext rfl hext
  refine ⟨Nat.lt_of_sub_eq_succ rfl, a.1, b.1, fun z => absurd (a.2.2.1.symm.trans z) (by decide), ?_⟩
  show decodeB w ext = _
  unfold decodeB
  obtain ⟨-, a0, a1, a2, a3⟩ := a
  obtain ⟨-, b0⟩ := b
  simp only [a0, a1, a2, a3, b0]
  rfl

theorem call (qp disp21 : Nat) : Statement (.call qp disp21) := by
  intro wf y he
  replace wf : (decide (qp < 16) && decide (disp21 < 2097152)) = true := wf
  obtain rfl : y = ⟨1, 67108864 + qp * 2097152 + disp21, 0⟩ := (Option.some.inj he).symm
  simp only [Bool.and_eq_true, decide_eq_true_eq] at wf
  obtain ⟨hqp, hdisp21⟩ := wf
  obtain ⟨w, hw⟩ : ∃ w, w = 67108864 + qp * 2097152 + disp21 := ⟨_, rfl⟩
  have a := word9 (op := 1) (x := 0) w qp disp21 hw (by decide) (by decide) hqp hdisp21
  rw [← hw]
  refine ⟨Nat.lt_of_sub_eq_succ rfl, a.1, Nat.two_pow_pos 32, fun _ => rfl, ?_⟩
  show decodeB w 0 = _
  unfold decodeB
  obtain ⟨-, a0, a1, a2, a3⟩ := a
  simp only [a0, a1, a2, a3]
  rfl

theorem callExt (qp disp21 ext : Nat) : Statement (.callExt qp disp21 ext) := by
  intro wf y he
  replace wf : (decide (qp < 16) && decide (disp21 < 2097152) && decide (ext < 4294967296)) = true := wf
  obtain rfl : y = ⟨1, 100663296 + qp * 2097152 + disp21, ext⟩ := (Option.some.inj he).symm
  simp only [Bool.and_eq_true, decide_eq_true_eq] at wf
  obtain ⟨⟨hqp, hdisp21⟩, hext⟩ := wf
  obtain ⟨w, hw⟩ : ∃ w, w = 100663296 + qp * 2097152 + disp21 := ⟨_, rfl⟩
  have a := word9 (op := 1) (x := 1) w qp disp21 hw (by decide) (by decide) hqp hdisp21
  rw [← hw]
  have b := ext0 ext ext rfl hext
  refine ⟨Nat.lt_of_sub_eq_succ rfl, a.1, b.1, fun z => absurd (a.2.2.1.symm.trans z) (by decide), ?_⟩
  show decodeB w ext = _
  unfold decodeB
  obtain ⟨-, a0, a1, a2, a3⟩ := a
  obtain ⟨-, b0⟩ := b
  simp only [a0, a1, a2, a3, b0]
  rfl

theorem brs (qp sa : Nat) : Statement (.brs qp sa) := by
  intro wf y he
  replace wf : (decide (qp < 16) && decide (sa < 32)) = true := wf
  obtain rfl : y = ⟨1, 134217728 + qp * 2097152 + sa * 65536, 0⟩ := (Option.some.inj he).symm
  simp only [Bool.and_eq_true, decide_eq_true_eq] at wf
  obtain ⟨hqp, hsa⟩ := wf
  obtain ⟨w, hw⟩ : ∃ w, w = 134217728 + qp * 2097152 + sa * 65536 := ⟨_, rfl⟩
  have a := word10 (op := 2) (x := 0) w qp sa hw (by decide) (by decide) hqp hsa
  rw [← hw]
  refine ⟨Nat.lt_of_sub_eq_succ rfl, a.1, Nat.two_pow_pos 32, fun _ => rfl, ?_⟩
  show decodeB w 0 = _
  unfold decodeB
  obtain ⟨-, a0, a1, a2, a3, a4⟩ := a
  simp only [a0, a1, a2, a3, a4]
  rfl

theorem calls (qp sa : Nat) : Statement (.calls qp sa) := by
  intro wf y he
  replace wf : (decide (qp < 16) && decide (sa < 32)) = true := wf
  obtain rfl : y = ⟨1, 201326592 + qp * 2097152 + sa * 65536, 0⟩ := (Option.some.inj he).symm
  simp only [Bool.and_eq_true, decide_eq_true_eq] at wf
  obtain ⟨hqp, hsa⟩ := wf
  obtain ⟨w, hw⟩ : ∃ w, w = 201326592 + qp * 2097152 + sa * 65536 := ⟨_, rfl⟩
  have a := word10 (op := 3) (x := 0) w qp sa hw (by decide) (by decide) hqp hsa
  rw [← hw]
  refine ⟨Nat.lt_of_sub_eq_succ rfl, a.1, Nat.two_pow_pos 32, fun _ => rfl, ?_⟩
  show decodeB w 0 = _
  unfold decodeB
  obtain ⟨-, a0, a1, a2, a3, a4⟩ := a
  simp only [a0, a1, a2, a3, a4]
  rfl

theorem loop (qp sa len : Nat) : Statement (.loop qp sa len) := by
  intro wf y he
  replace wf : (decide (qp < 16) && decide (sa < 32) && decide (len < 2048)) = true := wf
  obtain rfl : y = ⟨1, 268435456 + qp * 2097152 + sa * 65536 + len, 0⟩ := (Option.some.inj he).symm
  simp only [Bool.and_eq_true, decide_eq_true_eq] at wf
  obtain ⟨⟨hqp, hsa⟩, hlen⟩ := wf
  obtain ⟨w, hw⟩ : ∃ w, w = 268435456 + qp * 2097152 + sa * 65536 + len := ⟨_, rfl⟩
  have a := word11 (op := 4) (x := 0) w qp sa len hw (by decide) (by decide) hqp hsa hlen
  rw [← hw]
  refine ⟨Nat.lt_of_sub_eq_succ rfl, a.1, Nat.two_pow_pos 32, fun _ => rfl, ?_⟩
  show decodeB w 0 = _
  unfold decodeB
  obtain ⟨-, a0, a1, a2, a3, a4, a5⟩ := a
  simp only [a0, a1, a2, a3, a4, a5]
  rfl

theorem loopi (qp cnt10 len : Nat) : Statement (.loopi qp cnt10 len) := by
  intro wf y he
  replace wf : (decide (qp < 16) && decide (cnt10 < 1024) && decide (len < 2048)) = true := wf
  obtain rfl : y = ⟨1, 335544320 + qp * 2097152 + cnt10 * 2048 + len, 0⟩ := (Option.some.inj he).symm
  simp only [Bool.and_eq_true, decide_eq_true_eq] at wf
  obtain ⟨⟨hqp, hcnt10⟩, hlen⟩ := wf
  obtain ⟨w, hw⟩ : ∃ w, w = 335544320 + qp * 2097152 + cnt10 * 2048 + len := ⟨_, rfl⟩
  have a := word12 (op := 5) (x := 0) w qp cnt10 len hw (by decide) (by decide) hqp hcnt10 hlen
  rw [← hw]
  refine ⟨Nat.lt_of_sub_eq_succ rfl, a.1, Nat.two_pow_pos 32, fun _ => rfl, ?_⟩
  show decodeB w 0 = _
  unfold decodeB
  obtain ⟨-, a0, a1, a2, a3, a4⟩ := a
  simp only [a0, a1, a2, a3, a4]
  rfl

theorem loopiExt (qp cnt10 len ext : Nat) : Statement (.loopiExt qp cnt10 len ext) := by
  intro wf y he
  replace wf : (decide (qp < 16) && decide (cnt10 < 1024) && decide (len < 2048) && decide (ext < 4294967296)) = true := wf
  obtain rfl : y = ⟨1, 369098752 + qp * 2097152 + cnt10 * 2048 + len, ext⟩ := (Option.some.inj he).symm
  simp only [Bool.and_eq_true, decide_eq_true_eq] at wf
  obtain ⟨⟨⟨hqp, hcnt10⟩, hlen⟩, hext⟩ := wf
  obtain ⟨w, hw⟩ : ∃ w, w = 369098752 + qp * 2097152 + cnt10 * 2048 + len := ⟨_, rfl⟩
  have a := word12 (op := 5) (x := 1) w qp cnt10 len hw (by decide) (by decide) hqp hcnt10 hlen
  rw [← hw]
  have b := ext0 ext ext rfl hext
  refine ⟨Nat.lt_of_sub_eq_succ rfl, a.1, b.1, fun z => absurd (a.2.2.1.symm.trans z) (by decide), ?_⟩
  show decodeB w ext = _
  unfold decodeB
  obtain ⟨-, a0, a1, a2, a3, a4⟩ := a
  obtain ⟨-, b0⟩ := b
  simp only [a0, a1, a2, a3, a4, b0]
  rfl

theorem loopr (qp sa epi len : Nat) : Statement (.loopr qp sa epi len) := by
  intro wf y he
  replace wf : (decide (qp < 16) && decide (sa < 32) && decide (epi < 16) && decide (len < 4096)) = true := wf
  obtain rfl : y = ⟨1, 402653184 + qp * 2097152 + sa * 65536 + epi * 4096 + len, 0⟩ := (Option.some.inj he).symm
  simp only [Bool.and_eq_true, decide_eq_true_eq] at wf
  obtain ⟨⟨⟨hqp, hsa⟩, hepi⟩, hlen⟩ := wf
  obtain ⟨w, hw⟩ : ∃ w, w = 402653184 + qp * 2097152 + sa * 65536 + epi * 4096 + len := ⟨_, rfl⟩
  have a := word13 (op := 6) (x := 0) w qp sa epi len hw (by decide) (by decide) hqp hsa hepi hlen
  rw [← hw]
  refine ⟨Nat.lt_of_sub_eq_succ rfl, a.1, Nat.two_pow_pos 32, fun _ => rfl, ?_⟩
  show decodeB w 0 = _
  unfold decodeB
  obtain ⟨-, a0, a1, a2, a3, a4, a5⟩ := a
  simp only [a0, a1, a2, a3, a4, a5]
  rfl

theorem lbreak (qp : Nat) : Statement (.lbreak qp) := by
  intro wf y he
  replace wf : (decide (qp < 16)) = true := wf
  obtain rfl : y = ⟨1, 469762048 + qp * 2097152, 0⟩ := (Option.some.inj he).symm
  replace wf := of_decide_eq_true wf
  have hqp := wf
  obtain ⟨w, hw⟩ : ∃ w, w = 469762048 + qp * 2097152 := ⟨_, rfl⟩
  have a := word14 (op := 7) (x := 0) w qp hw (by decide) (by decide) hqp
  rw [← hw]
  refine ⟨Nat.lt_of_sub_eq_succ rfl, a.1, Nat.two_pow_pos 32, fun _ => rfl, ?_⟩
  show decodeB w 0 = _
  unfold decodeB
  obtain ⟨-, a0, a1, a2, a3⟩ := a
  simp only [a0, a1, a2, a3]
  rfl

theorem plog (qp qd qa qb fn : Nat) : Statement (.plog qp qd qa qb fn) := by
  intro wf y he
  replace wf : (decide (qp < 16) && decide (qd < 16) && decide (qa < 16) && decide (qb < 16) && decide (fn < 8) && (decide (fn < 5) || (decide (qb = 0) && (decide (fn = 5) || decide (qa = 0))))) = true := wf
  obtain rfl : y = ⟨1, 536870912 + qp * 2097152 + qd * 131072 + qa * 8192 + qb * 512 + fn, 0⟩ := (Option.some.inj he).symm
  obtain ⟨wf, hx0⟩ := (Bool.and_eq_true_iff).mp wf
  simp only [Bool.and_eq_true, decide_eq_true_eq] at wf
  obtain ⟨⟨⟨⟨hqp, hqd⟩, hqa⟩, hqb⟩, hfn⟩ := wf
  obtain ⟨w, hw⟩ : ∃ w, w = 536870912 + qp * 2097152 + qd * 131072 + qa * 8192 + qb * 512 + fn := ⟨_, rfl⟩
  have a := word15 (op := 8) (x := 0) w qp qd qa qb fn hw (by decide) (by decide) hqp hqd hqa hqb hfn
  rw [← hw]
  refine ⟨Nat.lt_of_sub_eq_succ rfl, a.1, Nat.two_pow_pos 32, fun _ => rfl, ?_⟩
  show decodeB w 0 = _
  unfold decodeB
  obtain ⟨-, a0, a1, a2, a3, a4, a5, a6, a7⟩ := a
  simp only [a0, a1, a2, a3, a4, a5, a6, a7, hx0]
  rfl

theorem fmtset (qp sa : Nat) : Statement (.fmtset qp sa) := by
  intro wf y he
  replace wf : (decide (qp < 16) && decide (sa < 32)) = true := wf
  obtain rfl : y = ⟨1, 603979776 + qp * 2097152 + sa * 65536, 0⟩ := (Option.some.inj he).symm
  simp only [Bool.and_eq_true, decide_eq_true_eq] at wf
  obtain ⟨hqp, hsa⟩ := wf
  obtain ⟨w, hw⟩ : ∃ w, w = 603979776 + qp * 2097152 + sa * 65536 := ⟨_, rfl⟩
  have a := word10 (op := 9) (x := 0) w qp sa hw (by decide) (by decide) hqp hsa
  rw [← hw]
  refine ⟨Nat.lt_of_sub_eq_succ rfl, a.1, Nat.two_pow_pos 32, fun _ => rfl, ?_⟩
  show decodeB w 0 = _
  unfold decodeB
  obtain ⟨-, a0, a1, a2, a3, a4⟩ := a
  simp only [a0, a1, a2, a3, a4]
  rfl

theorem fmtseti (qp fmt : Nat) : Statement (.fmtseti qp fmt) := by
  intro wf y he
  replace wf : (decide (qp < 16) && decide (fmt < 4294967296)) = true := wf
  obtain rfl : y = ⟨1, 704643072 + qp * 2097152, fmt⟩ := (Option.some.inj he).symm
  simp only [Bool.and_eq_true, decide_eq_true_eq] at wf
  obtain ⟨hqp, hfmt⟩ := wf
  obtain ⟨w, hw⟩ : ∃ w, w = 704643072 + qp * 2097152 := ⟨_, rfl⟩
  have a := word14 (op := 10) (x := 1) w qp hw (by decide) (by decide) hqp
  rw [← hw]
  have b := ext0 fmt fmt rfl hfmt
  refine ⟨Nat.lt_of_sub_eq_succ rfl, a.1, b.1, fun z => absurd (a.2.2.1.symm.trans z) (by decide), ?_⟩
  show decodeB w fmt = _
  unfold decodeB
  obtain ⟨-, a0, a1, a2, a3⟩ := a
  obtain ⟨-, b0⟩ := b
  simp only [a0, a1, a2, a3, b0]
  rfl

theorem semwait (qp e n : Nat) : Statement (.semwait qp e n) := by
  intro wf y he
  replace wf : (decide (qp < 16) && decide (e < 16) && decide (n < 256) && decide (e ≠ 0) && decide (n ≠ 0)) = true := wf
  obtain rfl : y = ⟨1, 738197504 + qp * 2097152 + e * 131072 + n * 512, 0⟩ := (Option.some.inj he).symm
  obtain ⟨wf, hx1⟩ := (Bool.and_eq_true_iff).mp wf
  obtain ⟨wf, hx0⟩ := (Bool.and_eq_true_iff).mp wf
  simp only [Bool.and_eq_true, decide_eq_true_eq] at wf
  obtain ⟨⟨hqp, he⟩, hn⟩ := wf
  obtain ⟨w, hw⟩ : ∃ w, w = 738197504 + qp * 2097152 + e * 131072 + n * 512 := ⟨_, rfl⟩
  have a := word16 (op := 11) (x := 0) w qp e n hw (by decide) (by decide) hqp he hn
  rw [← hw]
  refine ⟨Nat.lt_of_sub_eq_succ rfl, a.1, Nat.two_pow_pos 32, fun _ => rfl, ?_⟩
  show decodeB w 0 = _
  unfold decodeB
  obtain ⟨-, a0, a1, a2, a3, a4, a5⟩ := a
  simp only [a0, a1, a2, a3, a4, a5, hx0, hx1]
  rfl

theorem semsig (qp e n : Nat) : Statement (.semsig qp e n) := by
  intro wf y he
  replace wf : (decide (qp < 16) && decide (e < 16) && decide (n < 256) && decide (e ≠ 0) && decide (n ≠ 0)) = true := wf
  obtain rfl : y = ⟨1, 805306368 + qp * 2097152 + e * 131072 + n * 512, 0⟩ := (Option.some.inj he).symm
  obtain ⟨wf, hx1⟩ := (Bool.and_eq_true_iff).mp wf
  obtain ⟨wf, hx0⟩ := (Bool.and_eq_true_iff).mp wf
  simp only [Bool.and_eq_true, decide_eq_true_eq] at wf
  obtain ⟨⟨hqp, he⟩, hn⟩ := wf
  obtain ⟨w, hw⟩ : ∃ w, w = 805306368 + qp * 2097152 + e * 131072 + n * 512 := ⟨_, rfl⟩
  have a := word16 (op := 12) (x := 0) w qp e n hw (by decide) (by decide) hqp he hn
  rw [← hw]
  refine ⟨Nat.lt_of_sub_eq_succ rfl, a.1, Nat.two_pow_pos 32, fun _ => rfl, ?_⟩
  show decodeB w 0 = _
  unfold decodeB
  obtain ⟨-, a0, a1, a2, a3, a4, a5⟩ := a
  simp only [a0, a1, a2, a3, a4, a5, hx0, hx1]
  rfl

theorem waitc (qp h g sa : Nat) : Statement (.waitc qp h g sa) := by
  intro wf y he
  replace wf : (decide (qp < 16) && decide (h < 16) && decide (g < 8) && decide (sa < 32)) = true := wf
  obtain rfl : y = ⟨1, 872415232 + qp * 2097152 + h * 131072 + g * 16384 + sa * 512, 0⟩ := (Option.some.inj he).symm
  simp only [Bool.and_eq_true, decide_eq_true_eq] at wf
  obtain ⟨⟨⟨hqp, hh⟩, hg⟩, hsa⟩ := wf
  obtain ⟨w, hw⟩ : ∃ w, w = 872415232 + qp * 2097152 + h * 131072 + g * 16384 + sa * 512 := ⟨_, rfl⟩
  have a := word17 (op := 13) (x := 0) w qp h g sa hw (by decide) (by decide) hqp hh hg hsa
  rw [← hw]
  refine ⟨Nat.lt_of_sub_eq_succ rfl, a.1, Nat.two_pow_pos 32, fun _ => rfl, ?_⟩
  show decodeB w 0 = _
  unfold decodeB
  obtain ⟨-, a0, a1, a2, a3, a4, a5, a6⟩ := a
  simp only [a0, a1, a2, a3, a4, a5, a6]
  rfl

theorem ctrwait (qp c sa : Nat) : Statement (.ctrwait qp c sa) := by
  intro wf y he
  replace wf : (decide (qp < 16) && decide (c < 64) && decide (sa < 32)) = true := wf
  obtain rfl : y = ⟨1, 939524096 + qp * 2097152 + c * 32768 + sa * 1024, 0⟩ := (Option.some.inj he).symm
  simp only [Bool.and_eq_true, decide_eq_true_eq] at wf
  obtain ⟨⟨hqp, hc⟩, hsa⟩ := wf
  obtain ⟨w, hw⟩ : ∃ w, w = 939524096 + qp * 2097152 + c * 32768 + sa * 1024 := ⟨_, rfl⟩
  have a := word18 (op := 14) (x := 0) w qp c sa hw (by decide) (by decide) hqp hc hsa
  rw [← hw]
  refine ⟨Nat.lt_of_sub_eq_succ rfl, a.1, Nat.two_pow_pos 32, fun _ => rfl, ?_⟩
  show decodeB w 0 = _
  unfold decodeB
  obtain ⟨-, a0, a1, a2, a3, a4, a5⟩ := a
  simp only [a0, a1, a2, a3, a4, a5]
  rfl

theorem tfence (qp : Nat) : Statement (.tfence qp) := by
  intro wf y he
  replace wf : (decide (qp < 16)) = true := wf
  obtain rfl : y = ⟨1, 1006632960 + qp * 2097152, 0⟩ := (Option.some.inj he).symm
  replace wf := of_decide_eq_true wf
  have hqp := wf
  obtain ⟨w, hw⟩ : ∃ w, w = 1006632960 + qp * 2097152 := ⟨_, rfl⟩
  have a := word14 (op := 15) (x := 0) w qp hw (by decide) (by decide) hqp
  rw [← hw]
  refine ⟨Nat.lt_of_sub_eq_succ rfl, a.1, Nat.two_pow_pos 32, fun _ => rfl, ?_⟩
  show decodeB w 0 = _
  unfold decodeB
  obtain ⟨-, a0, a1, a2, a3⟩ := a
  simp only [a0, a1, a2, a3]
  rfl

theorem fence (qp sd scope : Nat) : Statement (.fence qp sd scope) := by
  intro wf y he
  replace wf : (decide (qp < 16) && decide (sd < 32) && decide (scope < 8) && decide (scope ≤ 4)) = true := wf
  obtain rfl : y = ⟨1, 1073741824 + qp * 2097152 + sd * 65536 + scope * 8192, 0⟩ := (Option.some.inj he).symm
  obtain ⟨wf, hx0⟩ := (Bool.and_eq_true_iff).mp wf
  simp only [Bool.and_eq_true, decide_eq_true_eq] at wf
  obtain ⟨⟨hqp, hsd⟩, hscope⟩ := wf
  obtain ⟨w, hw⟩ : ∃ w, w = 1073741824 + qp * 2097152 + sd * 65536 + scope * 8192 := ⟨_, rfl⟩
  have a := word19 (op := 16) (x := 0) w qp sd scope hw (by decide) (by decide) hqp hsd hscope
  rw [← hw]
  refine ⟨Nat.lt_of_sub_eq_succ rfl, a.1, Nat.two_pow_pos 32, fun _ => rfl, ?_⟩
  show decodeB w 0 = _
  unfold decodeB
  obtain ⟨-, a0, a1, a2, a3, a4, a5⟩ := a
  simp only [a0, a1, a2, a3, a4, a5, hx0]
  rfl

theorem taskend (qp : Nat) : Statement (.taskend qp) := by
  intro wf y he
  replace wf : (decide (qp < 16)) = true := wf
  obtain rfl : y = ⟨1, 1140850688 + qp * 2097152, 0⟩ := (Option.some.inj he).symm
  replace wf := of_decide_eq_true wf
  have hqp := wf
  obtain ⟨w, hw⟩ : ∃ w, w = 1140850688 + qp * 2097152 := ⟨_, rfl⟩
  have a := word14 (op := 17) (x := 0) w qp hw (by decide) (by decide) hqp
  rw [← hw]
  refine ⟨Nat.lt_of_sub_eq_succ rfl, a.1, Nat.two_pow_pos 32, fun _ => rfl, ?_⟩
  show decodeB w 0 = _
  unfold decodeB
  obtain ⟨-, a0, a1, a2, a3⟩ := a
  simp only [a0, a1, a2, a3]
  rfl

theorem spawn (qp f sa e : Nat) : Statement (.spawn qp f sa e) := by
  intro wf y he
  replace wf : (decide (qp < 16) && decide (f < 16) && decide (sa < 32) && decide (e < 16)) = true := wf
  obtain rfl : y = ⟨1, 1207959552 + qp * 2097152 + f * 131072 + sa * 4096 + e * 256, 0⟩ := (Option.some.inj he).symm
  simp only [Bool.and_eq_true, decide_eq_true_eq] at wf
  obtain ⟨⟨⟨hqp, hf⟩, hsa⟩, he⟩ := wf
  obtain ⟨w, hw⟩ : ∃ w, w = 1207959552 + qp * 2097152 + f * 131072 + sa * 4096 + e * 256 := ⟨_, rfl⟩
  have a := word20 (op := 18) (x := 0) w qp f sa e hw (by decide) (by decide) hqp hf hsa he
  rw [← hw]
  refine ⟨Nat.lt_of_sub_eq_succ rfl, a.1, Nat.two_pow_pos 32, fun _ => rfl, ?_⟩
  show decodeB w 0 = _
  unfold decodeB
  obtain ⟨-, a0, a1, a2, a3, a4, a5, a6⟩ := a
  simp only [a0, a1, a2, a3, a4, a5, a6]
  rfl

theorem spawnOverlap (qp f sa e ov : Nat) : Statement (.spawnOverlap qp f sa e ov) := by
  intro wf y he
  replace wf : (decide (qp < 16) && decide (f < 16) && decide (sa < 32) && decide (e < 16) && decide (ov < 2)) = true := wf
  obtain rfl : y = ⟨1, 1241513984 + qp * 2097152 + f * 131072 + sa * 4096 + e * 256, ov⟩ := (Option.some.inj he).symm
  simp only [Bool.and_eq_true, decide_eq_true_eq] at wf
  obtain ⟨⟨⟨⟨hqp, hf⟩, hsa⟩, he⟩, hov⟩ := wf
  obtain ⟨w, hw⟩ : ∃ w, w = 1241513984 + qp * 2097152 + f * 131072 + sa * 4096 + e * 256 := ⟨_, rfl⟩
  have a := word20 (op := 18) (x := 1) w qp f sa e hw (by decide) (by decide) hqp hf hsa he
  rw [← hw]
  have b := ext2 ov ov rfl hov
  refine ⟨Nat.lt_of_sub_eq_succ rfl, a.1, b.1, fun z => absurd (a.2.2.1.symm.trans z) (by decide), ?_⟩
  show decodeB w ov = _
  unfold decodeB
  obtain ⟨-, a0, a1, a2, a3, a4, a5, a6⟩ := a
  obtain ⟨-, b0, b1⟩ := b
  simp only [a0, a1, a2, a3, a4, a5, a6, b0, b1]
  rfl

theorem yield (qp : Nat) : Statement (.yield qp) := by
  intro wf y he
  replace wf : (decide (qp < 16)) = true := wf
  obtain rfl : y = ⟨1, 1275068416 + qp * 2097152, 0⟩ := (Option.some.inj he).symm
  replace wf := of_decide_eq_true wf
  have hqp := wf
  obtain ⟨w, hw⟩ : ∃ w, w = 1275068416 + qp * 2097152 := ⟨_, rfl⟩
  have a := word14 (op := 19) (x := 0) w qp hw (by decide) (by decide) hqp
  rw [← hw]
  refine ⟨Nat.lt_of_sub_eq_succ rfl, a.1, Nat.two_pow_pos 32, fun _ => rfl, ?_⟩
  show decodeB w 0 = _
  unfold decodeB
  obtain ⟨-, a0, a1, a2, a3⟩ := a
  simp only [a0, a1, a2, a3]
  rfl

theorem statpop (qp sd sd2 : Nat) : Statement (.statpop qp sd sd2) := by
  intro wf y he
  replace wf : (decide (qp < 16) && decide (sd < 32) && decide (sd2 < 32)) = true := wf
  obtain rfl : y = ⟨1, 1342177280 + qp * 2097152 + sd * 65536 + sd2 * 2048, 0⟩ := (Option.some.inj he).symm
  simp only [Bool.and_eq_true, decide_eq_true_eq] at wf
  obtain ⟨⟨hqp, hsd⟩, hsd2⟩ := wf
  obtain ⟨w, hw⟩ : ∃ w, w = 1342177280 + qp * 2097152 + sd * 65536 + sd2 * 2048 := ⟨_, rfl⟩
  have a := word6 (op := 20) (x := 0) w qp sd sd2 hw (by decide) (by decide) hqp hsd hsd2
  rw [← hw]
  refine ⟨Nat.lt_of_sub_eq_succ rfl, a.1, Nat.two_pow_pos 32, fun _ => rfl, ?_⟩
  show decodeB w 0 = _
  unfold decodeB
  obtain ⟨-, a0, a1, a2, a3, a4, a5⟩ := a
  simp only [a0, a1, a2, a3, a4, a5]
  rfl

theorem trap (qp imm16 : Nat) : Statement (.trap qp imm16) := by
  intro wf y he
  replace wf : (decide (qp < 16) && decide (imm16 < 65536)) = true := wf
  obtain rfl : y = ⟨1, 2147483648 + qp * 2097152 + imm16, 0⟩ := (Option.some.inj he).symm
  simp only [Bool.and_eq_true, decide_eq_true_eq] at wf
  obtain ⟨hqp, himm16⟩ := wf
  obtain ⟨w, hw⟩ : ∃ w, w = 2147483648 + qp * 2097152 + imm16 := ⟨_, rfl⟩
  have a := word21 (op := 32) (x := 0) w qp imm16 hw (by decide) (by decide) hqp himm16
  rw [← hw]
  refine ⟨Nat.lt_of_sub_eq_succ rfl, a.1, Nat.two_pow_pos 32, fun _ => rfl, ?_⟩
  show decodeB w 0 = _
  unfold decodeB
  obtain ⟨-, a0, a1, a2, a3, a4⟩ := a
  simp only [a0, a1, a2, a3, a4]
  rfl

theorem eret (qp : Nat) : Statement (.eret qp) := by
  intro wf y he
  replace wf : (decide (qp < 16)) = true := wf
  obtain rfl : y = ⟨1, 2214592512 + qp * 2097152, 0⟩ := (Option.some.inj he).symm
  replace wf := of_decide_eq_true wf
  have hqp := wf
  obtain ⟨w, hw⟩ : ∃ w, w = 2214592512 + qp * 2097152 := ⟨_, rfl⟩
  have a := word14 (op := 33) (x := 0) w qp hw (by decide) (by decide) hqp
  rw [← hw]
  refine ⟨Nat.lt_of_sub_eq_succ rfl, a.1, Nat.two_pow_pos 32, fun _ => rfl, ?_⟩
  show decodeB w 0 = _
  unfold decodeB
  obtain ⟨-, a0, a1, a2, a3⟩ := a
  simp only [a0, a1, a2, a3]
  rfl

theorem csrr (qp sd sa csr : Nat) : Statement (.csrr qp sd sa csr) := by
  intro wf y he
  replace wf : (decide (qp < 16) && decide (sd < 32) && decide (sa < 32) && decide (csr < 2048)) = true := wf
  obtain rfl : y = ⟨1, 2281701376 + qp * 2097152 + sd * 65536 + sa * 2048 + csr, 0⟩ := (Option.some.inj he).symm
  simp only [Bool.and_eq_true, decide_eq_true_eq] at wf
  obtain ⟨⟨⟨hqp, hsd⟩, hsa⟩, hcsr⟩ := wf
  obtain ⟨w, hw⟩ : ∃ w, w = 2281701376 + qp * 2097152 + sd * 65536 + sa * 2048 + csr := ⟨_, rfl⟩
  have a := word2 (op := 34) (x := 0) w qp sd sa csr hw (by decide) (by decide) hqp hsd hsa hcsr
  rw [← hw]
  refine ⟨Nat.lt_of_sub_eq_succ rfl, a.1, Nat.two_pow_pos 32, fun _ => rfl, ?_⟩
  show decodeB w 0 = _
  unfold decodeB
  obtain ⟨-, a0, a1, a2, a3, a4, a5⟩ := a
  simp only [a0, a1, a2, a3, a4, a5]
  rfl

theorem csrw (qp sa sb csr : Nat) : Statement (.csrw qp sa sb csr) := by
  intro wf y he
  replace wf : (decide (qp < 16) && decide (sa < 32) && decide (sb < 32) && decide (csr < 2048)) = true := wf
  obtain rfl : y = ⟨1, 2348810240 + qp * 2097152 + sa * 65536 + sb * 2048 + csr, 0⟩ := (Option.some.inj he).symm
  simp only [Bool.and_eq_true, decide_eq_true_eq] at wf
  obtain ⟨⟨⟨hqp, hsa⟩, hsb⟩, hcsr⟩ := wf
  obtain ⟨w, hw⟩ : ∃ w, w = 2348810240 + qp * 2097152 + sa * 65536 + sb * 2048 + csr := ⟨_, rfl⟩
  have a := word2 (op := 35) (x := 0) w qp sa sb csr hw (by decide) (by decide) hqp hsa hsb hcsr
  rw [← hw]
  refine ⟨Nat.lt_of_sub_eq_succ rfl, a.1, Nat.two_pow_pos 32, fun _ => rfl, ?_⟩
  show decodeB w 0 = _
  unfold decodeB
  obtain ⟨-, a0, a1, a2, a3, a4, a5⟩ := a
  simp only [a0, a1, a2, a3, a4, a5]
  rfl

theorem jobres (qp sa : Nat) : Statement (.jobres qp sa) := by
  intro wf y he
  replace wf : (decide (qp < 16) && decide (sa < 32)) = true := wf
  obtain rfl : y = ⟨1, 2415919104 + qp * 2097152 + sa * 65536, 0⟩ := (Option.some.inj he).symm
  simp only [Bool.and_eq_true, decide_eq_true_eq] at wf
  obtain ⟨hqp, hsa⟩ := wf
  obtain ⟨w, hw⟩ : ∃ w, w = 2415919104 + qp * 2097152 + sa * 65536 := ⟨_, rfl⟩
  have a := word10 (op := 36) (x := 0) w qp sa hw (by decide) (by decide) hqp hsa
  rw [← hw]
  refine ⟨Nat.lt_of_sub_eq_succ rfl, a.1, Nat.two_pow_pos 32, fun _ => rfl, ?_⟩
  show decodeB w 0 = _
  unfold decodeB
  obtain ⟨-, a0, a1, a2, a3, a4⟩ := a
  simp only [a0, a1, a2, a3, a4]
  rfl

theorem iflush (qp : Nat) : Statement (.iflush qp) := by
  intro wf y he
  replace wf : (decide (qp < 16)) = true := wf
  obtain rfl : y = ⟨1, 2483027968 + qp * 2097152, 0⟩ := (Option.some.inj he).symm
  replace wf := of_decide_eq_true wf
  have hqp := wf
  obtain ⟨w, hw⟩ : ∃ w, w = 2483027968 + qp * 2097152 := ⟨_, rfl⟩
  have a := word14 (op := 37) (x := 0) w qp hw (by decide) (by decide) hqp
  rw [← hw]
  refine ⟨Nat.lt_of_sub_eq_succ rfl, a.1, Nat.two_pow_pos 32, fun _ => rfl, ?_⟩
  show decodeB w 0 = _
  unfold decodeB
  obtain ⟨-, a0, a1, a2, a3⟩ := a
  simp only [a0, a1, a2, a3]
  rfl

theorem capopDerive (qp sd sa sb rights : Nat) : Statement (.capopDerive qp sd sa sb rights) := by
  intro wf y he
  replace wf : (decide (qp < 16) && decide (sd < 32) && decide (sa < 32) && decide (sb < 32) && decide (rights < 64)) = true := wf
  obtain rfl : y = ⟨1, 2583691264 + qp * 2097152 + sd * 65536 + sa * 2048 + sb * 64, rights⟩ := (Option.some.inj he).symm
  simp only [Bool.and_eq_true, decide_eq_true_eq] at wf
  obtain ⟨⟨⟨⟨hqp, hsd⟩, hsa⟩, hsb⟩, hrights⟩ := wf
  obtain ⟨w, hw⟩ : ∃ w, w = 2583691264 + qp * 2097152 + sd * 65536 + sa * 2048 + sb * 64 := ⟨_, rfl⟩
  have a := word22 (op := 38) (x := 1) (fn := 0) w qp sd sa sb hw (by decide) (by decide) (by decide) hqp hsd hsa hsb
  rw [← hw]
  have b := ext3 rights rights rfl hrights
  refine ⟨Nat.lt_of_sub_eq_succ rfl, a.1, b.1, fun z => absurd (a.2.2.1.symm.trans z) (by decide), ?_⟩
  show decodeB w rights = _
  unfold decodeB
  obtain ⟨-, a0, a1, a2, a3, a4, a5, a6, a7⟩ := a
  obtain ⟨-, b0, b1⟩ := b
  simp only [a0, a1, a2, a3, a4, a5, a6, a7, b0, b1]
  rfl

theorem capopRevoke (qp sd sa sb : Nat) : Statement (.capopRevoke qp sd sa sb) := by
  intro wf y he
  replace wf : (decide (qp < 16) && decide (sd < 32) && decide (sa < 32) && decide (sb < 32)) = true := wf
  obtain rfl : y = ⟨1, 2550136833 + qp * 2097152 + sd * 65536 + sa * 2048 + sb * 64, 0⟩ := (Option.some.inj he).symm
  simp only [Bool.and_eq_true, decide_eq_true_eq] at wf
  obtain ⟨⟨⟨hqp, hsd⟩, hsa⟩, hsb⟩ := wf
  obtain ⟨w, hw⟩ : ∃ w, w = 2550136833 + qp * 2097152 + sd * 65536 + sa * 2048 + sb * 64 := ⟨_, rfl⟩
  have a := word22 (op := 38) (x := 0) (fn := 1) w qp sd sa sb hw (by decide) (by decide) (by decide) hqp hsd hsa hsb
  rw [← hw]
  refine ⟨Nat.lt_of_sub_eq_succ rfl, a.1, Nat.two_pow_pos 32, fun _ => rfl, ?_⟩
  show decodeB w 0 = _
  unfold decodeB
  obtain ⟨-, a0, a1, a2, a3, a4, a5, a6, a7⟩ := a
  simp only [a0, a1, a2, a3, a4, a5, a6, a7]
  rfl

theorem capopInfo (qp sd sa sb : Nat) : Statement (.capopInfo qp sd sa sb) := by
  intro wf y he
  replace wf : (decide (qp < 16) && decide (sd < 32) && decide (sa < 32) && decide (sb < 32)) = true := wf
  obtain rfl : y = ⟨1, 2550136834 + qp * 2097152 + sd * 65536 + sa * 2048 + sb * 64, 0⟩ := (Option.some.inj he).symm
  simp only [Bool.and_eq_true, decide_eq_true_eq] at wf
  obtain ⟨⟨⟨hqp, hsd⟩, hsa⟩, hsb⟩ := wf
  obtain ⟨w, hw⟩ : ∃ w, w = 2550136834 + qp * 2097152 + sd * 65536 + sa * 2048 + sb * 64 := ⟨_, rfl⟩
  have a := word22 (op := 38) (x := 0) (fn := 2) w qp sd sa sb hw (by decide) (by decide) (by decide) hqp hsd hsa hsb
  rw [← hw]
  refine ⟨Nat.lt_of_sub_eq_succ rfl, a.1, Nat.two_pow_pos 32, fun _ => rfl, ?_⟩
  show decodeB w 0 = _
  unfold decodeB
  obtain ⟨-, a0, a1, a2, a3, a4, a5, a6, a7⟩ := a
  simp only [a0, a1, a2, a3, a4, a5, a6, a7]
  rfl

theorem capopFree (qp sd sa sb : Nat) : Statement (.capopFree qp sd sa sb) := by
  intro wf y he
  replace wf : (decide (qp < 16) && decide (sd < 32) && decide (sa < 32) && decide (sb < 32)) = true := wf
  obtain rfl : y = ⟨1, 2550136835 + qp * 2097152 + sd * 65536 + sa * 2048 + sb * 64, 0⟩ := (Option.some.inj he).symm
  simp only [Bool.and_eq_true, decide_eq_true_eq] at wf
  obtain ⟨⟨⟨hqp, hsd⟩, hsa⟩, hsb⟩ := wf
  obtain ⟨w, hw⟩ : ∃ w, w = 2550136835 + qp * 2097152 + sd * 65536 + sa * 2048 + sb * 64 := ⟨_, rfl⟩
  have a := word22 (op := 38) (x := 0) (fn := 3) w qp sd sa sb hw (by decide) (by decide) (by decide) hqp hsd hsa hsb
  rw [← hw]
  refine ⟨Nat.lt_of_sub_eq_succ rfl, a.1, Nat.two_pow_pos 32, fun _ => rfl, ?_⟩
  show decodeB w 0 = _
  unfold decodeB
  obtain ⟨-, a0, a1, a2, a3, a4, a5, a6, a7⟩ := a
  simp only [a0, a1, a2, a3, a4, a5, a6, a7]
  rfl

theorem ctxctlStop (qp sd sa sb : Nat) : Statement (.ctxctlStop qp sd sa sb) := by
  intro wf y he
  replace wf : (decide (qp < 16) && decide (sd < 32) && decide (sa < 32) && decide (sb < 32)) = true := wf
  obtain rfl : y = ⟨1, 2617245696 + qp * 2097152 + sd * 65536 + sa * 2048 + sb * 64, 0⟩ := (Option.some.inj he).symm
  simp only [Bool.and_eq_true, decide_eq_true_eq] at wf
  obtain ⟨⟨⟨hqp, hsd⟩, hsa⟩, hsb⟩ := wf
  obtain ⟨w, hw⟩ : ∃ w, w = 2617245696 + qp * 2097152 + sd * 65536 + sa * 2048 + sb * 64 := ⟨_, rfl⟩
  have a := word23 (op := 39) (x := 0) (fn := 0) w qp sd sa sb hw (by decide) (by decide) (by decide) hqp hsd hsa hsb
  rw [← hw]
  refine ⟨Nat.lt_of_sub_eq_succ rfl, a.1, Nat.two_pow_pos 32, fun _ => rfl, ?_⟩
  show decodeB w 0 = _
  unfold decodeB
  obtain ⟨-, a0, a1, a2, a3, a4, a5, a6, a7⟩ := a
  simp only [a0, a1, a2, a3, a4, a5, a6, a7]
  rfl

theorem ctxctlGo (qp sd sa sb : Nat) : Statement (.ctxctlGo qp sd sa sb) := by
  intro wf y he
  replace wf : (decide (qp < 16) && decide (sd < 32) && decide (sa < 32) && decide (sb < 32)) = true := wf
  obtain rfl : y = ⟨1, 2617245697 + qp * 2097152 + sd * 65536 + sa * 2048 + sb * 64, 0⟩ := (Option.some.inj he).symm
  simp only [Bool.and_eq_true, decide_eq_true_eq] at wf
  obtain ⟨⟨⟨hqp, hsd⟩, hsa⟩, hsb⟩ := wf
  obtain ⟨w, hw⟩ : ∃ w, w = 2617245697 + qp * 2097152 + sd * 65536 + sa * 2048 + sb * 64 := ⟨_, rfl⟩
  have a := word23 (op := 39) (x := 0) (fn := 1) w qp sd sa sb hw (by decide) (by decide) (by decide) hqp hsd hsa hsb
  rw [← hw]
  refine ⟨Nat.lt_of_sub_eq_succ rfl, a.1, Nat.two_pow_pos 32, fun _ => rfl, ?_⟩
  show decodeB w 0 = _
  unfold decodeB
  obtain ⟨-, a0, a1, a2, a3, a4, a5, a6, a7⟩ := a
  simp only [a0, a1, a2, a3, a4, a5, a6, a7]
  rfl

theorem ctxctlKill (qp sd sa sb : Nat) : Statement (.ctxctlKill qp sd sa sb) := by
  intro wf y he
  replace wf : (decide (qp < 16) && decide (sd < 32) && decide (sa < 32) && decide (sb < 32)) = true := wf
  obtain rfl : y = ⟨1, 2617245698 + qp * 2097152 + sd * 65536 + sa * 2048 + sb * 64, 0⟩ := (Option.some.inj he).symm
  simp only [Bool.and_eq_true, decide_eq_true_eq] at wf
  obtain ⟨⟨⟨hqp, hsd⟩, hsa⟩, hsb⟩ := wf
  obtain ⟨w, hw⟩ : ∃ w, w = 2617245698 + qp * 2097152 + sd * 65536 + sa * 2048 + sb * 64 := ⟨_, rfl⟩
  have a := word23 (op := 39) (x := 0) (fn := 2) w qp sd sa sb hw (by decide) (by decide) (by decide) hqp hsd hsa hsb
  rw [← hw]
  refine ⟨Nat.lt_of_sub_eq_succ rfl, a.1, Nat.two_pow_pos 32, fun _ => rfl, ?_⟩
  show decodeB w 0 = _
  unfold decodeB
  obtain ⟨-, a0, a1, a2, a3, a4, a5, a6, a7⟩ := a
  simp only [a0, a1, a2, a3, a4, a5, a6, a7]
  rfl

theorem ctxctlRead (qp sd sa sb off : Nat) : Statement (.ctxctlRead qp sd sa sb off) := by
  intro wf y he
  replace wf : (decide (qp < 16) && decide (sd < 32) && decide (sa < 32) && decide (sb < 32) && decide (off < 65536) && decide (off % 8 = 0) && decide (off ≤ 4088)) = true := wf
  obtain rfl : y = ⟨1, 2650800131 + qp * 2097152 + sd * 65536 + sa * 2048 + sb * 64, off⟩ := (Option.some.inj he).symm
  obtain ⟨wf, hx1⟩ := (Bool.and_eq_true_iff).mp wf
  obtain ⟨wf, hx0⟩ := (Bool.and_eq_true_iff).mp wf
  simp only [Bool.and_eq_true, decide_eq_true_eq] at wf
  obtain ⟨⟨⟨⟨hqp, hsd⟩, hsa⟩, hsb⟩, hoff⟩ := wf
  obtain ⟨w, hw⟩ : ∃ w, w = 2650800131 + qp * 2097152 + sd * 65536 + sa * 2048 + sb * 64 := ⟨_, rfl⟩
  have a := word23 (op := 39) (x := 1) (fn := 3) w qp sd sa sb hw (by decide) (by decide) (by decide) hqp hsd hsa hsb
  rw [← hw]
  have b := ext4 off off rfl hoff
  refine ⟨Nat.lt_of_sub_eq_succ rfl, a.1, b.1, fun z => absurd (a.2.2.1.symm.trans z) (by decide), ?_⟩
  show decodeB w off = _
  unfold decodeB
  obtain ⟨-, a0, a1, a2, a3, a4, a5, a6, a7⟩ := a
  obtain ⟨-, b0, b1⟩ := b
  simp only [a0, a1, a2, a3, a4, a5, a6, a7, b0, b1, hx0, hx1]
  rfl

theorem ctxctlWrite (qp sd sa sb off : Nat) : Statement (.ctxctlWrite qp sd sa sb off) := by
  intro wf y he
  replace wf : (decide (qp < 16) && decide (sd < 32) && decide (sa < 32) && decide (sb < 32) && decide (off < 65536) && decide (off % 8 = 0) && decide (off ≤ 4088)) = true := wf
  obtain rfl : y = ⟨1, 2650800132 + qp * 2097152 + sd * 65536 + sa * 2048 + sb * 64, off⟩ := (Option.some.inj he).symm
  obtain ⟨wf, hx1⟩ := (Bool.and_eq_true_iff).mp wf
  obtain ⟨wf, hx0⟩ := (Bool.and_eq_true_iff).mp wf
  simp only [Bool.and_eq_true, decide_eq_true_eq] at wf
  obtain ⟨⟨⟨⟨hqp, hsd⟩, hsa⟩, hsb⟩, hoff⟩ := wf
  obtain ⟨w, hw⟩ : ∃ w, w = 2650800132 + qp * 2097152 + sd * 65536 + sa * 2048 + sb * 64 := ⟨_, rfl⟩
  have a := word23 (op := 39) (x := 1) (fn := 4) w qp sd sa sb hw (by decide) (by decide) (by decide) hqp hsd hsa hsb
  rw [← hw]
  have b := ext4 off off rfl hoff
  refine ⟨Nat.lt_of_sub_eq_succ rfl, a.1, b.1, fun z => absurd (a.2.2.1.symm.trans z) (by decide), ?_⟩
  show decodeB w off = _
  unfold decodeB
  obtain ⟨-, a0, a1, a2, a3, a4, a5, a6, a7⟩ := a
  obtain ⟨-, b0, b1⟩ := b
  simp only [a0, a1, a2, a3, a4, a5, a6, a7, b0, b1, hx0, hx1]
  rfl

theorem ctxctlBrkSet (qp sd sa sb n : Nat) : Statement (.ctxctlBrkSet qp sd sa sb n) := by
  intro wf y he
  replace wf : (decide (qp < 16) && decide (sd < 32) && decide (sa < 32) && decide (sb < 32) && decide (n < 4)) = true := wf
  obtain rfl : y = ⟨1, 2650800133 + qp * 2097152 + sd * 65536 + sa * 2048 + sb * 64, n⟩ := (Option.some.inj he).symm
  simp only [Bool.and_eq_true, decide_eq_true_eq] at wf
  obtain ⟨⟨⟨⟨hqp, hsd⟩, hsa⟩, hsb⟩, hn⟩ := wf
  obtain ⟨w, hw⟩ : ∃ w, w = 2650800133 + qp * 2097152 + sd * 65536 + sa * 2048 + sb * 64 := ⟨_, rfl⟩
  have a := word23 (op := 39) (x := 1) (fn := 5) w qp sd sa sb hw (by decide) (by decide) (by decide) hqp hsd hsa hsb
  rw [← hw]
  have b := ext5 n n rfl hn
  refine ⟨Nat.lt_of_sub_eq_succ rfl, a.1, b.1, fun z => absurd (a.2.2.1.symm.trans z) (by decide), ?_⟩
  show decodeB w n = _
  unfold decodeB
  obtain ⟨-, a0, a1, a2, a3, a4, a5, a6, a7⟩ := a
  obtain ⟨-, b0, b1⟩ := b
  simp only [a0, a1, a2, a3, a4, a5, a6, a7, b0, b1]
  rfl

theorem ctxctlBrkClr (qp sd sa sb n : Nat) : Statement (.ctxctlBrkClr qp sd sa sb n) := by
  intro wf y he
  replace wf : (decide (qp < 16) && decide (sd < 32) && decide (sa < 32) && decide (sb < 32) && decide (n < 4)) = true := wf
  obtain rfl : y = ⟨1, 2650800134 + qp * 2097152 + sd * 65536 + sa * 2048 + sb * 64, n⟩ := (Option.some.inj he).symm
  simp only [Bool.and_eq_true, decide_eq_true_eq] at wf
  obtain ⟨⟨⟨⟨hqp, hsd⟩, hsa⟩, hsb⟩, hn⟩ := wf
  obtain ⟨w, hw⟩ : ∃ w, w = 2650800134 + qp * 2097152 + sd * 65536 + sa * 2048 + sb * 64 := ⟨_, rfl⟩
  have a := word23 (op := 39) (x := 1) (fn := 6) w qp sd sa sb hw (by decide) (by decide) (by decide) hqp hsd hsa hsb
  rw [← hw]
  have b := ext5 n n rfl hn
  refine ⟨Nat.lt_of_sub_eq_succ rfl, a.1, b.1, fun z => absurd (a.2.2.1.symm.trans z) (by decide), ?_⟩
  show decodeB w n = _
  unfold decodeB
  obtain ⟨-, a0, a1, a2, a3, a4, a5, a6, a7⟩ := a
  obtain ⟨-, b0, b1⟩ := b
  simp only [a0, a1, a2, a3, a4, a5, a6, a7, b0, b1]
  rfl

theorem ctxctlTestMode (qp sd sa sb : Nat) : Statement (.ctxctlTestMode qp sd sa sb) := by
  intro wf y he
  replace wf : (decide (qp < 16) && decide (sd < 32) && decide (sa < 32) && decide (sb < 32)) = true := wf
  obtain rfl : y = ⟨1, 2617245703 + qp * 2097152 + sd * 65536 + sa * 2048 + sb * 64, 0⟩ := (Option.some.inj he).symm
  simp only [Bool.and_eq_true, decide_eq_true_eq] at wf
  obtain ⟨⟨⟨hqp, hsd⟩, hsa⟩, hsb⟩ := wf
  obtain ⟨w, hw⟩ : ∃ w, w = 2617245703 + qp * 2097152 + sd * 65536 + sa * 2048 + sb * 64 := ⟨_, rfl⟩
  have a := word23 (op := 39) (x := 0) (fn := 7) w qp sd sa sb hw (by decide) (by decide) (by decide) hqp hsd hsa hsb
  rw [← hw]
  refine ⟨Nat.lt_of_sub_eq_succ rfl, a.1, Nat.two_pow_pos 32, fun _ => rfl, ?_⟩
  show decodeB w 0 = _
  unfold decodeB
  obtain ⟨-, a0, a1, a2, a3, a4, a5, a6, a7⟩ := a
  simp only [a0, a1, a2, a3, a4, a5, a6, a7]
  rfl

theorem audmark (qp sa sb : Nat) : Statement (.audmark qp sa sb) := by
  intro wf y he
  replace wf : (decide (qp < 16) && decide (sa < 32) && decide (sb < 32)) = true := wf
  obtain rfl : y = ⟨1, 3221225472 + qp * 2097152 + sa * 65536 + sb * 2048, 0⟩ := (Option.some.inj he).symm
  simp only [Bool.and_eq_true, decide_eq_true_eq] at wf
  obtain ⟨⟨hqp, hsa⟩, hsb⟩ := wf
  obtain ⟨w, hw⟩ : ∃ w, w = 3221225472 + qp * 2097152 + sa * 65536 + sb * 2048 := ⟨_, rfl⟩
  have a := word6 (op := 48) (x := 0) w qp sa sb hw (by decide) (by decide) hqp hsa hsb
  rw [← hw]
  refine ⟨Nat.lt_of_sub_eq_succ rfl, a.1, Nat.two_pow_pos 32, fun _ => rfl, ?_⟩
  show decodeB w 0 = _
  unfold decodeB
  obtain ⟨-, a0, a1, a2, a3, a4, a5⟩ := a
  simp only [a0, a1, a2, a3, a4, a5]
  rfl

theorem audsealSeal (qp sd f sa : Nat) : Statement (.audsealSeal qp sd f sa) := by
  intro wf y he
  replace wf : (decide (qp < 16) && decide (sd < 32) && decide (f < 16) && decide (sa < 32) && decide (f = 0)) = true := wf
  obtain rfl : y = ⟨1, 3288334336 + qp * 2097152 + sd * 65536 + f * 4096 + sa * 128, 0⟩ := (Option.some.inj he).symm
  obtain ⟨wf, hx0⟩ := (Bool.and_eq_true_iff).mp wf
  simp only [Bool.and_eq_true, decide_eq_true_eq] at wf
  obtain ⟨⟨⟨hqp, hsd⟩, hf⟩, hsa⟩ := wf
  obtain ⟨w, hw⟩ : ∃ w, w = 3288334336 + qp * 2097152 + sd * 65536 + f * 4096 + sa * 128 := ⟨_, rfl⟩
  have a := word24 (op := 49) (x := 0) (fn := 0) w qp sd f sa hw (by decide) (by decide) (by decide) hqp hsd hf hsa
  rw [← hw]
  refine ⟨Nat.lt_of_sub_eq_succ rfl, a.1, Nat.two_pow_pos 32, fun _ => rfl, ?_⟩
  show decodeB w 0 = _
  unfold decodeB
  obtain ⟨-, a0, a1, a2, a3, a4, a5, a6, a7⟩ := a
  simp only [a0, a1, a2, a3, a4, a5, a6, a7, hx0]
  rfl

theorem audsealConfig (qp sd f sa : Nat) : Statement (.audsealConfig qp sd f sa) := by
  intro wf y he
  replace wf : (decide (qp < 16) && decide (sd < 32) && decide (f < 16) && decide (sa < 32)) = true := wf
  obtain rfl : y = ⟨1, 3288334337 + qp * 2097152 + sd * 65536 + f * 4096 + sa * 128, 0⟩ := (Option.some.inj he).symm
  simp only [Bool.and_eq_true, decide_eq_true_eq] at wf
  obtain ⟨⟨⟨hqp, hsd⟩, hf⟩, hsa⟩ := wf
  obtain ⟨w, hw⟩ : ∃ w, w = 3288334337 + qp * 2097152 + sd * 65536 + f * 4096 + sa * 128 := ⟨_, rfl⟩
  have a := word24 (op := 49) (x := 0) (fn := 1) w qp sd f sa hw (by decide) (by decide) (by decide) hqp hsd hf hsa
  rw [← hw]
  refine ⟨Nat.lt_of_sub_eq_succ rfl, a.1, Nat.two_pow_pos 32, fun _ => rfl, ?_⟩
  show decodeB w 0 = _
  unfold decodeB
  obtain ⟨-, a0, a1, a2, a3, a4, a5, a6, a7⟩ := a
  simp only [a0, a1, a2, a3, a4, a5, a6, a7]
  rfl

theorem audbisect (qp sd f sa e : Nat) : Statement (.audbisect qp sd f sa e) := by
  intro wf y he
  replace wf : (decide (qp < 16) && decide (sd < 32) && decide (f < 16) && decide (sa < 32) && decide (e < 16)) = true := wf
  obtain rfl : y = ⟨1, 3355443200 + qp * 2097152 + sd * 65536 + f * 4096 + sa * 128 + e, 0⟩ := (Option.some.inj he).symm
  simp only [Bool.and_eq_true, decide_eq_true_eq] at wf
  obtain ⟨⟨⟨⟨hqp, hsd⟩, hf⟩, hsa⟩, he⟩ := wf
  obtain ⟨w, hw⟩ : ∃ w, w = 3355443200 + qp * 2097152 + sd * 65536 + f * 4096 + sa * 128 + e := ⟨_, rfl⟩
  have a := word25 (op := 50) (x := 0) w qp sd f sa e hw (by decide) (by decide) hqp hsd hf hsa he
  rw [← hw]
  refine ⟨Nat.lt_of_sub_eq_succ rfl, a.1, Nat.two_pow_pos 32, fun _ => rfl, ?_⟩
  show decodeB w 0 = _
  unfold decodeB
  obtain ⟨-, a0, a1, a2, a3, a4, a5, a6, a7⟩ := a
  simp only [a0, a1, a2, a3, a4, a5, a6, a7]
  rfl

theorem audref (qp sd f sa e : Nat) : Statement (.audref qp sd f sa e) := by
  intro wf y he
  replace wf : (decide (qp < 16) && decide (sd < 32) && decide (f < 16) && decide (sa < 32) && decide (e < 16)) = true := wf
  obtain rfl : y = ⟨1, 3422552064 + qp * 2097152 + sd * 65536 + f * 4096 + sa * 128 + e, 0⟩ := (Option.some.inj he).symm
  simp only [Bool.and_eq_true, decide_eq_true_eq] at wf
  obtain ⟨⟨⟨⟨hqp, hsd⟩, hf⟩, hsa⟩, he⟩ := wf
  obtain ⟨w, hw⟩ : ∃ w, w = 3422552064 + qp * 2097152 + sd * 65536 + f * 4096 + sa * 128 + e := ⟨_, rfl⟩
  have a := word25 (op := 51) (x := 0) w qp sd f sa e hw (by decide) (by decide) hqp hsd hf hsa he
  rw [← hw]
  refine ⟨Nat.lt_of_sub_eq_succ rfl, a.1, Nat.two_pow_pos 32, fun _ => rfl, ?_⟩
  show decodeB w 0 = _
  unfold decodeB
  obtain ⟨-, a0, a1, a2, a3, a4, a5, a6, a7⟩ := a
  simp only [a0, a1, a2, a3, a4, a5, a6, a7]
  rfl

theorem audreplay (qp sd f sa e : Nat) : Statement (.audreplay qp sd f sa e) := by
  intro wf y he
  replace wf : (decide (qp < 16) && decide (sd < 32) && decide (f < 16) && decide (sa < 32) && decide (e < 16)) = true := wf
  obtain rfl : y = ⟨1, 3489660928 + qp * 2097152 + sd * 65536 + f * 4096 + sa * 128 + e, 0⟩ := (Option.some.inj he).symm
  simp only [Bool.and_eq_true, decide_eq_true_eq] at wf
  obtain ⟨⟨⟨⟨hqp, hsd⟩, hf⟩, hsa⟩, he⟩ := wf
  obtain ⟨w, hw⟩ : ∃ w, w = 3489660928 + qp * 2097152 + sd * 65536 + f * 4096 + sa * 128 + e := ⟨_, rfl⟩
  have a := word25 (op := 52) (x := 0) w qp sd f sa e hw (by decide) (by decide) hqp hsd hf hsa he
  rw [← hw]
  refine ⟨Nat.lt_of_sub_eq_succ rfl, a.1, Nat.two_pow_pos 32, fun _ => rfl, ?_⟩
  show decodeB w 0 = _
  unfold decodeB
  obtain ⟨-, a0, a1, a2, a3, a4, a5, a6, a7⟩ := a
  simp only [a0, a1, a2, a3, a4, a5, a6, a7]
  rfl

theorem audroot (qp hd sl : Nat) : Statement (.audroot qp hd sl) := by
  intro wf y he
  replace wf : (decide (qp < 16) && decide (hd < 16) && decide (sl < 8) && decide (sl ≤ 2)) = true := wf
  obtain rfl : y = ⟨1, 3556769792 + qp * 2097152 + hd * 131072 + sl * 16384, 0⟩ := (Option.some.inj he).symm
  obtain ⟨wf, hx0⟩ := (Bool.and_eq_true_iff).mp wf
  simp only [Bool.and_eq_true, decide_eq_true_eq] at wf
  obtain ⟨⟨hqp, hhd⟩, hsl⟩ := wf
  obtain ⟨w, hw⟩ : ∃ w, w = 3556769792 + qp * 2097152 + hd * 131072 + sl * 16384 := ⟨_, rfl⟩
  have a := word26 (op := 53) (x := 0) w qp hd sl hw (by decide) (by decide) hqp hhd hsl
  rw [← hw]
  refine ⟨Nat.lt_of_sub_eq_succ rfl, a.1, Nat.two_pow_pos 32, fun _ => rfl, ?_⟩
  show decodeB w 0 = _
  unfold decodeB
  obtain ⟨-, a0, a1, a2, a3, a4, a5⟩ := a
  simp only [a0, a1, a2, a3, a4, a5, hx0]
  rfl

theorem shset (qp sh field sa : Nat) : Statement (.shset qp sh field sa) := by
  intro wf y he
  replace wf : (decide (qp < 16) && decide (sh < 8) && decide (field < 32) && decide (sa < 32) && decide (field < 20)) = true := wf
  obtain rfl : y = ⟨2, 0 + qp * 2097152 + sh * 262144 + field * 8192 + sa * 256, 0⟩ := (Option.some.inj he).symm
  obtain ⟨wf, hx0⟩ := (Bool.and_eq_true_iff).mp wf
  simp only [Bool.and_eq_true, decide_eq_true_eq] at wf
  obtain ⟨⟨⟨hqp, hsh⟩, hfield⟩, hsa⟩ := wf
  obtain ⟨w, hw⟩ : ∃ w, w = 0 + qp * 2097152 + sh * 262144 + field * 8192 + sa * 256 := ⟨_, rfl⟩
  have a := word27 (op := 0) (x := 0) w qp sh field sa hw (by decide) (by decide) hqp hsh hfield hsa
  rw [← hw]
  refine ⟨Nat.lt_of_sub_eq_succ rfl, a.1, Nat.two_pow_pos 32, fun _ => rfl, ?_⟩
  show decodeD w 0 = _
  unfold decodeD
  obtain ⟨-, a0, a1, a2, a3, a4, a5, a6⟩ := a
  simp only [a0, a1, a2, a3, a4, a5, a6, hx0]
  rfl

theorem shseti (qp sh field imm : Nat) : Statement (.shseti qp sh field imm) := by
  intro wf y he
  replace wf : (decide (qp < 16) && decide (sh < 8) && decide (field < 32) && decide (imm < 4294967296) && decide (field < 20)) = true := wf
  obtain rfl : y = ⟨2, 100663296 + qp * 2097152 + sh * 262144 + field * 8192, imm⟩ := (Option.some.inj he).symm
  obtain ⟨wf, hx0⟩ := (Bool.and_eq_true_iff).mp wf
  simp only [Bool.and_eq_true, decide_eq_true_eq] at wf
  obtain ⟨⟨⟨hqp, hsh⟩, hfield⟩, himm⟩ := wf
  obtain ⟨w, hw⟩ : ∃ w, w = 100663296 + qp * 2097152 + sh * 262144 + field * 8192 := ⟨_, rfl⟩
  have a := word28 (op := 1) (x := 1) w qp sh field hw (by decide) (by decide) hqp hsh hfield
  rw [← hw]
  have b := ext0 imm imm rfl himm
  refine ⟨Nat.lt_of_sub_eq_succ rfl, a.1, b.1, fun z => absurd (a.2.2.1.symm.trans z) (by decide), ?_⟩
  show decodeD w imm = _
  unfold decodeD
  obtain ⟨-, a0, a1, a2, a3, a4, a5⟩ := a
  obtain ⟨-, b0⟩ := b
  simp only [a0, a1, a2, a3, a4, a5, b0, hx0]
  rfl

theorem shcopy (qp shd shs : Nat) : Statement (.shcopy qp shd shs) := by
  intro wf y he
  replace wf : (decide (qp < 16) && decide (shd < 8) && decide (shs < 8)) = true := wf
  obtain rfl : y = ⟨2, 134217728 + qp * 2097152 + shd * 262144 + shs * 32768, 0⟩ := (Option.some.inj he).symm
  simp only [Bool.and_eq_true, decide_eq_true_eq] at wf
  obtain ⟨⟨hqp, hshd⟩, hshs⟩ := wf
  obtain ⟨w, hw⟩ : ∃ w, w = 134217728 + qp * 2097152 + shd * 262144 + shs * 32768 := ⟨_, rfl⟩
  have a := word29 (op := 2) (x := 0) w qp shd shs hw (by decide) (by decide) hqp hshd hshs
  rw [← hw]
  refine ⟨Nat.lt_of_sub_eq_succ rfl, a.1, Nat.two_pow_pos 32, fun _ => rfl, ?_⟩
  show decodeD w 0 = _
  unfold decodeD
  obtain ⟨-, a0, a1, a2, a3, a4, a5⟩ := a
  simp only [a0, a1, a2, a3, a4, a5]
  rfl

theorem shstep (qp sh dim sa : Nat) : Statement (.shstep qp sh dim sa) := by
  intro wf y he
  replace wf : (decide (qp < 16) && decide (sh < 8) && decide (dim < 4) && decide (sa < 32)) = true := wf
  obtain rfl : y = ⟨2, 201326592 + qp * 2097152 + sh * 262144 + dim * 65536 + sa * 2048, 0⟩ := (Option.some.inj he).symm
  simp only [Bool.and_eq_true, decide_eq_true_eq] at wf
  obtain ⟨⟨⟨hqp, hsh⟩, hdim⟩, hsa⟩ := wf
  obtain ⟨w, hw⟩ : ∃ w, w = 201326592 + qp * 2097152 + sh * 262144 + dim * 65536 + sa * 2048 := ⟨_, rfl⟩
  have a := word30 (op := 3) (x := 0) w qp sh dim sa hw (by decide) (by decide) hqp hsh hdim hsa
  rw [← hw]
  refine ⟨Nat.lt_of_sub_eq_succ rfl, a.1, Nat.two_pow_pos 32, fun _ => rfl, ?_⟩
  show decodeD w 0 = _
  unfold decodeD
  obtain ⟨-, a0, a1, a2, a3, a4, a5, a6⟩ := a
  simp only [a0, a1, a2, a3, a4, a5, a6]
  rfl

theorem mpset (qp mp half sa : Nat) : Statement (.mpset qp mp half sa) := by
  intro wf y he
  replace wf : (decide (qp < 16) && decide (mp < 8) && decide (half < 2) && decide (sa < 32) && decide (mp ≠ 5) && decide (mp ≠ 7)) = true := wf
  obtain rfl : y = ⟨2, 268435456 + qp * 2097152 + mp * 262144 + half * 131072 + sa * 4096, 0⟩ := (Option.some.inj he).symm
  obtain ⟨wf, hx1⟩ := (Bool.and_eq_true_iff).mp wf
  obtain ⟨wf, hx0⟩ := (Bool.and_eq_true_iff).mp wf
  simp only [Bool.and_eq_true, decide_eq_true_eq] at wf
  obtain ⟨⟨⟨hqp, hmp⟩, hhalf⟩, hsa⟩ := wf
  obtain ⟨w, hw⟩ : ∃ w, w = 268435456 + qp * 2097152 + mp * 262144 + half * 131072 + sa * 4096 := ⟨_, rfl⟩
  have a := word31 (op := 4) (x := 0) w qp mp half sa hw (by decide) (by decide) hqp hmp hhalf hsa
  rw [← hw]
  refine ⟨Nat.lt_of_sub_eq_succ rfl, a.1, Nat.two_pow_pos 32, fun _ => rfl, ?_⟩
  show decodeD w 0 = _
  unfold decodeD
  obtain ⟨-, a0, a1, a2, a3, a4, a5, a6⟩ := a
  simp only [a0, a1, a2, a3, a4, a5, a6, hx0, hx1]
  rfl

theorem mpseti (qp mp word imm : Nat) : Statement (.mpseti qp mp word imm) := by
  intro wf y he
  replace wf : (decide (qp < 16) && decide (mp < 8) && decide (word < 4) && decide (imm < 4294967296) && decide (mp ≠ 5) && decide (mp ≠ 7)) = true := wf
  obtain rfl : y = ⟨2, 369098752 + qp * 2097152 + mp * 262144 + word * 65536, imm⟩ := (Option.some.inj he).symm
  obtain ⟨wf, hx1⟩ := (Bool.and_eq_true_iff).mp wf
  obtain ⟨wf, hx0⟩ := (Bool.and_eq_true_iff).mp wf
  simp only [Bool.and_eq_true, decide_eq_true_eq] at wf
  obtain ⟨⟨⟨hqp, hmp⟩, hword⟩, himm⟩ := wf
  obtain ⟨w, hw⟩ : ∃ w, w = 369098752 + qp * 2097152 + mp * 262144 + word * 65536 := ⟨_, rfl⟩
  have a := word32 (op := 5) (x := 1) w qp mp word hw (by decide) (by decide) hqp hmp hword
  rw [← hw]
  have b := ext0 imm imm rfl himm
  refine ⟨Nat.lt_of_sub_eq_succ rfl, a.1, b.1, fun z => absurd (a.2.2.1.symm.trans z) (by decide), ?_⟩
  show decodeD w imm = _
  unfold decodeD
  obtain ⟨-, a0, a1, a2, a3, a4, a5⟩ := a
  obtain ⟨-, b0⟩ := b
  simp only [a0, a1, a2, a3, a4, a5, b0, hx0, hx1]
  rfl

theorem vshape (qp rowsm1 colsm1 : Nat) : Statement (.vshape qp rowsm1 colsm1) := by
  intro wf y he
  replace wf : (decide (qp < 16) && decide (rowsm1 < 128) && decide (colsm1 < 2048)) = true := wf
  obtain rfl : y = ⟨2, 402653184 + qp * 2097152 + rowsm1 * 16384 + colsm1 * 8, 0⟩ := (Option.some.inj he).symm
  simp only [Bool.and_eq_true, decide_eq_true_eq] at wf
  obtain ⟨⟨hqp, hrowsm1⟩, hcolsm1⟩ := wf
  obtain ⟨w, hw⟩ : ∃ w, w = 402653184 + qp * 2097152 + rowsm1 * 16384 + colsm1 * 8 := ⟨_, rfl⟩
  have a := word33 (op := 6) (x := 0) w qp rowsm1 colsm1 hw (by decide) (by decide) hqp hrowsm1 hcolsm1
  rw [← hw]
  refine ⟨Nat.lt_of_sub_eq_succ rfl, a.1, Nat.two_pow_pos 32, fun _ => rfl, ?_⟩
  show decodeD w 0 = _
  unfold decodeD
  obtain ⟨-, a0, a1, a2, a3, a4, a5⟩ := a
  simp only [a0, a1, a2, a3, a4, a5]
  rfl

theorem fpnarrow (qp fd fs mode sa sb : Nat) : Statement (.fpnarrow qp fd fs mode sa sb) := by
  intro wf y he
  replace wf : (decide (qp < 16) && decide (fd < 16) && decide (fs < 16) && decide (mode < 4) && decide (sa < 32) && decide (sb < 32)) = true := wf
  obtain rfl : y = ⟨2, 469762048 + qp * 2097152 + fd * 131072 + fs * 8192 + mode * 2048 + sa * 64 + sb * 2, 0⟩ := (Option.some.inj he).symm
  simp only [Bool.and_eq_true, decide_eq_true_eq] at wf
  obtain ⟨⟨⟨⟨⟨hqp, hfd⟩, hfs⟩, hmode⟩, hsa⟩, hsb⟩ := wf
  obtain ⟨w, hw⟩ : ∃ w, w = 469762048 + qp * 2097152 + fd * 131072 + fs * 8192 + mode * 2048 + sa * 64 + sb * 2 := ⟨_, rfl⟩
  have a := word34 (op := 7) (x := 0) w qp fd fs mode sa sb hw (by decide) (by decide) hqp hfd hfs hmode hsa hsb
  rw [← hw]
  refine ⟨Nat.lt_of_sub_eq_succ rfl, a.1, Nat.two_pow_pos 32, fun _ => rfl, ?_⟩
  show decodeD w 0 = _
  unfold decodeD
  obtain ⟨-, a0, a1, a2, a3, a4, a5, a6, a7, a8⟩ := a
  simp only [a0, a1, a2, a3, a4, a5, a6, a7, a8]
  rfl

theorem shrd (qp sd kind reg sl : Nat) : Statement (.shrd qp sd kind reg sl) := by
  intro wf y he
  replace wf : (decide (qp < 16) && decide (sd < 32) && decide (kind < 2) && decide (reg < 8) && decide (sl < 32) && (if kind = 0 then decide (sl < 20) else decide (sl < 2))) = true := wf
  obtain rfl : y = ⟨2, 536870912 + qp * 2097152 + sd * 65536 + kind * 32768 + reg * 4096 + sl * 128, 0⟩ := (Option.some.inj he).symm
  obtain ⟨wf, hx0⟩ := (Bool.and_eq_true_iff).mp wf
  simp only [Bool.and_eq_true, decide_eq_true_eq] at wf
  obtain ⟨⟨⟨⟨hqp, hsd⟩, hkind⟩, hreg⟩, hsl⟩ := wf
  obtain ⟨w, hw⟩ : ∃ w, w = 536870912 + qp * 2097152 + sd * 65536 + kind * 32768 + reg * 4096 + sl * 128 := ⟨_, rfl⟩
  have a := word35 (op := 8) (x := 0) w qp sd kind reg sl hw (by decide) (by decide) hqp hsd hkind hreg hsl
  rw [← hw]
  refine ⟨Nat.lt_of_sub_eq_succ rfl, a.1, Nat.two_pow_pos 32, fun _ => rfl, ?_⟩
  show decodeD w 0 = _
  unfold decodeD
  obtain ⟨-, a0, a1, a2, a3, a4, a5, a6, a7⟩ := a
  simp only [a0, a1, a2, a3, a4, a5, a6, a7, hx0]
  rfl

theorem alloc (qp hd pool reads : Nat) : Statement (.alloc qp hd pool reads) := by
  intro wf y he
  replace wf : (decide (qp < 16) && decide (hd < 16) && decide (pool < 16) && decide (reads < 256)) = true := wf
  obtain rfl : y = ⟨3, 0 + qp * 2097152 + hd * 131072 + pool * 8192 + reads * 32, 0⟩ := (Option.some.inj he).symm
  simp only [Bool.and_eq_true, decide_eq_true_eq] at wf
  obtain ⟨⟨⟨hqp, hhd⟩, hpool⟩, hreads⟩ := wf
  obtain ⟨w, hw⟩ : ∃ w, w = 0 + qp * 2097152 + hd * 131072 + pool * 8192 + reads * 32 := ⟨_, rfl⟩
  have a := word36 (op := 0) (x := 0) w qp hd pool reads hw (by decide) (by decide) hqp hhd hpool hreads
  rw [← hw]
  refine ⟨Nat.lt_of_sub_eq_succ rfl, a.1, Nat.two_pow_pos 32, fun _ => rfl, ?_⟩
  show decodeL w 0 = _
  unfold decodeL
  obtain ⟨-, a0, a1, a2, a3, a4, a5, a6⟩ := a
  simp only [a0, a1, a2, a3, a4, a5, a6]
  rfl

theorem allocr (qp hd pool sa : Nat) : Statement (.allocr qp hd pool sa) := by
  intro wf y he
  replace wf : (decide (qp < 16) && decide (hd < 16) && decide (pool < 16) && decide (sa < 32)) = true := wf
  obtain rfl : y = ⟨3, 67108864 + qp * 2097152 + hd * 131072 + pool * 8192 + sa * 256, 0⟩ := (Option.some.inj he).symm
  simp only [Bool.and_eq_true, decide_eq_true_eq] at wf
  obtain ⟨⟨⟨hqp, hhd⟩, hpool⟩, hsa⟩ := wf
  obtain ⟨w, hw⟩ : ∃ w, w = 67108864 + qp * 2097152 + hd * 131072 + pool * 8192 + sa * 256 := ⟨_, rfl⟩
  have a := word37 (op := 1) (x := 0) w qp hd pool sa hw (by decide) (by decide) hqp hhd hpool hsa
  rw [← hw]
  refine ⟨Nat.lt_of_sub_eq_succ rfl, a.1, Nat.two_pow_pos 32, fun _ => rfl, ?_⟩
  show decodeL w 0 = _
  unfold decodeL
  obtain ⟨-, a0, a1, a2, a3, a4, a5, a6⟩ := a
  simp only [a0, a1, a2, a3, a4, a5, a6]
  rfl

theorem alloct (qp hd pool reads qs : Nat) : Statement (.alloct qp hd pool reads qs) := by
  intro wf y he
  replace wf : (decide (qp < 16) && decide (hd < 16) && decide (pool < 16) && decide (reads < 256) && decide (qs < 16)) = true := wf
  obtain rfl : y = ⟨3, 134217728 + qp * 2097152 + hd * 131072 + pool * 8192 + reads * 32 + qs * 2, 0⟩ := (Option.some.inj he).symm
  simp only [Bool.and_eq_true, decide_eq_true_eq] at wf
  obtain ⟨⟨⟨⟨hqp, hhd⟩, hpool⟩, hreads⟩, hqs⟩ := wf
  obtain ⟨w, hw⟩ : ∃ w, w = 134217728 + qp * 2097152 + hd * 131072 + pool * 8192 + reads * 32 + qs * 2 := ⟨_, rfl⟩
  have a := word38 (op := 2) (x := 0) w qp hd pool reads qs hw (by decide) (by decide) hqp hhd hpool hreads hqs
  rw [← hw]
  refine ⟨Nat.lt_of_sub_eq_succ rfl, a.1, Nat.two_pow_pos 32, fun _ => rfl, ?_⟩
  show decodeL w 0 = _
  unfold decodeL
  obtain ⟨-, a0, a1, a2, a3, a4, a5, a6, a7⟩ := a
  simp only [a0, a1, a2, a3, a4, a5, a6, a7]
  rfl

theorem copyin (qp hd sh e : Nat) : Statement (.copyin qp hd sh e) := by
  intro wf y he
  replace wf : (decide (qp < 16) && decide (hd < 16) && decide (sh < 8) && decide (e < 16)) = true := wf
  obtain rfl : y = ⟨3, 201326592 + qp * 2097152 + hd * 131072 + sh * 16384 + e * 1024, 0⟩ := (Option.some.inj he).symm
  simp only [Bool.and_eq_true, decide_eq_true_eq] at wf
  obtain ⟨⟨⟨hqp, hhd⟩, hsh⟩, he⟩ := wf
  obtain ⟨w, hw⟩ : ∃ w, w = 201326592 + qp * 2097152 + hd * 131072 + sh * 16384 + e * 1024 := ⟨_, rfl⟩
  have a := word39 (op := 3) (x := 0) w qp hd sh e hw (by decide) (by decide) hqp hhd hsh he
  rw [← hw]
  refine ⟨Nat.lt_of_sub_eq_succ rfl, a.1, Nat.two_pow_pos 32, fun _ => rfl, ?_⟩
  show decodeL w 0 = _
  unfold decodeL
  obtain ⟨-, a0, a1, a2, a3, a4, a5, a6⟩ := a
  simp only [a0, a1, a2, a3, a4, a5, a6]
  rfl

theorem gpush (qp hd sa last : Nat) : Statement (.gpush qp hd sa last) := by
  intro wf y he
  replace wf : (decide (qp < 16) && decide (hd < 16) && decide (sa < 32) && decide (last < 2)) = true := wf
  obtain rfl : y = ⟨3, 268435456 + qp * 2097152 + hd * 131072 + sa * 4096 + last * 2048, 0⟩ := (Option.some.inj he).symm
  simp only [Bool.and_eq_true, decide_eq_true_eq] at wf
  obtain ⟨⟨⟨hqp, hhd⟩, hsa⟩, hlast⟩ := wf
  obtain ⟨w, hw⟩ : ∃ w, w = 268435456 + qp * 2097152 + hd * 131072 + sa * 4096 + last * 2048 := ⟨_, rfl⟩
  have a := word40 (op := 4) (x := 0) w qp hd sa last hw (by decide) (by decide) hqp hhd hsa hlast
  rw [← hw]
  refine ⟨Nat.lt_of_sub_eq_succ rfl, a.1, Nat.two_pow_pos 32, fun _ => rfl, ?_⟩
  show decodeL w 0 = _
  unfold decodeL
  obtain ⟨-, a0, a1, a2, a3, a4, a5, a6⟩ := a
  simp only [a0, a1, a2, a3, a4, a5, a6]
  rfl

theorem gather (qp hd sh e : Nat) : Statement (.gather qp hd sh e) := by
  intro wf y he
  replace wf : (decide (qp < 16) && decide (hd < 16) && decide (sh < 8) && decide (e < 16)) = true := wf
  obtain rfl : y = ⟨3, 335544320 + qp * 2097152 + hd * 131072 + sh * 16384 + e * 1024, 0⟩ := (Option.some.inj he).symm
  simp only [Bool.and_eq_true, decide_eq_true_eq] at wf
  obtain ⟨⟨⟨hqp, hhd⟩, hsh⟩, he⟩ := wf
  obtain ⟨w, hw⟩ : ∃ w, w = 335544320 + qp * 2097152 + hd * 131072 + sh * 16384 + e * 1024 := ⟨_, rfl⟩
  have a := word39 (op := 5) (x := 0) w qp hd sh e hw (by decide) (by decide) hqp hhd hsh he
  rw [← hw]
  refine ⟨Nat.lt_of_sub_eq_succ rfl, a.1, Nat.two_pow_pos 32, fun _ => rfl, ?_⟩
  show decodeL w 0 = _
  unfold decodeL
  obtain ⟨-, a0, a1, a2, a3, a4, a5, a6⟩ := a
  simp only [a0, a1, a2, a3, a4, a5, a6]
  rfl

theorem tmove (qp hd hs c e : Nat) : Statement (.tmove qp hd hs c e) := by
  intro wf y he
  replace wf : (decide (qp < 16) && decide (hd < 16) && decide (hs < 16) && decide (c < 2) && decide (e < 16)) = true := wf
  obtain rfl : y = ⟨3, 402653184 + qp * 2097152 + hd * 131072 + hs * 8192 + c * 4096 + e * 256, 0⟩ := (Option.some.inj he).symm
  simp only [Bool.and_eq_true, decide_eq_true_eq] at wf
  obtain ⟨⟨⟨⟨hqp, hhd⟩, hhs⟩, hc⟩, he⟩ := wf
  obtain ⟨w, hw⟩ : ∃ w, w = 402653184 + qp * 2097152 + hd * 131072 + hs * 8192 + c * 4096 + e * 256 := ⟨_, rfl⟩
  have a := word41 (op := 6) (x := 0) w qp hd hs c e hw (by decide) (by decide) hqp hhd hhs hc he
  rw [← hw]
  refine ⟨Nat.lt_of_sub_eq_succ rfl, a.1, Nat.two_pow_pos 32, fun _ => rfl, ?_⟩
  show decodeL w 0 = _
  unfold decodeL
  obtain ⟨-, a0, a1, a2, a3, a4, a5, a6, a7⟩ := a
  simp only [a0, a1, a2, a3, a4, a5, a6, a7]
  rfl

theorem ldt (qp sd hs sz sg imm9 : Nat) : Statement (.ldt qp sd hs sz sg imm9) := by
  intro wf y he
  replace wf : (decide (qp < 16) && decide (sd < 32) && decide (hs < 16) && decide (sz < 4) && decide (sg < 2) && decide (imm9 < 512) && (decide (sz < 3) || decide (sg = 0))) = true := wf
  obtain rfl : y = ⟨3, 469762048 + qp * 2097152 + sd * 65536 + hs * 4096 + sz * 1024 + sg * 512 + imm9, 0⟩ := (Option.some.inj he).symm
  obtain ⟨wf, hx0⟩ := (Bool.and_eq_true_iff).mp wf
  simp only [Bool.and_eq_true, decide_eq_true_eq] at wf
  obtain ⟨⟨⟨⟨⟨hqp, hsd⟩, hhs⟩, hsz⟩, hsg⟩, himm9⟩ := wf
  obtain ⟨w, hw⟩ : ∃ w, w = 469762048 + qp * 2097152 + sd * 65536 + hs * 4096 + sz * 1024 + sg * 512 + imm9 := ⟨_, rfl⟩
  have a := word42 (op := 7) (x := 0) w qp sd hs sz sg imm9 hw (by decide) (by decide) hqp hsd hhs hsz hsg himm9
  rw [← hw]
  refine ⟨Nat.lt_of_sub_eq_succ rfl, a.1, Nat.two_pow_pos 32, fun _ => rfl, ?_⟩
  show decodeL w 0 = _
  unfold decodeL
  obtain ⟨-, a0, a1, a2, a3, a4, a5, a6, a7⟩ := a
  simp only [a0, a1, a2, a3, a4, a5, a6, a7, hx0]
  rfl

theorem ldtr (qp sd hs sz sg sb : Nat) : Statement (.ldtr qp sd hs sz sg sb) := by
  intro wf y he
  replace wf : (decide (qp < 16) && decide (sd < 32) && decide (hs < 16) && decide (sz < 4) && decide (sg < 2) && decide (sb < 32) && (decide (sz < 3) || decide (sg = 0))) = true := wf
  obtain rfl : y = ⟨3, 536870912 + qp * 2097152 + sd * 65536 + hs * 4096 + sz * 1024 + sg * 512 + sb * 16, 0⟩ := (Option.some.inj he).symm
  obtain ⟨wf, hx0⟩ := (Bool.and_eq_true_iff).mp wf
  simp only [Bool.and_eq_true, decide_eq_true_eq] at wf
  obtain ⟨⟨⟨⟨⟨hqp, hsd⟩, hhs⟩, hsz⟩, hsg⟩, hsb⟩ := wf
  obtain ⟨w, hw⟩ : ∃ w, w = 536870912 + qp * 2097152 + sd * 65536 + hs * 4096 + sz * 1024 + sg * 512 + sb * 16 := ⟨_, rfl⟩
  have a := word43 (op := 8) (x := 0) w qp sd hs sz sg sb hw (by decide) (by decide) hqp hsd hhs hsz hsg hsb
  rw [← hw]
  refine ⟨Nat.lt_of_sub_eq_succ rfl, a.1, Nat.two_pow_pos 32, fun _ => rfl, ?_⟩
  show decodeL w 0 = _
  unfold decodeL
  obtain ⟨-, a0, a1, a2, a3, a4, a5, a6, a7, a8⟩ := a
  simp only [a0, a1, a2, a3, a4, a5, a6, a7, a8, hx0]
  rfl

theorem ldg (qp sd f sa sz sg e : Nat) : Statement (.ldg qp sd f sa sz sg e) := by
  intro wf y he
  replace wf : (decide (qp < 16) && decide (sd < 32) && decide (f < 16) && decide (sa < 32) && decide (sz < 4) && decide (sg < 2) && decide (e < 16) && (decide (sz < 3) || decide (sg = 0))) = true := wf
  obtain rfl : y = ⟨3, 603979776 + qp * 2097152 + sd * 65536 + f * 4096 + sa * 128 + sz * 32 + sg * 16 + e, 0⟩ := (Option.some.inj he).symm
  obtain ⟨wf, hx0⟩ := (Bool.and_eq_true_iff).mp wf
  simp only [Bool.and_eq_true, decide_eq_true_eq] at wf
  obtain ⟨⟨⟨⟨⟨⟨hqp, hsd⟩, hf⟩, hsa⟩, hsz⟩, hsg⟩, he⟩ := wf
  obtain ⟨w, hw⟩ : ∃ w, w = 603979776 + qp * 2097152 + sd * 65536 + f * 4096 + sa * 128 + sz * 32 + sg * 16 + e := ⟨_, rfl⟩
  have a := word44 (op := 9) (x := 0) w qp sd f sa sz sg e hw (by decide) (by decide) hqp hsd hf hsa hsz hsg he
  rw [← hw]
  refine ⟨Nat.lt_of_sub_eq_succ rfl, a.1, Nat.two_pow_pos 32, fun _ => rfl, ?_⟩
  show decodeL w 0 = _
  unfold decodeL
  obtain ⟨-, a0, a1, a2, a3, a4, a5, a6, a7, a8⟩ := a
  simp only [a0, a1, a2, a3, a4, a5, a6, a7, a8, hx0]
  rfl

theorem tread (qp sd hs c sb : Nat) : Statement (.tread qp sd hs c sb) := by
  intro wf y he
  replace wf : (decide (qp < 16) && decide (sd < 32) && decide (hs < 16) && decide (c < 2) && decide (sb < 32)) = true := wf
  obtain rfl : y = ⟨3, 671088640 + qp * 2097152 + sd * 65536 + hs * 4096 + c * 2048 + sb * 64, 0⟩ := (Option.some.inj he).symm
  simp only [Bool.and_eq_true, decide_eq_true_eq] at wf
  obtain ⟨⟨⟨⟨hqp, hsd⟩, hhs⟩, hc⟩, hsb⟩ := wf
  obtain ⟨w, hw⟩ : ∃ w, w = 671088640 + qp * 2097152 + sd * 65536 + hs * 4096 + c * 2048 + sb * 64 := ⟨_, rfl⟩
  have a := word45 (op := 10) (x := 0) w qp sd hs c sb hw (by decide) (by decide) hqp hsd hhs hc hsb
  rw [← hw]
  refine ⟨Nat.lt_of_sub_eq_succ rfl, a.1, Nat.two_pow_pos 32, fun _ => rfl, ?_⟩
  show decodeL w 0 = _
  unfold decodeL
  obtain ⟨-, a0, a1, a2, a3, a4, a5, a6, a7⟩ := a
  simp only [a0, a1, a2, a3, a4, a5, a6, a7]
  rfl

theorem trel (qp hs : Nat) : Statement (.trel qp hs) := by
  intro wf y he
  replace wf : (decide (qp < 16) && decide (hs < 16)) = true := wf
  obtain rfl : y = ⟨3, 738197504 + qp * 2097152 + hs * 131072, 0⟩ := (Option.some.inj he).symm
  simp only [Bool.and_eq_true, decide_eq_true_eq] at wf
  obtain ⟨hqp, hhs⟩ := wf
  obtain ⟨w, hw⟩ : ∃ w, w = 738197504 + qp * 2097152 + hs * 131072 := ⟨_, rfl⟩
  have a := word46 (op := 11) (x := 0) w qp hs hw (by decide) (by decide) hqp hhs
  rw [← hw]
  refine ⟨Nat.lt_of_sub_eq_succ rfl, a.1, Nat.two_pow_pos 32, fun _ => rfl, ?_⟩
  show decodeL w 0 = _
  unfold decodeL
  obtain ⟨-, a0, a1, a2, a3, a4⟩ := a
  simp only [a0, a1, a2, a3, a4]
  rfl

theorem tinfo (qp sd hs sl : Nat) : Statement (.tinfo qp sd hs sl) := by
  intro wf y he
  replace wf : (decide (qp < 16) && decide (sd < 32) && decide (hs < 16) && decide (sl < 16) && decide (sl < 12)) = true := wf
  obtain rfl : y = ⟨3, 805306368 + qp * 2097152 + sd * 65536 + hs * 4096 + sl * 256, 0⟩ := (Option.some.inj he).symm
  obtain ⟨wf, hx0⟩ := (Bool.and_eq_true_iff).mp wf
  simp only [Bool.and_eq_true, decide_eq_true_eq] at wf
  obtain ⟨⟨⟨hqp, hsd⟩, hhs⟩, hsl⟩ := wf
  obtain ⟨w, hw⟩ : ∃ w, w = 805306368 + qp * 2097152 + sd * 65536 + hs * 4096 + sl * 256 := ⟨_, rfl⟩
  have a := word47 (op := 12) (x := 0) w qp sd hs sl hw (by decide) (by decide) hqp hsd hhs hsl
  rw [← hw]
  refine ⟨Nat.lt_of_sub_eq_succ rfl, a.1, Nat.two_pow_pos 32, fun _ => rfl, ?_⟩
  show decodeL w 0 = _
  unfold decodeL
  obtain ⟨-, a0, a1, a2, a3, a4, a5, a6⟩ := a
  simp only [a0, a1, a2, a3, a4, a5, a6, hx0]
  rfl

theorem ovl (qp f sa sb e : Nat) : Statement (.ovl qp f sa sb e) := by
  intro wf y he
  replace wf : (decide (qp < 16) && decide (f < 16) && decide (sa < 32) && decide (sb < 32) && decide (e < 16)) = true := wf
  obtain rfl : y = ⟨3, 872415232 + qp * 2097152 + f * 131072 + sa * 4096 + sb * 128 + e * 8, 0⟩ := (Option.some.inj he).symm
  simp only [Bool.and_eq_true, decide_eq_true_eq] at wf
  obtain ⟨⟨⟨⟨hqp, hf⟩, hsa⟩, hsb⟩, he⟩ := wf
  obtain ⟨w, hw⟩ : ∃ w, w = 872415232 + qp * 2097152 + f * 131072 + sa * 4096 + sb * 128 + e * 8 := ⟨_, rfl⟩
  have a := word48 (op := 13) (x := 0) w qp f sa sb e hw (by decide) (by decide) hqp hf hsa hsb he
  rw [← hw]
  refine ⟨Nat.lt_of_sub_eq_succ rfl, a.1, Nat.two_pow_pos 32, fun _ => rfl, ?_⟩
  show decodeL w 0 = _
  unfold decodeL
  obtain ⟨-, a0, a1, a2, a3, a4, a5, a6, a7⟩ := a
  simp only [a0, a1, a2, a3, a4, a5, a6, a7]
  rfl

theorem landh (qp hd ch sa : Nat) : Statement (.landh qp hd ch sa) := by
  intro wf y he
  replace wf : (decide (qp < 16) && decide (hd < 16) && decide (ch < 256) && decide (sa < 32)) = true := wf
  obtain rfl : y = ⟨3, 939524096 + qp * 2097152 + hd * 131072 + ch * 512 + sa * 16, 0⟩ := (Option.some.inj he).symm
  simp only [Bool.and_eq_true, decide_eq_true_eq] at wf
  obtain ⟨⟨⟨hqp, hhd⟩, hch⟩, hsa⟩ := wf
  obtain ⟨w, hw⟩ : ∃ w, w = 939524096 + qp * 2097152 + hd * 131072 + ch * 512 + sa * 16 := ⟨_, rfl⟩
  have a := word49 (op := 14) (x := 0) w qp hd ch sa hw (by decide) (by decide) hqp hhd hch hsa
  rw [← hw]
  refine ⟨Nat.lt_of_sub_eq_succ rfl, a.1, Nat.two_pow_pos 32, fun _ => rfl, ?_⟩
  show decodeL w 0 = _
  unfold decodeL
  obtain ⟨-, a0, a1, a2, a3, a4, a5, a6⟩ := a
  simp only [a0, a1, a2, a3, a4, a5, a6]
  rfl

theorem vadd (qp hd ha hb ty ca cb fn : Nat) : Statement (.vadd qp hd ha hb ty ca cb fn) := by
  intro wf y he
  replace wf : (decide (qp < 16) && decide (hd < 16) && decide (ha < 16) && decide (hb < 16) && decide (ty < 8) && decide (ca < 2) && decide (cb < 2) && decide (fn < 16) && decide (fn < 5) && (decide (fn = 0) || decide (ty < 3))) = true := wf
  obtain rfl : y = ⟨4, 0 + qp * 2097152 + hd * 131072 + ha * 8192 + hb * 512 + ty * 64 + ca * 32 + cb * 16 + fn, 0⟩ := (Option.some.inj he).symm
  obtain ⟨wf, hx1⟩ := (Bool.and_eq_true_iff).mp wf
  obtain ⟨wf, hx0⟩ := (Bool.and_eq_true_iff).mp wf
  simp only [Bool.and_eq_true, decide_eq_true_eq] at wf
  obtain ⟨⟨⟨⟨⟨⟨⟨hqp, hhd⟩, hha⟩, hhb⟩, hty⟩, hca⟩, hcb⟩, hfn⟩ := wf
  obtain ⟨w, hw⟩ : ∃ w, w = 0 + qp * 2097152 + hd * 131072 + ha * 8192 + hb * 512 + ty * 64 + ca * 32 + cb * 16 + fn := ⟨_, rfl⟩
  have a := word50 (op := 0) (x := 0) w qp hd ha hb ty ca cb fn hw (by decide) (by decide) hqp hhd hha hhb hty hca hcb hfn
  rw [← hw]
  refine ⟨Nat.lt_of_sub_eq_succ rfl, a.1, Nat.two_pow_pos 32, fun _ => rfl, ?_⟩
  show decodeV w 0 = _
  unfold decodeV
  obtain ⟨-, a0, a1, a2, a3, a4, a5, a6, a7, a8, a9⟩ := a
  simp only [a0, a1, a2, a3, a4, a5, a6, a7, a8, a9, hx1]
  rw [if_neg (by simpa using of_decide_eq_true hx0)]
  rfl

theorem vsub (qp hd ha hb ty ca cb fn : Nat) : Statement (.vsub qp hd ha hb ty ca cb fn) := by
  intro wf y he
  replace wf : (decide (qp < 16) && decide (hd < 16) && decide (ha < 16) && decide (hb < 16) && decide (ty < 8) && decide (ca < 2) && decide (cb < 2) && decide (fn < 16) && decide (fn < 5) && (decide (fn = 0) || decide (ty < 3))) = true := wf
  obtain rfl : y = ⟨4, 67108864 + qp * 2097152 + hd * 131072 + ha * 8192 + hb * 512 + ty * 64 + ca * 32 + cb * 16 + fn, 0⟩ := (Option.some.inj he).symm
  obtain ⟨wf, hx1⟩ := (Bool.and_eq_true_iff).mp wf
  obtain ⟨wf, hx0⟩ := (Bool.and_eq_true_iff).mp wf
  simp only [Bool.and_eq_true, decide_eq_true_eq] at wf
  obtain ⟨⟨⟨⟨⟨⟨⟨hqp, hhd⟩, hha⟩, hhb⟩, hty⟩, hca⟩, hcb⟩, hfn⟩ := wf
  obtain ⟨w, hw⟩ : ∃ w, w = 67108864 + qp * 2097152 + hd * 131072 + ha * 8192 + hb * 512 + ty * 64 + ca * 32 + cb * 16 + fn := ⟨_, rfl⟩
  have a := word50 (op := 1) (x := 0) w qp hd ha hb ty ca cb fn hw (by decide) (by decide) hqp hhd hha hhb hty hca hcb hfn
  rw [← hw]
  refine ⟨Nat.lt_of_sub_eq_succ rfl, a.1, Nat.two_pow_pos 32, fun _ => rfl, ?_⟩
  show decodeV w 0 = _
  unfold decodeV
  obtain ⟨-, a0, a1, a2, a3, a4, a5, a6, a7, a8, a9⟩ := a
  simp only [a0, a1, a2, a3, a4, a5, a6, a7, a8, a9, hx1]
  rw [if_neg (by simpa using of_decide_eq_true hx0)]
  rfl

theorem vmul (qp hd ha hb ty ca cb fn : Nat) : Statement (.vmul qp hd ha hb ty ca cb fn) := by
  intro wf y he
  replace wf : (decide (qp < 16) && decide (hd < 16) && decide (ha < 16) && decide (hb < 16) && decide (ty < 8) && decide (ca < 2) && decide (cb < 2) && decide (fn < 16) && decide (fn < 5) && (decide (fn = 0) || decide (ty < 3))) = true := wf
  obtain rfl : y = ⟨4, 134217728 + qp * 2097152 + hd * 131072 + ha * 8192 + hb * 512 + ty * 64 + ca * 32 + cb * 16 + fn, 0⟩ := (Option.some.inj he).symm
  obtain ⟨wf, hx1⟩ := (Bool.and_eq_true_iff).mp wf
  obtain ⟨wf, hx0⟩ := (Bool.and_eq_true_iff).mp wf
  simp only [Bool.and_eq_true, decide_eq_true_eq] at wf
  obtain ⟨⟨⟨⟨⟨⟨⟨hqp, hhd⟩, hha⟩, hhb⟩, hty⟩, hca⟩, hcb⟩, hfn⟩ := wf
  obtain ⟨w, hw⟩ : ∃ w, w = 134217728 + qp * 2097152 + hd * 131072 + ha * 8192 + hb * 512 + ty * 64 + ca * 32 + cb * 16 + fn := ⟨_, rfl⟩
  have a := word50 (op := 2) (x := 0) w qp hd ha hb ty ca cb fn hw (by decide) (by decide) hqp hhd hha hhb hty hca hcb hfn
  rw [← hw]
  refine ⟨Nat.lt_of_sub_eq_succ rfl, a.1, Nat.two_pow_pos 32, fun _ => rfl, ?_⟩
  show decodeV w 0 = _
  unfold decodeV
  obtain ⟨-, a0, a1, a2, a3, a4, a5, a6, a7, a8, a9⟩ := a
  simp only [a0, a1, a2, a3, a4, a5, a6, a7, a8, a9, hx1]
  rw [if_neg (by simpa using of_decide_eq_true hx0)]
  rfl

theorem vfma (qp hd ha hb ty ca cb fn : Nat) : Statement (.vfma qp hd ha hb ty ca cb fn) := by
  intro wf y he
  replace wf : (decide (qp < 16) && decide (hd < 16) && decide (ha < 16) && decide (hb < 16) && decide (ty < 8) && decide (ca < 2) && decide (cb < 2) && decide (fn < 16) && decide (fn < 5) && (decide (fn = 0) || decide (ty < 3))) = true := wf
  obtain rfl : y = ⟨4, 201326592 + qp * 2097152 + hd * 131072 + ha * 8192 + hb * 512 + ty * 64 + ca * 32 + cb * 16 + fn, 0⟩ := (Option.some.inj he).symm
  obtain ⟨wf, hx1⟩ := (Bool.and_eq_true_iff).mp wf
  obtain ⟨wf, hx0⟩ := (Bool.and_eq_true_iff).mp wf
  simp only [Bool.and_eq_true, decide_eq_true_eq] at wf
  obtain ⟨⟨⟨⟨⟨⟨⟨hqp, hhd⟩, hha⟩, hhb⟩, hty⟩, hca⟩, hcb⟩, hfn⟩ := wf
  obtain ⟨w, hw⟩ : ∃ w, w = 201326592 + qp * 2097152 + hd * 131072 + ha * 8192 + hb * 512 + ty * 64 + ca * 32 + cb * 16 + fn := ⟨_, rfl⟩
  have a := word50 (op := 3) (x := 0) w qp hd ha hb ty ca cb fn hw (by decide) (by decide) hqp hhd hha hhb hty hca hcb hfn
  rw [← hw]
  refine ⟨Nat.lt_of_sub_eq_succ rfl, a.1, Nat.two_pow_pos 32, fun _ => rfl, ?_⟩
  show decodeV w 0 = _
  unfold decodeV
  obtain ⟨-, a0, a1, a2, a3, a4, a5, a6, a7, a8, a9⟩ := a
  simp only [a0, a1, a2, a3, a4, a5, a6, a7, a8, a9, hx1]
  rw [if_neg (by simpa using of_decide_eq_true hx0)]
  rfl

theorem vmin (qp hd ha hb ty ca cb : Nat) : Statement (.vmin qp hd ha hb ty ca cb) := by
  intro wf y he
  replace wf : (decide (qp < 16) && decide (hd < 16) && decide (ha < 16) && decide (hb < 16) && decide (ty < 8) && decide (ca < 2) && decide (cb < 2)) = true := wf
  obtain rfl : y = ⟨4, 268435456 + qp * 2097152 + hd * 131072 + ha * 8192 + hb * 512 + ty * 64 + ca * 32 + cb * 16, 0⟩ := (Option.some.inj he).symm
  simp only [Bool.and_eq_true, decide_eq_true_eq] at wf
  obtain ⟨⟨⟨⟨⟨⟨hqp, hhd⟩, hha⟩, hhb⟩, hty⟩, hca⟩, hcb⟩ := wf
  obtain ⟨w, hw⟩ : ∃ w, w = 268435456 + qp * 2097152 + hd * 131072 + ha * 8192 + hb * 512 + ty * 64 + ca * 32 + cb * 16 := ⟨_, rfl⟩
  have a := word51 (op := 4) (x := 0) (fn := 0) w qp hd ha hb ty ca cb hw (by decide) (by decide) (by decide) hqp hhd hha hhb hty hca hcb
  rw [← hw]
  refine ⟨Nat.lt_of_sub_eq_succ rfl, a.1, Nat.two_pow_pos 32, fun _ => rfl, ?_⟩
  show decodeV w 0 = _
  unfold decodeV
  obtain ⟨-, a0, a1, a2, a3, a4, a5, a6, a7, a8, a9⟩ := a
  simp only [a0, a1, a2, a3, a4, a5, a6, a7, a8, a9]
  rfl

theorem vmax (qp hd ha hb ty ca cb : Nat) : Statement (.vmax qp hd ha hb ty ca cb) := by
  intro wf y he
  replace wf : (decide (qp < 16) && decide (hd < 16) && decide (ha < 16) && decide (hb < 16) && decide (ty < 8) && decide (ca < 2) && decide (cb < 2)) = true := wf
  obtain rfl : y = ⟨4, 335544320 + qp * 2097152 + hd * 131072 + ha * 8192 + hb * 512 + ty * 64 + ca * 32 + cb * 16, 0⟩ := (Option.some.inj he).symm
  simp only [Bool.and_eq_true, decide_eq_true_eq] at wf
  obtain ⟨⟨⟨⟨⟨⟨hqp, hhd⟩, hha⟩, hhb⟩, hty⟩, hca⟩, hcb⟩ := wf
  obtain ⟨w, hw⟩ : ∃ w, w = 335544320 + qp * 2097152 + hd * 131072 + ha * 8192 + hb * 512 + ty * 64 + ca * 32 + cb * 16 := ⟨_, rfl⟩
  have a := word51 (op := 5) (x := 0) (fn := 0) w qp hd ha hb ty ca cb hw (by decide) (by decide) (by decide) hqp hhd hha hhb hty hca hcb
  rw [← hw]
  refine ⟨Nat.lt_of_sub_eq_succ rfl, a.1, Nat.two_pow_pos 32, fun _ => rfl, ?_⟩
  show decodeV w 0 = _
  unfold decodeV
  obtain ⟨-, a0, a1, a2, a3, a4, a5, a6, a7, a8, a9⟩ := a
  simp only [a0, a1, a2, a3, a4, a5, a6, a7, a8, a9]
  rfl

theorem vand (qp hd ha hb ty ca cb : Nat) : Statement (.vand qp hd ha hb ty ca cb) := by
  intro wf y he
  replace wf : (decide (qp < 16) && decide (hd < 16) && decide (ha < 16) && decide (hb < 16) && decide (ty < 8) && decide (ca < 2) && decide (cb < 2)) = true := wf
  obtain rfl : y = ⟨4, 402653184 + qp * 2097152 + hd * 131072 + ha * 8192 + hb * 512 + ty * 64 + ca * 32 + cb * 16, 0⟩ := (Option.some.inj he).symm
  simp only [Bool.and_eq_true, decide_eq_true_eq] at wf
  obtain ⟨⟨⟨⟨⟨⟨hqp, hhd⟩, hha⟩, hhb⟩, hty⟩, hca⟩, hcb⟩ := wf
  obtain ⟨w, hw⟩ : ∃ w, w = 402653184 + qp * 2097152 + hd * 131072 + ha * 8192 + hb * 512 + ty * 64 + ca * 32 + cb * 16 := ⟨_, rfl⟩
  have a := word51 (op := 6) (x := 0) (fn := 0) w qp hd ha hb ty ca cb hw (by decide) (by decide) (by decide) hqp hhd hha hhb hty hca hcb
  rw [← hw]
  refine ⟨Nat.lt_of_sub_eq_succ rfl, a.1, Nat.two_pow_pos 32, fun _ => rfl, ?_⟩
  show decodeV w 0 = _
  unfold decodeV
  obtain ⟨-, a0, a1, a2, a3, a4, a5, a6, a7, a8, a9⟩ := a
  simp only [a0, a1, a2, a3, a4, a5, a6, a7, a8, a9]
  rfl

theorem vor (qp hd ha hb ty ca cb : Nat) : Statement (.vor qp hd ha hb ty ca cb) := by
  intro wf y he
  replace wf : (decide (qp < 16) && decide (hd < 16) && decide (ha < 16) && decide (hb < 16) && decide (ty < 8) && decide (ca < 2) && decide (cb < 2)) = true := wf
  obtain rfl : y = ⟨4, 469762048 + qp * 2097152 + hd * 131072 + ha * 8192 + hb * 512 + ty * 64 + ca * 32 + cb * 16, 0⟩ := (Option.some.inj he).symm
  simp only [Bool.and_eq_true, decide_eq_true_eq] at wf
  obtain ⟨⟨⟨⟨⟨⟨hqp, hhd⟩, hha⟩, hhb⟩, hty⟩, hca⟩, hcb⟩ := wf
  obtain ⟨w, hw⟩ : ∃ w, w = 469762048 + qp * 2097152 + hd * 131072 + ha * 8192 + hb * 512 + ty * 64 + ca * 32 + cb * 16 := ⟨_, rfl⟩
  have a := word51 (op := 7) (x := 0) (fn := 0) w qp hd ha hb ty ca cb hw (by decide) (by decide) (by decide) hqp hhd hha hhb hty hca hcb
  rw [← hw]
  refine ⟨Nat.lt_of_sub_eq_succ rfl, a.1, Nat.two_pow_pos 32, fun _ => rfl, ?_⟩
  show decodeV w 0 = _
  unfold decodeV
  obtain ⟨-, a0, a1, a2, a3, a4, a5, a6, a7, a8, a9⟩ := a
  simp only [a0, a1, a2, a3, a4, a5, a6, a7, a8, a9]
  rfl

theorem vxor (qp hd ha hb ty ca cb : Nat) : Statement (.vxor qp hd ha hb ty ca cb) := by
  intro wf y he
  replace wf : (decide (qp < 16) && decide (hd < 16) && decide (ha < 16) && decide (hb < 16) && decide (ty < 8) && decide (ca < 2) && decide (cb < 2)) = true := wf
  obtain rfl : y = ⟨4, 536870912 + qp * 2097152 + hd * 131072 + ha * 8192 + hb * 512 + ty * 64 + ca * 32 + cb * 16, 0⟩ := (Option.some.inj he).symm
  simp only [Bool.and_eq_true, decide_eq_true_eq] at wf
  obtain ⟨⟨⟨⟨⟨⟨hqp, hhd⟩, hha⟩, hhb⟩, hty⟩, hca⟩, hcb⟩ := wf
  obtain ⟨w, hw⟩ : ∃ w, w = 536870912 + qp * 2097152 + hd * 131072 + ha * 8192 + hb * 512 + ty * 64 + ca * 32 + cb * 16 := ⟨_, rfl⟩
  have a := word51 (op := 8) (x := 0) (fn := 0) w qp hd ha hb ty ca cb hw (by decide) (by decide) (by decide) hqp hhd hha hhb hty hca hcb
  rw [← hw]
  refine ⟨Nat.lt_of_sub_eq_succ rfl, a.1, Nat.two_pow_pos 32, fun _ => rfl, ?_⟩
  show decodeV w 0 = _
  unfold decodeV
  obtain ⟨-, a0, a1, a2, a3, a4, a5, a6, a7, a8, a9⟩ := a
  simp only [a0, a1, a2, a3, a4, a5, a6, a7, a8, a9]
  rfl

theorem vshl (qp hd ha hb ty ca cb : Nat) : Statement (.vshl qp hd ha hb ty ca cb) := by
  intro wf y he
  replace wf : (decide (qp < 16) && decide (hd < 16) && decide (ha < 16) && decide (hb < 16) && decide (ty < 8) && decide (ca < 2) && decide (cb < 2) && decide (3 ≤ ty)) = true := wf
  obtain rfl : y = ⟨4, 603979776 + qp * 2097152 + hd * 131072 + ha * 8192 + hb * 512 + ty * 64 + ca * 32 + cb * 16, 0⟩ := (Option.some.inj he).symm
  obtain ⟨wf, hx0⟩ := (Bool.and_eq_true_iff).mp wf
  simp only [Bool.and_eq_true, decide_eq_true_eq] at wf
  obtain ⟨⟨⟨⟨⟨⟨hqp, hhd⟩, hha⟩, hhb⟩, hty⟩, hca⟩, hcb⟩ := wf
  obtain ⟨w, hw⟩ : ∃ w, w = 603979776 + qp * 2097152 + hd * 131072 + ha * 8192 + hb * 512 + ty * 64 + ca * 32 + cb * 16 := ⟨_, rfl⟩
  have a := word51 (op := 9) (x := 0) (fn := 0) w qp hd ha hb ty ca cb hw (by decide) (by decide) (by decide) hqp hhd hha hhb hty hca hcb
  rw [← hw]
  refine ⟨Nat.lt_of_sub_eq_succ rfl, a.1, Nat.two_pow_pos 32, fun _ => rfl, ?_⟩
  show decodeV w 0 = _
  unfold decodeV
  obtain ⟨-, a0, a1, a2, a3, a4, a5, a6, a7, a8, a9⟩ := a
  simp only [a0, a1, a2, a3, a4, a5, a6, a7, a8, a9, hx0]
  rfl

theorem vshr (qp hd ha hb ty ca cb : Nat) : Statement (.vshr qp hd ha hb ty ca cb) := by
  intro wf y he
  replace wf : (decide (qp < 16) && decide (hd < 16) && decide (ha < 16) && decide (hb < 16) && decide (ty < 8) && decide (ca < 2) && decide (cb < 2) && decide (3 ≤ ty)) = true := wf
  obtain rfl : y = ⟨4, 671088640 + qp * 2097152 + hd * 131072 + ha * 8192 + hb * 512 + ty * 64 + ca * 32 + cb * 16, 0⟩ := (Option.some.inj he).symm
  obtain ⟨wf, hx0⟩ := (Bool.and_eq_true_iff).mp wf
  simp only [Bool.and_eq_true, decide_eq_true_eq] at wf
  obtain ⟨⟨⟨⟨⟨⟨hqp, hhd⟩, hha⟩, hhb⟩, hty⟩, hca⟩, hcb⟩ := wf
  obtain ⟨w, hw⟩ : ∃ w, w = 671088640 + qp * 2097152 + hd * 131072 + ha * 8192 + hb * 512 + ty * 64 + ca * 32 + cb * 16 := ⟨_, rfl⟩
  have a := word51 (op := 10) (x := 0) (fn := 0) w qp hd ha hb ty ca cb hw (by decide) (by decide) (by decide) hqp hhd hha hhb hty hca hcb
  rw [← hw]
  refine ⟨Nat.lt_of_sub_eq_succ rfl, a.1, Nat.two_pow_pos 32, fun _ => rfl, ?_⟩
  show decodeV w 0 = _
  unfold decodeV
  obtain ⟨-, a0, a1, a2, a3, a4, a5, a6, a7, a8, a9⟩ := a
  simp only [a0, a1, a2, a3, a4, a5, a6, a7, a8, a9, hx0]
  rfl

theorem vcmp (qp hd ha hb ty ca cb fn : Nat) : Statement (.vcmp qp hd ha hb ty ca cb fn) := by
  intro wf y he
  replace wf : (decide (qp < 16) && decide (hd < 16) && decide (ha < 16) && decide (hb < 16) && decide (ty < 8) && decide (ca < 2) && decide (cb < 2) && decide (fn < 16) && decide (fn < 6)) = true := wf
  obtain rfl : y = ⟨4, 738197504 + qp * 2097152 + hd * 131072 + ha * 8192 + hb * 512 + ty * 64 + ca * 32 + cb * 16 + fn, 0⟩ := (Option.some.inj he).symm
  obtain ⟨wf, hx0⟩ := (Bool.and_eq_true_iff).mp wf
  simp only [Bool.and_eq_true, decide_eq_true_eq] at wf
  obtain ⟨⟨⟨⟨⟨⟨⟨hqp, hhd⟩, hha⟩, hhb⟩, hty⟩, hca⟩, hcb⟩, hfn⟩ := wf
  obtain ⟨w, hw⟩ : ∃ w, w = 738197504 + qp * 2097152 + hd * 131072 + ha * 8192 + hb * 512 + ty * 64 + ca * 32 + cb * 16 + fn := ⟨_, rfl⟩
  have a := word50 (op := 11) (x := 0) w qp hd ha hb ty ca cb fn hw (by decide) (by decide) hqp hhd hha hhb hty hca hcb hfn
  rw [← hw]
  refine ⟨Nat.lt_of_sub_eq_succ rfl, a.1, Nat.two_pow_pos 32, fun _ => rfl, ?_⟩
  show decodeV w 0 = _
  unfold decodeV
  obtain ⟨-, a0, a1, a2, a3, a4, a5, a6, a7, a8, a9⟩ := a
  simp only [a0, a1, a2, a3, a4, a5, a6, a7, a8, a9]
  rw [if_neg (by simpa using of_decide_eq_true hx0)]
  rfl

theorem vsel (qp hd ha hb ty ca cb : Nat) : Statement (.vsel qp hd ha hb ty ca cb) := by
  intro wf y he
  replace wf : (decide (qp < 16) && decide (hd < 16) && decide (ha < 16) && decide (hb < 16) && decide (ty < 8) && decide (ca < 2) && decide (cb < 2)) = true := wf
  obtain rfl : y = ⟨4, 805306368 + qp * 2097152 + hd * 131072 + ha * 8192 + hb * 512 + ty * 64 + ca * 32 + cb * 16, 0⟩ := (Option.some.inj he).symm
  simp only [Bool.and_eq_true, decide_eq_true_eq] at wf
  obtain ⟨⟨⟨⟨⟨⟨hqp, hhd⟩, hha⟩, hhb⟩, hty⟩, hca⟩, hcb⟩ := wf
  obtain ⟨w, hw⟩ : ∃ w, w = 805306368 + qp * 2097152 + hd * 131072 + ha * 8192 + hb * 512 + ty * 64 + ca * 32 + cb * 16 := ⟨_, rfl⟩
  have a := word51 (op := 12) (x := 0) (fn := 0) w qp hd ha hb ty ca cb hw (by decide) (by decide) (by decide) hqp hhd hha hhb hty hca hcb
  rw [← hw]
  refine ⟨Nat.lt_of_sub_eq_succ rfl, a.1, Nat.two_pow_pos 32, fun _ => rfl, ?_⟩
  show decodeV w 0 = _
  unfold decodeV
  obtain ⟨-, a0, a1, a2, a3, a4, a5, a6, a7, a8, a9⟩ := a
  simp only [a0, a1, a2, a3, a4, a5, a6, a7, a8, a9]
  rfl

theorem vabs (qp hd ha ty ca : Nat) : Statement (.vabs qp hd ha ty ca) := by
  intro wf y he
  replace wf : (decide (qp < 16) && decide (hd < 16) && decide (ha < 16) && decide (ty < 8) && decide (ca < 2)) = true := wf
  obtain rfl : y = ⟨4, 872415232 + qp * 2097152 + hd * 131072 + ha * 8192 + ty * 64 + ca * 32, 0⟩ := (Option.some.inj he).symm
  simp only [Bool.and_eq_true, decide_eq_true_eq] at wf
  obtain ⟨⟨⟨⟨hqp, hhd⟩, hha⟩, hty⟩, hca⟩ := wf
  obtain ⟨w, hw⟩ : ∃ w, w = 872415232 + qp * 2097152 + hd * 131072 + ha * 8192 + ty * 64 + ca * 32 := ⟨_, rfl⟩
  have a := word52 (op := 13) (x := 0) (fn := 0) w qp hd ha ty ca hw (by decide) (by decide) (by decide) hqp hhd hha hty hca
  rw [← hw]
  refine ⟨Nat.lt_of_sub_eq_succ rfl, a.1, Nat.two_pow_pos 32, fun _ => rfl, ?_⟩
  show decodeV w 0 = _
  unfold decodeV
  obtain ⟨-, a0, a1, a2, a3, a4, a5, a6, a7, a8, a9⟩ := a
  simp only [a0, a1, a2, a3, a4, a5, a6, a7, a8, a9]
  rfl

theorem vneg (qp hd ha ty ca : Nat) : Statement (.vneg qp hd ha ty ca) := by
  intro wf y he
  replace wf : (decide (qp < 16) && decide (hd < 16) && decide (ha < 16) && decide (ty < 8) && decide (ca < 2)) = true := wf
  obtain rfl : y = ⟨4, 939524096 + qp * 2097152 + hd * 131072 + ha * 8192 + ty * 64 + ca * 32, 0⟩ := (Option.some.inj he).symm
  simp only [Bool.and_eq_true, decide_eq_true_eq] at wf
  obtain ⟨⟨⟨⟨hqp, hhd⟩, hha⟩, hty⟩, hca⟩ := wf
  obtain ⟨w, hw⟩ : ∃ w, w = 939524096 + qp * 2097152 + hd * 131072 + ha * 8192 + ty * 64 + ca * 32 := ⟨_, rfl⟩
  have a := word52 (op := 14) (x := 0) (fn := 0) w qp hd ha ty ca hw (by decide) (by decide) (by decide) hqp hhd hha hty hca
  rw [← hw]
  refine ⟨Nat.lt_of_sub_eq_succ rfl, a.1, Nat.two_pow_pos 32, fun _ => rfl, ?_⟩
  show decodeV w 0 = _
  unfold decodeV
  obtain ⟨-, a0, a1, a2, a3, a4, a5, a6, a7, a8, a9⟩ := a
  simp only [a0, a1, a2, a3, a4, a5, a6, a7, a8, a9]
  rfl

theorem vmov (qp hd ha ty ca : Nat) : Statement (.vmov qp hd ha ty ca) := by
  intro wf y he
  replace wf : (decide (qp < 16) && decide (hd < 16) && decide (ha < 16) && decide (ty < 8) && decide (ca < 2)) = true := wf
  obtain rfl : y = ⟨4, 1006632960 + qp * 2097152 + hd * 131072 + ha * 8192 + ty * 64 + ca * 32, 0⟩ := (Option.some.inj he).symm
  simp only [Bool.and_eq_true, decide_eq_true_eq] at wf
  obtain ⟨⟨⟨⟨hqp, hhd⟩, hha⟩, hty⟩, hca⟩ := wf
  obtain ⟨w, hw⟩ : ∃ w, w = 1006632960 + qp * 2097152 + hd * 131072 + ha * 8192 + ty * 64 + ca * 32 := ⟨_, rfl⟩
  have a := word52 (op := 15) (x := 0) (fn := 0) w qp hd ha ty ca hw (by decide) (by decide) (by decide) hqp hhd hha hty hca
  rw [← hw]
  refine ⟨Nat.lt_of_sub_eq_succ rfl, a.1, Nat.two_pow_pos 32, fun _ => rfl, ?_⟩
  show decodeV w 0 = _
  unfold decodeV
  obtain ⟨-, a0, a1, a2, a3, a4, a5, a6, a7, a8, a9⟩ := a
  simp only [a0, a1, a2, a3, a4, a5, a6, a7, a8, a9]
  rfl

theorem vfill (qp hd ty : Nat) : Statement (.vfill qp hd ty) := by
  intro wf y he
  replace wf : (decide (qp < 16) && decide (hd < 16) && decide (ty < 8)) = true := wf
  obtain rfl : y = ⟨4, 1073741824 + qp * 2097152 + hd * 131072 + ty * 64, 0⟩ := (Option.some.inj he).symm
  simp only [Bool.and_eq_true, decide_eq_true_eq] at wf
  obtain ⟨⟨hqp, hhd⟩, hty⟩ := wf
  obtain ⟨w, hw⟩ : ∃ w, w = 1073741824 + qp * 2097152 + hd * 131072 + ty * 64 := ⟨_, rfl⟩
  have a := word53 (op := 16) (x := 0) (fn := 0) w qp hd ty hw (by decide) (by decide) (by decide) hqp hhd hty
  rw [← hw]
  refine ⟨Nat.lt_of_sub_eq_succ rfl, a.1, Nat.two_pow_pos 32, fun _ => rfl, ?_⟩
  show decodeV w 0 = _
  unfold decodeV
  obtain ⟨-, a0, a1, a2, a3, a4, a5, a6, a7⟩ := a
  simp only [a0, a1, a2, a3, a4, a5, a6, a7]
  rfl

theorem vfillExt (qp hd ty ext : Nat) : Statement (.vfillExt qp hd ty ext) := by
  intro wf y he
  replace wf : (decide (qp < 16) && decide (hd < 16) && decide (ty < 8) && decide (ext < 4294967296) && (if ty = 0 ∨ ty = 3 then true else if ty = 5 ∨ ty = 6 then decide (ext < 256) else decide (ext < 65536))) = true := wf
  obtain rfl : y = ⟨4, 1107296256 + qp * 2097152 + hd * 131072 + ty * 64, ext⟩ := (Option.some.inj he).symm
  obtain ⟨wf, hx0⟩ := (Bool.and_eq_true_iff).mp wf
  simp only [Bool.and_eq_true, decide_eq_true_eq] at wf
  obtain ⟨⟨⟨hqp, hhd⟩, hty⟩, hext⟩ := wf
  obtain ⟨w, hw⟩ : ∃ w, w = 1107296256 + qp * 2097152 + hd * 131072 + ty * 64 := ⟨_, rfl⟩
  have a := word53 (op := 16) (x := 1) (fn := 0) w qp hd ty hw (by decide) (by decide) (by decide) hqp hhd hty
  rw [← hw]
  have b := ext0 ext ext rfl hext
  refine ⟨Nat.lt_of_sub_eq_succ rfl, a.1, b.1, fun z => absurd (a.2.2.1.symm.trans z) (by decide), ?_⟩
  show decodeV w ext = _
  unfold decodeV
  obtain ⟨-, a0, a1, a2, a3, a4, a5, a6, a7⟩ := a
  obtain ⟨-, b0⟩ := b
  simp only [a0, a1, a2, a3, a4, a5, a6, a7, b0, hx0]
  rfl

theorem vbrow (qp hd ha ty ca : Nat) : Statement (.vbrow qp hd ha ty ca) := by
  intro wf y he
  replace wf : (decide (qp < 16) && decide (hd < 16) && decide (ha < 16) && decide (ty < 8) && decide (ca < 2)) = true := wf
  obtain rfl : y = ⟨4, 1140850688 + qp * 2097152 + hd * 131072 + ha * 8192 + ty * 64 + ca * 32, 0⟩ := (Option.some.inj he).symm
  simp only [Bool.and_eq_true, decide_eq_true_eq] at wf
  obtain ⟨⟨⟨⟨hqp, hhd⟩, hha⟩, hty⟩, hca⟩ := wf
  obtain ⟨w, hw⟩ : ∃ w, w = 1140850688 + qp * 2097152 + hd * 131072 + ha * 8192 + ty * 64 + ca * 32 := ⟨_, rfl⟩
  have a := word52 (op := 17) (x := 0) (fn := 0) w qp hd ha ty ca hw (by decide) (by decide) (by decide) hqp hhd hha hty hca
  rw [← hw]
  refine ⟨Nat.lt_of_sub_eq_succ rfl, a.1, Nat.two_pow_pos 32, fun _ => rfl, ?_⟩
  show decodeV w 0 = _
  unfold decodeV
  obtain ⟨-, a0, a1, a2, a3, a4, a5, a6, a7, a8, a9⟩ := a
  simp only [a0, a1, a2, a3, a4, a5, a6, a7, a8, a9]
  rfl

theorem vbcol (qp hd ha ty ca : Nat) : Statement (.vbcol qp hd ha ty ca) := by
  intro wf y he
  replace wf : (decide (qp < 16) && decide (hd < 16) && decide (ha < 16) && decide (ty < 8) && decide (ca < 2)) = true := wf
  obtain rfl : y = ⟨4, 1207959552 + qp * 2097152 + hd * 131072 + ha * 8192 + ty * 64 + ca * 32, 0⟩ := (Option.some.inj he).symm
  simp only [Bool.and_eq_true, decide_eq_true_eq] at wf
  obtain ⟨⟨⟨⟨hqp, hhd⟩, hha⟩, hty⟩, hca⟩ := wf
  obtain ⟨w, hw⟩ : ∃ w, w = 1207959552 + qp * 2097152 + hd * 131072 + ha * 8192 + ty * 64 + ca * 32 := ⟨_, rfl⟩
  have a := word52 (op := 18) (x := 0) (fn := 0) w qp hd ha ty ca hw (by decide) (by decide) (by decide) hqp hhd hha hty hca
  rw [← hw]
  refine ⟨Nat.lt_of_sub_eq_succ rfl, a.1, Nat.two_pow_pos 32, fun _ => rfl, ?_⟩
  show decodeV w 0 = _
  unfold decodeV
  obtain ⟨-, a0, a1, a2, a3, a4, a5, a6, a7, a8, a9⟩ := a
  simp only [a0, a1, a2, a3, a4, a5, a6, a7, a8, a9]
  rfl

theorem vtrans (qp hd ha ty ca : Nat) : Statement (.vtrans qp hd ha ty ca) := by
  intro wf y he
  replace wf : (decide (qp < 16) && decide (hd < 16) && decide (ha < 16) && decide (ty < 8) && decide (ca < 2)) = true := wf
  obtain rfl : y = ⟨4, 1275068416 + qp * 2097152 + hd * 131072 + ha * 8192 + ty * 64 + ca * 32, 0⟩ := (Option.some.inj he).symm
  simp only [Bool.and_eq_true, decide_eq_true_eq] at wf
  obtain ⟨⟨⟨⟨hqp, hhd⟩, hha⟩, hty⟩, hca⟩ := wf
  obtain ⟨w, hw⟩ : ∃ w, w = 1275068416 + qp * 2097152 + hd * 131072 + ha * 8192 + ty * 64 + ca * 32 := ⟨_, rfl⟩
  have a := word52 (op := 19) (x := 0) (fn := 0) w qp hd ha ty ca hw (by decide) (by decide) (by decide) hqp hhd hha hty hca
  rw [← hw]
  refine ⟨Nat.lt_of_sub_eq_succ rfl, a.1, Nat.two_pow_pos 32, fun _ => rfl, ?_⟩
  show decodeV w 0 = _
  unfold decodeV
  obtain ⟨-, a0, a1, a2, a3, a4, a5, a6, a7, a8, a9⟩ := a
  simp only [a0, a1, a2, a3, a4, a5, a6, a7, a8, a9]
  rfl

theorem vsfu (qp hd ha ty ca fn func : Nat) : Statement (.vsfu qp hd ha ty ca fn func) := by
  intro wf y he
  replace wf : (decide (qp < 16) && decide (hd < 16) && decide (ha < 16) && decide (ty < 8) && decide (ca < 2) && decide (fn < 16) && decide (func < 8) && decide (fn < 5) && decide (ty < 3) && decide (func < 6)) = true := wf
  obtain rfl : y = ⟨4, 1375731712 + qp * 2097152 + hd * 131072 + ha * 8192 + ty * 64 + ca * 32 + fn, func⟩ := (Option.some.inj he).symm
  obtain ⟨wf, hx2⟩ := (Bool.and_eq_true_iff).mp wf
  obtain ⟨wf, hx1⟩ := (Bool.and_eq_true_iff).mp wf
  obtain ⟨wf, hx0⟩ := (Bool.and_eq_true_iff).mp wf
  simp only [Bool.and_eq_true, decide_eq_true_eq] at wf
  obtain ⟨⟨⟨⟨⟨⟨hqp, hhd⟩, hha⟩, hty⟩, hca⟩, hfn⟩, hfunc⟩ := wf
  obtain ⟨w, hw⟩ : ∃ w, w = 1375731712 + qp * 2097152 + hd * 131072 + ha * 8192 + ty * 64 + ca * 32 + fn := ⟨_, rfl⟩
  have a := word54 (op := 20) (x := 1) w qp hd ha ty ca fn hw (by decide) (by decide) hqp hhd hha hty hca hfn
  rw [← hw]
  have b := ext6 func func rfl hfunc
  refine ⟨Nat.lt_of_sub_eq_succ rfl, a.1, b.1, fun z => absurd (a.2.2.1.symm.trans z) (by decide), ?_⟩
  show decodeV w func = _
  unfold decodeV
  obtain ⟨-, a0, a1, a2, a3, a4, a5, a6, a7, a8, a9⟩ := a
  obtain ⟨-, b0, b1⟩ := b
  simp only [a0, a1, a2, a3, a4, a5, a6, a7, a8, a9, b0, b1, hx1, hx2]
  rw [if_neg (by simpa using of_decide_eq_true hx0)]
  rfl

theorem vrsum (qp hd ha ty ca fn : Nat) : Statement (.vrsum qp hd ha ty ca fn) := by
  intro wf y he
  replace wf : (decide (qp < 16) && decide (hd < 16) && decide (ha < 16) && decide (ty < 8) && decide (ca < 2) && decide (fn < 16) && decide (fn < 5) && (decide (fn = 0) || decide (ty < 3))) = true := wf
  obtain rfl : y = ⟨4, 1409286144 + qp * 2097152 + hd * 131072 + ha * 8192 + ty * 64 + ca * 32 + fn, 0⟩ := (Option.some.inj he).symm
  obtain ⟨wf, hx1⟩ := (Bool.and_eq_true_iff).mp wf
  obtain ⟨wf, hx0⟩ := (Bool.and_eq_true_iff).mp wf
  simp only [Bool.and_eq_true, decide_eq_true_eq] at wf
  obtain ⟨⟨⟨⟨⟨hqp, hhd⟩, hha⟩, hty⟩, hca⟩, hfn⟩ := wf
  obtain ⟨w, hw⟩ : ∃ w, w = 1409286144 + qp * 2097152 + hd * 131072 + ha * 8192 + ty * 64 + ca * 32 + fn := ⟨_, rfl⟩
  have a := word54 (op := 21) (x := 0) w qp hd ha ty ca fn hw (by decide) (by decide) hqp hhd hha hty hca hfn
  rw [← hw]
  refine ⟨Nat.lt_of_sub_eq_succ rfl, a.1, Nat.two_pow_pos 32, fun _ => rfl, ?_⟩
  show decodeV w 0 = _
  unfold decodeV
  obtain ⟨-, a0, a1, a2, a3, a4, a5, a6, a7, a8, a9⟩ := a
  simp only [a0, a1, a2, a3, a4, a5, a6, a7, a8, a9, hx1]
  rw [if_neg (by simpa using of_decide_eq_true hx0)]
  rfl

theorem vrmax (qp hd ha ty ca : Nat) : Statement (.vrmax qp hd ha ty ca) := by
  intro wf y he
  replace wf : (decide (qp < 16) && decide (hd < 16) && decide (ha < 16) && decide (ty < 8) && decide (ca < 2)) = true := wf
  obtain rfl : y = ⟨4, 1476395008 + qp * 2097152 + hd * 131072 + ha * 8192 + ty * 64 + ca * 32, 0⟩ := (Option.some.inj he).symm
  simp only [Bool.and_eq_true, decide_eq_true_eq] at wf
  obtain ⟨⟨⟨⟨hqp, hhd⟩, hha⟩, hty⟩, hca⟩ := wf
  obtain ⟨w, hw⟩ : ∃ w, w = 1476395008 + qp * 2097152 + hd * 131072 + ha * 8192 + ty * 64 + ca * 32 := ⟨_, rfl⟩
  have a := word52 (op := 22) (x := 0) (fn := 0) w qp hd ha ty ca hw (by decide) (by decide) (by decide) hqp hhd hha hty hca
  rw [← hw]
  refine ⟨Nat.lt_of_sub_eq_succ rfl, a.1, Nat.two_pow_pos 32, fun _ => rfl, ?_⟩
  show decodeV w 0 = _
  unfold decodeV
  obtain ⟨-, a0, a1, a2, a3, a4, a5, a6, a7, a8, a9⟩ := a
  simp only [a0, a1, a2, a3, a4, a5, a6, a7, a8, a9]
  rfl

theorem vcsum (qp hd ha ty ca fn : Nat) : Statement (.vcsum qp hd ha ty ca fn) := by
  intro wf y he
  replace wf : (decide (qp < 16) && decide (hd < 16) && decide (ha < 16) && decide (ty < 8) && decide (ca < 2) && decide (fn < 16) && decide (fn < 5) && (decide (fn = 0) || decide (ty < 3))) = true := wf
  obtain rfl : y = ⟨4, 1543503872 + qp * 2097152 + hd * 131072 + ha * 8192 + ty * 64 + ca * 32 + fn, 0⟩ := (Option.some.inj he).symm
  obtain ⟨wf, hx1⟩ := (Bool.and_eq_true_iff).mp wf
  obtain ⟨wf, hx0⟩ := (Bool.and_eq_true_iff).mp wf
  simp only [Bool.and_eq_true, decide_eq_true_eq] at wf
  obtain ⟨⟨⟨⟨⟨hqp, hhd⟩, hha⟩, hty⟩, hca⟩, hfn⟩ := wf
  obtain ⟨w, hw⟩ : ∃ w, w = 1543503872 + qp * 2097152 + hd * 131072 + ha * 8192 + ty * 64 + ca * 32 + fn := ⟨_, rfl⟩
  have a := word54 (op := 23) (x := 0) w qp hd ha ty ca fn hw (by decide) (by decide) hqp hhd hha hty hca hfn
  rw [← hw]
  refine ⟨Nat.lt_of_sub_eq_succ rfl, a.1, Nat.two_pow_pos 32, fun _ => rfl, ?_⟩
  show decodeV w 0 = _
  unfold decodeV
  obtain ⟨-, a0, a1, a2, a3, a4, a5, a6, a7, a8, a9⟩ := a
  simp only [a0, a1, a2, a3, a4, a5, a6, a7, a8, a9, hx1]
  rw [if_neg (by simpa using of_decide_eq_true hx0)]
  rfl

theorem vcmax (qp hd ha ty ca : Nat) : Statement (.vcmax qp hd ha ty ca) := by
  intro wf y he
  replace wf : (decide (qp < 16) && decide (hd < 16) && decide (ha < 16) && decide (ty < 8) && decide (ca < 2)) = true := wf
  obtain rfl : y = ⟨4, 1610612736 + qp * 2097152 + hd * 131072 + ha * 8192 + ty * 64 + ca * 32, 0⟩ := (Option.some.inj he).symm
  simp only [Bool.and_eq_true, decide_eq_true_eq] at wf
  obtain ⟨⟨⟨⟨hqp, hhd⟩, hha⟩, hty⟩, hca⟩ := wf
  obtain ⟨w, hw⟩ : ∃ w, w = 1610612736 + qp * 2097152 + hd * 131072 + ha * 8192 + ty * 64 + ca * 32 := ⟨_, rfl⟩
  have a := word52 (op := 24) (x := 0) (fn := 0) w qp hd ha ty ca hw (by decide) (by decide) (by decide) hqp hhd hha hty hca
  rw [← hw]
  refine ⟨Nat.lt_of_sub_eq_succ rfl, a.1, Nat.two_pow_pos 32, fun _ => rfl, ?_⟩
  show decodeV w 0 = _
  unfold decodeV
  obtain ⟨-, a0, a1, a2, a3, a4, a5, a6, a7, a8, a9⟩ := a
  simp only [a0, a1, a2, a3, a4, a5, a6, a7, a8, a9]
  rfl

theorem vdot (qp hd ha hb ty ca cb fn : Nat) : Statement (.vdot qp hd ha hb ty ca cb fn) := by
  intro wf y he
  replace wf : (decide (qp < 16) && decide (hd < 16) && decide (ha < 16) && decide (hb < 16) && decide (ty < 8) && decide (ca < 2) && decide (cb < 2) && decide (fn < 16) && decide (fn < 5) && (decide (fn = 0) || decide (ty < 3))) = true := wf
  obtain rfl : y = ⟨4, 1677721600 + qp * 2097152 + hd * 131072 + ha * 8192 + hb * 512 + ty * 64 + ca * 32 + cb * 16 + fn, 0⟩ := (Option.some.inj he).symm
  obtain ⟨wf, hx1⟩ := (Bool.and_eq_true_iff).mp wf
  obtain ⟨wf, hx0⟩ := (Bool.and_eq_true_iff).mp wf
  simp only [Bool.and_eq_true, decide_eq_true_eq] at wf
  obtain ⟨⟨⟨⟨⟨⟨⟨hqp, hhd⟩, hha⟩, hhb⟩, hty⟩, hca⟩, hcb⟩, hfn⟩ := wf
  obtain ⟨w, hw⟩ : ∃ w, w = 1677721600 + qp * 2097152 + hd * 131072 + ha * 8192 + hb * 512 + ty * 64 + ca * 32 + cb * 16 + fn := ⟨_, rfl⟩
  have a := word50 (op := 25) (x := 0) w qp hd ha hb ty ca cb fn hw (by decide) (by decide) hqp hhd hha hhb hty hca hcb hfn
  rw [← hw]
  refine ⟨Nat.lt_of_sub_eq_succ rfl, a.1, Nat.two_pow_pos 32, fun _ => rfl, ?_⟩
  show decodeV w 0 = _
  unfold decodeV
  obtain ⟨-, a0, a1, a2, a3, a4, a5, a6, a7, a8, a9⟩ := a
  simp only [a0, a1, a2, a3, a4, a5, a6, a7, a8, a9, hx1]
  rw [if_neg (by simpa using of_decide_eq_true hx0)]
  rfl

theorem vmacc (qp hd ha hb ty ca cb fn : Nat) : Statement (.vmacc qp hd ha hb ty ca cb fn) := by
  intro wf y he
  replace wf : (decide (qp < 16) && decide (hd < 16) && decide (ha < 16) && decide (hb < 16) && decide (ty < 8) && decide (ca < 2) && decide (cb < 2) && decide (fn < 16) && decide (fn < 5) && decide (ty < 3)) = true := wf
  obtain rfl : y = ⟨4, 1744830464 + qp * 2097152 + hd * 131072 + ha * 8192 + hb * 512 + ty * 64 + ca * 32 + cb * 16 + fn, 0⟩ := (Option.some.inj he).symm
  obtain ⟨wf, hx1⟩ := (Bool.and_eq_true_iff).mp wf
  obtain ⟨wf, hx0⟩ := (Bool.and_eq_true_iff).mp wf
  simp only [Bool.and_eq_true, decide_eq_true_eq] at wf
  obtain ⟨⟨⟨⟨⟨⟨⟨hqp, hhd⟩, hha⟩, hhb⟩, hty⟩, hca⟩, hcb⟩, hfn⟩ := wf
  obtain ⟨w, hw⟩ : ∃ w, w = 1744830464 + qp * 2097152 + hd * 131072 + ha * 8192 + hb * 512 + ty * 64 + ca * 32 + cb * 16 + fn := ⟨_, rfl⟩
  have a := word50 (op := 26) (x := 0) w qp hd ha hb ty ca cb fn hw (by decide) (by decide) hqp hhd hha hhb hty hca hcb hfn
  rw [← hw]
  refine ⟨Nat.lt_of_sub_eq_succ rfl, a.1, Nat.two_pow_pos 32, fun _ => rfl, ?_⟩
  show decodeV w 0 = _
  unfold decodeV
  obtain ⟨-, a0, a1, a2, a3, a4, a5, a6, a7, a8, a9⟩ := a
  simp only [a0, a1, a2, a3, a4, a5, a6, a7, a8, a9, hx1]
  rw [if_neg (by simpa using of_decide_eq_true hx0)]
  rfl

theorem vcvt (qp hd ha ca fn src dst sat inter : Nat) : Statement (.vcvt qp hd ha ca fn src dst sat inter) := by
  intro wf y he
  replace wf : (decide (qp < 16) && decide (hd < 16) && decide (ha < 16) && decide (ca < 2) && decide (fn < 16) && decide (src < 64) && decide (dst < 64) && decide (sat < 2) && decide (inter < 2) && decide (fn < 5) && ((decide (src < 0x10) || decide (src = 0x20)) || decide (src = 0x21)) && (((decide (dst < 0x10) || decide (dst = 0x16)) || decide (dst = 0x17)) || (decide (dst = 0x20) || decide (dst = 0x21))) && (decide (inter = 0) || decide (fn = 4))) = true := wf
  obtain rfl : y = ⟨4, 1845493760 + qp * 2097152 + hd * 131072 + ha * 8192 + ca * 32 + fn, src + dst * 64 + sat * 4096 + inter * 8192⟩ := (Option.some.inj he).symm
  obtain ⟨wf, hx3⟩ := (Bool.and_eq_true_iff).mp wf
  obtain ⟨wf, hx2⟩ := (Bool.and_eq_true_iff).mp wf
  obtain ⟨wf, hx1⟩ := (Bool.and_eq_true_iff).mp wf
  obtain ⟨wf, hx0⟩ := (Bool.and_eq_true_iff).mp wf
  simp only [Bool.and_eq_true, decide_eq_true_eq] at wf
  obtain ⟨⟨⟨⟨⟨⟨⟨⟨hqp, hhd⟩, hha⟩, hca⟩, hfn⟩, hsrc⟩, hdst⟩, hsat⟩, hinter⟩ := wf
  obtain ⟨w, hw⟩ : ∃ w, w = 1845493760 + qp * 2097152 + hd * 131072 + ha * 8192 + ca * 32 + fn := ⟨_, rfl⟩
  have a := word55 (op := 27) (x := 1) w qp hd ha ca fn hw (by decide) (by decide) hqp hhd hha hca hfn
  rw [← hw]
  obtain ⟨v, hv⟩ : ∃ v, v = src + dst * 64 + sat * 4096 + inter * 8192 := ⟨_, rfl⟩
  have b := ext7 v src dst sat inter hv hsrc hdst hsat hinter
  rw [← hv]
  refine ⟨Nat.lt_of_sub_eq_succ rfl, a.1, b.1, fun z => absurd (a.2.2.1.symm.trans z) (by decide), ?_⟩
  show decodeV w v = _
  unfold decodeV
  obtain ⟨-, a0, a1, a2, a3, a4, a5, a6, a7, a8⟩ := a
  obtain ⟨-, b0, b1, b2, b3, b4⟩ := b
  simp only [a0, a1, a2, a3, a4, a5, a6, a7, a8, b0, b1, b2, b3, b4, hx1, hx2, hx3]
  rw [if_neg (by simpa using of_decide_eq_true hx0)]
  rfl

theorem vqnt (qp hd ha hb ty ca cb fn dst axis side cal : Nat) : Statement (.vqnt qp hd ha hb ty ca cb fn dst axis side cal) := by
  intro wf y he
  replace wf : (decide (qp < 16) && decide (hd < 16) && decide (ha < 16) && decide (hb < 16) && decide (ty < 8) && decide (ca < 2) && decide (cb < 2) && decide (fn < 16) && decide (dst < 32) && decide (axis < 2) && decide (side < 16) && decide (cal < 2) && decide (fn < 5) && decide (ty < 3) && ((decide (8 ≤ dst) && decide (dst ≤ 0xC)) || (decide (dst = 0x16) || decide (dst = 0x17))) && (if dst = 0x16 ∨ dst = 0x17 then decide (side ≠ 0) else decide (side = 0)) && (decide (cal = 1) || decide (cb = 0))) = true := wf
  obtain rfl : y = ⟨4, 1912602624 + qp * 2097152 + hd * 131072 + ha * 8192 + hb * 512 + ty * 64 + ca * 32 + cb * 16 + fn, dst + axis * 32 + side * 64 + cal * 1024⟩ := (Option.some.inj he).symm
  obtain ⟨wf, hx4⟩ := (Bool.and_eq_true_iff).mp wf
  obtain ⟨wf, hx3⟩ := (Bool.and_eq_true_iff).mp wf
  obtain ⟨wf, hx2⟩ := (Bool.and_eq_true_iff).mp wf
  obtain ⟨wf, hx1⟩ := (Bool.and_eq_true_iff).mp wf
  obtain ⟨wf, hx0⟩ := (Bool.and_eq_true_iff).mp wf
  simp only [Bool.and_eq_true, decide_eq_true_eq] at wf
  obtain ⟨⟨⟨⟨⟨⟨⟨⟨⟨⟨⟨hqp, hhd⟩, hha⟩, hhb⟩, hty⟩, hca⟩, hcb⟩, hfn⟩, hdst⟩, haxis⟩, hside⟩, hcal⟩ := wf
  obtain ⟨w, hw⟩ : ∃ w, w = 1912602624 + qp * 2097152 + hd * 131072 + ha * 8192 + hb * 512 + ty * 64 + ca * 32 + cb * 16 + fn := ⟨_, rfl⟩
  have a := word50 (op := 28) (x := 1) w qp hd ha hb ty ca cb fn hw (by decide) (by decide) hqp hhd hha hhb hty hca hcb hfn
  rw [← hw]
  obtain ⟨v, hv⟩ : ∃ v, v = dst + axis * 32 + side * 64 + cal * 1024 := ⟨_, rfl⟩
  have b := ext8 v dst axis side cal hv hdst haxis hside hcal
  rw [← hv]
  refine ⟨Nat.lt_of_sub_eq_succ rfl, a.1, b.1, fun z => absurd (a.2.2.1.symm.trans z) (by decide), ?_⟩
  show decodeV w v = _
  unfold decodeV
  obtain ⟨-, a0, a1, a2, a3, a4, a5, a6, a7, a8, a9⟩ := a
  obtain ⟨-, b0, b1, b2, b3, b4⟩ := b
  simp only [a0, a1, a2, a3, a4, a5, a6, a7, a8, a9, b0, b1, b2, b3, b4, hx1, hx2, hx3, hx4]
  rw [if_neg (by simpa using of_decide_eq_true hx0)]
  rfl

theorem vdqnt (qp hd ha hb ty ca cb fn src axis side sat : Nat) : Statement (.vdqnt qp hd ha hb ty ca cb fn src axis side sat) := by
  intro wf y he
  replace wf : (decide (qp < 16) && decide (hd < 16) && decide (ha < 16) && decide (hb < 16) && decide (ty < 8) && decide (ca < 2) && decide (cb < 2) && decide (fn < 16) && decide (src < 32) && decide (axis < 2) && decide (side < 16) && decide (sat < 2) && decide (fn < 5) && decide (ty < 3) && ((decide (8 ≤ src) && decide (src ≤ 0xC)) || (decide (src = 0x16) || decide (src = 0x17))) && (if src = 0x16 ∨ src = 0x17 then true else decide (side = 0))) = true := wf
  obtain rfl : y = ⟨4, 1979711488 + qp * 2097152 + hd * 131072 + ha * 8192 + hb * 512 + ty * 64 + ca * 32 + cb * 16 + fn, src + axis * 32 + side * 64 + sat * 1024⟩ := (Option.some.inj he).symm
  obtain ⟨wf, hx3⟩ := (Bool.and_eq_true_iff).mp wf
  obtain ⟨wf, hx2⟩ := (Bool.and_eq_true_iff).mp wf
  obtain ⟨wf, hx1⟩ := (Bool.and_eq_true_iff).mp wf
  obtain ⟨wf, hx0⟩ := (Bool.and_eq_true_iff).mp wf
  simp only [Bool.and_eq_true, decide_eq_true_eq] at wf
  obtain ⟨⟨⟨⟨⟨⟨⟨⟨⟨⟨⟨hqp, hhd⟩, hha⟩, hhb⟩, hty⟩, hca⟩, hcb⟩, hfn⟩, hsrc⟩, haxis⟩, hside⟩, hsat⟩ := wf
  obtain ⟨w, hw⟩ : ∃ w, w = 1979711488 + qp * 2097152 + hd * 131072 + ha * 8192 + hb * 512 + ty * 64 + ca * 32 + cb * 16 + fn := ⟨_, rfl⟩
  have a := word50 (op := 29) (x := 1) w qp hd ha hb ty ca cb fn hw (by decide) (by decide) hqp hhd hha hhb hty hca hcb hfn
  rw [← hw]
  obtain ⟨v, hv⟩ : ∃ v, v = src + axis * 32 + side * 64 + sat * 1024 := ⟨_, rfl⟩
  have b := ext8 v src axis side sat hv hsrc haxis hside hsat
  rw [← hv]
  refine ⟨Nat.lt_of_sub_eq_succ rfl, a.1, b.1, fun z => absurd (a.2.2.1.symm.trans z) (by decide), ?_⟩
  show decodeV w v = _
  unfold decodeV
  obtain ⟨-, a0, a1, a2, a3, a4, a5, a6, a7, a8, a9⟩ := a
  obtain ⟨-, b0, b1, b2, b3, b4⟩ := b
  simp only [a0, a1, a2, a3, a4, a5, a6, a7, a8, a9, b0, b1, b2, b3, b4, hx1, hx2, hx3]
  rw [if_neg (by simpa using of_decide_eq_true hx0)]
  rfl

theorem vscale (qp hd ha hb ty ca cb fn : Nat) : Statement (.vscale qp hd ha hb ty ca cb fn) := by
  intro wf y he
  replace wf : (decide (qp < 16) && decide (hd < 16) && decide (ha < 16) && decide (hb < 16) && decide (ty < 8) && decide (ca < 2) && decide (cb < 2) && decide (fn < 16) && decide (fn < 5) && (decide (fn = 0) || decide (ty < 3))) = true := wf
  obtain rfl : y = ⟨4, 2013265920 + qp * 2097152 + hd * 131072 + ha * 8192 + hb * 512 + ty * 64 + ca * 32 + cb * 16 + fn, 0⟩ := (Option.some.inj he).symm
  obtain ⟨wf, hx1⟩ := (Bool.and_eq_true_iff).mp wf
  obtain ⟨wf, hx0⟩ := (Bool.and_eq_true_iff).mp wf
  simp only [Bool.and_eq_true, decide_eq_true_eq] at wf
  obtain ⟨⟨⟨⟨⟨⟨⟨hqp, hhd⟩, hha⟩, hhb⟩, hty⟩, hca⟩, hcb⟩, hfn⟩ := wf
  obtain ⟨w, hw⟩ : ∃ w, w = 2013265920 + qp * 2097152 + hd * 131072 + ha * 8192 + hb * 512 + ty * 64 + ca * 32 + cb * 16 + fn := ⟨_, rfl⟩
  have a := word50 (op := 30) (x := 0) w qp hd ha hb ty ca cb fn hw (by decide) (by decide) hqp hhd hha hhb hty hca hcb hfn
  rw [← hw]
  refine ⟨Nat.lt_of_sub_eq_succ rfl, a.1, Nat.two_pow_pos 32, fun _ => rfl, ?_⟩
  show decodeV w 0 = _
  unfold decodeV
  obtain ⟨-, a0, a1, a2, a3, a4, a5, a6, a7, a8, a9⟩ := a
  simp only [a0, a1, a2, a3, a4, a5, a6, a7, a8, a9, hx1]
  rw [if_neg (by simpa using of_decide_eq_true hx0)]
  rfl

theorem viota (qp hd ty fn : Nat) : Statement (.viota qp hd ty fn) := by
  intro wf y he
  replace wf : (decide (qp < 16) && decide (hd < 16) && decide (ty < 8) && decide (fn < 16) && decide (fn < 5) && (decide (fn = 0) || decide (ty < 3))) = true := wf
  obtain rfl : y = ⟨4, 2080374784 + qp * 2097152 + hd * 131072 + ty * 64 + fn, 0⟩ := (Option.some.inj he).symm
  obtain ⟨wf, hx1⟩ := (Bool.and_eq_true_iff).mp wf
  obtain ⟨wf, hx0⟩ := (Bool.and_eq_true_iff).mp wf
  simp only [Bool.and_eq_true, decide_eq_true_eq] at wf
  obtain ⟨⟨⟨hqp, hhd⟩, hty⟩, hfn⟩ := wf
  obtain ⟨w, hw⟩ : ∃ w, w = 2080374784 + qp * 2097152 + hd * 131072 + ty * 64 + fn := ⟨_, rfl⟩
  have a := word56 (op := 31) (x := 0) w qp hd ty fn hw (by decide) (by decide) hqp hhd hty hfn
  rw [← hw]
  refine ⟨Nat.lt_of_sub_eq_succ rfl, a.1, Nat.two_pow_pos 32, fun _ => rfl, ?_⟩
  show decodeV w 0 = _
  unfold decodeV
  obtain ⟨-, a0, a1, a2, a3, a4, a5, a6, a7⟩ := a
  simp only [a0, a1, a2, a3, a4, a5, a6, a7, hx1]
  rw [if_neg (by simpa using of_decide_eq_true hx0)]
  rfl

theorem vsums (qp sd ha sdhi ty ca : Nat) : Statement (.vsums qp sd ha sdhi ty ca) := by
  intro wf y he
  replace wf : (decide (qp < 16) && decide (sd < 16) && decide (ha < 16) && decide (sdhi < 2) && decide (ty < 8) && decide (ca < 2)) = true := wf
  obtain rfl : y = ⟨4, 2147483648 + qp * 2097152 + sd * 131072 + ha * 8192 + sdhi * 4096 + ty * 64 + ca * 32, 0⟩ := (Option.some.inj he).symm
  simp only [Bool.and_eq_true, decide_eq_true_eq] at wf
  obtain ⟨⟨⟨⟨⟨hqp, hsd⟩, hha⟩, hsdhi⟩, hty⟩, hca⟩ := wf
  obtain ⟨w, hw⟩ : ∃ w, w = 2147483648 + qp * 2097152 + sd * 131072 + ha * 8192 + sdhi * 4096 + ty * 64 + ca * 32 := ⟨_, rfl⟩
  have a := word57 (op := 32) (x := 0) (fn := 0) w qp sd ha sdhi ty ca hw (by decide) (by decide) (by decide) hqp hsd hha hsdhi hty hca
  rw [← hw]
  refine ⟨Nat.lt_of_sub_eq_succ rfl, a.1, Nat.two_pow_pos 32, fun _ => rfl, ?_⟩
  show decodeV w 0 = _
  unfold decodeV
  obtain ⟨-, a0, a1, a2, a3, a4, a5, a6, a7, a8, a9, a10⟩ := a
  simp only [a0, a1, a2, a3, a4, a5, a6, a7, a8, a9, a10]
  rfl

theorem mcall (qp routine acc z e : Nat) : Statement (.mcall qp routine acc z e) := by
  intro wf y he
  replace wf : (decide (qp < 16) && decide (routine < 256) && decide (acc < 8) && decide (z < 2) && decide (e < 16)) = true := wf
  obtain rfl : y = ⟨5, 0 + qp * 2097152 + routine * 8192 + acc * 1024 + z * 512 + e * 32, 0⟩ := (Option.some.inj he).symm
  simp only [Bool.and_eq_true, decide_eq_true_eq] at wf
  obtain ⟨⟨⟨⟨hqp, hroutine⟩, hacc⟩, hz⟩, he⟩ := wf
  obtain ⟨w, hw⟩ : ∃ w, w = 0 + qp * 2097152 + routine * 8192 + acc * 1024 + z * 512 + e * 32 := ⟨_, rfl⟩
  have a := word58 (op := 0) (x := 0) w qp routine acc z e hw (by decide) (by decide) hqp hroutine hacc hz he
  rw [← hw]
  refine ⟨Nat.lt_of_sub_eq_succ rfl, a.1, Nat.two_pow_pos 32, fun _ => rfl, ?_⟩
  show decodeM w 0 = _
  unfold decodeM
  obtain ⟨-, a0, a1, a2, a3, a4, a5, a6, a7⟩ := a
  simp only [a0, a1, a2, a3, a4, a5, a6, a7]
  rfl

theorem acczero (qp acc ty : Nat) : Statement (.acczero qp acc ty) := by
  intro wf y he
  replace wf : (decide (qp < 16) && decide (acc < 8) && decide (ty < 2)) = true := wf
  obtain rfl : y = ⟨5, 67108864 + qp * 2097152 + acc * 262144 + ty * 131072, 0⟩ := (Option.some.inj he).symm
  simp only [Bool.and_eq_true, decide_eq_true_eq] at wf
  obtain ⟨⟨hqp, hacc⟩, hty⟩ := wf
  obtain ⟨w, hw⟩ : ∃ w, w = 67108864 + qp * 2097152 + acc * 262144 + ty * 131072 := ⟨_, rfl⟩
  have a := word59 (op := 1) (x := 0) w qp acc ty hw (by decide) (by decide) hqp hacc hty
  rw [← hw]
  refine ⟨Nat.lt_of_sub_eq_succ rfl, a.1, Nat.two_pow_pos 32, fun _ => rfl, ?_⟩
  show decodeM w 0 = _
  unfold decodeM
  obtain ⟨-, a0, a1, a2, a3, a4, a5⟩ := a
  simp only [a0, a1, a2, a3, a4, a5]
  rfl

theorem accrd (qp hd acc ht fo rm sat ct : Nat) : Statement (.accrd qp hd acc ht fo rm sat ct) := by
  intro wf y he
  replace wf : (decide (qp < 16) && decide (hd < 16) && decide (acc < 8) && decide (ht < 16) && decide (fo < 32) && decide (rm < 8) && decide (sat < 2) && decide (ct < 2) && (decide (fo < 0x10) || (decide (fo = 0x16) || decide (fo = 0x17))) && decide (rm < 5)) = true := wf
  obtain rfl : y = ⟨5, 134217728 + qp * 2097152 + hd * 131072 + acc * 16384 + ht * 1024 + fo * 32 + rm * 4 + sat * 2 + ct, 0⟩ := (Option.some.inj he).symm
  obtain ⟨wf, hx1⟩ := (Bool.and_eq_true_iff).mp wf
  obtain ⟨wf, hx0⟩ := (Bool.and_eq_true_iff).mp wf
  simp only [Bool.and_eq_true, decide_eq_true_eq] at wf
  obtain ⟨⟨⟨⟨⟨⟨⟨hqp, hhd⟩, hacc⟩, hht⟩, hfo⟩, hrm⟩, hsat⟩, hct⟩ := wf
  obtain ⟨w, hw⟩ : ∃ w, w = 134217728 + qp * 2097152 + hd * 131072 + acc * 16384 + ht * 1024 + fo * 32 + rm * 4 + sat * 2 + ct := ⟨_, rfl⟩
  have a := word60 (op := 2) (x := 0) w qp hd acc ht fo rm sat ct hw (by decide) (by decide) hqp hhd hacc hht hfo hrm hsat hct
  rw [← hw]
  refine ⟨Nat.lt_of_sub_eq_succ rfl, a.1, Nat.two_pow_pos 32, fun _ => rfl, ?_⟩
  show decodeM w 0 = _
  unfold decodeM
  obtain ⟨-, a0, a1, a2, a3, a4, a5, a6, a7, a8, a9⟩ := a
  simp only [a0, a1, a2, a3, a4, a5, a6, a7, a8, a9, hx0, hx1]
  rfl

theorem accwr (qp acc hs c ty : Nat) : Statement (.accwr qp acc hs c ty) := by
  intro wf y he
  replace wf : (decide (qp < 16) && decide (acc < 8) && decide (hs < 16) && decide (c < 2) && decide (ty < 2)) = true := wf
  obtain rfl : y = ⟨5, 201326592 + qp * 2097152 + acc * 262144 + hs * 16384 + c * 8192 + ty * 4096, 0⟩ := (Option.some.inj he).symm
  simp only [Bool.and_eq_true, decide_eq_true_eq] at wf
  obtain ⟨⟨⟨⟨hqp, hacc⟩, hhs⟩, hc⟩, hty⟩ := wf
  obtain ⟨w, hw⟩ : ∃ w, w = 201326592 + qp * 2097152 + acc * 262144 + hs * 16384 + c * 8192 + ty * 4096 := ⟨_, rfl⟩
  have a := word61 (op := 3) (x := 0) w qp acc hs c ty hw (by decide) (by decide) hqp hacc hhs hc hty
  rw [← hw]
  refine ⟨Nat.lt_of_sub_eq_succ rfl, a.1, Nat.two_pow_pos 32, fun _ => rfl, ?_⟩
  show decodeM w 0 = _
  unfold decodeM
  obtain ⟨-, a0, a1, a2, a3, a4, a5, a6, a7⟩ := a
  simp only [a0, a1, a2, a3, a4, a5, a6, a7]
  rfl

theorem accmov (qp accd accs : Nat) : Statement (.accmov qp accd accs) := by
  intro wf y he
  replace wf : (decide (qp < 16) && decide (accd < 8) && decide (accs < 8)) = true := wf
  obtain rfl : y = ⟨5, 268435456 + qp * 2097152 + accd * 262144 + accs * 32768, 0⟩ := (Option.some.inj he).symm
  simp only [Bool.and_eq_true, decide_eq_true_eq] at wf
  obtain ⟨⟨hqp, haccd⟩, haccs⟩ := wf
  obtain ⟨w, hw⟩ : ∃ w, w = 268435456 + qp * 2097152 + accd * 262144 + accs * 32768 := ⟨_, rfl⟩
  have a := word29 (op := 4) (x := 0) w qp accd accs hw (by decide) (by decide) hqp haccd haccs
  rw [← hw]
  refine ⟨Nat.lt_of_sub_eq_succ rfl, a.1, Nat.two_pow_pos 32, fun _ => rfl, ?_⟩
  show decodeM w 0 = _
  unfold decodeM
  obtain ⟨-, a0, a1, a2, a3, a4, a5⟩ := a
  simp only [a0, a1, a2, a3, a4, a5]
  rfl

theorem ringpush (qp ring hs : Nat) : Statement (.ringpush qp ring hs) := by
  intro wf y he
  replace wf : (decide (qp < 16) && decide (ring < 8) && decide (hs < 16)) = true := wf
  obtain rfl : y = ⟨5, 335544320 + qp * 2097152 + ring * 262144 + hs * 16384, 0⟩ := (Option.some.inj he).symm
  simp only [Bool.and_eq_true, decide_eq_true_eq] at wf
  obtain ⟨⟨hqp, hring⟩, hhs⟩ := wf
  obtain ⟨w, hw⟩ : ∃ w, w = 335544320 + qp * 2097152 + ring * 262144 + hs * 16384 := ⟨_, rfl⟩
  have a := word62 (op := 5) (x := 0) w qp ring hs hw (by decide) (by decide) hqp hring hhs
  rw [← hw]
  refine ⟨Nat.lt_of_sub_eq_succ rfl, a.1, Nat.two_pow_pos 32, fun _ => rfl, ?_⟩
  show decodeM w 0 = _
  unfold decodeM
  obtain ⟨-, a0, a1, a2, a3, a4, a5⟩ := a
  simp only [a0, a1, a2, a3, a4, a5]
  rfl

theorem ringdrop (qp ring n : Nat) : Statement (.ringdrop qp ring n) := by
  intro wf y he
  replace wf : (decide (qp < 16) && decide (ring < 8) && decide (n < 32) && decide (1 ≤ n) && decide (n ≤ 16)) = true := wf
  obtain rfl : y = ⟨5, 402653184 + qp * 2097152 + ring * 262144 + n * 8192, 0⟩ := (Option.some.inj he).symm
  obtain ⟨wf, hx1⟩ := (Bool.and_eq_true_iff).mp wf
  obtain ⟨wf, hx0⟩ := (Bool.and_eq_true_iff).mp wf
  simp only [Bool.and_eq_true, decide_eq_true_eq] at wf
  obtain ⟨⟨hqp, hring⟩, hn⟩ := wf
  obtain ⟨w, hw⟩ : ∃ w, w = 402653184 + qp * 2097152 + ring * 262144 + n * 8192 := ⟨_, rfl⟩
  have a := word28 (op := 6) (x := 0) w qp ring n hw (by decide) (by decide) hqp hring hn
  rw [← hw]
  refine ⟨Nat.lt_of_sub_eq_succ rfl, a.1, Nat.two_pow_pos 32, fun _ => rfl, ?_⟩
  show decodeM w 0 = _
  unfold decodeM
  obtain ⟨-, a0, a1, a2, a3, a4, a5⟩ := a
  simp only [a0, a1, a2, a3, a4, a5, hx0, hx1]
  rfl

theorem ringinfo (qp sd ring : Nat) : Statement (.ringinfo qp sd ring) := by
  intro wf y he
  replace wf : (decide (qp < 16) && decide (sd < 32) && decide (ring < 8)) = true := wf
  obtain rfl : y = ⟨5, 469762048 + qp * 2097152 + sd * 65536 + ring * 8192, 0⟩ := (Option.some.inj he).symm
  simp only [Bool.and_eq_true, decide_eq_true_eq] at wf
  obtain ⟨⟨hqp, hsd⟩, hring⟩ := wf
  obtain ⟨w, hw⟩ : ∃ w, w = 469762048 + qp * 2097152 + sd * 65536 + ring * 8192 := ⟨_, rfl⟩
  have a := word19 (op := 7) (x := 0) w qp sd ring hw (by decide) (by decide) hqp hsd hring
  rw [← hw]
  refine ⟨Nat.lt_of_sub_eq_succ rfl, a.1, Nat.two_pow_pos 32, fun _ => rfl, ?_⟩
  show decodeM w 0 = _
  unfold decodeM
  obtain ⟨-, a0, a1, a2, a3, a4, a5⟩ := a
  simp only [a0, a1, a2, a3, a4, a5]
  rfl

theorem mprog (qp index f sa : Nat) : Statement (.mprog qp index f sa) := by
  intro wf y he
  replace wf : (decide (qp < 16) && decide (index < 256) && decide (f < 16) && decide (sa < 32)) = true := wf
  obtain rfl : y = ⟨5, 536870912 + qp * 2097152 + index * 8192 + f * 512 + sa * 16, 0⟩ := (Option.some.inj he).symm
  simp only [Bool.and_eq_true, decide_eq_true_eq] at wf
  obtain ⟨⟨⟨hqp, hindex⟩, hf⟩, hsa⟩ := wf
  obtain ⟨w, hw⟩ : ∃ w, w = 536870912 + qp * 2097152 + index * 8192 + f * 512 + sa * 16 := ⟨_, rfl⟩
  have a := word63 (op := 8) (x := 0) w qp index f sa hw (by decide) (by decide) hqp hindex hf hsa
  rw [← hw]
  refine ⟨Nat.lt_of_sub_eq_succ rfl, a.1, Nat.two_pow_pos 32, fun _ => rfl, ?_⟩
  show decodeM w 0 = _
  unfold decodeM
  obtain ⟨-, a0, a1, a2, a3, a4, a5, a6⟩ := a
  simp only [a0, a1, a2, a3, a4, a5, a6]
  rfl

theorem mprogExt (qp index f sa e : Nat) : Statement (.mprogExt qp index f sa e) := by
  intro wf y he
  replace wf : (decide (qp < 16) && decide (index < 256) && decide (f < 16) && decide (sa < 32) && decide (e < 16)) = true := wf
  obtain rfl : y = ⟨5, 570425344 + qp * 2097152 + index * 8192 + f * 512 + sa * 16, e⟩ := (Option.some.inj he).symm
  simp only [Bool.and_eq_true, decide_eq_true_eq] at wf
  obtain ⟨⟨⟨⟨hqp, hindex⟩, hf⟩, hsa⟩, he⟩ := wf
  obtain ⟨w, hw⟩ : ∃ w, w = 570425344 + qp * 2097152 + index * 8192 + f * 512 + sa * 16 := ⟨_, rfl⟩
  have a := word63 (op := 8) (x := 1) w qp index f sa hw (by decide) (by decide) hqp hindex hf hsa
  rw [← hw]
  have b := ext9 e e rfl he
  refine ⟨Nat.lt_of_sub_eq_succ rfl, a.1, b.1, fun z => absurd (a.2.2.1.symm.trans z) (by decide), ?_⟩
  show decodeM w e = _
  unfold decodeM
  obtain ⟨-, a0, a1, a2, a3, a4, a5, a6⟩ := a
  obtain ⟨-, b0, b1⟩ := b
  simp only [a0, a1, a2, a3, a4, a5, a6, b0, b1]
  rfl

theorem copyout (qp hs sh c red e : Nat) : Statement (.copyout qp hs sh c red e) := by
  intro wf y he
  replace wf : (decide (qp < 16) && decide (hs < 16) && decide (sh < 8) && decide (c < 2) && decide (red < 4) && decide (e < 16)) = true := wf
  obtain rfl : y = ⟨6, 0 + qp * 2097152 + hs * 131072 + sh * 16384 + c * 8192 + red * 2048 + e * 128, 0⟩ := (Option.some.inj he).symm
  simp only [Bool.and_eq_true, decide_eq_true_eq] at wf
  obtain ⟨⟨⟨⟨⟨hqp, hhs⟩, hsh⟩, hc⟩, hred⟩, he⟩ := wf
  obtain ⟨w, hw⟩ : ∃ w, w = 0 + qp * 2097152 + hs * 131072 + sh * 16384 + c * 8192 + red * 2048 + e * 128 := ⟨_, rfl⟩
  have a := word64 (op := 0) (x := 0) w qp hs sh c red e hw (by decide) (by decide) hqp hhs hsh hc hred he
  rw [← hw]
  refine ⟨Nat.lt_of_sub_eq_succ rfl, a.1, Nat.two_pow_pos 32, fun _ => rfl, ?_⟩
  show decodeO w 0 = _
  unfold decodeO
  obtain ⟨-, a0, a1, a2, a3, a4, a5, a6, a7, a8⟩ := a
  simp only [a0, a1, a2, a3, a4, a5, a6, a7, a8]
  rfl

theorem copyacc (qp acc sh e : Nat) : Statement (.copyacc qp acc sh e) := by
  intro wf y he
  replace wf : (decide (qp < 16) && decide (acc < 8) && decide (sh < 8) && decide (e < 16)) = true := wf
  obtain rfl : y = ⟨6, 67108864 + qp * 2097152 + acc * 262144 + sh * 32768 + e * 2048, 0⟩ := (Option.some.inj he).symm
  simp only [Bool.and_eq_true, decide_eq_true_eq] at wf
  obtain ⟨⟨⟨hqp, hacc⟩, hsh⟩, he⟩ := wf
  obtain ⟨w, hw⟩ : ∃ w, w = 67108864 + qp * 2097152 + acc * 262144 + sh * 32768 + e * 2048 := ⟨_, rfl⟩
  have a := word65 (op := 1) (x := 0) w qp acc sh e hw (by decide) (by decide) hqp hacc hsh he
  rw [← hw]
  refine ⟨Nat.lt_of_sub_eq_succ rfl, a.1, Nat.two_pow_pos 32, fun _ => rfl, ?_⟩
  show decodeO w 0 = _
  unfold decodeO
  obtain ⟨-, a0, a1, a2, a3, a4, a5, a6⟩ := a
  simp only [a0, a1, a2, a3, a4, a5, a6]
  rfl

theorem stt (qp sa hs sz imm9 : Nat) : Statement (.stt qp sa hs sz imm9) := by
  intro wf y he
  replace wf : (decide (qp < 16) && decide (sa < 32) && decide (hs < 16) && decide (sz < 4) && decide (imm9 < 512)) = true := wf
  obtain rfl : y = ⟨6, 134217728 + qp * 2097152 + sa * 65536 + hs * 4096 + sz * 1024 + imm9, 0⟩ := (Option.some.inj he).symm
  simp only [Bool.and_eq_true, decide_eq_true_eq] at wf
  obtain ⟨⟨⟨⟨hqp, hsa⟩, hhs⟩, hsz⟩, himm9⟩ := wf
  obtain ⟨w, hw⟩ : ∃ w, w = 134217728 + qp * 2097152 + sa * 65536 + hs * 4096 + sz * 1024 + imm9 := ⟨_, rfl⟩
  have a := word66 (op := 2) (x := 0) w qp sa hs sz imm9 hw (by decide) (by decide) hqp hsa hhs hsz himm9
  rw [← hw]
  refine ⟨Nat.lt_of_sub_eq_succ rfl, a.1, Nat.two_pow_pos 32, fun _ => rfl, ?_⟩
  show decodeO w 0 = _
  unfold decodeO
  obtain ⟨-, a0, a1, a2, a3, a4, a5, a6, a7⟩ := a
  simp only [a0, a1, a2, a3, a4, a5, a6, a7]
  rfl

theorem sttr (qp sa hs sz sb : Nat) : Statement (.sttr qp sa hs sz sb) := by
  intro wf y he
  replace wf : (decide (qp < 16) && decide (sa < 32) && decide (hs < 16) && decide (sz < 4) && decide (sb < 32)) = true := wf
  obtain rfl : y = ⟨6, 201326592 + qp * 2097152 + sa * 65536 + hs * 4096 + sz * 1024 + sb * 16, 0⟩ := (Option.some.inj he).symm
  simp only [Bool.and_eq_true, decide_eq_true_eq] at wf
  obtain ⟨⟨⟨⟨hqp, hsa⟩, hhs⟩, hsz⟩, hsb⟩ := wf
  obtain ⟨w, hw⟩ : ∃ w, w = 201326592 + qp * 2097152 + sa * 65536 + hs * 4096 + sz * 1024 + sb * 16 := ⟨_, rfl⟩
  have a := word67 (op := 3) (x := 0) w qp sa hs sz sb hw (by decide) (by decide) hqp hsa hhs hsz hsb
  rw [← hw]
  refine ⟨Nat.lt_of_sub_eq_succ rfl, a.1, Nat.two_pow_pos 32, fun _ => rfl, ?_⟩
  show decodeO w 0 = _
  unfold decodeO
  obtain ⟨-, a0, a1, a2, a3, a4, a5, a6, a7, a8⟩ := a
  simp only [a0, a1, a2, a3, a4, a5, a6, a7, a8]
  rfl

theorem stg (qp sb f sa sz e : Nat) : Statement (.stg qp sb f sa sz e) := by
  intro wf y he
  replace wf : (decide (qp < 16) && decide (sb < 32) && decide (f < 16) && decide (sa < 32) && decide (sz < 4) && decide (e < 16)) = true := wf
  obtain rfl : y = ⟨6, 268435456 + qp * 2097152 + sb * 65536 + f * 4096 + sa * 128 + sz * 32 + e, 0⟩ := (Option.some.inj he).symm
  simp only [Bool.and_eq_true, decide_eq_true_eq] at wf
  obtain ⟨⟨⟨⟨⟨hqp, hsb⟩, hf⟩, hsa⟩, hsz⟩, he⟩ := wf
  obtain ⟨w, hw⟩ : ∃ w, w = 268435456 + qp * 2097152 + sb * 65536 + f * 4096 + sa * 128 + sz * 32 + e := ⟨_, rfl⟩
  have a := word68 (op := 4) (x := 0) w qp sb f sa sz e hw (by decide) (by decide) hqp hsb hf hsa hsz he
  rw [← hw]
  refine ⟨Nat.lt_of_sub_eq_succ rfl, a.1, Nat.two_pow_pos 32, fun _ => rfl, ?_⟩
  show decodeO w 0 = _
  unfold decodeO
  obtain ⟨-, a0, a1, a2, a3, a4, a5, a6, a7, a8⟩ := a
  simp only [a0, a1, a2, a3, a4, a5, a6, a7, a8]
  rfl

theorem atom (qp sd f sa sb aop scope order size e : Nat) : Statement (.atom qp sd f sa sb aop scope order size e) := by
  intro wf y he
  replace wf : (decide (qp < 16) && decide (sd < 32) && decide (f < 16) && decide (sa < 32) && decide (sb < 32) && decide (aop < 16) && decide (scope < 8) && decide (order < 4) && decide (size < 2) && decide (e < 16) && decide (aop ≤ 8) && decide (scope ≤ 4)) = true := wf
  obtain rfl : y = ⟨6, 369098752 + qp * 2097152 + sd * 65536 + f * 4096 + sa * 128 + sb * 4, aop + scope * 16 + order * 128 + size * 512 + e * 1024⟩ := (Option.some.inj he).symm
  obtain ⟨wf, hx1⟩ := (Bool.and_eq_true_iff).mp wf
  obtain ⟨wf, hx0⟩ := (Bool.and_eq_true_iff).mp wf
  simp only [Bool.and_eq_true, decide_eq_true_eq] at wf
  obtain ⟨⟨⟨⟨⟨⟨⟨⟨⟨hqp, hsd⟩, hf⟩, hsa⟩, hsb⟩, haop⟩, hscope⟩, horder⟩, hsize⟩, he⟩ := wf
  obtain ⟨w, hw⟩ : ∃ w, w = 369098752 + qp * 2097152 + sd * 65536 + f * 4096 + sa * 128 + sb * 4 := ⟨_, rfl⟩
  have a := word69 (op := 5) (x := 1) w qp sd f sa sb hw (by decide) (by decide) hqp hsd hf hsa hsb
  rw [← hw]
  obtain ⟨v, hv⟩ : ∃ v, v = aop + scope * 16 + order * 128 + size * 512 + e * 1024 := ⟨_, rfl⟩
  have b := ext10 v aop scope order size e hv haop hscope horder hsize he
  rw [← hv]
  refine ⟨Nat.lt_of_sub_eq_succ rfl, a.1, b.1, fun z => absurd (a.2.2.1.symm.trans z) (by decide), ?_⟩
  show decodeO w v = _
  unfold decodeO
  obtain ⟨-, a0, a1, a2, a3, a4, a5, a6, a7⟩ := a
  obtain ⟨-, b0, b1, b2, b3, b4, b5⟩ := b
  simp only [a0, a1, a2, a3, a4, a5, a6, a7, b0, b1, b2, b3, b4, b5, hx0, hx1]
  rfl

theorem cas (qp sd f sa sb scope order size e : Nat) : Statement (.cas qp sd f sa sb scope order size e) := by
  intro wf y he
  replace wf : (decide (qp < 16) && decide (sd < 32) && decide (f < 16) && decide (sa < 32) && decide (sb < 32) && decide (scope < 8) && decide (order < 4) && decide (size < 2) && decide (e < 16) && decide (scope ≤ 4)) = true := wf
  obtain rfl : y = ⟨6, 436207616 + qp * 2097152 + sd * 65536 + f * 4096 + sa * 128 + sb * 4, scope * 16 + order * 128 + size * 512 + e * 1024⟩ := (Option.some.inj he).symm
  obtain ⟨wf, hx0⟩ := (Bool.and_eq_true_iff).mp wf
  simp only [Bool.and_eq_true, decide_eq_true_eq] at wf
  obtain ⟨⟨⟨⟨⟨⟨⟨⟨hqp, hsd⟩, hf⟩, hsa⟩, hsb⟩, hscope⟩, horder⟩, hsize⟩, he⟩ := wf
  obtain ⟨w, hw⟩ : ∃ w, w = 436207616 + qp * 2097152 + sd * 65536 + f * 4096 + sa * 128 + sb * 4 := ⟨_, rfl⟩
  have a := word69 (op := 6) (x := 1) w qp sd f sa sb hw (by decide) (by decide) hqp hsd hf hsa hsb
  rw [← hw]
  obtain ⟨v, hv⟩ : ∃ v, v = scope * 16 + order * 128 + size * 512 + e * 1024 := ⟨_, rfl⟩
  have b := ext11 v scope order size e hv hscope horder hsize he
  rw [← hv]
  refine ⟨Nat.lt_of_sub_eq_succ rfl, a.1, b.1, fun z => absurd (a.2.2.1.symm.trans z) (by decide), ?_⟩
  show decodeO w v = _
  unfold decodeO
  obtain ⟨-, a0, a1, a2, a3, a4, a5, a6, a7⟩ := a
  obtain ⟨-, b0, b1, b2, b3, b4, b5⟩ := b
  simp only [a0, a1, a2, a3, a4, a5, a6, a7, b0, b1, b2, b3, b4, b5, hx0]
  rfl

theorem send (qp ch hs c e : Nat) : Statement (.send qp ch hs c e) := by
  intro wf y he
  replace wf : (decide (qp < 16) && decide (ch < 256) && decide (hs < 16) && decide (c < 2) && decide (e < 16)) = true := wf
  obtain rfl : y = ⟨6, 469762048 + qp * 2097152 + ch * 8192 + hs * 512 + c * 256 + e * 16, 0⟩ := (Option.some.inj he).symm
  simp only [Bool.and_eq_true, decide_eq_true_eq] at wf
  obtain ⟨⟨⟨⟨hqp, hch⟩, hhs⟩, hc⟩, he⟩ := wf
  obtain ⟨w, hw⟩ : ∃ w, w = 469762048 + qp * 2097152 + ch * 8192 + hs * 512 + c * 256 + e * 16 := ⟨_, rfl⟩
  have a := word70 (op := 7) (x := 0) w qp ch hs c e hw (by decide) (by decide) hqp hch hhs hc he
  rw [← hw]
  refine ⟨Nat.lt_of_sub_eq_succ rfl, a.1, Nat.two_pow_pos 32, fun _ => rfl, ?_⟩
  show decodeO w 0 = _
  unfold decodeO
  obtain ⟨-, a0, a1, a2, a3, a4, a5, a6, a7⟩ := a
  simp only [a0, a1, a2, a3, a4, a5, a6, a7]
  rfl

theorem sendt (qp ch hs c e thr ctr : Nat) : Statement (.sendt qp ch hs c e thr ctr) := by
  intro wf y he
  replace wf : (decide (qp < 16) && decide (ch < 256) && decide (hs < 16) && decide (c < 2) && decide (e < 16) && decide (thr < 67108864) && decide (ctr < 64)) = true := wf
  obtain rfl : y = ⟨6, 570425344 + qp * 2097152 + ch * 8192 + hs * 512 + c * 256 + e * 16, thr + ctr * 67108864⟩ := (Option.some.inj he).symm
  simp only [Bool.and_eq_true, decide_eq_true_eq] at wf
  obtain ⟨⟨⟨⟨⟨⟨hqp, hch⟩, hhs⟩, hc⟩, he⟩, hthr⟩, hctr⟩ := wf
  obtain ⟨w, hw⟩ : ∃ w, w = 570425344 + qp * 2097152 + ch * 8192 + hs * 512 + c * 256 + e * 16 := ⟨_, rfl⟩
  have a := word70 (op := 8) (x := 1) w qp ch hs c e hw (by decide) (by decide) hqp hch hhs hc he
  rw [← hw]
  obtain ⟨v, hv⟩ : ∃ v, v = thr + ctr * 67108864 := ⟨_, rfl⟩
  have b := ext12 v thr ctr hv hthr hctr
  rw [← hv]
  refine ⟨Nat.lt_of_sub_eq_succ rfl, a.1, b.1, fun z => absurd (a.2.2.1.symm.trans z) (by decide), ?_⟩
  show decodeO w v = _
  unfold decodeO
  obtain ⟨-, a0, a1, a2, a3, a4, a5, a6, a7⟩ := a
  obtain ⟨-, b0, b1⟩ := b
  simp only [a0, a1, a2, a3, a4, a5, a6, a7, b0, b1]
  rfl

theorem putr (qp ch hs c sa : Nat) : Statement (.putr qp ch hs c sa) := by
  intro wf y he
  replace wf : (decide (qp < 16) && decide (ch < 256) && decide (hs < 16) && decide (c < 2) && decide (sa < 32)) = true := wf
  obtain rfl : y = ⟨6, 603979776 + qp * 2097152 + ch * 8192 + hs * 512 + c * 256 + sa * 8, 0⟩ := (Option.some.inj he).symm
  simp only [Bool.and_eq_true, decide_eq_true_eq] at wf
  obtain ⟨⟨⟨⟨hqp, hch⟩, hhs⟩, hc⟩, hsa⟩ := wf
  obtain ⟨w, hw⟩ : ∃ w, w = 603979776 + qp * 2097152 + ch * 8192 + hs * 512 + c * 256 + sa * 8 := ⟨_, rfl⟩
  have a := word71 (op := 9) (x := 0) w qp ch hs c sa hw (by decide) (by decide) hqp hch hhs hc hsa
  rw [← hw]
  refine ⟨Nat.lt_of_sub_eq_succ rfl, a.1, Nat.two_pow_pos 32, fun _ => rfl, ?_⟩
  show decodeO w 0 = _
  unfold decodeO
  obtain ⟨-, a0, a1, a2, a3, a4, a5, a6, a7⟩ := a
  simp only [a0, a1, a2, a3, a4, a5, a6, a7]
  rfl

theorem ctraddRemote (qp ch sa : Nat) : Statement (.ctraddRemote qp ch sa) := by
  intro wf y he
  replace wf : (decide (qp < 16) && decide (ch < 256) && decide (sa < 32)) = true := wf
  obtain rfl : y = ⟨6, 671088640 + qp * 2097152 + ch * 4096 + sa * 128, 0⟩ := (Option.some.inj he).symm
  simp only [Bool.and_eq_true, decide_eq_true_eq] at wf
  obtain ⟨⟨hqp, hch⟩, hsa⟩ := wf
  obtain ⟨w, hw⟩ : ∃ w, w = 671088640 + qp * 2097152 + ch * 4096 + sa * 128 := ⟨_, rfl⟩
  have a := word72 (op := 10) (x := 0) (fn := 0) w qp ch sa hw (by decide) (by decide) (by decide) hqp hch hsa
  rw [← hw]
  refine ⟨Nat.lt_of_sub_eq_succ rfl, a.1, Nat.two_pow_pos 32, fun _ => rfl, ?_⟩
  show decodeO w 0 = _
  unfold decodeO
  obtain ⟨-, a0, a1, a2, a3, a4, a5, a6⟩ := a
  simp only [a0, a1, a2, a3, a4, a5, a6]
  rfl

theorem ctraddLocal (qp c sa : Nat) : Statement (.ctraddLocal qp c sa) := by
  intro wf y he
  replace wf : (decide (qp < 16) && decide (c < 64) && decide (sa < 32)) = true := wf
  obtain rfl : y = ⟨6, 672137216 + qp * 2097152 + c * 4096 + sa * 128, 0⟩ := (Option.some.inj he).symm
  simp only [Bool.and_eq_true, decide_eq_true_eq] at wf
  obtain ⟨⟨hqp, hc⟩, hsa⟩ := wf
  obtain ⟨w, hw⟩ : ∃ w, w = 672137216 + qp * 2097152 + c * 4096 + sa * 128 := ⟨_, rfl⟩
  have a := word73 (op := 10) (x := 0) (fn := 1) w qp c sa hw (by decide) (by decide) (by decide) hqp hc hsa
  rw [← hw]
  refine ⟨Nat.lt_of_sub_eq_succ rfl, a.1, Nat.two_pow_pos 32, fun _ => rfl, ?_⟩
  show decodeO w 0 = _
  unfold decodeO
  obtain ⟨-, a0, a1, a2, a3, a4, a5, a6, a7⟩ := a
  simp only [a0, a1, a2, a3, a4, a5, a6, a7]
  rfl

theorem mbox (qp hs c sa e : Nat) : Statement (.mbox qp hs c sa e) := by
  intro wf y he
  replace wf : (decide (qp < 16) && decide (hs < 16) && decide (c < 2) && decide (sa < 32) && decide (e < 16)) = true := wf
  obtain rfl : y = ⟨6, 738197504 + qp * 2097152 + hs * 131072 + c * 65536 + sa * 2048 + e * 128, 0⟩ := (Option.some.inj he).symm
  simp only [Bool.and_eq_true, decide_eq_true_eq] at wf
  obtain ⟨⟨⟨⟨hqp, hhs⟩, hc⟩, hsa⟩, he⟩ := wf
  obtain ⟨w, hw⟩ : ∃ w, w = 738197504 + qp * 2097152 + hs * 131072 + c * 65536 + sa * 2048 + e * 128 := ⟨_, rfl⟩
  have a := word74 (op := 11) (x := 0) w qp hs c sa e hw (by decide) (by decide) hqp hhs hc hsa he
  rw [← hw]
  refine ⟨Nat.lt_of_sub_eq_succ rfl, a.1, Nat.two_pow_pos 32, fun _ => rfl, ?_⟩
  show decodeO w 0 = _
  unfold decodeO
  obtain ⟨-, a0, a1, a2, a3, a4, a5, a6, a7⟩ := a
  simp only [a0, a1, a2, a3, a4, a5, a6, a7]
  rfl

theorem scatter (qp hs hi sh c ci red e : Nat) : Statement (.scatter qp hs hi sh c ci red e) := by
  intro wf y he
  replace wf : (decide (qp < 16) && decide (hs < 16) && decide (hi < 16) && decide (sh < 8) && decide (c < 2) && decide (ci < 2) && decide (red < 4) && decide (e < 16)) = true := wf
  obtain rfl : y = ⟨6, 805306368 + qp * 2097152 + hs * 131072 + hi * 8192 + sh * 1024 + c * 512 + ci * 256 + red * 64 + e * 4, 0⟩ := (Option.some.inj he).symm
  simp only [Bool.and_eq_true, decide_eq_true_eq] at wf
  obtain ⟨⟨⟨⟨⟨⟨⟨hqp, hhs⟩, hhi⟩, hsh⟩, hc⟩, hci⟩, hred⟩, he⟩ := wf
  obtain ⟨w, hw⟩ : ∃ w, w = 805306368 + qp * 2097152 + hs * 131072 + hi * 8192 + sh * 1024 + c * 512 + ci * 256 + red * 64 + e * 4 := ⟨_, rfl⟩
  have a := word75 (op := 12) (x := 0) w qp hs hi sh c ci red e hw (by decide) (by decide) hqp hhs hhi hsh hc hci hred he
  rw [← hw]
  refine ⟨Nat.lt_of_sub_eq_succ rfl, a.1, Nat.two_pow_pos 32, fun _ => rfl, ?_⟩
  show decodeO w 0 = _
  unfold decodeO
  obtain ⟨-, a0, a1, a2, a3, a4, a5, a6, a7, a8, a9, a10⟩ := a
  simp only [a0, a1, a2, a3, a4, a5, a6, a7, a8, a9, a10]
  rfl

theorem prime (qp ch hs c reads : Nat) : Statement (.prime qp ch hs c reads) := by
  intro wf y he
  replace wf : (decide (qp < 16) && decide (ch < 256) && decide (hs < 16) && decide (c < 2) && decide (reads < 256) && decide (reads ≠ 0)) = true := wf
  obtain rfl : y = ⟨6, 872415232 + qp * 2097152 + ch * 8192 + hs * 512 + c * 256 + reads, 0⟩ := (Option.some.inj he).symm
  obtain ⟨wf, hx0⟩ := (Bool.and_eq_true_iff).mp wf
  simp only [Bool.and_eq_true, decide_eq_true_eq] at wf
  obtain ⟨⟨⟨⟨hqp, hch⟩, hhs⟩, hc⟩, hreads⟩ := wf
  obtain ⟨w, hw⟩ : ∃ w, w = 872415232 + qp * 2097152 + ch * 8192 + hs * 512 + c * 256 + reads := ⟨_, rfl⟩
  have a := word76 (op := 13) (x := 0) w qp ch hs c reads hw (by decide) (by decide) hqp hch hhs hc hreads
  rw [← hw]
  refine ⟨Nat.lt_of_sub_eq_succ rfl, a.1, Nat.two_pow_pos 32, fun _ => rfl, ?_⟩
  show decodeO w 0 = _
  unfold decodeO
  obtain ⟨-, a0, a1, a2, a3, a4, a5, a6⟩ := a
  simp only [a0, a1, a2, a3, a4, a5, a6, hx0]
  rfl

theorem chunkArrives (x0 : Nat) (x1 : Nat) (x2 : Nat) : Statement (.chunkArrives x0 x1 x2) := fun _ _ e => nomatch (show none = some _ from e)

theorem tileJobComplete (x0 : Nat) (x1 : Nat) : Statement (.tileJobComplete x0 x1) := fun _ _ e => nomatch (show none = some _ from e)

theorem outJobComplete (x0 : Nat) (x1 : Nat) : Statement (.outJobComplete x0 x1) := fun _ _ e => nomatch (show none = some _ from e)

theorem ldgComplete (x0 : Nat) (x1 : Nat) : Statement (.ldgComplete x0 x1) := fun _ _ e => nomatch (show none = some _ from e)

theorem jobFault (x0 : Nat) (x1 : Nat) : Statement (.jobFault x0 x1) := fun _ _ e => nomatch (show none = some _ from e)

theorem ovlComplete (x0 : Nat) (x1 : Nat) : Statement (.ovlComplete x0 x1) := fun _ _ e => nomatch (show none = some _ from e)

theorem vectorResultLands (x0 : Nat) (x1 : Nat) : Statement (.vectorResultLands x0 x1) := fun _ _ e => nomatch (show none = some _ from e)

theorem accrdComplete (x0 : Nat) (x1 : Nat) : Statement (.accrdComplete x0 x1) := fun _ _ e => nomatch (show none = some _ from e)

theorem routineStart (x0 : Nat) (x1 : Nat) : Statement (.routineStart x0 x1) := fun _ _ e => nomatch (show none = some _ from e)

theorem routineBlockComplete (x0 : Nat) (x1 : Nat) : Statement (.routineBlockComplete x0 x1) := fun _ _ e => nomatch (show none = some _ from e)

theorem routineRetire (x0 : Nat) (x1 : Nat) : Statement (.routineRetire x0 x1) := fun _ _ e => nomatch (show none = some _ from e)

theorem routineFault (x0 : Nat) (x1 : Nat) : Statement (.routineFault x0 x1) := fun _ _ e => nomatch (show none = some _ from e)

theorem mprogComplete (x0 : Nat) (x1 : Nat) : Statement (.mprogComplete x0 x1) := fun _ _ e => nomatch (show none = some _ from e)

theorem spawnAccepted (x0 : Nat) (x1 : Nat) : Statement (.spawnAccepted x0 x1) := fun _ _ e => nomatch (show none = some _ from e)

theorem sendFire (x0 : Nat) (x1 : Nat) : Statement (.sendFire x0 x1) := fun _ _ e => nomatch (show none = some _ from e)

theorem sendtFire (x0 : Nat) (x1 : Nat) : Statement (.sendtFire x0 x1) := fun _ _ e => nomatch (show none = some _ from e)

theorem sendComplete (x0 : Nat) (x1 : Nat) : Statement (.sendComplete x0 x1) := fun _ _ e => nomatch (show none = some _ from e)

theorem primeComplete (x0 : Nat) (x1 : Nat) : Statement (.primeComplete x0 x1) := fun _ _ e => nomatch (show none = some _ from e)

theorem serifData (x0 : Nat) (x1 : Packet) : Statement (.serifData x0 x1) := fun _ _ e => nomatch (show none = some _ from e)

theorem landingComplete (x0 : Nat) (x1 : Nat) : Statement (.landingComplete x0 x1) := fun _ _ e => nomatch (show none = some _ from e)

theorem blotDeadline (x0 : Nat) (x1 : Nat) : Statement (.blotDeadline x0 x1) := fun _ _ e => nomatch (show none = some _ from e)

theorem serifAck (x0 : Nat) (x1 : Nat) : Statement (.serifAck x0 x1) := fun _ _ e => nomatch (show none = some _ from e)

theorem serifNack (x0 : Nat) (x1 : Nat) : Statement (.serifNack x0 x1) := fun _ _ e => nomatch (show none = some _ from e)

theorem slotReady (x0 : Nat) (x1 : Packet) : Statement (.slotReady x0 x1) := fun _ _ e => nomatch (show none = some _ from e)

theorem counterAdd (x0 : Nat) (x1 : Packet) : Statement (.counterAdd x0 x1) := fun _ _ e => nomatch (show none = some _ from e)

theorem serifMailbox (x0 : Nat) (x1 : Packet) : Statement (.serifMailbox x0 x1) := fun _ _ e => nomatch (show none = some _ from e)

theorem refusal (x0 : Nat) (x1 : Packet) : Statement (.refusal x0 x1) := fun _ _ e => nomatch (show none = some _ from e)

theorem bindNotice (x0 : Nat) (x1 : Packet) : Statement (.bindNotice x0 x1) := fun _ _ e => nomatch (show none = some _ from e)

theorem retransmitTimeout (x0 : Nat) (x1 : Nat) : Statement (.retransmitTimeout x0 x1) := fun _ _ e => nomatch (show none = some _ from e)

theorem lossOfSignalDead (x0 : Nat) (x1 : Nat) : Statement (.lossOfSignalDead x0 x1) := fun _ _ e => nomatch (show none = some _ from e)

theorem auditNodeRequest (x0 : Nat) (x1 : Bytes) : Statement (.auditNodeRequest x0 x1) := fun _ _ e => nomatch (show none = some _ from e)

theorem auditJobComplete (x0 : Nat) (x1 : Nat) (x2 : List NodeAnswer) : Statement (.auditJobComplete x0 x1 x2) := fun _ _ e => nomatch (show none = some _ from e)

theorem rootLogWrite (x0 : Nat) : Statement (.rootLogWrite x0) := fun _ _ e => nomatch (show none = some _ from e)

theorem nodeEntersWindow (x0 : Nat) (x1 : Nat) : Statement (.nodeEntersWindow x0 x1) := fun _ _ e => nomatch (show none = some _ from e)

theorem nodeDispatch (x0 : Nat) (x1 : Nat) : Statement (.nodeDispatch x0 x1) := fun _ _ e => nomatch (show none = some _ from e)

theorem taskStart (x0 : Nat) : Statement (.taskStart x0) := fun _ _ e => nomatch (show none = some _ from e)

theorem steal (x0 : Nat) : Statement (.steal x0) := fun _ _ e => nomatch (show none = some _ from e)

theorem queueStarvation (x0 : Nat) (x1 : Nat) (x2 : Nat) : Statement (.queueStarvation x0 x1 x2) := fun _ _ e => nomatch (show none = some _ from e)

theorem taskComplete (x0 : Nat) (x1 : Nat) : Statement (.taskComplete x0 x1) := fun _ _ e => nomatch (show none = some _ from e)

theorem graphComplete (x0 : Nat) (x1 : Nat) : Statement (.graphComplete x0 x1) := fun _ _ e => nomatch (show none = some _ from e)

theorem watchdogW1 (x0 : Nat) (x1 : Nat) : Statement (.watchdogW1 x0 x1) := fun _ _ e => nomatch (show none = some _ from e)

theorem watchdogW2 (x0 : Nat) (x1 : Nat) : Statement (.watchdogW2 x0 x1) := fun _ _ e => nomatch (show none = some _ from e)

theorem watchdogW3 (x0 : Nat) (x1 : Nat) : Statement (.watchdogW3 x0 x1) := fun _ _ e => nomatch (show none = some _ from e)

theorem softErrorCorrected (x0 : Nat) (x1 : Bool) : Statement (.softErrorCorrected x0 x1) := fun _ _ e => nomatch (show none = some _ from e)

theorem freezeEnd (x0 : Nat) : Statement (.freezeEnd x0) := fun _ _ e => nomatch (show none = some _ from e)

theorem padUncorrectable (x0 : ErrAt) : Statement (.padUncorrectable x0) := fun _ _ e => nomatch (show none = some _ from e)

theorem bankUncorrectable (x0 : Nat) (x1 : Nat) : Statement (.bankUncorrectable x0 x1) := fun _ _ e => nomatch (show none = some _ from e)

theorem doorbell (x0 : Nat) (x1 : Nat) (x2 : Nat) : Statement (.doorbell x0 x1 x2) := fun _ _ e => nomatch (show none = some _ from e)

theorem registerWrite (x0 : Nat) (x1 : Nat) (x2 : Nat) (x3 : Nat) : Statement (.registerWrite x0 x1 x2 x3) := fun _ _ e => nomatch (show none = some _ from e)

theorem launch (x0 : Nat) (x1 : Nat) : Statement (.launch x0 x1) := fun _ _ e => nomatch (show none = some _ from e)

theorem patch (x0 : Nat) (x1 : Nat) : Statement (.patch x0 x1) := fun _ _ e => nomatch (show none = some _ from e)

theorem load (x0 : Nat) (x1 : Nat) : Statement (.load x0 x1) := fun _ _ e => nomatch (show none = some _ from e)

theorem loadComplete (x0 : Nat) (x1 : Nat) : Statement (.loadComplete x0 x1) := fun _ _ e => nomatch (show none = some _ from e)

theorem unload (x0 : Nat) (x1 : Nat) : Statement (.unload x0 x1) := fun _ _ e => nomatch (show none = some _ from e)

theorem barrier (x0 : Nat) (x1 : Nat) : Statement (.barrier x0 x1) := fun _ _ e => nomatch (show none = some _ from e)

theorem signal (x0 : Nat) (x1 : Nat) : Statement (.signal x0 x1) := fun _ _ e => nomatch (show none = some _ from e)

theorem hostSeal (x0 : Nat) (x1 : Nat) : Statement (.hostSeal x0 x1) := fun _ _ e => nomatch (show none = some _ from e)

theorem bind (x0 : Nat) (x1 : Nat) : Statement (.bind x0 x1) := fun _ _ e => nomatch (show none = some _ from e)

theorem setchip (x0 : Nat) : Statement (.setchip x0) := fun _ _ e => nomatch (show none = some _ from e)

theorem setroute (x0 : Nat) : Statement (.setroute x0) := fun _ _ e => nomatch (show none = some _ from e)

theorem retrain (x0 : Nat) : Statement (.retrain x0) := fun _ _ e => nomatch (show none = some _ from e)

theorem xinv (x0 : Nat) (x1 : Nat) (x2 : Nat) : Statement (.xinv x0 x1 x2) := fun _ _ e => nomatch (show none = some _ from e)

theorem qrootWrite (x0 : Nat) (x1 : Nat) (x2 : Nat) : Statement (.qrootWrite x0 x1 x2) := fun _ _ e => nomatch (show none = some _ from e)

theorem nodectlRelease (x0 : Nat) (x1 : Nat) : Statement (.nodectlRelease x0 x1) := fun _ _ e => nomatch (show none = some _ from e)

theorem nodectlFail (x0 : Nat) (x1 : Nat) : Statement (.nodectlFail x0 x1) := fun _ _ e => nomatch (show none = some _ from e)

theorem ufenceClear (x0 : Nat) (x1 : Nat) : Statement (.ufenceClear x0 x1) := fun _ _ e => nomatch (show none = some _ from e)

theorem ufenceSet (x0 : Nat) (x1 : Nat) : Statement (.ufenceSet x0 x1) := fun _ _ e => nomatch (show none = some _ from e)

theorem qctlEnable (x0 : Nat) (x1 : Nat) : Statement (.qctlEnable x0 x1) := fun _ _ e => nomatch (show none = some _ from e)

theorem qctlDisable (x0 : Nat) (x1 : Nat) : Statement (.qctlDisable x0 x1) := fun _ _ e => nomatch (show none = some _ from e)

theorem poolcfgWrite (x0 : Nat) (x1 : Nat) (x2 : Nat) : Statement (.poolcfgWrite x0 x1 x2) := fun _ _ e => nomatch (show none = some _ from e)

theorem statrd (x0 : Nat) (x1 : Nat) : Statement (.statrd x0 x1) := fun _ _ e => nomatch (show none = some _ from e)

theorem getVersion : Statement (.getVersion) := fun _ _ e => nomatch (show none = some _ from e)

theorem getCapabilities : Statement (.getCapabilities) := fun _ _ e => nomatch (show none = some _ from e)

theorem negotiateAlgorithms : Statement (.negotiateAlgorithms) := fun _ _ e => nomatch (show none = some _ from e)

theorem getDigests : Statement (.getDigests) := fun _ _ e => nomatch (show none = some _ from e)

theorem getCertificate (x0 : Nat) (x1 : Nat) (x2 : Nat) : Statement (.getCertificate x0 x1 x2) := fun _ _ e => nomatch (show none = some _ from e)

theorem challenge (x0 : Nat) (x1 : Bytes) : Statement (.challenge x0 x1) := fun _ _ e => nomatch (show none = some _ from e)

theorem getMeasurements (x0 : Nat) (x1 : Bool) (x2 : Bytes) : Statement (.getMeasurements x0 x1 x2) := fun _ _ e => nomatch (show none = some _ from e)

theorem unsupportedRequest (x0 : Nat) : Statement (.unsupportedRequest x0) := fun _ _ e => nomatch (show none = some _ from e)

theorem importRegion (x0 : ImportReq) : Statement (.importRegion x0) := fun _ _ e => nomatch (show none = some _ from e)

theorem release (x0 : Nat) : Statement (.release x0) := fun _ _ e => nomatch (show none = some _ from e)

theorem signLogHead : Statement (.signLogHead) := fun _ _ e => nomatch (show none = some _ from e)

theorem meterRefill : Statement (.meterRefill) := fun _ _ e => nomatch (show none = some _ from e)

theorem crossingGrant (x0 : Nat) (x1 : Nat) : Statement (.crossingGrant x0 x1) := fun _ _ e => nomatch (show none = some _ from e)

theorem powerOn (x0 : Bytes) : Statement (.powerOn x0) := fun _ _ e => nomatch (show none = some _ from e)

theorem thermalGate (x0 : Nat) : Statement (.thermalGate x0) := fun _ _ e => nomatch (show none = some _ from e)

theorem thermalShutdown : Statement (.thermalShutdown) := fun _ _ e => nomatch (show none = some _ from e)

theorem fixedLatencyResultLands (x0 : Nat) (x1 : Nat) (x2 : Nat) : Statement (.fixedLatencyResultLands x0 x1 x2) := fun _ _ e => nomatch (show none = some _ from e)

theorem slotStorageReturns (x0 : Nat) (x1 : Nat) : Statement (.slotStorageReturns x0 x1) := fun _ _ e => nomatch (show none = some _ from e)

theorem mboxLocalDelivery (x0 : Nat) : Statement (.mboxLocalDelivery x0) := fun _ _ e => nomatch (show none = some _ from e)

theorem auditConfigTakesEffect (x0 : Nat) (x1 : Nat) : Statement (.auditConfigTakesEffect x0 x1) := fun _ _ e => nomatch (show none = some _ from e)

theorem fecFailure (x0 : Nat) (x1 : Packet) : Statement (.fecFailure x0 x1) := fun _ _ e => nomatch (show none = some _ from e)

theorem lossOfSignalChanges (x0 : Nat) (x1 : Bool) (x2 : Nat) : Statement (.lossOfSignalChanges x0 x1 x2) := fun _ _ e => nomatch (show none = some _ from e)

theorem linkTrainingComplete (x0 : Nat) : Statement (.linkTrainingComplete x0) := fun _ _ e => nomatch (show none = some _ from e)

theorem thermalGateRelease (x0 : Nat) : Statement (.thermalGateRelease x0) := fun _ _ e => nomatch (show none = some _ from e)

end Sys2Proof.Laws.RoundTrip
end

