-- ==== Sys2Proof/Laws/Shared.lean ====
section
/-!
SUPPORT. What the shared operations leave alone: records of the debug rings, translations, leaves.
-/
set_option Elab.async false

namespace Sys2Proof.Machine

variable (s : State)

/-- `t` has the units, the pads and the current unit and bank of `s`. -/
def SameUnits (s t : State) : Prop :=
  t.units = s.units ∧ t.pads = s.pads ∧ t.curU = s.curU ∧ t.curB = s.curB ∧ t.msgs = s.msgs ∧ t.ports = s.ports

theorem SameUnits.refl : SameUnits s s := ⟨rfl, rfl, rfl, rfl, rfl, rfl⟩

theorem SameUnits.trans {s t v : State} (h : SameUnits s t) (k : SameUnits t v) : SameUnits s v := by
  obtain ⟨a, b, c, d, e, f⟩ := h
  obtain ⟨a', b', c', d', e', f'⟩ := k
  exact ⟨a'.trans a, b'.trans b, c'.trans c, d'.trans d, e'.trans e, f'.trans f⟩

theorem SameUnits.unit {s t : State} (h : SameUnits s t) (u : Nat) : t.unit u = s.unit u := by simp [State.unit, h.1]

theorem SameUnits.cur {s t : State} (h : SameUnits s t) : t.cur = s.cur := by
  obtain ⟨a, -, b, c, -, -⟩ := h
  simp [State.cur, State.ctxAt, State.unit, a, b, c]

theorem SameUnits.slot {s t : State} (h : SameUnits s t) (r : TileRef) : t.slot r = s.slot r := by simp [State.slot, State.pad, h.2.1]

/-- A write of global memory leaves the units (R184). -/
theorem sameUnits_writeGlobal (ks : List Nat) (bs : Bytes) : SameUnits s (s.writeGlobal ks bs) := ⟨rfl, rfl, rfl, rfl, rfl, rfl⟩

theorem sameUnits_updQueue (d q : Nat) (f : QueueSt → QueueSt) : SameUnits s (s.updQueue d q f) := ⟨rfl, rfl, rfl, rfl, rfl, rfl⟩

/-- Counting requests leaves the units (R154). -/
theorem sameUnits_countVA (d : Nat) (ks : List Nat) : SameUnits s (s.countVA d ks) := ⟨rfl, rfl, rfl, rfl, rfl, rfl⟩

/-- A record of a debug ring leaves the units (R245). -/
theorem sameUnits_ringRecord (d q : Nat) (r : Bytes) : SameUnits s (s.ringRecord d q r) := by
  unfold State.ringRecord
  dsimp only
  split
  · exact .refl s
  · refine .trans ?_ (sameUnits_updQueue _ _ _ _)
    split
    · exact (sameUnits_countVA s _ _).trans (sameUnits_writeGlobal _ _ _)
    · exact .refl s

theorem sameUnits_debugRecord (d q r : Nat) (x : Bytes) : SameUnits s (s.debugRecord d q r x) := by
  unfold State.debugRecord
  generalize (s.die d).holders q r = l
  induction l generalizing s with
  | nil => exact .refl s
  | cons h l ih => exact (sameUnits_ringRecord s d h x).trans (ih _)

/-- A trace record leaves the units (R245). -/
theorem sameUnits_trace (u b : Nat) (c : Ctx) (k x y : Nat) : SameUnits s (s.trace u b c k x y) := sameUnits_debugRecord s _ _ _ _

@[simp] theorem State.cur_trace (u b : Nat) (c : Ctx) (k x y : Nat) : (s.trace u b c k x y).cur = s.cur := (sameUnits_trace s u b c k x y).cur

@[simp] theorem State.curU_trace (u b : Nat) (c : Ctx) (k x y : Nat) : (s.trace u b c k x y).curU = s.curU := (sameUnits_trace s u b c k x y).2.2.1

@[simp] theorem State.unit_trace (v u b : Nat) (c : Ctx) (k x y : Nat) : (s.trace u b c k x y).unit v = s.unit v := (sameUnits_trace s u b c k x y).unit v

@[simp] theorem State.slot_trace (r : TileRef) (u b : Nat) (c : Ctx) (k x y : Nat) : (s.trace u b c k x y).slot r = s.slot r :=
  (sameUnits_trace s u b c k x y).slot r

/-- A translation changes its unit's buffer alone (R150, R151). -/
theorem State.xlate_eq (w : Who) (k : Kind) (va : Nat) :
    (s.xlate w k va).1 = s ∨ ∃ l, (s.xlate w k va).1 = s.setUnit w.unit { s.unit w.unit with tlb := l } := by
  unfold State.xlate
  dsimp only
  repeat' split
  all_goals first | exact .inl rfl | exact .inr ⟨_, rfl⟩

/-- Taking a leaf index changes the current context alone (R370). -/
theorem State.takeLeaf_eq (i : Instr) : (s.takeLeaf i).1 = s.setCur (s.cur.takeLeaf s.issAddr i.slot i.syl.w i.syl.ext).1 := rfl

@[simp] theorem State.takeLeaf_mem (i : Instr) : (s.takeLeaf i).1.mem = s.mem := rfl

@[simp] theorem State.takeLeaf_curU (i : Instr) : (s.takeLeaf i).1.curU = s.curU := rfl

end Sys2Proof.Machine
end

