-- ==== Sys2Proof/Tests/Slice0.lean ====
section
/-!
SUPPORT. Tests: ill-formed terms, decoded words, single steps with results worked out by hand from the rules, and for each statement
with hypotheses a state and operands that meet them.
-/
set_option Elab.async false

namespace Sys2Proof.Tests

open Machine

/-! ## Small states -/

/-- A pool of eight slots of 2 KiB in the L1 pad of unit 0. Slots 0, 2, 3 and 7 hold tiles of FP32, 4 one of 64 bits, 1 and 5
are allocated and not produced, 6 is the landing slot of channel 1. -/
def pad0 : PadSt :=
  let mine : SlotSt := { okind := 1, oid := 5, reads := 1, ptCid := 1, produced := true, arrival := 1, valid := [(0, 1)] }
  let free : SlotSt := { mine with produced := false, arrival := 0 }
  { pools := [(0, ⟨11, 9, 0⟩)]
    slots := [(0, mine), (1, free), (2, mine), (3, mine), (4, { mine with fmt := 0x1A }), (5, free),
      (6, { chan := some (0, 1, 0) }), (7, { mine with cols := 15 })] }

/-- A context of level 1, task 5 of queue 2: h1 to h8 name slots 0 to 7, sh1 one FP32 element of f1, two banks, a pool-table entry. -/
def ctx1 : Ctx :=
  { cid := 1, queue := 2, level := 1, taskId := 5, obj := 1, banks := 2, pc := 0x100
    s := [(1, 8), (3, 4096), (4, 0x200000200), (5, 0x800), (7, 1), (8, 0x10000), (9, 0x55)]
    h := (List.range 8).map fun n => (n + 1, BitVec.ofNat 32 (handleOf ⟨0, n⟩ 1))
    fp := [(1, ⟨0x10000, 0x1000, 2⟩)]
    sh := [(0, 1), (3, 1), (4, 1), (8, 4), (16, 1), (17, 1)].map fun x => (shKey 1 x.1, BitVec.ofNat 64 x.2)
    mp := [(0, 9), (1, 9)]
    pt := [(0, { level := 0, pool := 0, resM1 := 7, inUse := 0, valid := true })] }

/-- The end of channel 1, and of channel 2, which reduces. -/
def chan1 : ChanEnd :=
  { peerChip := 0, peerEp := 1, fmt := 0, rows := 1, cols := 1, depth := 1, blot := false, red := 0, ctr := 1, deadline := 9, usable := true
    ready := 4, slots := [⟨0, 6⟩], g0 := [1] }

/-- Unit 0 with that context in bank 0, and its endpoint. -/
def unit0 : UnitSt :=
  { fence := 0, ctxs := [(0, ctx1)], accs := [(0, { owner := some 1 }), (1, { owner := some 1 })]
    endpoint := some { ep := 0, die := 0, queue := 2, ends := [(1, chan1), (2, { chan1 with red := 1 })] } }

/-- The machine with unit 0 issuing from bank 0. -/
def s1 : State :=
  { power := .on, mem := [(memKey (regPad 0) 0x1000, 1)], units := [(0, unit0)], pads := [(0, pad0)]
    dies := [(0, { queues := [(2, { en := true })], routes := [(0, 0)] })], ports := [(0, { dead := false })] }

/-- The same, with its context changed. -/
def s1c (f : Ctx → Ctx) : State := s1.updCur f

/-- The same as a handler of the context that a breakpoint parked in bank 1 and whose copy has faulted, inside a loop. -/
def s2 : State :=
  (s1.updUnit 0 fun x =>
    { x with
      ctxs := x.ctxs ++ [(1, { ctx1 with cid := 2, status := .parked [] true true true })]
      jobs := [{ jid := 8, cid := 2, die := 0, queue := 2, kind := .copyIn, instr := .copyin 0 2 1 0, tag := 0x55, fault := some (trapOf 0x10 0) }] }).updCur
    fun c => { c with handles := some (some 2), li := [⟨0x40, 0x80, 3, 3, 0, false⟩] }

/-- The same with a gather open on slot 1. -/
def s3 : State := s1.updUnit 0 fun x =>
  { x with jobs := [{ jid := 9, cid := 1, die := 0, queue := 2, kind := .gather, instr := .gather 0 2 1 0, dst := some ⟨0, 1⟩, shape := ctx1.sample 1 }] }

/-- Whether the bundle of an operation passes the four examinations of R424 in a state. -/
def runs (s : State) (i : Instr) : Bool :=
  match semOf i with
  | some o => decide (Issuable s o)
  | none => false

/-- Whether each operation of some lists of one length runs in one of the states given with them. -/
def eachRuns : List (State × List Instr) → Bool
  | [] => false
  | x :: xs => (List.range x.2.length).all fun k => (x :: xs).any fun y => (y.2[k]?).any (runs y.1)

/-! ## Well-formedness: an ill-formed term for each check -/

/-- A value one past the width of its field, for each field and width. -/
theorem test_too_wide_fields_are_ill_formed : (
  [Instr.add 16 0 0 0, .add 0 32 0 0, .add 0 0 32 0, .add 0 0 0 32, .addi 0 0 0 2048, .addiExt 0 0 0 0 4294967296,
    .movi 0 0 65536, .cmp 0 16 0 0 0 0, .cmp 0 0 16 0 0 0, .cmp 0 0 0 0 0 8, .cmpi 0 0 0 0 32 0, .sel 0 0 0 0 16,
    .bfx 0 0 0 64 0, .bfx 0 0 0 0 64, .lea 0 0 0 0 8, .movs 0 0 256, .br 0 2097152, .loop 0 0 2048, .loopi 0 1024 0,
    .loopr 0 0 16 0, .loopr 0 0 0 4096, .plog 0 16 0 0 0, .plog 0 0 16 0 0, .plog 0 0 0 16 0, .plog 0 0 0 0 8,
    .fmtseti 0 4294967296, .semwait 0 16 1, .semwait 0 1 256, .waitc 0 16 0 0, .waitc 0 0 8 0, .ctrwait 0 64 0, .fence 0 0 8,
    .spawn 0 16 0 1, .spawnOverlap 0 0 0 1 2, .statpop 0 0 32, .csrr 0 0 0 2048, .capopDerive 0 0 0 0 64,
    .ctxctlRead 0 0 0 0 65536, .ctxctlBrkSet 0 0 0 0 4, .audroot 0 16 0, .audroot 0 0 8, .shset 0 8 0 0, .shset 0 0 32 0,
    .shseti 0 0 0 4294967296, .shcopy 0 8 0, .shcopy 0 0 8, .shstep 0 0 4 0, .mpset 0 8 0 0, .mpset 0 0 2 0, .mpseti 0 0 4 0,
    .vshape 0 128 0, .vshape 0 0 2048, .fpnarrow 0 16 0 0 0 0]).all (fun i => !i.wf) = true := by decide

theorem test_too_wide_fields_are_ill_formed' : (
  [Instr.fpnarrow 0 0 16 0 0 0, .fpnarrow 0 0 0 4 0 0, .shrd 0 0 2 0 0, .shrd 0 0 0 8 0, .shrd 0 0 0 0 32, .alloc 0 0 16 1,
    .alloc 0 0 0 256, .gpush 0 0 0 2, .tmove 0 0 16 0 1, .tmove 0 0 0 2 1, .ldt 0 0 0 4 0 0, .ldt 0 0 0 0 2 0,
    .ldt 0 0 0 0 0 512, .tinfo 0 0 0 16, .landh 0 0 256 0, .vadd 0 0 16 0 0 0 0 0, .vadd 0 0 0 16 0 0 0 0, .vadd 0 0 0 0 8 0 0 0,
    .vadd 0 0 0 0 0 2 0 0, .vadd 0 0 0 0 0 0 2 0, .vadd 0 0 0 0 0 0 0 16, .vsfu 0 0 0 0 0 0 8, .vcvt 0 0 0 0 0 64 0 0 0,
    .vcvt 0 0 0 0 0 0 64 0 0, .vcvt 0 0 0 0 0 0 0 2 0, .vcvt 0 0 0 0 0 0 0 0 2, .vqnt 0 0 0 0 0 0 0 0 32 0 0 0,
    .vqnt 0 0 0 0 0 0 0 0 0 2 0 0, .vqnt 0 0 0 0 0 0 0 0 0 0 16 0, .vqnt 0 0 0 0 0 0 0 0 0 0 0 2,
    .vdqnt 0 0 0 0 0 0 0 0 32 0 0 0, .vsums 0 16 0 0 0 0, .vsums 0 0 0 2 0 0, .mcall 0 256 0 0 1, .mcall 0 0 8 0 1,
    .mcall 0 0 0 2 1, .acczero 0 0 2, .accrd 0 0 0 16 0 0 0 0, .accrd 0 0 0 0 32 0 0 0, .accrd 0 0 0 0 0 8 0 0,
    .accrd 0 0 0 0 0 0 0 2, .accmov 0 8 0, .accmov 0 0 8, .ringpush 0 8 0, .ringdrop 0 0 32, .mprog 0 256 0 0,
    .copyout 0 0 0 0 4 1, .atom 0 0 0 0 0 16 0 0 0 1, .atom 0 0 0 0 0 0 0 4 0 1, .atom 0 0 0 0 0 0 0 0 2 1,
    .sendt 0 0 0 0 1 67108864 0, .sendt 0 0 0 0 1 0 64, .scatter 0 0 16 0 0 0 0 1, .scatter 0 0 0 0 0 2 0 1]).all (fun i => !i.wf) = true := by decide

/-- A value that a field may not hold. -/
theorem test_reserved_values_are_ill_formed : (
  [Instr.shli 0 0 0 64, .shliExt 0 0 0 0 1, .shliExt 0 0 0 64 0, .shri 0 0 0 64, .shriExt 0 0 0 0 1, .sari 0 0 0 64,
    .sariExt 0 0 0 0 1, .bfx 0 0 0 60 4, .bfxs 0 0 0 60 4, .bfi 0 0 0 60 4, .movs 0 0 6, .movs 0 0 7, .movs 0 0 16,
    .plog 0 0 0 1 5, .plog 0 0 1 0 6, .plog 0 0 0 1 7, .semwait 0 0 1, .semwait 0 1 0, .semsig 0 0 1, .semsig 0 1 0,
    .fence 0 0 5, .ctxctlRead 0 0 0 0 4, .ctxctlRead 0 0 0 0 4096, .ctxctlWrite 0 0 0 0 4, .ctxctlWrite 0 0 0 0 4096,
    .audsealSeal 0 0 1 0, .audroot 0 0 3, .shset 0 0 20 0, .shseti 0 0 20 0, .mpset 0 5 0 0, .mpset 0 7 0 0, .mpseti 0 5 0 0,
    .mpseti 0 7 0 0, .shrd 0 0 0 0 20, .shrd 0 0 1 0 2, .ldt 0 0 0 3 1 0, .ldtr 0 0 0 3 1 0, .ldg 0 0 0 0 3 1 0, .tinfo 0 0 0 12]).all (fun i => !i.wf) = true := by decide

theorem test_reserved_values_are_ill_formed' : (
  [Instr.vadd 0 0 0 0 0 0 0 5, .vadd 0 0 0 0 3 0 0 1, .vsub 0 0 0 0 3 0 0 1, .vmul 0 0 0 0 3 0 0 1, .vfma 0 0 0 0 3 0 0 1,
    .vshl 0 0 0 0 2 0 0, .vshr 0 0 0 0 2 0 0, .vcmp 0 0 0 0 0 0 0 6, .vfillExt 0 0 5 256, .vfillExt 0 0 1 65536,
    .vsfu 0 0 0 0 0 5 0, .vsfu 0 0 0 3 0 0 0, .vsfu 0 0 0 0 0 0 6, .vrsum 0 0 0 3 0 1, .vcsum 0 0 0 3 0 1, .vdot 0 0 0 0 3 0 0 1,
    .vmacc 0 0 0 0 3 0 0 0, .vscale 0 0 0 0 3 0 0 1, .viota 0 0 3 1, .vcvt 0 0 0 0 5 0 0 0 0, .vcvt 0 0 0 0 0 0x10 0 0 0,
    .vcvt 0 0 0 0 0 0 0x10 0 0, .vcvt 0 0 0 0 0 0 0 0 1, .vqnt 0 0 0 0 0 0 0 5 8 0 0 0, .vqnt 0 0 0 0 3 0 0 0 8 0 0 0,
    .vqnt 0 0 0 0 0 0 0 0 7 0 0 0, .vqnt 0 0 0 0 0 0 0 0 8 0 1 0, .vqnt 0 0 0 0 0 0 0 0 0x16 0 0 0,
    .vqnt 0 0 0 0 0 0 1 0 8 0 0 0, .vdqnt 0 0 0 0 3 0 0 0 8 0 0 0, .vdqnt 0 0 0 0 0 0 0 0 7 0 0 0,
    .vdqnt 0 0 0 0 0 0 0 0 8 0 1 0, .accrd 0 0 0 0 0x10 0 0 0, .accrd 0 0 0 0 0 5 0 0, .ringdrop 0 0 0, .ringdrop 0 0 17,
    .atom 0 0 0 0 0 9 0 0 0 0, .atom 0 0 0 0 0 0 5 0 0 0, .cas 0 0 0 0 0 5 0 0 0, .prime 0 0 0 0 0]).all (fun i => !i.wf) = true := by decide

/-- Values at the ends of their ranges are well formed. -/
theorem test_bounds_are_well_formed :
    (Instr.add 15 31 31 31).wf = true ∧ (Instr.bfx 0 0 0 60 3).wf = true ∧ (Instr.movs 0 0 15).wf = true ∧ (Instr.ringdrop 0 7 16).wf = true ∧
    (Instr.vqnt 0 0 0 0 0 0 0 0 0x16 0 1 0).wf = true ∧ (Instr.ctxctlRead 0 0 0 0 4088).wf = true := by decide

/-! ## Decoding: a word of each class, written out bit by bit as op, X, qp, then the fields of its table

The word_ theorems of Decode.lean have one for every constructor. -/

theorem test_word_scalar : decodeSyl ⟨0, 0b000001_0_0000_00011_00001_00011111111, 0⟩ = .ok (.addi 0 3 1 255) := by decide
theorem test_word_control : decodeSyl ⟨1, 0b001011_0_0011_0101_00000111_000000000, 0⟩ = .ok (.semwait 3 5 7) := by decide
theorem test_word_system : decodeSyl ⟨1, 0b100000_0_0000_00000_0000000000000111, 0⟩ = .ok (.trap 0 7) := by decide
theorem test_word_audit : decodeSyl ⟨1, 0b110000_0_0000_00101_00110_00000000000, 0⟩ = .ok (.audmark 0 5 6) := by decide
theorem test_word_descriptor : decodeSyl ⟨2, 0b000000_0_0000_101_00011_00111_00000000, 0⟩ = .ok (.shset 0 5 3 7) := by decide
theorem test_word_copy : decodeSyl ⟨3, 0b000011_0_0000_0010_101_1001_0000000000, 0⟩ = .ok (.copyin 0 2 5 9) := by decide
theorem test_word_vector : decodeSyl ⟨4, 0b000000_0_0000_0001_0010_0011_010_1_0_0100, 0⟩ = .ok (.vadd 0 1 2 3 2 1 0 4) := by decide
theorem test_word_matrix : decodeSyl ⟨5, 0b000000_0_0000_00000111_011_1_0101_00000, 0⟩ = .ok (.mcall 0 7 3 1 5) := by decide
theorem test_word_store : decodeSyl ⟨6, 0b000000_0_0000_0010_101_1_01_1001_0000000, 0⟩ = .ok (.copyout 0 2 5 1 1 9) := by decide
theorem test_word_channel : decodeSyl ⟨6, 0b000111_0_0000_00000011_0010_1_0101_0000, 0⟩ = .ok (.send 0 3 2 1 5) := by decide

/-! ## Hypotheses that states meet: operations -/

/-- The next state of an operation or event. -/
def nx (i : Instr) (s : State) : State :=
  match exec i s with
  | .next t => t
  | _ => State.reset

theorem test_scalar_rows_are_met :
    (scalarRows 0 9 1 3).all (fun r => r.met s1) = true ∧ (immediateRows 0 9 1 5 6 1).all (fun r => r.met s1) = true ∧
    (fieldRows 0 9 1 3 0 3 4 2 ++ specialRows 0 9).all (fun r => r.met s1) = true ∧ (predicateRows 0 1 2 1 3 4 0 0 1 2).all (fun r => r.met s1) = true := by
  decide +kernel

theorem test_descriptor_rows_are_met :
    (descriptorRows 0 1 2 3 0 2 0 0 3 7 2 1 0 1 3 0).all (fun r => r.met s1) = true := by decide +kernel

theorem test_read_rows_are_met : (readRows 0 9 10 0 1 3 1 0 1 1 3 0x30).all (fun r => r.met s1) = true := by decide +kernel

theorem test_control_operations_issue :
    eachRuns [(s1, controlOperations 0 5 0 2 4 3 1 1 0 1 0 1 9 0 1 0 10), (s2, controlOperations 0 5 0 2 4 3 1 1 0 1 0 1 9 0 1 0 10)] = true := by
  decide +kernel

theorem test_copy_operations_issue :
    eachRuns [(s1, copyOperations 0 2 0 1 1 1 1 1 1 1 0 9 2 0 0 2 1), (s1, copyOperations 0 2 0 1 1 1 1 1 1 5 0 9 2 0 0 2 1),
      (s3, copyOperations 0 2 0 1 1 1 1 1 1 1 0 9 2 0 0 2 1)] = true := by decide +kernel

theorem test_store_operations_issue : eachRuns [(s1, storeOperations 0 1 1 0 0 1 0 2 2 0 2 1 9 0 0 0 0 1 0)] = true := by decide +kernel

theorem test_channel_operations_issue :
    eachRuns [(s1, channelOperations 0 1 1 0 1 1 0 2 1), (s1, channelOperations 0 2 1 0 1 1 0 2 1), (s1, channelOperations 0 1 0 0 1 1 0 2 1),
      (s1, channelOperations 0 1 8 0 1 1 0 2 1)] = true := by decide +kernel

theorem test_vector_operations_issue :
    eachRuns [(s1, vectorOperations 0 2 1 3 0 0 0 0 0 0 0 0 0 0 0 0 0 9 0), (s1, vectorOperations 0 4 1 3 0 0 0 0 0 0 0 0 0 0 0 0 0 9 0),
      (s1, vectorOperations 0 2 1 5 0 0 0 0 0 0 0 0 0 0 0 0 0 9 0), (s1, vectorOperations 0 2 1 6 0 0 0 0 0 0 0 0 0 0 0 0 0 9 0)] = true := by
  decide +kernel

theorem test_matrix_operations_issue :
    eachRuns [(s1, matrixOperations 0 0 0 1 0 0 2 0 0 0 0 0 1 0 0 1 0 0)] = true ∧ eachRuns [(s1, taskLevelOperations 0 7 1 2 2 1)] = true := by
  decide +kernel

/-- All but AUDSEAL SEAL and MPROG, which hold after their start. -/
def issuing1 (sd sa csr sb rights : Nat) : List Instr :=
  ((supervisorOperations 0 sd sa csr sb rights 0 0 1 0 0).eraseIdx 22).eraseIdx 21

theorem test_supervisor_operations_issue :
    eachRuns [(s1, issuing1 9 2 4 2 1), (s1, issuing1 10 3 1 2 1),
      (s2, issuing1 10 4 1 8 1), (s2, issuing1 10 9 1 8 1),
      (s2, issuing1 10 7 1 2 1)] = true ∧ s1.cur.level ≠ 0 ∧ s2.cur.level ≠ 0 := by decide +kernel

/-- The operations whose work is a job, from those families. -/
theorem test_job_operations_issue :
    ([.gather 0 2 1 0, .ldg 0 9 1 1 2 0 0, .stg 0 1 1 1 2 0, .atom 0 9 1 1 2 0 0 0 1 0, .cas 0 9 1 1 2 0 0 1 0, .copyacc 0 0 1 0,
      .spawn 0 1 1 0, .spawnOverlap 0 1 1 0 1, .audbisect 0 9 1 1 0, .audref 0 9 1 1 0, .audreplay 0 9 1 1 0,
      .mprogExt 0 0 1 1 0] : List Instr).all (runs s1) = true ∧ runs s2 (.ovl 0 1 4 8 0) = true := by decide +kernel

/-- A result in flight before and at its bound. -/
theorem test_results_in_flight :
    let c : Ctx := { cid := 1, fly := [⟨5, 6, .s 3, 7, 0⟩] }
    (∀ n ∈ [5, 6], ({ c with bundleNo := n } : Ctx).pres = none ∧ ({ c with bundleNo := n } : Ctx).shadow = []) ∧
    ({ c with bundleNo := 5 } : Ctx).begin.ps 3 = 0 ∧ ({ c with bundleNo := 6 } : Ctx).begin.ps 3 = 7 := by decide

/-- The encoded numbers 24 and 31 at ROT 7 and 1 (R191). -/
theorem test_rotation : physS 7 24 = 31 ∧ physS 1 31 = 24 ∧ physS 5 23 = 23 ∧ physQ 7 8 = 15 ∧ physQ 1 15 = 8 := by decide

theorem test_predicated_off :
    let s := s1c fun c => { c with q := [(3, false)] }
    s.cur.level ≠ 0 ∧ s.begin.cur.pres = none ∧ s.begin.cur.after = .none ∧ noStraddle s.begin.cur 5 = true ∧ s.begin.cur.rq 3 = false ∧
    atLoopEnd (shown s (.add 3 1 1 1)) (presOf s (.add 3 1 1 1)) = false ∧ (Instr.add 3 1 1 1).syl.bytes.length = 4 := by decide +kernel

/-- The fault of a job that SEMWAIT observes, and the failed check of LBREAK with no loop. -/
theorem test_faults_before_issue :
    (let s := s1.updUnit 0 fun x => { x with jobs := [{ jid := 8, cid := 1, die := 0, queue := 2, kind := .copyIn, instr := .copyin 0 2 1 1, sem := 1,
                                                        fault := some (trapOf 0x10 0) }] }
     Ready s (.semwait 0 1 1) 0 ∧
     ((shown s (.semwait 0 1 1)).faultOf (shown s (.semwait 0 1 1)).curU ((semSemwait 0 1 1).obs (shown s (.semwait 0 1 1)))).isSome = true) ∧
    Ready s1 (.lbreak 0) 0 ∧ (shown s1 (.lbreak 0)).faultOf (shown s1 (.lbreak 0)).curU ((semLbreak 0).obs (shown s1 (.lbreak 0))) = none ∧
    (semLbreak 0).check (shown s1 (.lbreak 0)) = some (trapOf 6 0) ∧ (trapOf 6 0).engine = false ∧ s1.cur.level ≠ 0 := by decide +kernel

/-- A wait on a semaphore without enough, a semaphore with no room, a command port with no room. -/
theorem test_held_bundles :
    (semSemwait 0 1 1).hold ((semSemwait 0 1 1).hook (shown s1 (.semwait 0 1 1))) = true ∧
    (let s := s1c fun c => { c with semV := [(1, 255)] }
     semRoom ((semSemsig 0 1 1).hook (shown s (.semsig 0 1 1))).cur ((semSemsig 0 1 1).adds ((semSemsig 0 1 1).hook (shown s (.semsig 0 1 1)))) = false ∧
     Ready s (.semsig 0 1 1) 0) ∧
    (let s := s1.updUnit 0 fun x => { x with jobs := (List.range 64).map fun n =>
       { jid := n + 8, cid := 9, die := 0, queue := 2, kind := .copyIn, instr := .copyin 0 2 1 0 } }
     Ready s (.ldg 0 9 1 1 2 0 0) 0 ∧ (semLdg 0 9 1 1 2 0 0).check (shown s (.ldg 0 9 1 1 2 0 0)) = none ∧
     64 < (((((semLdg 0 9 1 1 2 0 0).hook (shown s (.ldg 0 9 1 1 2 0 0))).unit 0).jobs.countP Job.engine)) + 1) := by
  decide +kernel

theorem test_level_0 : (s1c fun c => { c with level := 0 }).cur.level = 0 := by decide

/-- Outside loops; at a loop start with room for a seventh entry, and without; a count of 1 and of 0. -/
theorem test_loop_starts :
    Ready s1 (.br 0 5) 0 ∧ s1.begin.cur.li = [] ∧ Ready s1 (.loop 0 1 1) 0 ∧ (s1.begin.cur.rs 1).toNat = 8 ∧ (s1.begin.cur.rs 0).toNat = 0 ∧
    Ready s1 (.loopr 0 1 1 1024) 0 ∧ Ready s1 (.loopi 0 1 0) 0 ∧ Ready s1 (.loopi 0 1 1025) 0 ∧
    (let s := s1c fun c => { c with li := List.replicate 6 ⟨0, 0x1000, 3, 3, 0, false⟩ }
     Ready s (.loopi 0 1 1) 0 ∧ s.begin.cur.li.length = 6) ∧
    (let s := s1c fun c => { c with li := List.replicate 5 ⟨0, 0x1000, 3, 3, 0, false⟩ }
     Ready s (.loopi 0 1 1) 0 ∧ Ready s (.loopi 0 0 1) 0 ∧ s.begin.cur.li.length = 5) := by decide +kernel

/-- The debug rings of every queue are off, and no pre-emption is pending. -/
theorem test_control_frame :
    (∀ q, (s1.queue s1.begin.cur.die q).dbg = 0) ∧ s1.begin.cur.preempt = false ∧
    ([.br 0 5, .brExt 0 5 0, .call 0 5, .callExt 0 5 0, .brs 0 1, .calls 0 1, .loop 0 1 4, .loopi 0 3 4, .loopiExt 0 3 4 0,
      .loopr 0 1 1 4] : List Instr).all (runs s1) = true ∧ runs s2 (.lbreak 0) = true := by
  refine ⟨?_, by decide +kernel⟩
  intro q
  have h : s1.begin.cur.die = 0 := by decide
  rw [h]
  simp only [State.queue, s1, State.die]
  by_cases hq : q = 2
  · subst hq; rfl
  · simp [Map.look, Map.entry?, Ne.symm hq]

/-- The three places of a bundle at a loop: elsewhere, at the end with iterations left, at the end with none. -/
theorem test_loop_boundary :
    let l : Loop := ⟨0x40, 0x80, 2, 1, 0, true⟩
    (¬ (l.start ≤ 0x30 ∧ 0x30 < l.stop ∧ 0x80 = l.stop)) ∧ (l.start ≤ 0x40 ∧ 0x40 < l.stop ∧ 0x80 = l.stop) ∧ l.index + 1 < l.total ∧
    ({ l with index := 1 } : Loop).total ≤ ({ l with index := 1 } : Loop).index + 1 := by decide

theorem test_lbreak : Ready s1 (.lbreak 0) 0 ∧ s1.begin.cur.li = [] ∧ Ready s2 (.lbreak 0) 0 ∧ s2.begin.cur.li = [⟨0x40, 0x80, 3, 3, 0, false⟩] ∧
    s2.begin.cur.preempt = false := by decide +kernel

theorem test_semaphores :
    Issuable s1 (semSemsig 0 1 3) ∧ atLoopEnd (shown s1 (.semsig 0 1 3)) (presOf s1 (.semsig 0 1 3)) = false ∧
    (let s := s1c fun c => { c with semV := [(1, 3)] }
     Issuable s (semSemwait 0 1 3) ∧ atLoopEnd (shown s (.semwait 0 1 3)) (presOf s (.semwait 0 1 3)) = false) ∧
    Ready s1 (.semwait 0 1 3) 0 ∧ s1.begin.cur.semV.look 1 0 < 3 ∧
    (shown s1 (.semwait 0 1 3)).faultOf (shown s1 (.semwait 0 1 3)).curU ((semSemwait 0 1 3).obs (shown s1 (.semwait 0 1 3))) = none := by
  decide +kernel

/-- TFENCE with pending flags that are not enabled, and that are. -/
theorem test_tfence :
    (let s := s1c fun c => { c with pend := 3 }
     Issuable s (semTfence 0) ∧ atLoopEnd (effect s (semTfence 0)) (presOf s (.tfence 0)) = false ∧ trapping s.cur.pend s.cur.fmt = 0) ∧
    (let s := s1c fun c => { c with pend := 3, fmt := BitVec.ofNat 32 (0xFF * 2 ^ 20) }
     Issuable s (semTfence 0) ∧ atLoopEnd (effect s (semTfence 0)) (presOf s (.tfence 0)) = false ∧ trapping s.cur.pend s.cur.fmt ≠ 0) := by
  decide +kernel

theorem test_trap_taskend_statpop :
    Ready s1 (.trap 0 7) 0 ∧ atLoopEnd (shown s1 (.trap 0 7)) (presOf s1 (.trap 0 7)) = false ∧ Ready s1 (.taskend 0) 0 ∧
    s1.begin.cur.preempt = false ∧ Ready s1 (.statpop 0 9 10) 0 := by decide +kernel

/-- A context whose unit has no job, and one with a vector operation and a store under way. -/
theorem test_exception :
    s1.ctx? 0 0 = some ctx1 ∧ (s1.unit 0).jobs = [] ∧
    (let j : Job := { jid := 7, cid := 1, die := 0, queue := 2, kind := .vec, instr := .vadd 0 2 1 1 0 0 0 0, dst := some ⟨0, 1⟩, flags := 1 }
     let s := s1.updUnit 0 fun x => { x with jobs := [j, { j with jid := 8, kind := .stg, instr := .stg 0 1 1 0 2 0 }] }
     let w := s.landAllVecs 0 1
     s.ctx? 0 0 = some ctx1 ∧ (w.unit 0).jobs.map (·.jid) = [8] ∧ (w.ctx? 0 0).map (·.flags) = some 1) := by decide +kernel

theorem test_trap_record : ({ cause := 6 } : Trap).engine = false ∧ ({ cause := 6, snap := List.replicate 7 0 } : Trap).snap.length ≤ 7 := by decide

/-- A handler whose jobs are done, in bank 0, and the context parked for it in bank 1. -/
theorem test_eret :
    let s := s2.updUnit 0 fun x => { x with jobs := [] }
    Issuable s (semEret 0) ∧ s.cur.level ≠ 0 ∧ atLoopEnd (shown s (.eret 0)) (presOf s (.eret 0)) = false ∧
    (s.begin.unit s.begin.curU).jobs = [] ∧ s.begin.cur.cid ≠ 2 ∧ s.begin.cur.handles = some (some 2) ∧
    (s.begin.byCid? s.begin.curU 2).isSome = true ∧ (s.begin.unit s.begin.curU).bankOf 2 = some 1 ∧
    s.begin.ctx? s.begin.curU 1 = s.begin.byCid? s.begin.curU 2 ∧ (1 : Nat) ≠ s.begin.curB := by decide +kernel

/-- The ends of the ranges of the registers that read back. -/
theorem test_registers_read_back :
    ([(1, 0, 2 ^ 48 - 1), (2, 0, 0), (3, 0, 4095), (4, 0, 1023), (0x12, 2, 0), (0x13, 2, 2 ^ 32 - 1), (0x14, 2, 1), (0x16, 2, 2 ^ 13 - 1), (0x41, 0, 0),
      (0x42, 0, 65535), (0x42, 0, 128)] : List (Nat × Nat × Nat)).all
      (fun x => csrIdxOk 0 x.1 x.2.1 && s1.csrValOk 0 x.1 x.2.1 x.2.2) = true := by decide +kernel

theorem test_derive :
    let s := s1c fun c => { c with s := [(1, 2), (2, 3)] }
    s.cur.level ≠ 0 ∧ Issuable s (semCapopDerive 0 9 1 2 5) ∧ (s.die 0).freeCap = some 4096 := by decide +kernel

theorem test_pad_accesses :
    Issuable s1 (semLdt 0 9 1 2 1 0) ∧ Issuable s1 (semLdtr 0 9 1 2 0 0) ∧ Issuable s1 (semStt 0 1 8 2 1) ∧ Issuable s1 (semSttr 0 1 8 2 0) ∧
    atLoopEnd (shown s1 (.ldt 0 9 1 2 1 0)) (presOf s1 (.ldt 0 9 1 2 1 0)) = false ∧
    atLoopEnd (shown s1 (.stt 0 1 8 2 1)) (presOf s1 (.stt 0 1 8 2 1)) = false := by decide +kernel

/-- Offsets 3 and 4 of a tile of 4 bytes; addresses that are no multiple of 4; f0 and an empty record. -/
theorem test_scalar_access_checks :
    (∀ v ∈ [3, 4], let s := s1c fun c => { c with s := [(1, BitVec.ofNat 64 v)] }
      Ready s (.ldtr 0 9 1 2 0 1) 0 ∧ (shown s (.ldtr 0 9 1 2 0 1)).faultOf (shown s (.ldtr 0 9 1 2 0 1)).curU
        ((semLdtr 0 9 1 2 0 1).obs (shown s (.ldtr 0 9 1 2 0 1))) = none ∧
      (shown s (.ldtr 0 9 1 2 0 1)).handle (shown s (.ldtr 0 9 1 2 0 1)).curU (shown s (.ldtr 0 9 1 2 0 1)).cur ((shown s (.ldtr 0 9 1 2 0 1)).cur.rh 1)
        = .ok ⟨0, 0⟩ ∧ ((shown s (.ldtr 0 9 1 2 0 1)).slot ⟨0, 0⟩).okind = 1 ∧ (v % 4 ≠ 0 ∨ ((shown s (.ldtr 0 9 1 2 0 1)).slot ⟨0, 0⟩).len < v + 4)) ∧
    (let s := s1c fun c => { c with s := [(1, 3)] }
     Ready s (.ldg 0 9 1 1 2 0 0) 0 ∧ ((fpOf s.begin.cur.fp 1).base + (s.begin.cur.rs 1).toNat) % 4 ≠ 0) ∧
    Ready s1 (.atom 0 9 0 1 1 0 0 0 0 0) 0 ∧ ((fpOf s1.begin.cur.fp 0).base + (s1.begin.cur.rs 1).toNat) % 4 = 0 ∧
    (fpOf s1.begin.cur.fp 2).len = 0 := by decide +kernel

/-- A slot free within the reservation, for each of the three; none with the reservation used up. -/
theorem test_allocation :
    let z := s1.updPad 0 fun p => { p with pools := [(0, ⟨11, 16, 0⟩)] }
    runs s1 (.alloc 0 10 0 3) = true ∧ runs s1 (.allocr 0 10 0 7) = true ∧ runs s1 (.alloct 0 10 0 3 2) = true ∧
    (shown s1 (.alloc 0 10 0 3)).allocReady 0 ((shown s1 (.alloc 0 10 0 3)).ptOf 0) = some ⟨0, 8⟩ ∧ runs z (.alloc 0 10 0 3) = true ∧
    (let s := s1c fun c => { c with pt := [(0, { level := 0, pool := 0, resM1 := 0, inUse := 1, valid := true })] }
     Ready s (.alloct 0 10 0 3 2) 0 ∧ atLoopEnd (shown s (.alloct 0 10 0 3 2)) (presOf s (.alloct 0 10 0 3 2)) = false ∧
     ((shown s (.alloct 0 10 0 3 2)).ptOf 0).valid = true ∧
     (shown s (.alloct 0 10 0 3 2)).allocReady (shown s (.alloct 0 10 0 3 2)).curU ((shown s (.alloct 0 10 0 3 2)).ptOf 0) = none) := by decide +kernel

theorem test_footprints :
    let a : FpRec := ⟨0, 8, 0⟩
    a.len ≠ 0 ∧ a.mode ≤ 3 ∧ fpClash a ⟨7, 1, 1⟩ = true ∧ fpClash a ⟨8, 1, 1⟩ = false ∧ fpClash ⟨0, 8, 3⟩ ⟨7, 1, 3⟩ = false := by decide

/-- Banks that may be cleared and copied, a busy one, a poisoned one. -/
theorem test_banks :
    Issuable s1 (semAcczero 0 1 1) ∧ Issuable s1 (semAccmov 0 0 1) ∧
    (let s := s1.updUnit 0 fun x => { x with accs := [(0, { owner := some 1, busy := true }), (1, { owner := some 1, poison := true })] }
     Ready s (.acczero 0 0 1) 0 ∧ 0 < (shown s (.acczero 0 0 1)).cur.banks ∧ ((shown s (.acczero 0 0 1)).accSt 0).busy = true ∧
     (shown s (.acczero 0 0 1)).faultOf 0 ((shown s (.acczero 0 0 1)).writerObs 0) = none ∧ Ready s (.accmov 0 1 0) 0 ∧
     Ready s (.accmov 0 1 1) 0 ∧ ((shown s (.accmov 0 1 1)).accSt 1).busy = false ∧ ((shown s (.accmov 0 1 1)).accSt 1).poison = true ∧
     (shown s (.accmov 0 1 1)).faultOf 0 ((shown s (.accmov 0 1 1)).writerObs 1 ++ (shown s (.accmov 0 1 1)).accObs 1) = none) := by decide +kernel

theorem test_ring_counter_mark :
    Issuable s1 (semRingpush 0 3 1) ∧ (shown s1 (.ringpush 0 3 1)).handle 0 (shown s1 (.ringpush 0 3 1)).cur ((shown s1 (.ringpush 0 3 1)).cur.rh 1) = .ok ⟨0, 0⟩ ∧
    Issuable s1 (semCtraddLocal 0 1 1) ∧ ((shown s1 (.ctraddLocal 0 1 1)).unit 0).endpoint.isSome = true ∧ Issuable s1 (semAudmark 0 1 3) ∧
    ((shown s1 (.audmark 0 1 3)).unit 0).bankOf 1 = some 0 := by decide +kernel

/-- A context under presentation of a bundle whose work has started. -/
def held1 (s : State) : State := s.updCur fun c => { c with pres := some { addr := 0x100, checked := true, started := true }, grpFrom := some 0x100 }

/-- The state from which AUDSEAL SEAL starts, and the one in which its seal is done. -/
def sealing1 : State :=
  (s1c fun c => { c with s := [(1, 2)] }).updDie 0 fun d =>
    { d with aud := some ⟨0, 0x100000, 3, 3, 0, false, 1, 0x200000, 3⟩, queues := [(2, { en := true, sess := 1 })]
             sess := [(1, { queue := 2, roots := [List.replicate 64 0] })] }

/-- A second context, live in bank 1. -/
def stopping1 (st : CtxStatus) : State := s1.updUnit 0 fun x => { x with ctxs := x.ctxs ++ [(1, { ctx1 with cid := 2, status := st })] }

theorem test_started_operations :
    (Ready sealing1 (.audsealSeal 0 9 0 1) 0 ∧ (semAudsealSeal 0 9 0 1).check (shown sealing1 (.audsealSeal 0 9 0 1)) = none ∧
      (semAudsealSeal 0 9 0 1).hold (((semAudsealSeal 0 9 0 1).start.getD id) (shown sealing1 (.audsealSeal 0 9 0 1))) = true) ∧
    (let s := held1 (sealing1.updDie 0 fun d => { d with sealDone := [(2, 1)] })
     s.cur.rq 0 = true ∧ s.cur.grpFrom.isSome = true ∧ (semAudsealSeal 0 9 0 1).hold (s.setCur s.cur) = false) ∧
    (Ready s1 (.mprog 0 9 1 1) 0 ∧ (semMprog 0 9 1 1).hold (((semMprog 0 9 1 1).start.getD id) (shown s1 (.mprog 0 9 1 1))) = true) ∧
    ((semMprog 0 9 1 1).stuck ((held1 s1).setCur (held1 s1).cur) = none ∧ (semMprog 0 9 1 1).hold ((held1 s1).setCur (held1 s1).cur) = false) ∧
    (let s := stopping1 .live
     Ready s (.ctxctlStop 0 9 4 1) 0 ∧ (semCtxctlStop 0 9 4 1).check (shown s (.ctxctlStop 0 9 4 1)) = none ∧
      (semCtxctlStop 0 9 4 1).hold (((semCtxctlStop 0 9 4 1).start.getD id) (shown s (.ctxctlStop 0 9 4 1))) = true ∧
      (((semCtxctlStop 0 9 4 1).start.getD id) (shown s (.ctxctlStop 0 9 4 1))).curU = 0) ∧
    (let s := held1 (stopping1 .stopped)
     (semCtxctlStop 0 9 4 1).hold (s.setCur s.cur) = false) := by decide +kernel

/-! ## Hypotheses that states meet: events -/

/-- A live job is found. -/
def live (s : State) (u jid : Nat) : Bool :=
  match s.job? u jid with
  | some j => j.fault.isNone && (s.unit u).freeze == 0
  | none => false

/-- The same with one job in unit 0. -/
def withJob (s : State) (j : Job) : State := s.updUnit 0 fun x => { x with jobs := x.jobs ++ [j] }

/-- A job of the context of `s1`. -/
def job1 (k : JobKind) (i : Instr) : Job :=
  { jid := 7, cid := 1, die := 0, queue := 2, kind := k, instr := i, fps := ctx1.fp, shape := ctx1.sample 1, dst := some ⟨0, 1⟩, src := some ⟨0, 0⟩
    mp := ctx1.mp }

/-- `s1` with a page of global memory for queue 2 in unit 0's buffer. -/
def sg : State := s1.updUnit 0 fun x => { x with tlb := [⟨0, 0x10000, 0x10000, 0x40000, 1, 15, false⟩] }

/-- A job performs. -/
def performs : Perf → Bool
  | .done _ _ => true
  | _ => false

/-- A job comes to a fault. -/
def stops : Perf → Bool
  | .fault _ _ _ => true
  | _ => false

/-- A job's state and operand pair, without its fault. -/
def okOf {α : Type} : State × Job × Except Trap α → Bool
  | (_, _, .ok _) => true
  | _ => false

theorem test_memory_job_events :
    (let j := { job1 .copyIn (.copyin 0 2 1 0) with tds := [⟨4, ⟨0, 1⟩, [], [none]⟩] }
     live (withJob sg j) 0 7 = true ∧ ((withJob sg j).arrive 0 j 0).isSome = true ∧ ((withJob sg j).readAhead 0 j 0).isSome = true) ∧
    (let j := { job1 .copyIn (.copyin 0 2 1 0) with tds := [⟨4, ⟨0, 1⟩, [], [some ([], 1)]⟩] }
     live (withJob sg j) 0 7 = true ∧ j.left = []) ∧
    (let j := { job1 .ldg (.ldg 0 9 1 0 2 0 0) with ch := 1, arr := 4 }
     ((withJob sg j).ready 0 j ((withJob sg j).jobKeys 0 j)).any (fun s => performs (s.doLdg 0 j)) = true) ∧
    (let j := { job1 .ovl (.ovl 0 1 0 8 0) with ch := 1, c := 1 }
     ((withJob sg j).ready 0 j ((withJob sg j).jobKeys 0 j)).any (fun s => performs (s.runOvl 0 j)) = true) ∧
    (let j := { job1 .ldg (.ldg 0 9 0 0 2 0 0) with arr := 4 }
     ((withJob sg j).jobFaultNow 0 j).isSome = true) ∧
    (let j := { job1 .stg (.stg 0 1 1 0 2 0) with ch := 1, arr := 4, dst := none, src := none }
     j.kind.out = true ∧ performs ((withJob sg j).perform 0 j) = true) ∧
    (let j := { job1 .copyOut (.copyout 0 1 1 0 0 0) with dst := none }
     let s := withJob sg j
     live s 0 7 = true ∧ (s.arriveEl 0 j 0).isSome = true ∧ (match s.perform 0 j with
       | .done t k => (t.logEgress 0 k).isSome
       | _ => false) = true) ∧
    (let j := { job1 .atomic (.atom 0 9 1 1 2 0 0 0 1 0) with ch := 1, arr := 8, dst := none, src := none, dreg := some (.s 9, 1) }
     let s := withJob sg j
     live s 0 7 = true ∧ j.kind.out = true ∧ performs (s.perform 0 j) = true) := by decide +kernel

/-- A crossing that wants its tokens and gets them; its record then enters the access log, whose size is a free value (log 6). -/
theorem test_crossings :
    let s := { sg with sec := { sg.sec with regions := [(1, ⟨1, 0x100000, 0x10000, [], 8, 4096, 4096⟩)] } }
    let j := { job1 .copyOut (.copyout 0 1 1 0 0 0) with dst := none, src := some ⟨0, 0⟩ }
    let s := (withJob s j).updSlot ⟨0, 0⟩ fun x => { x with sealed := true }
    s.sec.reqs = [] ∧ (s.wantsToken 0 7).any (fun w => s.crossRefused w.2 == false && (s.debit w.2).isSome) = true := by decide +kernel

/-- `s1` with a routine of one block over two tiles. -/
def rout1 : Job :=
  { job1 .routine (.mcall 0 1 0 0 0) with
    ch := 1, bank := 0, granted := true, tilesA := [⟨0, 0⟩], tilesB := [⟨0, 2⟩], shape2 := ctx1.sample 1, dst := none, src := none }

theorem test_array_events :
    (let s := withJob s1 (job1 .vec (.vadd 0 2 1 1 0 0 0 0))
     live s 0 7 = true ∧ ((s.unit 0).jobs.any fun i => i.kind == JobKind.vec && decide (i.jid < 7)) = false) ∧
    (let s := withJob (s1c fun c => { c with fly := [⟨1, 40, .s 9, 7, 1⟩] }) { job1 .vec (.vsums 0 9 1 0 0 0) with dst := none, dreg := some (.s 9, 1) }
     live s 0 7 = true ∧ (s.unit 0).bankOf 1 = some 0 ∧ ((s.landVec 0 ((s.job? 0 7).getD rout1)).ctxAt 0 0).fly = []) ∧
    (let s := withJob s1 (job1 .accrd (.accrd 0 2 0 0 0 0 0 0)); live s 0 7 = true) ∧
    (let s := withJob s1 rout1
     live s 0 7 = true ∧ (s.nextRoutine 0).map (·.jid) = some 7 ∧ ((s.unit 0).accs.look 0 {}).poison = false) ∧
    (let j := { rout1 with granted := false }
     let s := withJob s1 j
     live s 0 7 = true ∧ (s.nextRoutine 0).map (·.jid) = some 7 ∧ s.sideBad j false = false ∧ s.sideBad j true = false) ∧
    (let j := { rout1 with granted := false, ch := 3, fmt := BitVec.ofNat 32 (0x16 + 0x16 * 32) }
     let s := withJob { s1 with mem := s1.mem.writeN (s1.slotKey ⟨0, 0⟩) [0x80] } j
     live s 0 7 = true ∧ (s.nextRoutine 0).map (·.jid) = some 7 ∧ s.sideBad j false = true) ∧
    (let j := { rout1 with phase := 1 }
     let s := withJob s1 j
     live s 0 7 = true ∧ 0 < j.nblocks ∧ (s.blockReady 0 j).any (fun w => okOf (w.blockIn 0 j 0)) = true) ∧
    (let j := { rout1 with phase := 1 }
     let s := (withJob s1 j).updSlot ⟨0, 2⟩ fun x => { x with poison := 1 }
     live s 0 7 = true ∧ (s.blockReady 0 j).any (fun w => !okOf (w.blockIn 0 j 0)) = true) ∧
    (let j := { job1 .mprog (.mprogExt 0 0 1 1 0) with performed := true }
     live (withJob s1 j) 0 7 = true ∧ j.kind = .mprog) ∧
    (let j := { rout1 with phase := 1, next := 1 }
     live (withJob s1 j) 0 7 = true ∧ j.nblocks ≤ 1) ∧
    (s1.unit 0).jobs = [] := by decide +kernel

/-- A packet for channel 1 of the endpoint of unit 0. -/
def pkt (k : Nat) : Packet := { kind := k, blot := false, ch := 1, payload := [1], digest := digestCD [1] }

/-- The state in which a packet acts. -/
def got (s : State) : State := s.updPort 0 fun x => { x with expSeq := (x.expSeq + 1) % 2 ^ 16, nackSent := false }

theorem test_packets_act :
    (∀ k ∈ [0, 3, 4, 5, 6, 7], let p := pkt k
      (s1.port 0).dead = false ∧ p.dstChip = s1.chipId ∧ p.lseq = (s1.port 0).expSeq ∧ s1.unitOfEp p.dstEp p.ch = some 0 ∧
        (got s1).unitOfEp p.dstEp p.ch = some 0) ∧
    (let p := { pkt 0 with blot := true, chunk := 0 }
     p.lseq ≠ ((got s1).port 0).expSeq ∧ ((got s1).port 0).dead = false ∧ (got s1).unitOfEp p.dstEp p.ch = some 0) := by decide +kernel

theorem test_digests : (∀ k, digestOk (pkt k) = true) ∧ digestOk { pkt 0 with blot := true } = true := by simp [digestOk, pkt]

/-- A send of slot 0 on channel 1. -/
def send1 : Job := { job1 .send (.send 0 1 1 0 0) with ch := 1, src := some ⟨0, 0⟩, dst := none, a := handleOf ⟨0, 0⟩ 1 }

/-- `s1` with the end of channel 1 changed. -/
def s1e (f : ChanEnd → ChanEnd) : State := s1.updEnd 0 1 f

/-- An end whose landing 0, in slot 6, has begun. -/
def landing1 (e : ChanEnd) : ChanEnd := { e with landings := [(0, { n := 0, begun := true, dl := some 0 })], readySent := 1 }

theorem test_channel_events :
    (let s := withJob s1 send1; live s 0 7 = true ∧ s.mayFire 0 send1 = true ∧ (s.fireTile 0 send1 ⟨0, 0⟩).isSome = true) ∧
    (let j := { send1 with instr := .sendt 0 1 1 0 0 9 3, b := 0, c := 3 }
     let s := withJob s1 j
     live s 0 7 = true ∧ s.mayFire 0 j = true ∧ (s.unit 0).endpoint.isSome = true ∧
      s.sentTrap 0 (s.jobCtx 0 j) 1 j.a = none ∧ s.tile? 0 (s.jobCtx 0 j) j.a = some ⟨0, 0⟩ ∧
      (s.fireTile 0 j ⟨0, 0⟩).any (fun t => !((t.job? 0 7).any fun j => j.fault.isSome)) = true) ∧
    (let j := { send1 with phase := 1 }
     let s := withJob s1 j
     live s 0 7 = true ∧ (s.end? 0 1).isSome = true ∧ j.stored.length ≤ j.done ∧ s.packetsOf 0 7 = false ∧ (s.logEgress 0 j).isSome = true) ∧
    (let j := { job1 .prime (.prime 0 2 1 0 1) with ch := 2 }
     let s := withJob s1 j
     live s 0 7 = true ∧ (s.end? 0 2).isSome = true ∧ s.primeBad j = none ∧ s.acquiring 0 j = false) ∧
    (s1.end? 0 1).isSome = true ∧
    (let s := (s1e landing1).updSlot ⟨0, 6⟩ fun x => { x with arrival := 1, valid := [(0, 1)] }
     (s.unit 0).freeze = 0 ∧ ((s.unit 0).endpoint.bind fun ep => ep.ends.entry? 1).any (fun e => e.nextIn == 0 && e.adds == [] &&
       (s.slot (e.slotOf 0)).whole && e.landings == [(0, { n := 0, begun := true, dl := some 0 })]) = true) ∧
    ((s1e landing1).end? 0 1).any (fun e => e.landings.any fun l => l.2.dl == some 0 && !l.2.done && l.2.begun) = true ∧
    (let s := s1.updSlot ⟨0, 9⟩ fun x => { x with busy := true }
     (s.slot ⟨0, 9⟩).okind = 0 ∧ (s.slot ⟨0, 9⟩).busy = true ∧ (s.slot ⟨0, 9⟩).chan = none) := by decide +kernel

/-- `s1` with packet 0 on its way. -/
def s1o : State := s1.updPort 0 fun x => { x with unacked := [{ p := pkt 0 }] }

theorem test_link_events :
    ((s1o.port 0).dead = false ∧ ((s1o.port 0).unacked.any fun o => o.p.lseq == 0) = true ∧ 
      0 + 8192 ≤ max 8192 (s1o.portNow 0)) ∧
    ((pkt 3).dstChip = s1.chipId ∧ numbered (pkt 3) = true) ∧ (s1.port 0).los = none ∧
    (∀ k ∈ [0, 5, 3], let p : Packet := { pkt k with
        payload := zeros (if k = 0 then 512 else if k = 5 then 64 else 0), digest := zeros (if k = 0 then 32 else 0), n := 2 ^ 32 - 1, tag := 2 ^ 64 - 1 }
     p.kind < 8 ∧ p.red < 4 ∧ p.ch < 2 ^ 8 ∧ p.payload.length = (if p.kind = 0 then 512 else if p.kind = 5 then 64 else 0) ∧
       p.digest.length = (if p.kind = 0 then 32 else 0)) ∧
    (let s := s1.updPort 0 fun x => { x with los := some 5 }
     (s.port 0).los = some 5 ∧ (s.port 0).dead = false) ∧
    ((s1.updPort 0 fun x => { x with training := true }).port 0).training = true := by decide +kernel

/-- A task of priority 0 with one accumulator bank and one footprint template. -/
def task1 : TaskRec := ⟨0, 0, 0, 1, 0, false, false, false, 0, 0, 0, 1, []⟩

/-- An object of one task with one footprint template, and a graph of one node over it. -/
def obj1 : Obj :=
  { base := 0x8000, len := 0x1000, digest := [], key := none, fps := [⟨1, 2, 1, false, 0, 0, 64⟩], pools := [], chans := [], mboxes := []
    refs := [2], tasks := [task1] }

/-- A graph of that object with its node yet to enter. -/
def graph1 : Graph := { queue := 2, seq := 1, obj := 1, sig := 0x10000, overlap := false, todo := [⟨0, [0x10000], none, none⟩], left := 1 }

/-- That node, in the window. -/
def node1 : Node :=
  { queue := 2, graph := 0, idx := 0, obj := 1, taskIdx := 0, desc := ⟨0x8000, task1, []⟩, params := [0x10000], fps := [(1, ⟨0x10000, 64, 2⟩)], sign := some 1
    version := none, deps := [], age := 0 }

/-- `s1`'s die with the object, the graph and the nodes given. -/
def sq (g : Graph) (ns : Map Node) (dq : List (Nat × Nat × Nat)) : State :=
  (s1.updDie 0 fun d => { d with objs := [(1, obj1)], graphs := [(0, g)], window := ns, nextGraph := 1 }).updUnit 0 fun x => { x with deque := dq }

theorem test_scheduler_events :
    (let s := sq graph1 [(3, { node1 with graph := 9 })] []
     (s.die 0).turnQ = some 2 ∧ (s.die 0).freeWin = some 0 ∧ (s.die 0).nextTodo 2 = some (0, graph1) ∧
      (s.die 0).objs.entry? 1 = some obj1 ∧ obj1.tasks[0]? = some task1 ∧ graph1.bindWait = false ∧
      instFps obj1 task1 [0x10000] = some node1.fps) ∧
    (let s := sq graph1 [(3, node1)] []
     s.nodeReady 0 node1 = true ∧ s.chooseUnit 0 node1 = some 0 ∧
      ((s.die 0).window.any fun e => decide (e.2.age < node1.age) && s.nodeReady 0 e.2 && s.chooseUnit 0 e.2 == some 0) = false ∧
      (s.unit 0).deque.length < 64 ∧ s.oldestReady 0 2 = some (3, node1)) ∧
    (let s := sq graph1 [(3, { node1 with state := .queued 0 })] [(3, 1, 2)]
     s.takesWork 0 = true ∧ (s.unit 0).freeBanks = [1] ∧ s.starvedFirst 0 = false ∧ (s.tryStart 0 0 1 true (s.unit 0).tryOrder).isSome = true) ∧
    (let s := (sq graph1 [(3, { node1 with state := .queued 1 })] []).updUnit 1 fun x => { x with deque := [(3, 1, 2)] }
     s.takesWork 0 = true ∧ (s.unit 0).freeBanks = [1] ∧ s.starvedFirst 0 = false ∧ (s.tryStart 0 0 1 true (s.unit 0).tryOrder).isNone = true ∧
      (s.tryStart 0 0 1 false (s.stealOrder 0 1)).isSome = true) ∧
    (s1.clockTo 0 5).oldestReady 0 2 = none ∧
    (∀ now ∈ [2 ^ 20 - 1, 2 ^ 20], let x := { node1 with readyAt := some 0 }
     let r := (sq graph1 [(3, x)] []).clockTo 0 now
     r.oldestReady 0 2 = some (3, x) ∧ ((r.die 0).cycle < r.waitSince 0 2 x + 2 ^ 20 ↔ now < 2 ^ 20) ∧
       x.desc.task.bound = false ∧ r.takesWork 0 = true ∧ (r.unit 0).freeBanks = [1] ∧ (match r.fitNode 0 0 x with
         | .ok _ => true
         | _ => false) = true) := by decide +kernel

theorem test_completion_events :
    (let s := sq graph1 [(3, { node1 with state := .ended 0 }), (4, { node1 with deps := [3] })] []
     ((s.die 0).window.entry? 3).map (·.state) = some (.ended 0)) ∧
    (∀ r ∈ [false, true], let y := { graph1 with todo := [], left := 0, record := r }
     let s := sq y [] []
     y.residued = false ∧ (s.endChans 0 0 y).any (fun w => ((w.die 0).graphs.look 0 y).record == r &&
       (w.writeRec (w.whoQ 0 2) 0x10000 (zeros 32)).2 == false) = true) ∧
    (let y := { graph1 with todo := [], left := 0, record := true, residued := true }
     let s := sq y [] []
     (sg.writeRec (sg.whoQ 0 2) 0x10000 (zeros 32)).2 = true ∧ (s.die 0).graphs.entry? 0 = some y ∧ (s.die 0).residueWaits y = false ∧
      (let r := s.updDie 0 fun d => { d with rootQ := [{ queue := 2, session := 1, status := 2, idx := y.leaf }] }
       (r.die 0).residueWaits y = true)) ∧
    (let j := { job1 .spawn (.spawn 0 1 9 0) with a := 1 }
     let s := withJob ({ sg with mem := [] }) j
     live s 0 7 = true ∧ ((s.ready 0 j (s.jobKeys 0 j)).any fun r => match r.spawnHeader 0 j with
      | (t, j, .ok bs) => (t.launchGraph j.die j.queue 0x10000 bs false (some (0, 1, 7))).isSome
      | _ => false) = true) ∧
    (let m : Msg := ⟨0, 5, [1], false, none, none, false⟩
     let s : State := { s1 with msgs := [m] }
     m.request = 0 ∧ s.msgFirst 0 m = true) := by decide +kernel

/-- A message that a mailbox accepts and a refusal that names a packet on its way. -/
theorem test_messages :
    (let s := (sq graph1 [] []).updDie 0 fun d => { d with mboxes := [(0, { bound := some (2, 1, 0) })] }
     ((got s).accept (fld (pkt 5).n 10 2) (fld (pkt 5).n 0 10) (pkt 5).payload).isSome = true) ∧
    (let s := s1.updPort 0 fun x => { x with unacked := [{ p := pkt 4, cid := some (0, 1) }] }
     (markRefused (pkt 6) ((got s).port 0).unacked).2.isSome = true) := by decide +kernel

theorem test_unit_events :
    (let s := (stopping1 .live).updUnit 0 fun x => { x with ctxs := x.ctxs.mapv fun c => { c with waited := 64 } }
     (s.unit 0).order = [0, 1] ∧ (s.unit 0).freeze = 0 ∧ (s.die 0).idle = false ∧ 64 ≤ (s.ctxAt 0 1).waited) ∧
    ((s1c fun c => { c with fly := [⟨1, 4, .s 3, 7, 0⟩] }).ctx? 0 0).any (fun c => c.fly[0]?.isSome) = true ∧
    ((s1.updUnit 0 fun x => { x with swap := some ⟨1, 0⟩ }).unit 0).swap.any (fun w => w.left == 0) = true ∧
    (let s := s1.updDie 0 fun d => { d with saved := [(5, ctx1)] }
     (s.unit 0).swap = none ∧ (s.unit 0).liveBanks.contains 1 = true ∧ s.mayGive 0 1 = true ∧
      (s.unit 0).ctxs.entry? (s.unit 0).shadow = none ∧ ((s.die 0).savedOf 0).isSome = true) ∧
    (let s := s1.updDie 0 fun d => { d with saved := [(300, { ctx1 with cid := 9, unit := 1, pt := [], banks := 1 })] }
     (s.die 0).savedOf 0 = none ∧ ((s.die 0).saved.find? fun e => s.migrates 0 e.2).isSome = true ∧ s.mayGive 0 1 = true) ∧
    (∀ p ∈ [none, some ({ addr := 0x100 } : Pres)],
     let s := (s1.updDie 0 fun d => { d with saveN := 129 }).updUnit 0 fun x =>
       { x with ctxs := [(0, { ctx1 with status := .live, stall := 257, pres := p, grpFrom := p.map (·.addr) }),
                         (2, { ctx1 with cid := 2, status := .live })] }
     (s.unit 0).swap = none ∧ (s.unit 0).freeze = 0 ∧ (s.unit 0).liveBanks.contains 0 = true ∧ (s.unit 0).shadow = 2 ∧
       ((s.unit 0).ctxs.entry? 2).any (fun o => o.status == .live) = true ∧ (s.ctx? 0 0).any (fun c => c.status == .live && c.pres == p &&
         c.grpFrom == p.map (·.addr) && !c.shapeOpen) = true ∧ (s.die 0).freeSave.isSome = true) ∧
    (let s := s1.updUnit 0 fun x => { x with freeze := 3 }
     (s.unit 0).freeze ≠ 0) ∧
    (let s := s1.updUnit 0 fun x => { x with ctxs := x.ctxs ++ [(2, ctx1)] }
     ((s.unit 0).ctxs.entry? (s.unit 0).shadow).any (·.startable) = true ∧ (s.unit 0).ctxs.entry? 1 = none ∧ s.mayGive 0 1 = true) := by
  decide +kernel

/-- `sg` with a packet at the head of queue 2's ring, and the object, the graph and the nodes given. -/
def sp (bs : List (Nat × Bytes)) (gs : Map Graph) (ns : Map Node) : State :=
  let s := sg.updDie 0 fun d => { d with objs := [(1, obj1)], graphs := gs, window := ns, queues := d.queues.mapv fun q => { q with tail := 1, rbase := 0x4001 } }
  { s with mem := s.mem.writeN ((placeKey 1 0x4000).getD 0) (layout 64 bs) |>.writeN ((placeKey 1 0x40034).getD 0) [1] }

theorem test_host_events :
    (let q := (s1.queue 0 2); (1 % 2 ^ 32 + 2 ^ 32 - q.head) % 2 ^ 32 ≤ 2 ^ q.rsize ∧
      2 ^ q.rsize < (65537 % 2 ^ 32 + 2 ^ 32 - q.head) % 2 ^ 32) ∧ (s1.queue 0 3).en = false ∧ (s1.queue 0 2).en = true ∧
    (let s := sp [(0, [1]), (16, leBytes 16 0x10000)] [] []
     (s.pktAt 0 2 1).any (fun p => match s.readVA (s.whoQ 0 2) p.addr1 64 with
      | (t, some bs) => (t.launchGraph 0 2 p.addr1 bs (p.flags == 1) none).isSome
      | _ => false) = true) ∧
    (let s := sp [(0, [2]), (16, leBytes 16 0x10000), (32, leBytes 16 0x10080)] [] []
     (s.pktAt 0 2 2).any (fun p => match s.readVA (s.whoQ 0 2) p.addr1 64 with
      | (t, some bs) => (t.readVA (s.whoQ 0 2) p.addr2 64).2.isSome && decide (p.arg32 < (graphHdr bs).npblk) && (t.die 0).blocks == []
      | _ => false) = true ∧ (s.die 0).blocks = []) ∧
    (let s := sp [(0, [3]), (8, [64]), (16, leBytes 16 0x10000)] [] []
     (s.pktAt 0 2 3).any (fun p => (s.readVA (s.whoQ 0 2) p.addr1 p.arg64).2.isSome) = true) ∧
    (let s := (sp [(0, [3])] [] []).updQueue 0 2 fun q => { q with loading := some (1, 0) }
     (s.queue 0 2).loading = some (1, 0) ∧ (s.queue 0 2).strays = []) ∧
    ((sp [(0, [5])] [] []).pktAt 0 2 5).isSome = true ∧
    (let s := sp [(0, [6]), (8, [1])] [(0, graph1)] [(3, node1)]
     (s.pktAt 0 2 6).any (fun p => p.arg64 == 1) = true ∧ ((s.die 0).window.any fun n => n.2.graph == 0) = true) ∧
    (let s := (sp [(0, [7])] [] []).updDie 0 fun d =>
       { d with aud := (sealing1.die 0).aud, sess := (sealing1.die 0).sess, queues := d.queues.mapv fun q => { q with sess := 1 } }
     (s.pktAt 0 2 7).isSome = true ∧ (s.queue 0 2).strays = [] ∧ s.sealTrap 0 2 = none) ∧
    (let s := (sp [(0, [8]), (4, [1])] [] []).updUnit 0 fun x => { x with endpoint := none }
     (s.pktAt 0 2 8).any (fun p => p.arg32 == 1 && p.addr1 == 0) = true ∧ obj1.refs.contains 2 = true ∧ s.endpointUnit 0 2 = none) ∧
    (let s := sp [(0, [4]), (4, [1])] [] []
     (s.pktAt 0 2 4).any (fun p => p.arg32 == 1) = true ∧ (s.queue 0 2).unloads = [] ∧ s.launched 0 2 = []) ∧
    (let s := sp [(0, [4]), (4, [1])] [(0, graph1)] []
     (s.pktAt 0 2 4).any (fun p => p.arg32 == 1) = true ∧ (s.queue 0 2).unloads = [] ∧ s.launched 0 2 ≠ []) := by decide +kernel

/-- `s1` with one configuration message of a kind, with its argument. -/
def cfgMsg (k a : Nat) : State := { s1 with msgs := [⟨0, 1023, layout 64 [(0, [BitVec.ofNat 8 k]), (4, leBytes 4 a)], true, none, none, false⟩] }

theorem test_configuration_events :
    csrIdxOk 0 0x40 0 = true ∧ csrIdxOk 0 0x11 2 = true ∧ s1.csrValOk 0 0x11 2 (2 ^ 17 + 1) = true ∧ (s1.queue 0 4095).en = false ∧
    (s1.queue 0 2).en = true ∧ State.reset.poolOk 0 0 (9 + 8 * 2 ^ 5) = true ∧
    (s1.updDie 0 fun d => { d with caps := [(1, ⟨true, 2, 2, 2, 0, 0⟩)] }).statTrap 0 1 = none ∧
    ((cfgMsg 1 7).configMsg 0 1).isSome = true ∧ s1.chipSet = false ∧ ((cfgMsg 2 7).configMsg 0 2).isSome = true ∧
    ((cfgMsg 3 4).configMsg 0 3).any (fun m => leAt m.2.bytes 4 1 / 5 == 0 && decide (leAt m.2.bytes 4 1 < 20)) = true := by decide +kernel

/-- A region that a release takes; what an import comes to, and the room in the access log, rest on free values (log 6). -/
theorem test_security_core :
    s1.sec.heads = [] ∧ (s1.measureBlocks 0).isSome = true ∧
    (let s : State := { State.reset with sec := { heads := [], regions := [(1, ⟨1, 0x100000, 0x10000, [], 8, 4096, 9⟩)] } }
     (s.sec.regions.entry? 1).isSome = true ∧ (s.tasksRunning.any fun q => s.mapsRegion (s.space q.1 q.2) 1) = false) := by decide +kernel

theorem test_audit_events :
    (let a : AudCfg := ⟨1, 0x100000, 3, 3, 0, true, 1, 0x200000, 3⟩
     let e : RootEnt := { queue := 2, session := 1, hdr := zeros 256, tr := zeros 64 }
     let s := s1.updDie 0 fun d => { d with aud := some a, rootQ := [e] }
     (s.die 0).aud = some a ∧ e.isSeal = false ∧ ((s.updDie 0 fun x => { x with rootQ := [] }).writeRoot 0 a e).isSome = true ∧
      (s.die 0).serves = true ∧ isNodeRequest (nodeRequest 0 5 0 0 0 0 0 0) = true ∧ leAt (nodeRequest 0 5 0 0 0 0 0 0) 4 4 = s.chipId) ∧
    (let j := { job1 .audConfig (.audsealConfig 0 9 0 1) with ch := 1 }
     let s := withJob { sg with mem := (sg.mem.writeN ((placeKey 1 0x40000).getD 0) [1]).writeN ((placeKey 1 0x40010).getD 0) [1] } j
     live s 0 7 = true ∧ s.acquiring 0 j = false ∧ okOf (s.readCfg 0 j) = true) ∧
    (let j := { job1 .audit (.audbisect 0 9 0 1 0) with ch := 1 }
     let s := withJob sg j
     live s 0 7 = true ∧ (s.ready 0 j (s.jobKeys 0 j)).any (fun w => performs (w.runAudit 0 j [])) = true) ∧
    (∀ n ∈ [none, some 0],
     let j := { job1 .audit (.audreplay 0 9 0 1 0) with ch := 1, c := 2, cap := n }
     let k := { j with cap := some 0 }
     let s := withJob sg j
     live s 0 7 = true ∧ (s.ready 0 k (s.jobKeys 0 k)).any (fun w => performs (w.runAudit 0 j [])) = true) ∧
    (let j := { job1 .audit (.audbisect 0 9 0 1 0) with ch := 1 }
     let s := withJob s1 j
     live s 0 7 = true ∧ (s.ready 0 j (s.jobKeys 0 j)).any (fun w => stops (w.runAudit 0 j [])) = true) := by decide +kernel

theorem test_power : State.reset.power ≠ .on ∧ s1.power = .on ∧ s1.agenda = [] := by decide +kernel

/-! ## Hypotheses that states meet: decoding, the step -/

theorem test_encoded : (Instr.add 9 10 10 25).wf = true ∧ (encodeSyl (.add 9 10 10 25)).isSome = true ∧ (Instr.vsfu 0 2 1 1 0 0 0).wf = true := by decide +kernel

theorem test_reserved_ops :
    ([(0, 0x13), (1, 0x15), (1, 0x1F), (1, 0x28), (1, 0x2F), (1, 0x36), (2, 9), (3, 0xF), (4, 0x21), (5, 9), (6, 0xE), (6, 0x3F)].all
      fun y => match decodeSyl ⟨y.1, y.2 * 2 ^ 26, 0⟩ with
        | .err .reservedOp => true
        | _ => false) = true := by decide +kernel

/-- The machine started up with `add s9, s10, s10` where it fetches (log 3). -/
def started : State := State.reset.startUp [0x81, 0x40, 0x56, 0x2A, 0x01]

theorem test_step_hypotheses :
    let s := started
    let i := Instr.add 9 10 10 25
    let w := cycled s 0
    let r := presenting s 0
    (s.power = .on ∧ s.agenda = [] ∧ s.turn % 2 = 0 ∧ (s.unit (nextUnit s)).freeze ≤ 1) ∧
    ((w.die (nextUnit s / 128)).idle = false ∧ (w.unit (nextUnit s)).order = [0] ∧ w.cur.wdKill = false ∧ w.cur.stopReq = false ∧
      w.cur.fencing = none ∧ w.cur.pres = none) ∧
    (r.begin = r ∧ (skipPads (r.codeByte r.curU r.cur) 65536 r.cur.pc).1 = r.cur.pc) ∧
    ((r.cur.inRun = true ∨ (r.scanRun r.curU r.cur 1048576 r.cur.pc).isNone = true) ∧ (r.brkHit r.cur).isNone = true) ∧
    decodeLine (r.codeLine r.curU r.cur r.cur.pc) = .bundle true 5 [i.syl] ∧
    (match decodeBundle r.cur.level r.cur.m3 r.cur.grp [i.syl] with
      | .ok l => l == [i]
      | _ => false) = true ∧ 5 = 1 + i.syl.bytes.length ∧ (semOf i).isSome = true ∧ r.cur.level ≠ 0 := by decide +kernel

/-- The bundles that the spec writes out for an M and an O slot, byte by byte from their tables (R75, R76). -/
theorem test_written_bundles :
    decodeOne [0xA0, 0x20, 0x0A, 0x00, 0x00] = some (.mcall 0 0 2 1 1) ∧ decodeOne [0xC0, 0x80, 0x69, 0x04, 0x00] = some (.copyout 0 2 1 1 1 3) := by
  decide +kernel

theorem test_atomics : (5 : BitVec 64) ≠ 7 ∧ (1 : Nat) ≤ 64 := by decide

theorem test_leaves : 2 ≤ [zeros 64, zeros 64, zeros 64].length := by decide

/-! ## Hypotheses that values meet: arithmetic -/

/-- The greatest and the least value of each integer type, and codes of FP32 that are finite: 1, the greatest, minus zero, a subnormal. -/
theorem test_arithmetic_operands :
    (∀ x ∈ intTypes, 2 ^ x.2.1 - 1 < 2 ^ x.2.1 ∧ intOf x.2.1 x.2.2 (2 ^ (x.2.1 - 1)) = if x.2.2 then -(2 ^ (x.2.1 - 1)) else 2 ^ (x.2.1 - 1)) ∧
    (∀ x ∈ [0x3F800000, 0x7F7FFFFF, 0x80000000, 1], x < 2 ^ (f32.eb + f32.fb + 1) ∧ magOf f32 x ≤ f32.maxCode) ∧
    (2 ^ f32.eb - 1) * 2 ^ f32.fb < magOf f32 0x7FC00000 := by decide +kernel

/-- Quantised values within a code's range, beyond it with a place in the side list, and beyond it without. -/
theorem test_quantised_values :
    intRange 0x16 = some (-127, 127) ∧ quantInt 0x16 0 (-127) 127 (0x3F800000, 0) 0x40A00000 (.ofInt 5) = (5, 0) ∧
    quantInt 0x16 0 (-127) 127 (0x3F800000, 0) 0x43960000 (.ofInt 300) = (300, 0) ∧
    quantInt 0x16 0 (-127) 127 (0x3F800000, 0) 0x4B800000 (.ofInt (2 ^ 24)) = (2 ^ 24, 0) := by decide +kernel

/-- VADD, VSUMS and VQNT over tiles of one element that are there, hd's tile and its sources'. -/
theorem test_vector_tiles :
    (let o := semVadd 0 2 1 3 0 0 0 0
     let t := observeAll o.i (o.sees (hooked s1 o)) (hooked s1 o)
     Issuable s1 o ∧ t.cur.vshRC = (1, 1) ∧ ∀ h ∈ [1, 2, 3], (t.tile? t.curU t.cur (t.cur.rh h)).isSome = true) ∧
    (let o := semVsums 0 9 1 0 0 0
     let t := observeAll o.i (o.sees (hooked s1 o)) (hooked s1 o)
     Issuable s1 o ∧ (t.tile? t.curU t.cur (t.cur.rh 1)).isSome = true) ∧
    (let o := semVqnt 0 2 1 6 0 0 0 0 8 0 0 0
     let t := observeAll o.i (o.sees (hooked s1 o)) (hooked s1 o)
     Issuable s1 o ∧ t.tile? t.curU t.cur (t.cur.rh 6) = some ⟨0, 5⟩ ∧ t.tile? t.curU t.cur (t.cur.rh 2) = some ⟨0, 1⟩ ∧
       (t.tile? t.curU t.cur (t.cur.rh 1)).isSome = true ∧ t.slotKey ⟨0, 1⟩ + t.slotSize ⟨0, 1⟩ ≤ t.slotKey ⟨0, 5⟩) := by decide +kernel

/-! ## Results worked out in the spec -/

/-- A state whose context holds `a` in s1 and `b` in s3. -/
def ab (a b : BitVec 64) : State := s1c fun c => { c with s := [(1, a), (3, b)], flags := 0 }

/-- The result that an operation on those puts in flight, and its flags. -/
def res (i : Instr) (a b : BitVec 64) : Option (Nat × Nat) := ((nx i (ab a b)).cur.fly.getLast?).map fun f => (f.val, f.flags)

/-- The table of R195. -/
theorem test_div : res (.div 0 9 1 3) (-7) 2 = some (2 ^ 64 - 3, 0) ∧ res (.div 0 9 1 3) 7 0 = some (2 ^ 64 - 1, fDZ) ∧
    res (.div 0 9 1 3) (BitVec.ofNat 64 (2 ^ 63)) (-1) = some (2 ^ 63, fIOV) := by decide +kernel
theorem test_rem : res (.rem 0 9 1 3) (-7) 2 = some (2 ^ 64 - 1, 0) ∧ res (.rem 0 9 1 3) 7 0 = some (7, fDZ) ∧
    res (.rem 0 9 1 3) (BitVec.ofNat 64 (2 ^ 63)) (-1) = some (0, 0) := by decide +kernel
theorem test_divn : res (.divn 0 9 1 3) (-7) 2 = some (0x7FFFFFFFFFFFFFFC, 0) ∧ res (.divn 0 9 1 3) 7 0 = some (2 ^ 64 - 1, fDZ) := by
  decide +kernel

/-- The syllable of `div s5, s6, s7` (R195). -/
theorem test_word_div : decodeOne [0x81, 0xCB, 0x31, 0x05, 0x00] = some (.div 0 5 6 7) := by decide +kernel

/-- The example of R152: home die and offset of 0x5_4321_789A. -/
theorem test_home_die : homeDie 0x54321789A = 1 ∧ placeKey 0 0x54321789A = some (memKey (regHbm 1) 0x150C8589A) := by decide

/-- The example of R48: FP32 0x3F88_0008 to E4M3 directly, by BF16 under RNE, by BF16 under RTO. -/
theorem test_conversions :
    (convertElem 0 3 0 false 0x3F880008).1 = 0x39 ∧ (convertElem 0 1 0 false 0x3F880008).1 = 0x3F88 ∧ (convertElem 1 3 0 false 0x3F88).1 = 0x38 ∧
    (convertElem 0 1 4 false 0x3F880008).1 = 0x3F89 ∧ (convertElem 1 3 0 false 0x3F89).1 = 0x39 := by
  decide +kernel

/-- The example of R39: LNS6 codes 0x05 and 0x1D multiply to 1,554,944,229,376 units of 2^-40, which round to FP32 0x3FB5_04F3. -/
theorem test_lns_product : (toFlt f32 0 false (lnsProd 0xE 0x05 0xE 0x1D)).1 = 0x3FB504F3 := by decide +kernel

/-- The ADDI of the worked task of 08_scalar_class.md wraps to 254 and sets no flag; a zero has 64 leading zeros (R194). -/
theorem test_addi : res (.addi 0 9 1 255) (-1) 0 = some (254, 0) := by decide +kernel
theorem test_clz : res (.clz 0 9 1) 0 0 = some (64, 0) ∧ res (.clz 0 9 1) 1 0 = some (63, 0) := by decide +kernel

/-- The float reduction of 14_vector_class.md (R301): 2^24 and 39 ones, in blocks of 32. -/
theorem test_reduction : vSum 0 (0x4B800000 :: List.replicate 39 0x3F800000) = (0x4B800014, 0) := by decide +kernel

/-- The VMACC of R302: 1.0 + 6.0 * 4 / 3 is 9.0. -/
theorem test_vmacc : vMacc 0 0 4 3 0x40C00000 0x3F800000 = (0x41100000, 0) := by decide +kernel

/-- The NAT4 channel of R51: -1, 0, 2 and 14 have scale 1.0 and offset -1.0, and its constant channel. -/
theorem test_calibration : calibrate 0xC ([-1, 0, 2, 14].map XR.ofInt) = ((0x3F800000, 0xBF800000), 0) ∧
    calibrate 0xC [.fin 5 2 false, .fin 5 2 false] = ((0, 0x40200000), fCONST) := by decide +kernel

/-- The side list of R35: the codes 05 80 FE 80 with its two entries. -/
theorem test_escapes : codeVals 0x16 [0x05, 0x80, 0xFE, 0x80] (sideVals (leBytes 8 0x12C0001 ++ leBytes 8 0xFFFC180003)) = [5, 300, -2, -1000] ∧
    escapeBad 0x16 [0x05, 0x80, 0xFE, 0x80] (leBytes 8 0x12C0001 ++ leBytes 8 0xFFFC180003) = false := by decide +kernel

end Sys2Proof.Tests
end

section
/-!
PROOFS. Bits, fields and byte strings: little-endian fields are read back from where they were laid (R1).
-/
namespace Sys2Proof.Machine

theorem bit_eq_of_parity {v i : Nat} {b : Bool} (h : v / 2 ^ i % 2 = b.toNat) : bit v i = b := by
  cases b <;> simp [bit, h]

theorem fld_zero_of_lt {v n : Nat} (h : v < 2 ^ n) : fld v 0 n = v := by simp [fld, Nat.mod_eq_of_lt h]

@[simp] theorem length_leBytes (n v : Nat) : (leBytes n v).length = n := by
  induction n generalizing v with
  | zero => rfl
  | succ n ih => simp [leBytes, ih]

theorem leVal_leBytes (n v : Nat) (h : v < 256 ^ n) : leVal (leBytes n v) = v := by
  induction n generalizing v with
  | zero => simp [leBytes, leVal, Nat.lt_one_iff.mp h]
  | succ n ih =>
    have hq : v / 256 < 256 ^ n := Nat.div_lt_of_lt_mul (by rwa [Nat.pow_succ'] at h)
    simp only [leBytes, leVal, ih _ hq, BitVec.toNat_ofNat]
    omega

theorem padTo_of_length {n : Nat} {bs : Bytes} (h : bs.length = n) : padTo n bs = bs := by simp [padTo, zeros, ← h]

/-- The first part of a string, cut off at its end. -/
theorem slice_append_self {n : Nat} {a : Bytes} (h : a.length = n) (b : Bytes) : slice (a ++ b) 0 n = a := by
  subst h; simp [slice, padTo_of_length]

/-- What lies beyond the first part of a string. -/
theorem slice_append_beyond {off : Nat} {a : Bytes} (h : a.length ≤ off) (b : Bytes) (n : Nat) :
    slice (a ++ b) off n = slice b (off - a.length) n := by
  simp [slice, List.drop_append, List.drop_eq_nil_of_le h]

theorem leAt_leBytes_append {n v : Nat} (h : v < 256 ^ n) (b : Bytes) : leAt (leBytes n v ++ b) 0 n = v := by
  simp [leAt, slice_append_self, leVal_leBytes n v h]

theorem leAt_leBytes_append_beyond {n off : Nat} (h : n ≤ off) (v : Nat) (b : Bytes) (m : Nat) :
    leAt (leBytes n v ++ b) off m = leAt b (off - n) m := by
  simp [leAt, slice_append_beyond (a := leBytes n v) (by simpa using h)]

end Sys2Proof.Machine
end

section
/-!
PROOFS. The bytes of a packet are the packet, and its fields stand where R341 puts them.
-/
namespace Sys2Proof

open Machine

/-- The byte of a packet's flags (R341). -/
def Packet.flagByte (p : Packet) : Nat := p.blot.toNat + 2 * (p.red % 4) + 8 * p.sealed.toNat

/-- What follows a packet's header (R341). -/
def Packet.body (p : Packet) : Bytes :=
  if p.kind = 0 then padTo 512 p.payload ++ padTo 32 p.digest else if p.kind = 5 then padTo 64 p.payload else []

/-- The fields of a packet have the widths of R341, and its payload and digest the lengths of its kind. -/
structure Packet.Fits (p : Packet) : Prop where
  kind : p.kind < 8
  red : p.red < 4
  dstChip : p.dstChip < 2 ^ 20
  srcChip : p.srcChip < 2 ^ 20
  dstEp : p.dstEp < 2 ^ 8
  ch : p.ch < 2 ^ 8
  srcEp : p.srcEp < 2 ^ 8
  valid : p.valid < 2 ^ 8
  n : p.n < 2 ^ 32
  chunk : p.chunk < 2 ^ 9
  lseq : p.lseq < 2 ^ 16
  tseq : p.tseq < 2 ^ 32
  tag : p.tag < 2 ^ 64
  payload : p.payload.length = if p.kind = 0 then 512 else if p.kind = 5 then 64 else 0
  digest : p.digest.length = if p.kind = 0 then 32 else 0

variable {p : Packet}

/-- The fields of a header follow one another without a gap. -/
theorem packetHeader_eq (p : Packet) : packetHeader p =
    leBytes 1 p.kind ++ (leBytes 1 p.flagByte ++ (leBytes 3 (p.dstChip % 2 ^ 20) ++ (leBytes 3 (p.srcChip % 2 ^ 20) ++
      (leBytes 1 p.dstEp ++ (leBytes 1 p.ch ++ (leBytes 1 p.srcEp ++ (leBytes 1 p.valid ++ (leBytes 4 p.n ++
        (leBytes 2 (p.chunk % 2 ^ 9) ++ (leBytes 2 p.lseq ++ (leBytes 4 p.tseq ++ leBytes 8 p.tag))))))))))) := by
  simp [packetHeader, layout, layoutAt, zeros, padTo_of_length, Packet.flagByte]

@[simp] theorem length_packetHeader (p : Packet) : (packetHeader p).length = 32 := by simp [packetHeader_eq]

theorem packetBytes_eq (p : Packet) : packetBytes p = packetHeader p ++ p.body := rfl

theorem Packet.flagByte_lt (p : Packet) : p.flagByte < 256 := by
  have hb := p.blot.toNat_lt
  have hs := p.sealed.toNat_lt
  unfold Packet.flagByte
  omega

theorem Packet.bit_flagByte_blot (p : Packet) : bit p.flagByte 0 = p.blot :=
  bit_eq_of_parity (by have := p.blot.toNat_lt; unfold Packet.flagByte; omega)

theorem Packet.bit_flagByte_sealed (p : Packet) : bit p.flagByte 3 = p.sealed :=
  bit_eq_of_parity (by have := p.blot.toNat_lt; have := p.sealed.toNat_lt; unfold Packet.flagByte; omega)

theorem Packet.Fits.fld_flagByte_red (h : p.Fits) : fld p.flagByte 1 2 = p.red := by
  have := p.blot.toNat_lt
  have := h.red
  unfold fld Packet.flagByte
  omega

/-- A data packet's body is its chunk and the chunk's digest, a mailbox packet's its message. -/
theorem Packet.Fits.body_eq (h : p.Fits) : p.body = p.payload ++ p.digest := by
  have hp := h.payload
  have hd := h.digest
  unfold Packet.body
  split
  case isTrue hk => simp only [hk, if_true] at hp hd; rw [padTo_of_length hp, padTo_of_length hd]
  case isFalse h0 =>
    rw [if_neg h0] at hp hd
    rw [List.eq_nil_of_length_eq_zero hd, List.append_nil]
    split
    case isTrue hk => rw [if_pos hk] at hp; exact padTo_of_length hp
    case isFalse h5 => rw [if_neg h5] at hp; exact (List.eq_nil_of_length_eq_zero hp).symm

theorem Packet.Fits.length_body (h : p.Fits) : p.body.length = if p.kind = 0 then 544 else if p.kind = 5 then 64 else 0 := by
  rw [h.body_eq, List.length_append, h.payload, h.digest]
  split <;> [rfl; split] <;> rfl

/-- Each field of a header is read back at its offset (R341). -/
theorem Packet.Fits.leAt_packetBytes (h : p.Fits) :
    leAt (packetBytes p) 0 1 = p.kind ∧ leAt (packetBytes p) 1 1 = p.flagByte ∧ leAt (packetBytes p) 2 3 = p.dstChip ∧
    leAt (packetBytes p) 5 3 = p.srcChip ∧ leAt (packetBytes p) 8 1 = p.dstEp ∧ leAt (packetBytes p) 9 1 = p.ch ∧
    leAt (packetBytes p) 10 1 = p.srcEp ∧ leAt (packetBytes p) 11 1 = p.valid ∧ leAt (packetBytes p) 12 4 = p.n ∧
    leAt (packetBytes p) 16 2 = p.chunk ∧ leAt (packetBytes p) 18 2 = p.lseq ∧ leAt (packetBytes p) 20 4 = p.tseq ∧
    leAt (packetBytes p) 24 8 = p.tag := by
  have flags := p.flagByte_lt
  obtain ⟨kind, -, dstChip, srcChip, dstEp, ch, srcEp, valid, n, chunk, lseq, tseq, tag, -, -⟩ := h
  simp only [packetBytes_eq, packetHeader_eq, List.append_assoc, Nat.mod_eq_of_lt dstChip, Nat.mod_eq_of_lt srcChip, Nat.mod_eq_of_lt chunk]
  simp (disch := omega) [leAt_leBytes_append_beyond, leAt_leBytes_append]

theorem Packet.Fits.read_payload (h : p.Fits) :
    (if p.kind = 0 then slice (packetBytes p) 32 512 else if p.kind = 5 then slice (packetBytes p) 32 64 else []) = p.payload := by
  have hp := h.payload
  have read (n : Nat) (hn : p.payload.length = n) : slice (packetBytes p) 32 n = p.payload := by
    simp [packetBytes_eq, h.body_eq, slice_append_beyond, slice_append_self hn]
  split
  case isTrue hk => exact read 512 (by simpa [hk] using hp)
  case isFalse h0 =>
    split
    case isTrue hk => exact read 64 (by simpa [hk] using hp)
    case isFalse h5 => exact (List.eq_nil_of_length_eq_zero (by simpa [h0, h5] using hp)).symm

theorem Packet.Fits.read_digest (h : p.Fits) : (if p.kind = 0 then slice (packetBytes p) 544 32 else []) = p.digest := by
  have hd := h.digest
  split
  case isTrue hk =>
    have hp : p.payload.length = 512 := by simpa [hk] using h.payload
    have hn : p.digest.length = 32 := by simpa [hk] using hd
    simpa [packetBytes_eq, h.body_eq, slice_append_beyond, hp] using slice_append_self hn []
  case isFalse hk => exact (List.eq_nil_of_length_eq_zero (by simpa [hk] using hd)).symm

theorem Packet.Fits.packetOf_packetBytes (h : p.Fits) : packetOf (packetBytes p) = some p := by
  obtain ⟨kind, flags, dstChip, srcChip, dstEp, ch, srcEp, valid, n, chunk, lseq, tseq, tag⟩ := h.leAt_packetBytes
  have known : ¬ 7 < p.kind := by have := h.kind; omega
  have length : (packetBytes p).length = 32 + if p.kind = 0 then 544 else if p.kind = 5 then 64 else 0 := by
    simp [packetBytes_eq, h.length_body]
  unfold packetOf
  simp only [kind, flags, dstChip, srcChip, dstEp, ch, srcEp, valid, n, chunk, lseq, tseq, tag, known, length, ne_eq, not_true_eq_false, or_self,
    if_false, p.bit_flagByte_blot, p.bit_flagByte_sealed, h.fld_flagByte_red, fld_zero_of_lt h.dstChip, fld_zero_of_lt h.srcChip,
    fld_zero_of_lt h.chunk, h.read_payload, h.read_digest]

end Sys2Proof
end

section
/-!
PROOFS. What a received packet does, by its kind, and its acknowledgement (R342).
-/
namespace Sys2Proof.Machine

variable {s : State} {port u : Nat} {p : Packet}

/-- The state in which a packet in sequence acts: its port expects the number after it. -/
def State.expectNext (s : State) (port : Nat) : State := s.updPort port fun x => { x with expSeq := (x.expSeq + 1) % 2 ^ 16, nackSent := false }

/-- After a packet has acted, its acknowledgement leaves. -/
def State.acked (t : State) (port : Nat) (p : Packet) : Host.Outcome State Fault Refusal := .next (t.reply port (Machine.answer 1 t p p.lseq))

/-- A packet for a channel of a unit of this chip arrives at a live port. -/
structure Reaches (s : State) (port u : Nat) (p : Packet) : Prop where
  live : (s.port port).dead = false
  chip : p.dstChip = s.chipId
  unit : s.unitOfEp p.dstEp p.ch = some u

/-- Such a packet is intact and next in sequence. -/
structure InSequence (s : State) (port u : Nat) (p : Packet) : Prop extends Reaches s port u p where
  digest : digestOk p = true
  order : p.lseq = (s.port port).expSeq

theorem State.landAt_of_unit (h : s.unitOfEp p.dstEp p.ch = some u) (bad : Bool) :
    s.landAt p bad = if (s.unit u).freeze ≠ 0 ∨ (s.unit u).landQ ≠ [] then s.updUnit u fun x => { x with landQ := x.landQ ++ [(p, bad)] }
      else s.landData u p.ch p bad := by
  simp [State.landAt, h]

theorem Reaches.exec_serifData_blot (h : Reaches s port u p) (kind : p.kind = 0) (blot : p.blot = true) :
    exec (.serifData port p) s = .next (s.landAt p (!digestOk p)) := by
  change execSerifData port p s = _
  simp [execSerifData, kind, blot, h.live, h.chip]

namespace InSequence

/-- A packet in sequence acts and is then acknowledged, whatever its kind. -/
theorem receive (h : InSequence s port u p) (act : State → State) :
    .next (s.receive port p act) = (act (s.expectNext port)).acked port p := by
  simp [State.receive, h.live, h.chip, h.digest, h.order, State.acked, State.expectNext]

theorem unit_expectNext (h : InSequence s port u p) : (s.expectNext port).unitOfEp p.dstEp p.ch = some u := h.unit

theorem exec_serifData (h : InSequence s port u p) (kind : p.kind = 0) (blot : p.blot = false) :
    exec (.serifData port p) s = ((s.expectNext port).landAt p false).acked port p := by
  change execSerifData port p s = _
  simp [execSerifData, kind, blot, h.receive, h.unit_expectNext]

theorem exec_serifData_landData (h : InSequence s port u p) (kind : p.kind = 0) (blot : p.blot = false)
    (running : ((s.expectNext port).unit u).freeze = 0) (empty : ((s.expectNext port).unit u).landQ = []) :
    exec (.serifData port p) s = ((s.expectNext port).landData u p.ch p false).acked port p := by
  rw [h.exec_serifData kind blot, State.landAt_of_unit h.unit_expectNext, if_neg (by simp [running, empty])]

/-- In a freeze of the unit data wait (R170). -/
theorem exec_serifData_frozen (h : InSequence s port u p) (kind : p.kind = 0) (blot : p.blot = false)
    (frozen : ((s.expectNext port).unit u).freeze ≠ 0) :
    exec (.serifData port p) s =
      ((s.expectNext port).updUnit u fun x => { x with landQ := x.landQ ++ [(p, false)] }).acked port p := by
  rw [h.exec_serifData kind blot, State.landAt_of_unit h.unit_expectNext, if_pos (Or.inl frozen)]

theorem exec_slotReady (h : InSequence s port u p) (kind : p.kind = 3) :
    exec (.slotReady port p) s = ((s.expectNext port).updEnd u p.ch fun e => { e with ready := (e.ready + 1) % 2 ^ 32 }).acked port p := by
  change execSlotReady port p s = _
  simp [execSlotReady, kind, h.receive, h.unit_expectNext]

theorem exec_counterAdd (h : InSequence s port u p) (kind : p.kind = 4) :
    exec (.counterAdd port p) s =
      (((s.expectNext port).updEnd u p.ch fun e => { e with adds := e.adds ++ [(p.tag % 2 ^ 32, p.n)] }).applyAdds u p.ch).acked port p := by
  change execCounterAdd port p s = _
  simp [execCounterAdd, kind, h.receive, h.unit_expectNext]

theorem exec_bindNotice (h : InSequence s port u p) (kind : p.kind = 7) :
    exec (.bindNotice port p) s = ((s.expectNext port).applyNotice u p.ch p).acked port p := by
  change execBindNotice port p s = _
  simp [execBindNotice, kind, h.receive, h.unit_expectNext]

theorem exec_serifMailbox {t : State} (h : InSequence s port u p) (kind : p.kind = 5)
    (accepted : (s.expectNext port).accept (fld p.n 10 2) (fld p.n 0 10) p.payload = some t) :
    exec (.serifMailbox port p) s = t.acked port p := by
  change execSerifMailbox port p s = _
  simp [execSerifMailbox, kind, h.receive, accepted]

theorem exec_refusal {o : OutPkt} (h : InSequence s port u p) (kind : p.kind = 6)
    (named : (markRefused p ((s.expectNext port).port port).unacked).2 = some o) :
    exec (.refusal port p) s = (((s.expectNext port).updPort port fun x =>
      { x with unacked := (markRefused p ((s.expectNext port).port port).unacked).1 }).refused o.job o.cid).acked port p := by
  change execRefusal port p s = _
  simp [execRefusal, kind, h.receive, named]

end InSequence

end Sys2Proof.Machine
end

section
/-!
PROOFS. The events of a link (R342).
-/
namespace Sys2Proof.Machine

variable {s : State} {port lseq now : Nat}

theorem exec_serifNack (live : (s.port port).dead = false) (sent : ((s.port port).unacked.any fun o => o.p.lseq == lseq) = true) :
    exec (.serifNack port lseq) s = .next (s.goBack port lseq (max (s.port port).waitFrom (s.portNow port))) := by
  change execSerifNack port lseq s = _
  simp only [execSerifNack, live, sent, Bool.not_true, Bool.or_self, Bool.false_eq_true, if_false]

theorem exec_serifAck (live : (s.port port).dead = false) (sent : ((s.port port).unacked.any fun o => o.p.lseq == lseq) = true) :
    exec (.serifAck port lseq) s = .next (((s.port port).unacked.filter fun o => seqLe o.p.lseq lseq).foldl (fun s o => s.ackPkt o)
      (s.updPort port fun x => PortSt.pump (s.portNow port)
        { x with rounds := 0, unacked := x.unacked.filter fun o => !seqLe o.p.lseq lseq })) := by
  change execSerifAck port lseq s = _
  simp only [execSerifAck, live, sent, Bool.not_true, Bool.or_self, Bool.false_eq_true, if_false]

theorem exec_retransmitTimeout {o : OutPkt} {r : List OutPkt} (live : (s.port port).dead = false) (oldest : (s.port port).unacked = o :: r)
    (due : o.sentAt + 8192 ≤ max now (s.portNow port)) :
    exec (.retransmitTimeout port now) s = .next (s.goBack port o.p.lseq (max now (s.portNow port))) := by
  change execRetransmitTimeout port now s = _
  simp only [execRetransmitTimeout, live, oldest, Nat.not_lt.mpr due, decide_false, Bool.or_self, Bool.false_eq_true, if_false]

theorem exec_fecFailure {p : Packet} (live : (s.port port).dead = false) (chip : p.dstChip = s.chipId) (counted : numbered p = true) :
    exec (.fecFailure port p) s = .next (s.reply port (answer 2 s p p.lseq)) := by
  change execFecFailure port p s = _
  simp [execFecFailure, live, chip, counted]

/-- The count toward a dead port starts where it is not running. -/
theorem exec_lossOfSignalChanges_on (running : (s.port port).los = none) :
    ∃ t, exec (.lossOfSignalChanges port true now) s = .next t ∧ (t.port port).los = some now :=
  ⟨_, rfl, by simp [running]⟩

theorem exec_lossOfSignalChanges_off : ∃ t, exec (.lossOfSignalChanges port false now) s = .next t ∧ (t.port port).los = none :=
  ⟨_, rfl, by simp⟩

theorem exec_lossOfSignalDead {t0 : Nat} (since : (s.port port).los = some t0) (live : (s.port port).dead = false)
    (due : t0 + 2 ^ 20 ≤ now) : exec (.lossOfSignalDead port now) s = .next (s.portDead port) := by
  change execLossOfSignalDead port now s = _
  simp only [execLossOfSignalDead, since, live, Nat.not_lt.mpr due, decide_false, Bool.or_self, Bool.false_eq_true, if_false]

/-- A trained port is live with its sequence numbers at 0 (log 22), and then the waiting notices of every die leave. -/
theorem exec_linkTrainingComplete (training : (s.port port).training = true) :
    ∃ t : State, exec (.linkTrainingComplete port) s = .next ([0, 1, 2, 3].foldl State.flushWaiting t) ∧
      (t.port port).dead = false ∧ (t.port port).training = false ∧ (t.port port).nextSeq = 0 ∧ (t.port port).expSeq = 0 := by
  refine ⟨s.updPort port fun x =>
    { x with dead := false, training := false, nextSeq := 0, expSeq := 0, nackSent := false, rounds := 0, acks := [], los := none }, ?_, ?_⟩
  · change execLinkTrainingComplete port s = _
    simp only [execLinkTrainingComplete, training, Bool.not_true, Bool.false_eq_true, if_false]
  · simp

end Sys2Proof.Machine
end

section
/-!
PROOFS. O46: received packets, the events of the link and a packet's bytes.
-/
namespace Sys2Proof

open Machine

/-- Settles O46: a packet in sequence acts by its kind and is acknowledged, by the rule of `State.receive`; the link's events by their
definitions; a packet's bytes by the offsets of its header's fields. -/
theorem packetsAndLinkEvents : Obligations.PacketsAndLinkEvents := by
  constructor
  · intro s port u p live chip unit
    have reaches : Reaches s port u p := ⟨live, chip, unit⟩
    refine ⟨fun kind blot => ?_, fun digest order => ?_⟩
    · rw [reaches.exec_serifData_blot kind blot, State.landAt_of_unit unit]
    · have h : InSequence s port u p := ⟨reaches, digest, order⟩
      intro r _ done
      exact ⟨h.exec_serifData_landData, h.exec_serifData_frozen, h.exec_slotReady, h.exec_counterAdd, h.exec_bindNotice,
        fun _ => h.exec_serifMailbox, fun _ => h.exec_refusal⟩
  · intro s port lseq now t0 p o r
    refine ⟨fun live sent => ⟨exec_serifNack live sent, exec_serifAck live sent⟩, exec_retransmitTimeout, exec_fecFailure,
      exec_lossOfSignalChanges_on, exec_lossOfSignalChanges_off, exec_lossOfSignalDead, exec_linkTrainingComplete, ?_⟩
    intro kind red dstChip srcChip dstEp ch srcEp valid n chunk lseq tseq tag payload digest
    have h : p.Fits := ⟨kind, red, dstChip, srcChip, dstEp, ch, srcEp, valid, n, chunk, lseq, tseq, tag, payload, digest⟩
    obtain ⟨-, -, dstChip_at, -, -, -, -, -, n_at, -, lseq_at, -, tag_at⟩ := h.leAt_packetBytes
    exact ⟨h.packetOf_packetBytes, dstChip_at, n_at, lseq_at, tag_at⟩

end Sys2Proof
end

section
/-!
PROOFS. What landed results and the end of a fence leave alone, and a bundle whose exception follows it (R53, R217, R241).
-/
namespace Sys2Proof.Machine

/-- `d` is `c` but for the registers and flags that a landing may write and what is still in flight. -/
def Ctx.LandsTo (c d : Ctx) : Prop :=
  d = { c with s := d.s, q := d.q, h := d.h, flags := d.flags, pend := d.pend, fly := d.fly }

theorem Ctx.landsTo_land1 (c : Ctx) (f : Fly) : c.LandsTo (c.land1 f) := by
  unfold Ctx.LandsTo Ctx.land1 Ctx.setReg
  split <;> split <;> rfl

theorem Ctx.LandsTo.trans {c d e : Ctx} (h : c.LandsTo d) (k : d.LandsTo e) : c.LandsTo e := by
  unfold Ctx.LandsTo at *
  rw [k, h]

theorem Ctx.landsTo_foldl_land1 (l : List Fly) : ∀ c : Ctx, c.LandsTo (l.foldl Ctx.land1 c) := by
  induction l with
  | nil => exact fun c => rfl
  | cons f l ih => exact fun c => (c.landsTo_land1 f).trans (ih _)

/-- Landing changes registers, flags, the pending set and what is in flight (R65). -/
theorem Ctx.landsTo_landWhere (c : Ctx) (p : Fly → Bool) : c.LandsTo (c.landWhere p) :=
  (Ctx.landsTo_foldl_land1 _ c).trans rfl

@[simp] theorem Ctx.fmt_landWhere (c : Ctx) (p : Fly → Bool) : (c.landWhere p).fmt = c.fmt := by rw [c.landsTo_landWhere p]

@[simp] theorem Ctx.fencing_tfenced (c : Ctx) (n : Nat) : (c.tfenced n).fencing = c.fencing := by
  change (c.landWhere _).fencing = _
  rw [c.landsTo_landWhere _]

@[simp] theorem Ctx.pend_tfenced (c : Ctx) (n : Nat) : (c.tfenced n).pend = 0 := rfl

/-- A context whose TFENCE ends at once: ARITH is asked for when one of the pending flags is enabled (R53, R217). -/
def Ctx.fencedAtOnce (c : Ctx) : Ctx :=
  { c.tfenced c.bundleNo with
    after := if trapping (c.landWhere fun f => decide (f.bundle < c.bundleNo)).pend c.fmt = 0 then c.after
      else .arith (c.landWhere fun f => decide (f.bundle < c.bundleNo)).pend.toNat }

@[simp] theorem Ctx.pend_fencedAtOnce (c : Ctx) : c.fencedAtOnce.pend = 0 := rfl

@[simp] theorem Ctx.fencing_fencedAtOnce (c : Ctx) : c.fencedAtOnce.fencing = c.fencing := c.fencing_tfenced _

theorem Ctx.after_fencedAtOnce_quiet {c : Ctx} {n : Nat} (now : c.bundleNo = n)
    (quiet : trapping (c.landWhere fun f => decide (f.bundle < n)).pend (c.landWhere fun f => decide (f.bundle < n)).fmt = 0) :
    c.fencedAtOnce.after = c.after := by
  subst now
  rw [Ctx.fmt_landWhere] at quiet
  exact if_pos quiet

theorem Ctx.after_fencedAtOnce_traps {c : Ctx} {n : Nat} (now : c.bundleNo = n)
    (traps : trapping (c.landWhere fun f => decide (f.bundle < n)).pend (c.landWhere fun f => decide (f.bundle < n)).fmt ≠ 0) :
    c.fencedAtOnce.after = .arith (c.landWhere fun f => decide (f.bundle < n)).pend.toNat := by
  subst now
  rw [Ctx.fmt_landWhere] at traps
  exact if_neg traps

/-- With no job before the fence left and no enabled flag pending, the stall of a TFENCE ends: its context goes on behind it (R53, R217). -/
theorem State.fenceStep_ends {w : State} {f : Fencing} (word : f.word = none) (done : ∀ j ∈ w.jobsOf w.curU w.cur.cid, f.jid ≤ j.jid)
    (quiet : trapping (w.cur.landWhere fun x => decide (x.bundle < f.bundle)).pend f.te = 0) :
    w.fenceStep f = w.updCur fun c => { c.tfenced f.bundle with pc := f.next, fencing := none, stall := 0, last := .idle } := by
  have none_left : (w.jobsOf w.curU w.cur.cid).filter (fun j => decide (j.jid < f.jid)) = [] :=
    List.filter_eq_nil_iff.2 fun j hj => by simpa using done j hj
  unfold State.fenceStep
  simp [none_left, Laws.faultOf_nil, word, quiet]

end Sys2Proof.Machine

namespace Sys2Proof.Laws

open Machine

/-- Where the bundle does not end an iteration, the boundary test changes nothing (R208). -/
theorem boundary_of_not_atLoopEnd {t : State} {p : Pres} (h : atLoopEnd t p = false) (c : Ctx) (li : c.li = t.cur.li) :
    boundary p.addr c (afterBundle t p) c.li = (c, afterBundle t p, false) := by
  cases hc : c.li with
  | nil => rw [boundary, ← hc]
  | cons l ls =>
    rw [boundary, if_neg, ← hc]
    rintro ⟨lo, hi, stop⟩
    simp [atLoopEnd, ← li, hc, lo, hi, stop] at h

/-- What a bundle asks of the sequencer shows neither in the address after it nor in the context that goes on (R61). -/
theorem afterBundle_ask (t : State) (a : After) (p : Pres) : afterBundle (t.ask a) p = afterBundle t p :=
  afterBundle_setCur t _ p rfl

theorem atLoopEnd_ask (t : State) (a : After) (p : Pres) : atLoopEnd (t.ask a) p = atLoopEnd t p :=
  atLoopEnd_setCur t _ p rfl rfl

theorem goOn_ask (t : State) (a : After) (p : Pres) : goOn (t.ask a) p = goOn t p := by
  unfold goOn
  rw [afterBundle_ask]
  simp [State.ask]

theorem pend_goOn (t : State) (p : Pres) : (goOn t p).pend = t.cur.pend := rfl

/-- The exception that a bundle asks for after it (R217, R241). -/
inductive Follows (i : Instr) : After → Trap → Prop where
  | trapinsn (imm : Nat) : Follows i (.trapinsn imm) { cause := 0x21, slot := 1, data := imm, w := i.syl.w }
  | arith (pend : Nat) : Follows i (.arith pend) { cause := 0x20, slot := 1, data := pend, w := i.syl.w }

/-- A bundle of one slot that asks for an exception after it: it is counted, the PC moves past it, and then the exception is taken
(R217, R241). -/
theorem finishBundle_trap {t : State} {p : Pres} {i : Instr} {trap : Trap} (asks : Follows i t.cur.after trap) (slot : i.slot = 1)
    (stop : p.stop = true) (inside : atLoopEnd t p = false) :
    t.finishBundle p [i] = (t.setCur (goOn t p)).enterTrap t.curU t.curB trap p.addr := by
  have hb := boundary_of_not_atLoopEnd inside
    { t.cur with bundleNo := t.cur.bundleNo + 1, pres := none, after := .none, last := .issued, stall := 0, brkSkip := none } rfl
  have hc : t.codeByte t.curU { t.cur with bundleNo := t.cur.bundleNo + 1, pres := none, after := .none, last := .issued, stall := 0, brkSkip := none } =
      t.codeByte t.curU t.cur := by funext a; rfl
  unfold State.finishBundle
  generalize ha : t.cur.after = a at asks
  cases asks <;>
  · simp only [ha, hc]
    unfold afterBundle at hb
    simp only [hb]
    simp [stop, slot, goOn, afterBundle]

end Sys2Proof.Laws
end

section
/-!
PROOFS. O25: the exceptions that follow their bundle.
-/
namespace Sys2Proof

open Machine Laws

@[simp] theorem bundleNo_shown (s : State) (i : Instr) : (shown s i).cur.bundleNo = s.begin.cur.bundleNo := by rw [shown_cur]

@[simp] theorem after_shown (s : State) (i : Instr) : (shown s i).cur.after = s.begin.cur.after := by rw [shown_cur]

@[simp] theorem fencing_shown (s : State) (i : Instr) : (shown s i).cur.fencing = s.begin.cur.fencing := by rw [shown_cur]

section Tfence

variable {qp : Nat} {s : State}

/-- What a TFENCE leaves when no job of its context is left: the pending set is clear, and ARITH is asked for when one of its flags was
enabled (R53, R217). -/
theorem effect_tfence_alone
    (alone : (shown s (.tfence qp)).jobsOf (shown s (.tfence qp)).curU (shown s (.tfence qp)).cur.cid = []) :
    effect s (semTfence qp) = (shown s (.tfence qp)).updCur Ctx.fencedAtOnce :=
  if_pos (by rw [List.isEmpty_iff]; exact alone)

/-- With jobs left it stalls its context. -/
theorem effect_tfence_stalls
    (busy : (shown s (.tfence qp)).jobsOf (shown s (.tfence qp)).curU (shown s (.tfence qp)).cur.cid ≠ []) :
    effect s (semTfence qp) = (shown s (.tfence qp)).updCur fun c =>
      { c with fencing := some ((shown s (.tfence qp)).fencing (.tfence qp) none) } :=
  if_neg (by rw [List.isEmpty_iff]; exact busy)

theorem exec_tfence (ok : Issuable s (semTfence qp)) :
    exec (.tfence qp) s = .next ((effect s (semTfence qp)).finishBundle (presOf s (.tfence qp)) [.tfence qp]) := issue1_issuable ok

theorem exec_tfence_plain (ok : Issuable s (semTfence qp)) (inside : atLoopEnd (effect s (semTfence qp)) (presOf s (.tfence qp)) = false)
    (plain : (effect s (semTfence qp)).cur.after = .none) : exec (.tfence qp) s =
      .next ((effect s (semTfence qp)).setCur (goOn (effect s (semTfence qp)) (presOf s (.tfence qp)))).stallLands := by
  rw [exec_tfence ok, finishBundle_plain _ _ _ plain rfl inside]

theorem exec_tfence_arith {pend : Nat} (ok : Issuable s (semTfence qp))
    (inside : atLoopEnd (effect s (semTfence qp)) (presOf s (.tfence qp)) = false)
    (arith : (effect s (semTfence qp)).cur.after = .arith pend) : exec (.tfence qp) s =
      .next (((effect s (semTfence qp)).setCur (goOn (effect s (semTfence qp)) (presOf s (.tfence qp)))).enterTrap
        (effect s (semTfence qp)).curU (effect s (semTfence qp)).curB { cause := 0x20, slot := 1, data := pend, w := (Instr.tfence qp).syl.w }
        s.begin.cur.pc) := by
  rw [exec_tfence ok, finishBundle_trap (arith ▸ Follows.arith pend) rfl rfl inside]
  rfl

end Tfence

/-- A TRAP that is ready issues, and takes its exception after its bundle (R241). -/
theorem exec_trap {qp imm16 : Nat} {s : State} (ready : Ready s (.trap qp imm16) qp)
    (inside : atLoopEnd (shown s (.trap qp imm16)) (presOf s (.trap qp imm16)) = false) : exec (.trap qp imm16) s =
      .next ((s.begin.setCur (goOn (shown s (.trap qp imm16)) (presOf s (.trap qp imm16)))).enterTrap
        s.begin.curU s.begin.curB { cause := 0x21, slot := 1, data := imm16, w := (Instr.trap qp imm16).syl.w } s.begin.cur.pc) := by
  have issues : exec (.trap qp imm16) s =
      .next (((shown s (.trap qp imm16)).ask (.trapinsn imm16)).finishBundle (presOf s (.trap qp imm16)) [.trap qp imm16]) :=
    issue1_issuable (o := semTrap qp imm16) ⟨ready, faultOf_nil _ _, rfl, rfl, rfl, rfl, .inl rfl⟩
  have asks : ((shown s (.trap qp imm16)).ask (.trapinsn imm16)).cur.after = .trapinsn imm16 := by simp [State.ask]
  rw [issues, finishBundle_trap (asks ▸ Follows.trapinsn imm16) rfl rfl ((atLoopEnd_ask _ _ _).trans inside), goOn_ask]
  simp only [State.ask, State.updCur, State.setCur_setCur, shown_setCur]
  rfl

/-- Settles O25: a TFENCE that issues either ends at once or stalls until `fenceStep` ends it, and the exceptions of TFENCE and TRAP are
taken by the sequencer's part of their bundle. -/
theorem trapsFollowTheirBundle : Obligations.TrapsFollowTheirBundle := by
  refine ⟨fun qp s ok inside => ⟨fun alone => ?_, fun busy => ?_⟩, fun qp imm16 s => exec_trap⟩
  · obtain ⟨-, -, after, running, -⟩ : Ready s (.tfence qp) qp := ok.1
    have left : (effect s (semTfence qp)).cur = (shown s (.tfence qp)).cur.fencedAtOnce := by
      rw [effect_tfence_alone alone, State.cur_updCur]
    have runs : (effect s (semTfence qp)).cur.fencing = none := by rw [left, Ctx.fencing_fencedAtOnce, fencing_shown, running]
    have now := bundleNo_shown s (.tfence qp)
    refine ⟨by rw [left, Ctx.pend_fencedAtOnce], if_neg (by rw [runs]; simp), fun quiet => exec_tfence_plain ok inside ?_, fun traps => ?_⟩
    · rw [left, Ctx.after_fencedAtOnce_quiet now quiet, after_shown, after]
    · rw [exec_tfence_arith ok inside ((congrArg Ctx.after left).trans (Ctx.after_fencedAtOnce_traps now traps)), effect_tfence_alone alone]
      rfl
  · obtain ⟨-, -, after, -⟩ : Ready s (.tfence qp) qp := ok.1
    have left : (effect s (semTfence qp)).cur =
        { (shown s (.tfence qp)).cur with fencing := some ((shown s (.tfence qp)).fencing (.tfence qp) none) } := by
      rw [effect_tfence_stalls busy, State.cur_updCur]
    have stalls : (effect s (semTfence qp)).cur.fencing = some ((shown s (.tfence qp)).fencing (.tfence qp) none) := by rw [left]
    have pend : (effect s (semTfence qp)).cur.pend = (shown s (.tfence qp)).cur.pend := by rw [left]
    have plain : (effect s (semTfence qp)).cur.after = .none := (congrArg Ctx.after left).trans ((after_shown s _).trans after)
    refine ⟨exec_tfence_plain ok inside plain, if_pos (congrArg Option.isSome stalls), (pend_goOn _ _).trans pend,
      { (shown s (.tfence qp)).fencing (.tfence qp) none with next := afterBundle (effect s (semTfence qp)) (presOf s (.tfence qp)) },
      congrArg (Option.map _) stalls, rfl, rfl, rfl, fun w done quiet => ?_⟩
    rw [State.fenceStep_ends rfl done quiet, State.cur_updCur]
    exact ⟨rfl, rfl, rfl⟩

end Sys2Proof
end

section
/-!
PROOFS. Integer elements (R33, R291-R296): an element's value as a bit vector's, and the exact integer wrapped to a width.
-/
namespace Sys2Proof

open Machine

theorem wrapN_eq_ofInt (w : Nat) (v : Int) : wrapN w v = (BitVec.ofInt w v).toNat := by simp [wrapN]

theorem sext_eq_toInt {w a : Nat} (pos : 0 < w) (h : a < 2 ^ w) : sext w a = (BitVec.ofNat w a).toInt := by
  obtain ⟨n, rfl⟩ := Nat.exists_eq_add_of_lt pos
  have half : 2 ^ (0 + n + 1) = 2 * 2 ^ n := by rw [Nat.zero_add, Nat.pow_succ']
  have halfInt : (2 : Int) ^ (0 + n + 1) = 2 * (2 ^ n : Nat) := by rw [Nat.zero_add, pow_succ']; push_cast; rfl
  rw [BitVec.toInt_eq_toNat_cond, BitVec.toNat_ofNat, Nat.mod_eq_of_lt h, sext, halfInt, half]
  simp only [Nat.zero_add, Nat.add_sub_cancel]
  generalize 2 ^ n = p
  split <;> split <;> omega

theorem intOf_injective {w : Nat} (sg : Bool) {a b : Nat} (ha : a < 2 ^ w) (hb : b < 2 ^ w) (h : intOf w sg a = intOf w sg b) : a = b := by
  have same : BitVec.ofNat w a = BitVec.ofNat w b := by
    cases sg
    · exact BitVec.eq_of_toNat_eq (by simpa only [intOf, Bool.false_eq_true, if_false, Nat.cast_inj] using h)
    · exact BitVec.eq_of_toInt_eq (by simpa only [intOf, if_true] using h)
  simpa [Nat.mod_eq_of_lt ha, Nat.mod_eq_of_lt hb] using congrArg BitVec.toNat same

/-- The six conditions of VCMP on a linear order (R294). -/
theorem condOf_eq {α : Type} [LinearOrder α] (x y : α) {k : Nat} {p : Bool}
    (h : (k, p) ∈ [(0, decide (x = y)), (1, decide (x ≠ y)), (2, decide (x < y)), (3, decide (x ≤ y)), (4, decide (y < x)), (5, decide (y ≤ x))]) :
    condOf k (decide (x < y)) (decide (x = y)) = p := by
  simp only [List.mem_cons, Prod.mk.injEq, List.not_mem_nil, or_false] at h
  rcases h with ⟨rfl, rfl⟩ | ⟨rfl, rfl⟩ | ⟨rfl, rfl⟩ | ⟨rfl, rfl⟩ | ⟨rfl, rfl⟩ | ⟨rfl, rfl⟩
  · rfl
  · exact (decide_not ..).symm
  · rfl
  · simp [condOf, le_iff_lt_or_eq]
  · rcases lt_trichotomy x y with lt | eq | gt
    · simp [condOf, lt, lt.not_gt]
    · simp [condOf, eq]
    · simp [condOf, gt, gt.ne', gt.le]
  · simp [condOf, ← not_lt]

/-- `c` is the code of an integer element type of width `w`, signed or not. -/
structure IsIntCode (c w : Nat) (sg : Bool) : Prop where
  flt : isFlt c = false
  width : widthOf c = w
  pos : 0 < w
  range : intRange c = some (if sg then (-2 ^ (w - 1), 2 ^ (w - 1) - 1) else (0, 2 ^ w - 1))
  val : ∀ a, a < 2 ^ w → intVal c a = intOf w sg a

theorem isIntCode_of_mem {ty w : Nat} {sg : Bool} (h : (ty, w, sg) ∈ intTypes) : IsIntCode (tyCode ty) w sg := by
  simp only [intTypes, List.mem_cons, Prod.mk.injEq, List.not_mem_nil, or_false] at h
  have signed {w a : Nat} (pos : 0 < w) (h : a < 2 ^ w) : sext w a = intOf w true a := sext_eq_toInt pos h
  have unsigned {w a : Nat} (h : a < 2 ^ w) : (a : Int) = intOf w false a := by simp [intOf, Nat.mod_eq_of_lt h]
  rcases h with ⟨rfl, rfl, rfl⟩ | ⟨rfl, rfl, rfl⟩ | ⟨rfl, rfl, rfl⟩ | ⟨rfl, rfl, rfl⟩ | ⟨rfl, rfl, rfl⟩
  · exact ⟨rfl, rfl, by decide, by decide, fun a => signed (by decide)⟩
  · exact ⟨rfl, rfl, by decide, by decide, fun a => signed (by decide)⟩
  · exact ⟨rfl, rfl, by decide, by decide, fun a => signed (by decide)⟩
  · exact ⟨rfl, rfl, by decide, by decide, fun a => unsigned⟩
  · exact ⟨rfl, rfl, by decide, by decide, fun a => unsigned⟩

theorem accAddInt_eq_wrapped {acc : Nat} (h : acc < 2 ^ 32) (s : Int) : accAddInt acc s = wrapped 32 true (intOf 32 true acc + s) := by
  have range (v : Int) : (v < -2147483648 ∨ 2147483647 < v) ↔ ¬inRange 32 true v = true := by simp [inRange]; omega
  simp only [accAddInt, wrapped, wrapN_eq_ofInt, sext_eq_toInt (by decide) h, intOf, if_true, range, ite_not]

namespace IsIntCode

variable {c w : Nat} {sg : Bool} {a b d : Nat}

theorem wrapI (h : IsIntCode c w sg) (v : Int) : Machine.wrapI c v = wrapped w sg v := by
  have range : (v < (if sg then (-2 ^ (w - 1), 2 ^ (w - 1) - 1) else ((0 : Int), (2 : Int) ^ w - 1)).1 ∨
      (if sg then (-2 ^ (w - 1), 2 ^ (w - 1) - 1) else ((0 : Int), (2 : Int) ^ w - 1)).2 < v) ↔ ¬inRange w sg v = true := by
    cases sg <;> simp [inRange] <;> omega
  simp only [Machine.wrapI, h.range, h.width, Option.getD_some, wrapped, wrapN_eq_ofInt, range, ite_not]

theorem vPick_least (h : IsIntCode c w sg) (ha : a < 2 ^ w) (hb : b < 2 ^ w) :
    vPick c false a b = if intOf w sg b < intOf w sg a then b else a := by
  simp only [vPick, h.flt, h.val a ha, h.val b hb, Bool.false_eq_true, if_false, decide_eq_false_iff_not]
  rcases lt_trichotomy (intOf w sg a) (intOf w sg b) with lt | eq | gt
  · simp [lt, lt.not_gt]
  · rw [intOf_injective sg ha hb eq, ite_self, ite_self]
  · simp [gt, gt.not_gt]

theorem vPick_greatest (h : IsIntCode c w sg) (ha : a < 2 ^ w) (hb : b < 2 ^ w) :
    vPick c true a b = if intOf w sg a < intOf w sg b then b else a := by
  simp [vPick, h.flt, h.val a ha, h.val b hb]

theorem vCmp (h : IsIntCode c w sg) (ha : a < 2 ^ w) (hb : b < 2 ^ w) (fn : Nat) :
    Machine.vCmp c fn a b =
      if condOf fn (decide (intOf w sg a < intOf w sg b)) (decide (intOf w sg a = intOf w sg b)) then 2 ^ w - 1 else 0 := by
  simp [Machine.vCmp, h.flt, h.width, h.val a ha, h.val b hb, BEq.beq]

theorem vShl (h : IsIntCode c w sg) : Machine.vShl c a b = (BitVec.ofNat w a <<< (b % w)).toNat := by
  simp [Machine.vShl, h.width, Nat.shiftLeft_eq]

theorem vShr (h : IsIntCode c w sg) (ha : a < 2 ^ w) :
    Machine.vShr c a b = (if sg then (BitVec.ofNat w a).sshiftRight (b % w) else BitVec.ofNat w a >>> (b % w)).toNat := by
  rw [Machine.vShr, h.width, h.val a ha, wrapN_eq_ofInt]
  cases sg
  · refine congrArg BitVec.toNat (BitVec.eq_of_toNat_eq ?_)
    have small : a / 2 ^ (b % w) < 2 ^ w := (Nat.div_le_self _ _).trans_lt ha
    simp only [intOf, BitVec.toNat_ofInt, BitVec.toNat_ofNat, Nat.mod_eq_of_lt ha, Bool.false_eq_true, if_false, BitVec.toNat_ushiftRight,
      Nat.shiftRight_eq_div_pow]
    rw [← Int.natCast_div, ← Int.natCast_emod, Int.toNat_natCast, Nat.mod_eq_of_lt small]
  · simp [intOf, BitVec.sshiftRight, Int.shiftRight_eq_div_pow]

theorem vSum (h : IsIntCode c w sg) {xs : List Nat} (hx : ∀ z ∈ xs, z < 2 ^ w) : Machine.vSum c xs = sumInt 0 (xs.map (intOf w sg)) := by
  rw [Machine.vSum, h.flt, if_neg (by simp), List.map_congr_left fun z hz => h.val z (hx z hz)]

theorem vDotSum (h : IsIntCode c w sg) {xs : List (Nat × Nat)} (hx : ∀ z ∈ xs, z.1 < 2 ^ w ∧ z.2 < 2 ^ w) :
    Machine.vDotSum c xs = sumInt 0 (xs.map fun z => intOf w sg z.1 * intOf w sg z.2) := by
  rw [Machine.vDotSum, h.flt, if_neg (by simp),
    List.map_congr_left fun z hz => by rw [h.val _ (hx z hz).1, h.val _ (hx z hz).2]]

end IsIntCode

end Sys2Proof
end

section
/-!
PROOFS. Reductions take their elements in blocks of 32, in order (R41).
-/
namespace Sys2Proof.Machine

@[simp] theorem blocks32_nil {α : Type} (n : Nat) : blocks32 n ([] : List α) = [] := by cases n <;> rfl

theorem blocks32_of_length_le {α : Type} {blk : List α} (pos : 0 < blk.length) (le : blk.length ≤ 32) (n : Nat) : blocks32 (n + 1) blk = [blk] := by
  have : blk ≠ [] := List.ne_nil_of_length_pos pos
  simp [blocks32, this, List.take_of_length_le le, List.drop_of_length_le le]

/-- A last block behind a whole number of blocks is a block of its own, whatever fuel is left. -/
theorem blocks32_append {α : Type} {blk : List α} (pos : 0 < blk.length) (le : blk.length ≤ 32) :
    ∀ (m n k : Nat) (p : List α), p.length = 32 * m → m ≤ n → m < k → blocks32 k (p ++ blk) = blocks32 n p ++ [blk]
  | 0, n, k + 1, p, hp, _, _ => by
    rw [List.eq_nil_of_length_eq_zero hp, List.nil_append, blocks32_nil, blocks32_of_length_le pos le, List.nil_append]
  | m + 1, n + 1, k + 1, p, hp, hn, hk => by
    have ne : p ≠ [] := List.ne_nil_of_length_pos (by omega)
    have rest : (p.drop 32).length = 32 * m := by rw [List.length_drop]; omega
    simp [blocks32, ne, List.take_append_of_le_length (by omega : 32 ≤ p.length), List.drop_append_of_le_length (by omega : 32 ≤ p.length),
      blocks32_append pos le m n k _ rest (by omega) (by omega)]

theorem blocks32_length_append {α : Type} {p blk : List α} {m : Nat} (hp : p.length = 32 * m) (pos : 0 < blk.length) (le : blk.length ≤ 32) :
    blocks32 (p ++ blk).length (p ++ blk) = blocks32 p.length p ++ [blk] :=
  blocks32_append pos le m _ _ p hp (by omega) (by rw [List.length_append]; omega)

theorem sumInt_nil (acc : Nat) : sumInt acc [] = (acc, 0) := rfl

theorem sumInt_append {acc m : Nat} {p blk : List Int} (hp : p.length = 32 * m) (pos : 0 < blk.length) (le : blk.length ≤ 32) :
    sumInt acc (p ++ blk) = ((accAddInt (sumInt acc p).1 blk.sum).1, (sumInt acc p).2 ||| (accAddInt (sumInt acc p).1 blk.sum).2) := by
  simp only [sumInt, blocks32_length_append hp pos le, List.foldl_append, List.foldl_cons, List.foldl_nil, List.sum_eq_foldl]

/-- The accumulator of an integer reduction stays a pattern of 32 bits. -/
theorem sumInt_lt {acc : Nat} (h : acc < 2 ^ 32) (xs : List Int) : (sumInt acc xs).1 < 2 ^ 32 := by
  unfold sumInt
  generalize blocks32 xs.length xs = bs
  generalize hn : (acc, 0) = a
  have ha : a.1 < 2 ^ 32 := hn ▸ h
  clear hn h
  induction bs generalizing a with
  | nil => exact ha
  | cons b bs ih => exact ih _ (by simp only [accAddInt, wrapN_eq_ofInt]; exact BitVec.isLt _)

end Sys2Proof.Machine
end

section
/-!
PROOFS. O11: integer elements, reductions, blocks of integer routines and quantised values.
-/
namespace Sys2Proof

open Machine

/-- VQNT keeps an element whose integer lies in the range, and otherwise sends it to the side list or clamps it (R304). -/
theorem quantAdd_eq {dst rm i xb f : Nat} {cal : Bool} {q : Quant} {sb : Nat × Nat} {x : XR} {lo hi v : Int}
    (range : intRange dst = some (lo, hi)) (made : quantInt dst rm lo hi sb xb x = (v, f)) :
    q.add dst rm cal i sb xb x =
      if lo ≤ v ∧ v ≤ hi then { q with codes := q.codes ++ [(BitVec.ofInt (widthOf dst) v).toNat], flags := q.flags ||| f }
      else if (dst = 0x16 ∨ dst = 0x17) ∧ cal = true ∧ v.natAbs ≤ 2 ^ 23 - 1 ∧ q.side.length < 256 then
        { codes := q.codes ++ [2 ^ (widthOf dst - 1)], side := q.side ++ [(i, v)], flags := q.flags ||| f }
      else
        { q with codes := q.codes ++ [(BitVec.ofInt (widthOf dst) (if v < lo then lo else hi)).toNat]
                 flags := q.flags ||| f ||| fSAT ||| if (dst = 0x16 ∨ dst = 0x17) ∧ cal = true then fESCOVF else 0 } := by
  simp only [Quant.add, range, Option.getD_some, made, wrapN_eq_ofInt, escapes, Bool.and_eq_true, Bool.or_eq_true, beq_iff_eq, decide_eq_true_eq,
    and_assoc]

/-- Settles O11: each operation on integers is the wrapped exact integer by the lemmas of its code; a last block is added to the
accumulator of the blocks before it. -/
theorem integerArithmetic : Obligations.IntegerArithmetic := by
  refine ⟨fun ty w sg mem fn a b d ha hb hd => ?_, fun acc m p blk hacc hp pos le => ?_, fun ri fa fb ea eb acc xs ys hri hacc => ?_,
    fun dst rm i xb f cal q sb x lo hi v range made => ?_⟩
  · have h := isIntCode_of_mem mem
    refine ⟨?_, ?_, ?_, ?_, ?_, ?_, fun k => ?_, h.vPick_least ha hb, h.vPick_greatest ha hb, fun k p hk => ?_, h.vShl, h.vShr ha,
      fun xs => h.vSum, fun xs => h.vDotSum⟩
    · simp [vAdd, h.flt, h.val, h.wrapI, ha, hb]
    · simp [vSub, h.flt, h.val, h.wrapI, ha, hb]
    · simp [vMul, h.flt, h.val, h.wrapI, ha, hb]
    · simp [vFma, h.flt, h.val, h.wrapI, ha, hb, hd]
    · simp [vAbs, h.flt, h.val, h.wrapI, ha]
    · simp [vNeg, h.flt, h.val, h.wrapI, ha]
    · simp [vIota, h.flt, h.wrapI]
    · rw [h.vCmp ha hb, condOf_eq _ _ hk]
  · have lt := sumInt_lt hacc p
    exact ⟨sumInt_nil acc, by simp only [sumInt_append hp pos le, accAddInt_eq_wrapped lt]⟩
  · have bank : intBank ri = true := by rcases hri with rfl | rfl <;> rfl
    rw [blockElem, if_pos bank, ← List.sum_eq_foldl, accAddInt_eq_wrapped hacc]
  · intro w r
    have step : r = _ := quantAdd_eq range made
    refine ⟨fun low high => ?_, fun out esc hcal small room => ?_, fun out noRoom => ?_⟩
    · rw [step, if_pos ⟨low, high⟩]
    · rw [step, if_neg out, if_pos ⟨esc, hcal, small, room⟩]
    · rw [step, if_neg out, if_neg noRoom]

end Sys2Proof
end

section
/-!
PROOFS. Rounding a magnitude to a whole number (R43): `roundMag` gives the integer that the mode chooses.
-/
namespace Sys2Proof

open Machine

theorem or_one_eq (q : Nat) : q ||| 1 = if q % 2 = 1 then q else q + 1 := by
  have low := Nat.or_mod_two_eq_one (a := q) (b := 1)
  have high : (q ||| 1) / 2 = q / 2 := by rw [Nat.or_div_two]; simp
  split <;> omega

theorem roundMag_eq_or (rm : Nat) (neg : Bool) (q r d : Nat) : roundMag rm neg q r d = q ∨ roundMag rm neg q r d = q + 1 := by
  have either (c : Prop) [Decidable c] : (if c then q + 1 else q) = q ∨ (if c then q + 1 else q) = q + 1 := by split <;> simp
  match rm with
  | 0 => exact either _
  | 1 => exact .inl rfl
  | 2 => exact either _
  | 3 => exact either _
  | n + 4 =>
    simp only [roundMag, or_one_eq]
    split
    · split <;> simp
    · exact .inl rfl

theorem roundMag_zero (rm : Nat) (neg : Bool) (q : Nat) {d : Nat} (pos : 0 < d) : roundMag rm neg q 0 d = q := by
  match rm with
  | 0 => simp [roundMag]; omega
  | 1 => rfl
  | 2 => simp [roundMag]
  | 3 => simp [roundMag]
  | n + 4 => simp [roundMag]

theorem le_roundMag (rm : Nat) (neg : Bool) (q r d : Nat) : q ≤ roundMag rm neg q r d := by
  have := roundMag_eq_or rm neg q r d
  omega

theorem roundMag_le_succ (rm : Nat) (neg : Bool) (q r d : Nat) : roundMag rm neg q r d ≤ q + 1 := by
  have := roundMag_eq_or rm neg q r d
  omega

section

variable {q r d : Nat} (hr : r < d)
include hr

/-- The part of a unit that is left over. -/
theorem frac_bounds : (0 : ℚ) ≤ r / d ∧ (r / d : ℚ) < 1 := by
  have pos : (0 : ℚ) < d := by exact_mod_cast Nat.zero_lt_of_lt hr
  exact ⟨by positivity, (div_lt_one pos).2 (by exact_mod_cast hr)⟩

theorem frac_pos (h : r ≠ 0) : (0 : ℚ) < r / d := by
  have pos : 0 < d := Nat.zero_lt_of_lt hr
  have : 0 < r := Nat.pos_of_ne_zero h
  positivity

theorem frac_le_half : (r / d : ℚ) ≤ 1 / 2 ↔ 2 * r ≤ d := by
  have pos : (0 : ℚ) < d := by exact_mod_cast Nat.zero_lt_of_lt hr
  rw [div_le_div_iff₀ pos (by norm_num), one_mul, mul_comm]
  exact_mod_cast Iff.rfl

theorem half_le_frac : (1 / 2 : ℚ) ≤ r / d ↔ d ≤ 2 * r := by
  have pos : (0 : ℚ) < d := by exact_mod_cast Nat.zero_lt_of_lt hr
  rw [div_le_div_iff₀ (by norm_num) pos, one_mul, mul_comm]
  exact_mod_cast Iff.rfl

/-- The rounded magnitude is the exact one only where nothing is left over. -/
theorem roundMag_eq_iff (rm : Nat) (neg : Bool) : ((roundMag rm neg q r d : Nat) : ℚ) = q + r / d ↔ r = 0 := by
  rcases eq_or_ne r 0 with rfl | h
  · simp [roundMag_zero rm neg q (Nat.zero_lt_of_lt hr)]
  · have lo := frac_pos hr h
    have hi := (frac_bounds hr).2
    refine iff_of_false ?_ h
    rcases roundMag_eq_or rm neg q r d with eq | eq <;> rw [eq] <;> push_cast <;> linarith

/-- Rounding down, and rounding up where something is left over. -/
theorem down_le : ((q : ℚ) ≤ q + r / d) ∧ (q + r / d : ℚ) < q + 1 := by
  obtain ⟨lo, hi⟩ := frac_bounds hr
  constructor <;> linarith

theorem le_up : (((if r ≠ 0 then q + 1 else q : Nat) : ℚ) - 1 < q + r / d) ∧ (q + r / d : ℚ) ≤ (if r ≠ 0 then q + 1 else q : Nat) := by
  obtain ⟨-, hi⟩ := frac_bounds hr
  split
  case isTrue h =>
    have := frac_pos hr h
    push_cast
    constructor <;> linarith
  case isFalse h => simp [not_not.1 h]

/-- To nearest, a tie to the even integer. -/
theorem rounded_nearest (neg : Bool) : Rounded 0 neg (q + r / d) (roundMag 0 neg q r d) := by
  obtain ⟨lo, hi⟩ := frac_bounds hr
  have down := frac_le_half hr
  have up := half_le_frac hr
  simp only [Rounded, roundMag]
  split
  case isTrue h =>
    have far : (1 / 2 : ℚ) ≤ r / d := up.2 (by omega)
    have dist : |(q : ℚ) + r / d - (q + 1 : Nat)| = 1 - r / d := by rw [abs_of_nonpos] <;> push_cast <;> linarith
    rw [dist]
    refine ⟨by linarith, fun tie => ?_⟩
    have := down.1 (by linarith)
    omega
  case isFalse h =>
    have near : (r / d : ℚ) ≤ 1 / 2 := down.2 (by omega)
    have dist : |(q : ℚ) + r / d - q| = r / d := by rw [add_sub_cancel_left, abs_of_nonneg lo]
    rw [dist]
    refine ⟨near, fun tie => ?_⟩
    have := up.1 tie.ge
    omega

/-- To odd: the odd one of the two integers around what is not an integer. -/
theorem rounded_odd (n : Nat) (neg : Bool) : Rounded (n + 4) neg (q + r / d) (roundMag (n + 4) neg q r d) := by
  obtain ⟨lo, hi⟩ := frac_bounds hr
  simp only [Rounded, roundMag, or_one_eq]
  rcases eq_or_ne r 0 with rfl | h
  · simp
  · have := frac_pos hr h
    rw [if_pos h]
    refine .inr ?_
    split
    case isTrue odd => exact ⟨odd, by rw [add_sub_cancel_left, abs_of_nonneg lo]; exact hi⟩
    case isFalse even => exact ⟨by omega, by rw [abs_lt]; push_cast; constructor <;> linarith⟩

/-- What a mode rounds `q + r / d` to is the integer that R43 says. -/
theorem rounded_roundMag (rm : Nat) (neg : Bool) : Rounded rm neg (q + r / d) (roundMag rm neg q r d) := by
  match rm, neg with
  | 0, neg => exact rounded_nearest hr neg
  | 1, _ => exact down_le (q := q) hr
  | 2, true => simpa [Rounded, roundMag] using down_le (q := q) hr
  | 2, false => simpa [Rounded, roundMag] using le_up (q := q) hr
  | 3, true => simpa [Rounded, roundMag] using le_up (q := q) hr
  | 3, false => simpa [Rounded, roundMag] using down_le (q := q) hr
  | n + 4, neg => exact rounded_odd hr n neg

end

end Sys2Proof
end

section
/-!
PROOFS. The binade of a positive rational, and its magnitude in units of a power of two (R31, R44).
-/
namespace Sys2Proof

open Machine

theorem zpow_toNat {k : Int} (h : 0 ≤ k) : (2 : ℚ) ^ k = 2 ^ k.toNat := by
  rw [← zpow_natCast, Int.toNat_of_nonneg h]

/-- The comparison of `flog2`. -/
theorem zpow_le_div_iff {n d : Nat} (hd : 0 < d) (k : Int) :
    (if 0 ≤ k then decide (d * 2 ^ k.toNat ≤ n) else decide (d ≤ n * 2 ^ (-k).toNat)) = true ↔ (2 : ℚ) ^ k ≤ n / d := by
  have pos : (0 : ℚ) < d := by exact_mod_cast hd
  rw [le_div_iff₀ pos]
  split
  case isTrue h =>
    rw [zpow_toNat h, mul_comm, decide_eq_true_eq]
    exact_mod_cast Iff.rfl
  case isFalse h =>
    have inv : (2 : ℚ) ^ k = (2 ^ (-k).toNat)⁻¹ := by rw [← zpow_toNat (by omega), zpow_neg, inv_inv]
    rw [inv, inv_mul_le_iff₀ (by positivity), mul_comm, decide_eq_true_eq]
    exact_mod_cast Iff.rfl

/-- `flog2` gives the binade. -/
theorem flog2_spec {n d : Nat} (hn : 0 < n) (hd : 0 < d) : (2 : ℚ) ^ flog2 n d ≤ n / d ∧ (n / d : ℚ) < 2 ^ (flog2 n d + 1) := by
  have pos : (0 : ℚ) < d := by exact_mod_cast hd
  have two : (2 : ℚ) ≠ 0 := by norm_num
  have nlo : (2 : ℚ) ^ (n.log2 : Int) ≤ n := by rw [zpow_natCast]; exact_mod_cast Nat.log2_self_le hn.ne'
  have nhi : (n : ℚ) < 2 ^ ((n.log2 : Int) + 1) := by
    rw [← Nat.cast_add_one, zpow_natCast]; exact_mod_cast Nat.lt_log2_self
  have dlo : (2 : ℚ) ^ (d.log2 : Int) ≤ d := by rw [zpow_natCast]; exact_mod_cast Nat.log2_self_le hd.ne'
  have dhi : (d : ℚ) < 2 ^ ((d.log2 : Int) + 1) := by
    rw [← Nat.cast_add_one, zpow_natCast]; exact_mod_cast Nat.lt_log2_self
  have lower : (2 : ℚ) ^ ((n.log2 : Int) - d.log2 - 1) ≤ n / d := by
    rw [le_div_iff₀ pos]
    calc (2 : ℚ) ^ ((n.log2 : Int) - d.log2 - 1) * d ≤ 2 ^ ((n.log2 : Int) - d.log2 - 1) * 2 ^ ((d.log2 : Int) + 1) := by gcongr
      _ = 2 ^ (n.log2 : Int) := by rw [← zpow_add₀ two]; congr 1; ring
      _ ≤ n := nlo
  have upper : (n / d : ℚ) < 2 ^ ((n.log2 : Int) - d.log2 + 1) := by
    rw [div_lt_iff₀ pos]
    calc (n : ℚ) < 2 ^ ((n.log2 : Int) + 1) := nhi
      _ = 2 ^ ((n.log2 : Int) - d.log2 + 1) * 2 ^ (d.log2 : Int) := by rw [← zpow_add₀ two]; congr 1; ring
      _ ≤ 2 ^ ((n.log2 : Int) - d.log2 + 1) * d := by gcongr
  simp only [flog2, zpow_le_div_iff hd]
  split
  case isTrue h => exact ⟨h, upper⟩
  case isFalse h => exact ⟨lower, by simpa using h⟩

/-- A value lies in one binade. -/
theorem binade_unique {x : ℚ} {e k : Int} (elo : (2 : ℚ) ^ e ≤ x) (ehi : x < 2 ^ (e + 1)) (klo : (2 : ℚ) ^ k ≤ x) (khi : x < 2 ^ (k + 1)) :
    e = k := by
  have one : (1 : ℚ) < 2 := by norm_num
  have := (zpow_lt_zpow_iff_right₀ one).1 (elo.trans_lt khi)
  have := (zpow_lt_zpow_iff_right₀ one).1 (klo.trans_lt ehi)
  omega

/-- `quantum` divides exactly: the whole units and what is left over. -/
theorem quantum_spec (n : Nat) {d : Nat} (hd : 0 < d) (t : Int) :
    (quantum n d t).2.1 < (quantum n d t).2.2 ∧
    (n / d : ℚ) / 2 ^ t = (quantum n d t).1 + ((quantum n d t).2.1 : ℚ) / (quantum n d t).2.2 := by
  have divides {a b : Nat} (hb : 0 < b) : (a / b : ℚ) = (a / b : Nat) + ((a % b : Nat) : ℚ) / b := by
    have pos : (b : ℚ) ≠ 0 := by exact_mod_cast hb.ne'
    rw [div_eq_iff pos, add_mul, div_mul_cancel₀ _ pos]
    exact_mod_cast (Nat.div_add_mod' a b).symm
  unfold quantum
  split
  case isTrue h =>
    have scaled : 0 < d * 2 ^ t.toNat := by positivity
    refine ⟨Nat.mod_lt _ scaled, ?_⟩
    rw [zpow_toNat h, div_div, ← divides scaled]
    push_cast
    rfl
  case isFalse h =>
    refine ⟨Nat.mod_lt _ hd, ?_⟩
    have inv : (2 : ℚ) ^ t = (2 ^ (-t).toNat)⁻¹ := by rw [← zpow_toNat (by omega), zpow_neg, inv_inv]
    rw [inv, div_inv_eq_mul, div_mul_eq_mul_div, ← divides hd]
    push_cast
    rfl

end Sys2Proof
end

section
/-!
PROOFS. The codes of a float format in the order of their values (R31).
-/
namespace Sys2Proof

open Machine

/-- The value of a code without its sign; the exponent field has no end. -/
def magVal (f : Flt) (c : Nat) : ℚ :=
  if c / 2 ^ f.fb = 0 then (c % 2 ^ f.fb : Nat) * 2 ^ (1 - (f.bias : Int) - f.fb)
  else (2 ^ f.fb + (c % 2 ^ f.fb : Nat)) * 2 ^ ((c / 2 ^ f.fb : Nat) - (f.bias : Int) - f.fb)

/-- The exponent field and the fraction are parts of the magnitude. -/
theorem expField_eq (f : Flt) (x : Nat) : x / 2 ^ f.fb % 2 ^ f.eb = magOf f x / 2 ^ f.fb := by
  rw [magOf, Nat.add_comm, Nat.pow_add, Nat.mod_mul_right_div_self]

theorem fracField_eq (f : Flt) (x : Nat) : x % 2 ^ f.fb = magOf f x % 2 ^ f.fb := by
  rw [magOf, Nat.add_comm, Nat.pow_add, Nat.mod_mul_right_mod]

theorem realOf_eq (f : Flt) (x : Nat) : realOf f x = if signOf f x then -magVal f (magOf f x) else magVal f (magOf f x) := by
  simp only [realOf, magVal, expField_eq f x, fracField_eq f x]

/-- The code of significand `m` in the `k`th binade after the subnormal range; a carry into the next binade keeps the value. -/
theorem magVal_binade (f : Flt) {k m : Nat} (le : m ≤ 2 ^ (f.fb + 1)) (low : m < 2 ^ f.fb → k = 0) :
    magVal f (k * 2 ^ f.fb + m) = m * 2 ^ (1 - (f.bias : Int) + k - f.fb) := by
  have two : (2 : ℚ) ≠ 0 := by norm_num
  have pos : 0 < 2 ^ f.fb := by positivity
  have double : 2 ^ (f.fb + 1) = 2 ^ f.fb + 2 ^ f.fb := by ring
  have binade (e j : Nat) (hj : j < 2 ^ f.fb) : magVal f ((e + 1) * 2 ^ f.fb + j) = (2 ^ f.fb + j) * 2 ^ ((e + 1 : Nat) - (f.bias : Int) - f.fb) := by
    have field : ((e + 1) * 2 ^ f.fb + j) / 2 ^ f.fb = e + 1 := by
      rw [Nat.add_comm, Nat.add_mul_div_right _ _ pos, Nat.div_eq_of_lt hj, Nat.zero_add]
    have frac : ((e + 1) * 2 ^ f.fb + j) % 2 ^ f.fb = j := by rw [Nat.mul_add_mod', Nat.mod_eq_of_lt hj]
    rw [magVal, field, frac, if_neg (by omega)]
  rcases lt_or_ge m (2 ^ f.fb) with sub | norm
  · obtain rfl := low sub
    simp [magVal, Nat.div_eq_of_lt sub, Nat.mod_eq_of_lt sub]
  · obtain ⟨j, rfl⟩ := Nat.exists_eq_add_of_le norm
    rcases lt_or_ge j (2 ^ f.fb) with hj | hj
    · rw [show k * 2 ^ f.fb + (2 ^ f.fb + j) = (k + 1) * 2 ^ f.fb + j by ring, binade k j hj]
      push_cast
      congr 2
      ring
    · obtain rfl : j = 2 ^ f.fb := by omega
      rw [show k * 2 ^ f.fb + (2 ^ f.fb + 2 ^ f.fb) = (k + 1 + 1) * 2 ^ f.fb + 0 by ring, binade (k + 1) 0 pos,
        show ((k + 1 + 1 : Nat) : Int) - f.bias - f.fb = (1 - f.bias + k - f.fb) + 1 by push_cast; ring, zpow_add_one₀ two]
      push_cast
      ring

/-- Every code has a significand and a binade. -/
theorem exists_binade (f : Flt) (c : Nat) : ∃ k m, c = k * 2 ^ f.fb + m ∧ m < 2 ^ (f.fb + 1) ∧ (m < 2 ^ f.fb → k = 0) := by
  have pos : 0 < 2 ^ f.fb := by positivity
  have double : 2 ^ (f.fb + 1) = 2 ^ f.fb + 2 ^ f.fb := by ring
  have parts := Nat.div_add_mod' c (2 ^ f.fb)
  have frac := Nat.mod_lt c pos
  rcases Nat.eq_zero_or_pos (c / 2 ^ f.fb) with zero | up
  · refine ⟨0, c, by omega, ?_, fun _ => rfl⟩
    rw [zero] at parts
    omega
  · obtain ⟨k, hk⟩ := Nat.exists_eq_add_of_lt up
    refine ⟨k, 2 ^ f.fb + c % 2 ^ f.fb, ?_, by omega, by omega⟩
    rw [hk] at parts
    linarith

/-- Codes are in the order of their values. -/
theorem magVal_strictMono (f : Flt) : StrictMono (magVal f) := by
  refine strictMono_nat_of_lt_succ fun c => ?_
  obtain ⟨k, m, rfl, lt, low⟩ := exists_binade f c
  rw [Nat.add_assoc, magVal_binade f lt.le low, magVal_binade f lt fun h => low (by omega)]
  gcongr
  simp

@[simp] theorem magVal_zero (f : Flt) : magVal f 0 = 0 := by simp [magVal]

theorem magVal_nonneg (f : Flt) (c : Nat) : 0 ≤ magVal f c := magVal_zero f ▸ (magVal_strictMono f).monotone c.zero_le

theorem abs_realOf (f : Flt) (x : Nat) : |realOf f x| = magVal f (magOf f x) := by
  rw [realOf_eq]
  split <;> simp [abs_of_nonneg (magVal_nonneg f _)]

/-- The code of a sign and a magnitude. -/
theorem signOf_signCode {f : Flt} {c : Nat} (h : c < 2 ^ (f.eb + f.fb)) (neg : Bool) : signOf f (signCode f neg + c) = neg := by
  have pos : 0 < 2 ^ (f.eb + f.fb) := by positivity
  cases neg <;> simp [signOf, signCode, Nat.div_eq_of_lt h, Nat.add_div_left _ pos]

theorem magOf_signCode {f : Flt} {c : Nat} (h : c < 2 ^ (f.eb + f.fb)) (neg : Bool) : magOf f (signCode f neg + c) = c := by
  cases neg <;> simp [magOf, signCode, Nat.mod_eq_of_lt h]

theorem signCode_add_lt {f : Flt} {c : Nat} (h : c < 2 ^ (f.eb + f.fb)) (neg : Bool) : signCode f neg + c < 2 ^ (f.eb + f.fb + 1) := by
  have double : 2 ^ (f.eb + f.fb + 1) = 2 ^ (f.eb + f.fb) + 2 ^ (f.eb + f.fb) := by ring
  cases neg <;> simp only [signCode, if_true, Bool.false_eq_true, if_false] <;> omega

/-- A code of the format's width is its sign and its magnitude. -/
theorem signCode_add_magOf {f : Flt} {x : Nat} (h : x < 2 ^ (f.eb + f.fb + 1)) : signCode f (signOf f x) + magOf f x = x := by
  have double : 2 ^ (f.eb + f.fb + 1) = 2 ^ (f.eb + f.fb) * 2 := by ring
  have top : x / 2 ^ (f.eb + f.fb) < 2 := Nat.div_lt_of_lt_mul (double ▸ h)
  have parts := Nat.div_add_mod' x (2 ^ (f.eb + f.fb))
  unfold signCode signOf magOf
  rcases Nat.lt_succ_iff_lt_or_eq.1 top with low | high
  · have zero := Nat.lt_one_iff.1 low
    rw [zero] at parts ⊢
    simpa using parts
  · rw [high] at parts ⊢
    simpa using parts

end Sys2Proof
end

section
/-!
PROOFS. An exact value is rounded once into a float format (R43-R46).
-/
namespace Sys2Proof

open Machine

/-- The modes that round toward zero for a sign (R45). -/
theorem towardZero_iff {rm : Nat} (h : rm < 5) (neg : Bool) :
    towardZero rm neg = true ↔ rm = 1 ∨ rm = 4 ∨ (rm = 2 ∧ neg = true) ∨ (rm = 3 ∧ neg = false) := by
  match rm, neg with
  | 0, true | 0, false | 1, true | 1, false | 2, true | 2, false | 3, true | 3, false | 4, true | 4, false => decide

/-- What `toFlt` gives for a value beyond the greatest finite one. -/
theorem overflowed_eq (f : Flt) {rm : Nat} (h : rm < 5) (sat neg : Bool) :
    overflowed f rm sat neg =
      if towardZero rm neg then (signCode f neg + f.maxCode, fOF)
      else if sat then (signCode f neg + f.maxCode, fOF + fSAT)
      else if f.hasInf then (signCode f neg + (2 ^ f.eb - 1) * 2 ^ f.fb, fOF)
      else match f.nan with
        | some c => (c, fOF)
        | none => (signCode f neg + f.maxCode, fOF) := by
  simp only [overflowed, towardZero_iff h, signCode]
  split
  · rfl
  · cases f.nan <;> rfl

/-- The parts of `toFlt` for a value other than 0: the binade, the significand and the code. -/
def fltExp (f : Flt) (n d : Nat) : Int := max (flog2 n d) (1 - (f.bias : Int))

def fltQuantum (f : Flt) (n d : Nat) : Nat × Nat × Nat := quantum n d (fltExp f n d - f.fb)

def fltSig (f : Flt) (rm : Nat) (neg : Bool) (n d : Nat) : Nat :=
  roundMag rm neg (fltQuantum f n d).1 (fltQuantum f n d).2.1 (fltQuantum f n d).2.2

def fltCode (f : Flt) (rm : Nat) (neg : Bool) (n d : Nat) : Nat :=
  (fltExp f n d - (1 - (f.bias : Int))).toNat * 2 ^ f.fb + fltSig f rm neg n d

section

variable (f : Flt) {n d : Nat} (hd : 0 < d)
include hd

/-- The magnitude in units of its quantum. -/
theorem fltQuantum_spec : (fltQuantum f n d).2.1 < (fltQuantum f n d).2.2 ∧
    (n / d : ℚ) / 2 ^ (fltExp f n d - f.fb) = (fltQuantum f n d).1 + ((fltQuantum f n d).2.1 : ℚ) / (fltQuantum f n d).2.2 :=
  quantum_spec n hd _

variable (hn : 0 < n)
include hn

/-- The significand has at most one bit more than the fraction, and the leading bit outside the lowest binade. -/
theorem fltQuantum_bounds : (fltQuantum f n d).1 < 2 ^ (f.fb + 1) ∧
    (1 - (f.bias : Int) < fltExp f n d → 2 ^ f.fb ≤ (fltQuantum f n d).1) := by
  obtain ⟨left, parts⟩ := fltQuantum_spec f (n := n) hd
  obtain ⟨lo, hi⟩ := flog2_spec hn hd
  obtain ⟨flo, fhi⟩ := frac_bounds left
  have two : (2 : ℚ) ≠ 0 := by norm_num
  constructor
  · have below : (n / d : ℚ) / 2 ^ (fltExp f n d - f.fb) < 2 ^ (f.fb + 1) := by
      rw [div_lt_iff₀ (by positivity), ← zpow_natCast, ← zpow_add₀ two]
      refine hi.trans_le (zpow_le_zpow_right₀ (by norm_num) ?_)
      have : flog2 n d ≤ fltExp f n d := le_max_left _ _
      push_cast
      omega
    have : ((fltQuantum f n d).1 : ℚ) < (2 ^ (f.fb + 1) : Nat) := by push_cast; linarith
    exact Nat.cast_lt.1 this
  · intro normal
    have exp : fltExp f n d = flog2 n d := by unfold fltExp at normal ⊢; omega
    have above : (2 : ℚ) ^ f.fb ≤ (n / d : ℚ) / 2 ^ (fltExp f n d - f.fb) := by
      rw [le_div_iff₀ (by positivity), ← zpow_natCast, ← zpow_add₀ two, exp]
      simpa using lo
    have : ((2 ^ f.fb : Nat) : ℚ) < ((fltQuantum f n d).1 + 1 : Nat) := by push_cast; linarith
    exact Nat.lt_succ_iff.1 (Nat.cast_lt.1 this)

theorem fltSig_bounds (rm : Nat) (neg : Bool) : fltSig f rm neg n d ≤ 2 ^ (f.fb + 1) ∧
    (fltSig f rm neg n d < 2 ^ f.fb → (fltExp f n d - (1 - (f.bias : Int))).toNat = 0) := by
  obtain ⟨lt, normal⟩ := fltQuantum_bounds f hd hn
  have lo := le_roundMag rm neg (fltQuantum f n d).1 (fltQuantum f n d).2.1 (fltQuantum f n d).2.2
  have hi := roundMag_le_succ rm neg (fltQuantum f n d).1 (fltQuantum f n d).2.1 (fltQuantum f n d).2.2
  unfold fltSig
  refine ⟨by omega, fun low => ?_⟩
  have : ¬1 - (f.bias : Int) < fltExp f n d := fun h => absurd (normal h) (by omega)
  omega

/-- The value of the code is that of the significand, also where rounding has carried into the next binade. -/
theorem magVal_fltCode (rm : Nat) (neg : Bool) :
    magVal f (fltCode f rm neg n d) = fltSig f rm neg n d * 2 ^ (fltExp f n d - f.fb) := by
  obtain ⟨le, low⟩ := fltSig_bounds f hd hn rm neg
  have : 1 - (f.bias : Int) ≤ fltExp f n d := le_max_right _ _
  rw [fltCode, magVal_binade f le low, Int.toNat_of_nonneg (by omega)]
  congr 2
  ring

theorem magVal_fltCode_eq_iff (rm : Nat) (neg : Bool) : magVal f (fltCode f rm neg n d) = n / d ↔ (fltQuantum f n d).2.1 = 0 := by
  obtain ⟨left, parts⟩ := fltQuantum_spec f (n := n) hd
  rw [magVal_fltCode f hd hn, ← eq_div_iff (by positivity), parts]
  exact roundMag_eq_iff left rm neg

end

theorem lt_zpow_iff {n d : Nat} (hn : 0 < n) (hd : 0 < d) (k : Int) : (n / d : ℚ) < 2 ^ k ↔ flog2 n d < k := by
  obtain ⟨lo, hi⟩ := flog2_spec hn hd
  have one : (1 : ℚ) < 2 := by norm_num
  exact ⟨fun h => (zpow_lt_zpow_iff_right₀ one).1 (lo.trans_lt h), fun h => hi.trans_le (zpow_le_zpow_right₀ one.le h)⟩

theorem toFlt_fin (f : Flt) {rm : Nat} (hrm : rm < 5) (sat z : Bool) {n : Int} {d : Nat} (hn : n ≠ 0) (hd : 0 < d) :
    toFlt f rm sat (.fin n d z) =
      if f.maxCode < fltCode f rm (decide (n < 0)) n.natAbs d then overflowed f rm sat (decide (n < 0))
      else (signCode f (decide (n < 0)) + fltCode f rm (decide (n < 0)) n.natAbs d,
        if decide (flog2 n.natAbs d < 1 - (f.bias : Int)) && (fltQuantum f n.natAbs d).2.1 != 0 then fUF else 0) := by
  obtain ⟨-, low⟩ := fltSig_bounds f hd (Int.natAbs_pos.2 hn) rm (decide (n < 0))
  have code : (if fltSig f rm (decide (n < 0)) n.natAbs d < 2 ^ f.fb then fltSig f rm (decide (n < 0)) n.natAbs d
      else (fltExp f n.natAbs d - (1 - (f.bias : Int))).toNat * 2 ^ f.fb + fltSig f rm (decide (n < 0)) n.natAbs d) =
      fltCode f rm (decide (n < 0)) n.natAbs d := by
    unfold fltCode
    split
    case isTrue h => rw [low h, Nat.zero_mul, Nat.zero_add]
    case isFalse => rfl
  rw [overflowed_eq f hrm, ← code]
  exact if_neg hn

theorem toFlt_zero (f : Flt) (rm : Nat) (sat z : Bool) (d : Nat) : toFlt f rm sat (.fin 0 d z) = (signCode f z, 0) := rfl

/-- A magnitude's code that lies in the range, with its sign, is finite and has the sign and the magnitude. -/
theorem finite_signCode {f : Flt} (hmax : f.maxCode < 2 ^ (f.eb + f.fb)) {c : Nat} (h : c ≤ f.maxCode) (neg : Bool) :
    Finite f (signCode f neg + c) ∧ signOf f (signCode f neg + c) = neg ∧ |realOf f (signCode f neg + c)| = magVal f c := by
  have lt := h.trans_lt hmax
  exact ⟨⟨signCode_add_lt lt neg, (magOf_signCode lt neg).trans_le h⟩, signOf_signCode lt neg, by rw [abs_realOf, magOf_signCode lt]⟩

theorem realOf_of_lt {f : Flt} {c : Nat} (h : c < 2 ^ (f.eb + f.fb)) : realOf f c = magVal f c := by
  have sign : signOf f c = false := by simp [signOf, Nat.div_eq_of_lt h]
  rw [realOf_eq, sign, magOf, Nat.mod_eq_of_lt h]
  rfl

/-- The value of a rational other than 0 is rounded once, into any float format (R43-R46). -/
theorem roundsTo_toFlt {f : Flt} (hmax : f.maxCode < 2 ^ (f.eb + f.fb)) {rm : Nat} (hrm : rm < 5) (sat z : Bool) {n : Int} {d : Nat}
    (hn : n ≠ 0) (hd : 0 < d) : RoundsTo f rm sat ((n : ℚ) / d) (toFlt f rm sat (.fin n d z)) := by
  intro e elo ehi q neg
  have pos : (0 : ℚ) < d := by exact_mod_cast hd
  have habs : |(n : ℚ) / d| = n.natAbs / d := by rw [abs_div, abs_of_pos pos, Nat.cast_natAbs, Int.cast_abs]
  have hneg : neg = decide (n < 0) := decide_eq_decide.2 (by rw [div_lt_iff₀ pos, zero_mul, Int.cast_lt_zero])
  rw [habs] at elo ehi ⊢
  obtain ⟨lo, hi⟩ := flog2_spec (Int.natAbs_pos.2 hn) hd
  obtain rfl := binade_unique elo ehi lo hi
  have hq : q = 2 ^ (fltExp f n.natAbs d - f.fb) := rfl
  obtain ⟨left, parts⟩ := fltQuantum_spec f (n := n.natAbs) hd
  have value := magVal_fltCode f hd (Int.natAbs_pos.2 hn) rm neg
  have top := realOf_of_lt hmax
  refine ⟨fltSig f rm neg n.natAbs d, ?_, fun fits => ?_, fun beyond => ?_⟩
  · rw [hq, parts]
    exact rounded_roundMag left rm neg
  · rw [hq, ← value, top, (magVal_strictMono f).le_iff_le, hneg] at fits
    rw [toFlt_fin f hrm sat z hn hd, if_neg fits.not_gt, hq, ← value, hneg]
    obtain ⟨finite, sign, abs⟩ := finite_signCode hmax fits (decide (n < 0))
    refine ⟨finite, sign, abs, ?_⟩
    simp only [Bool.and_eq_true, decide_eq_true_eq, bne_iff_ne, ne_eq, lt_zpow_iff (Int.natAbs_pos.2 hn) hd,
      magVal_fltCode_eq_iff f hd (Int.natAbs_pos.2 hn)]
  · rw [hq, ← value, top, (magVal_strictMono f).lt_iff_lt, hneg] at beyond
    rw [toFlt_fin f hrm sat z hn hd, if_pos beyond, hneg]

end Sys2Proof
end

section
/-!
PROOFS. Exact values: which rational a value is and which sign it has (R31, R32), and what a float code stands for.
-/
namespace Sys2Proof

open Machine

/-- `x` is the rational `r`, and its sign, also that of a zero, is `s`. -/
def Machine.XR.Is (x : XR) (r : ℚ) (s : Bool) : Prop := ∃ n d z, x = .fin n d z ∧ 0 < d ∧ (n : ℚ) / d = r ∧ x.isNeg = s

theorem fin_is {n : Int} {d : Nat} {z : Bool} (hd : 0 < d) : (XR.fin n d z).Is (n / d) (decide (n < 0) || (n == 0 && z)) :=
  ⟨n, d, z, rfl, hd, rfl, rfl⟩

theorem ofInt_is (n : Int) : (XR.ofInt n).Is n (decide (n < 0)) := ⟨n, 1, false, rfl, Nat.one_pos, by simp, by simp [XR.ofInt, XR.isNeg]⟩

/-- The sign of a value other than 0 is that of the rational. -/
theorem Machine.XR.Is.sign {x : XR} {r : ℚ} {s : Bool} (h : x.Is r s) (hr : r ≠ 0) : s = decide (r < 0) := by
  obtain ⟨n, d, z, rfl, hd, rfl, rfl⟩ := h
  have pos : (0 : ℚ) < d := by exact_mod_cast hd
  have hn : n ≠ 0 := by rintro rfl; simp at hr
  have neg : (n : ℚ) / d < 0 ↔ n < 0 := by rw [div_lt_iff₀ pos, zero_mul, Int.cast_lt_zero]
  simp [XR.isNeg, hn, neg]

/-- A code of a float format, and what R31 says of the format: its finite codes lie below its infinities and its NaN. -/
structure IsFloatCode (c : Nat) (f : Flt) : Prop where
  plain : c < 8
  code : fltOf c = some f
  max : f.maxCode < 2 ^ (f.eb + f.fb)
  inf : f.hasInf = true → f.maxCode < (2 ^ f.eb - 1) * 2 ^ f.fb
  nan : f.nan = some 0x7F → f.maxCode < 15 * 2 ^ f.fb + 7

theorem isFloatCode_of_mem {c : Nat} {f : Flt} (h : (c, f) ∈ floatFormats) : IsFloatCode c f := by
  simp only [floatFormats, List.mem_cons, Prod.mk.injEq, List.not_mem_nil, or_false] at h
  rcases h with ⟨rfl, rfl⟩ | ⟨rfl, rfl⟩ | ⟨rfl, rfl⟩ | ⟨rfl, rfl⟩ | ⟨rfl, rfl⟩ | ⟨rfl, rfl⟩ | ⟨rfl, rfl⟩ | ⟨rfl, rfl⟩ <;>
    exact ⟨by decide, rfl, by decide, by decide, by decide⟩

/-- A sign and a magnitude as `fltVal` joins them: the sign of a zero is kept apart. -/
theorem isNeg_signed (neg : Bool) (sig d : Nat) {k : Int} (hk : 0 < k) :
    (XR.fin ((if neg then -(sig : Int) else sig) * k) d (neg && sig == 0)).isNeg = neg := by
  cases neg
  · simp [XR.isNeg]
    positivity
  · rcases Nat.eq_zero_or_pos sig with rfl | pos
    · simp [XR.isNeg]
    · have : -(sig : Int) * k < 0 := mul_neg_of_neg_of_pos (by omega) hk
      simp only [XR.isNeg, if_true, this, decide_true, Bool.true_or]

/-- A whole number of a power of two, in the two forms in which `fltVal` gives it. -/
theorem scaled_is (neg : Bool) (sig ex p : Nat) :
    (if p ≤ ex then XR.fin ((if neg then -(sig : Int) else sig) * 2 ^ (ex - p)) 1 (neg && sig == 0)
      else XR.fin (if neg then -(sig : Int) else sig) (2 ^ (p - ex)) (neg && sig == 0)).Is
      (if neg then -(sig * 2 ^ ((ex : Int) - p)) else sig * 2 ^ ((ex : Int) - p)) neg := by
  split
  case isTrue h =>
    have power : (2 : ℚ) ^ ((ex : Int) - p) = 2 ^ (ex - p) := by rw [← Nat.cast_sub h, zpow_natCast]
    refine ⟨_, _, _, rfl, Nat.one_pos, ?_, isNeg_signed neg sig 1 (by positivity)⟩
    rw [power]
    cases neg <;> simp
  case isFalse h =>
    have power : (2 : ℚ) ^ ((ex : Int) - p) = (2 ^ (p - ex))⁻¹ := by
      rw [← zpow_natCast, ← zpow_neg, Nat.cast_sub (by omega)]; congr 1; ring
    refine ⟨_, _, _, rfl, by positivity, ?_, by simpa using isNeg_signed neg sig (2 ^ (p - ex)) Int.one_pos⟩
    rw [power]
    cases neg <;> simp [div_eq_mul_inv]

/-- A finite code is read at its value, with its sign (R31, R32). -/
theorem fltVal_is {c : Nat} {f : Flt} (hf : IsFloatCode c f) {x : Nat} (hx : Finite f x) : (fltVal f x).Is (realOf f x) (signOf f x) := by
  have le := hx.2
  have parts := Nat.div_add_mod' (magOf f x) (2 ^ f.fb)
  have plain : (f.hasInf && magOf f x / 2 ^ f.fb == 2 ^ f.eb - 1) = false := by
    cases hi : f.hasInf
    · rfl
    · have lt := Nat.div_lt_of_lt_mul (Nat.mul_comm _ _ ▸ le.trans_lt (hf.inf hi))
      simpa using lt.ne
  have number : (f.nan == some 0x7F && magOf f x / 2 ^ f.fb == 15 && magOf f x % 2 ^ f.fb == 7) = false := by
    by_contra h
    simp only [Bool.not_eq_false, Bool.and_eq_true, beq_iff_eq] at h
    obtain ⟨⟨nan, e⟩, m⟩ := h
    have := hf.nan nan
    rw [e, m] at parts
    omega
  have value : magVal f (magOf f x) =
      ((if magOf f x / 2 ^ f.fb = 0 then magOf f x % 2 ^ f.fb else 2 ^ f.fb + magOf f x % 2 ^ f.fb : Nat) : ℚ) *
        2 ^ (((if magOf f x / 2 ^ f.fb = 0 then 1 else magOf f x / 2 ^ f.fb : Nat) : Int) - (f.bias + f.fb : Nat)) := by
    rw [magVal]
    split <;> push_cast <;> ring_nf
  have scaled := scaled_is (signOf f x) (if magOf f x / 2 ^ f.fb = 0 then magOf f x % 2 ^ f.fb else 2 ^ f.fb + magOf f x % 2 ^ f.fb)
    (if magOf f x / 2 ^ f.fb = 0 then 1 else magOf f x / 2 ^ f.fb) (f.bias + f.fb)
  rw [← value, ← realOf_eq] at scaled
  simp only [fltVal, expField_eq f x, fracField_eq f x, plain, number, Bool.false_and, Bool.false_eq_true, if_false, Nat.sub_sub]
  exact scaled

theorem IsFloatCode.convert_eq {c : Nat} {f : Flt} (hf : IsFloatCode c f) (rm : Nat) (sat : Bool) (x : XR) :
    convert c rm sat x = toFlt f rm sat x := by simp [convert, hf.code]

theorem IsFloatCode.elemVal_eq {c : Nat} {f : Flt} (hf : IsFloatCode c f) (x : Nat) : elemVal c x = fltVal f x := by
  have plain := hf.plain
  simp [elemVal, mxBase, hf.code, show c < 16 by omega]

/-- An exact value is given rounded once, a zero with the sign it has (R44). -/
theorem Machine.XR.Is.gives {x : XR} {r : ℚ} {s : Bool} (h : x.Is r s) {c : Nat} {f : Flt} (hf : IsFloatCode c f) {rm : Nat} (hrm : rm < 5)
    (sat : Bool) {zs : Bool} (zero : r = 0 → s = zs) : Gives f rm sat r zs (convert c rm sat x) := by
  obtain ⟨n, d, z, rfl, hd, rfl, rfl⟩ := h
  have pos : (d : ℚ) ≠ 0 := by exact_mod_cast hd.ne'
  rw [hf.convert_eq]
  refine ⟨fun hr => roundsTo_toFlt hf.max hrm sat z (by rintro rfl; simp at hr) hd, fun hr => ?_⟩
  obtain rfl : n = 0 := by simpa [pos] using hr
  rw [toFlt_zero, ← zero hr]
  simp [signCode, XR.isNeg]

end Sys2Proof
end

section
/-!
PROOFS. An exact value is rounded once into an integer format (R43-R46).
-/
namespace Sys2Proof

open Machine

/-- `roundInt` rounds the magnitude and keeps the sign. -/
theorem rounded_roundInt (rm : Nat) (n : Int) {d : Nat} (hd : 0 < d) :
    ∃ m : Nat, Rounded rm (decide ((n : ℚ) / d < 0)) |(n : ℚ) / d| m ∧ roundInt rm n d = if (n : ℚ) / d < 0 then -(m : Int) else m := by
  have pos : (0 : ℚ) < d := by exact_mod_cast hd
  have abs : |(n : ℚ) / d| = (n.natAbs / d : Nat) + ((n.natAbs % d : Nat) : ℚ) / d := by
    have := (quantum_spec n.natAbs hd 0).2
    simp only [quantum, le_refl, if_true, zpow_zero, div_one, Int.toNat_zero, pow_zero, mul_one] at this
    rw [abs_div, abs_of_pos pos, ← this, Nat.cast_natAbs, Int.cast_abs]
  have neg : ((n : ℚ) / d < 0) ↔ n < 0 := by rw [div_lt_iff₀ pos, zero_mul, Int.cast_lt_zero]
  refine ⟨roundMag rm (decide (n < 0)) (n.natAbs / d) (n.natAbs % d) d, ?_, ?_⟩
  · simp only [abs, neg]
    exact rounded_roundMag (Nat.mod_lt _ hd) rm _
  · simp [roundInt, neg]

/-- A destination code of an integer format (R33, R34, R303). -/
structure IsIntFormat (c w : Nat) (lo hi : Int) (esc : Bool) : Prop where
  flt : fltOf c = none
  notLns : ¬(0xD ≤ c ∧ c ≤ 0xF)
  range : intRange c = some (lo, hi)
  width : widthOf c = w
  escape : (c == 0x16 || c == 0x17) = esc
  low : lo ≤ 0
  high : 0 ≤ hi

theorem isIntFormat_of_mem {c w : Nat} {lo hi : Int} {esc : Bool} (h : (c, w, lo, hi, esc) ∈ intFormats) : IsIntFormat c w lo hi esc := by
  simp only [intFormats, List.mem_cons, Prod.mk.injEq, List.not_mem_nil, or_false] at h
  rcases h with ⟨rfl, rfl, rfl, rfl, rfl⟩ | ⟨rfl, rfl, rfl, rfl, rfl⟩ | ⟨rfl, rfl, rfl, rfl, rfl⟩ | ⟨rfl, rfl, rfl, rfl, rfl⟩ |
    ⟨rfl, rfl, rfl, rfl, rfl⟩ | ⟨rfl, rfl, rfl, rfl, rfl⟩ | ⟨rfl, rfl, rfl, rfl, rfl⟩ | ⟨rfl, rfl, rfl, rfl, rfl⟩ |
    ⟨rfl, rfl, rfl, rfl, rfl⟩ <;>
    exact ⟨rfl, by decide, rfl, rfl, rfl, by decide, by decide⟩

/-- A rational is rounded once into an integer format. -/
theorem IsIntFormat.roundsToInt {c w : Nat} {lo hi : Int} {esc : Bool} (h : IsIntFormat c w lo hi esc) {rm d : Nat} (hrm : rm < 5)
    (hd : 0 < d) (n : Int) (sat z : Bool) : RoundsToInt w lo hi esc rm sat ((n : ℚ) / d) (convert c rm sat (.fin n d z)) := by
  obtain ⟨m, rounded, eq⟩ := rounded_roundInt rm n hd
  have low := h.low
  have high := h.high
  refine ⟨m, rounded, ?_⟩
  simp only [convert, h.flt, if_neg h.notLns, h.range, toInt, h.width, h.escape, wrapN_eq_ofInt, decide_eq_true_eq]
  generalize hv : roundInt rm n d = v at eq ⊢
  rw [← eq]
  by_cases fits : lo ≤ v ∧ v ≤ hi
  · rw [if_pos fits, if_pos fits]
  · have sign : (v < 0) = ((n : ℚ) / d < 0) := by
      by_cases hx : (n : ℚ) / d < 0
      · rw [if_pos hx] at eq
        exact propext (iff_of_true (by omega) hx)
      · rw [if_neg hx] at eq
        exact propext (iff_of_false (by omega) hx)
    simp only [if_neg fits, sign, towardZero_iff hrm, Bool.or_eq_true, decide_eq_true_eq]

end Sys2Proof
end

section
/-!
PROOFS. A logarithm is rounded to the nearest step (R38, R47).
-/
namespace Sys2Proof

open Machine

/-- No rational lies half a step between two logarithms: its even power is not an odd power of 2. -/
theorem pow_even_ne_zpow_odd (x : ℚ) (q : Nat) (l : Int) : x ^ (2 * q) ≠ 2 ^ (2 * l + 1) := by
  intro eq
  have two : padicValRat 2 (2 : ℚ) = 1 := padicValRat.self (by norm_num)
  have val := congrArg (padicValRat 2) eq
  rw [padicValRat.pow, padicValRat.zpow, two] at val
  rw [Nat.cast_mul, mul_assoc] at val
  omega

/-- `toLns` finds the step `l` that the logarithm is nearest to. -/
theorem nearest_step {n d q : Nat} (hn : 0 < n) (hd : 0 < d) {l : Int} (lo : (2 : ℚ) ^ (2 * l - 1) ≤ ((n : ℚ) / d) ^ (2 * q))
    (hi : ((n : ℚ) / d) ^ (2 * q) ≤ 2 ^ (2 * l + 1)) :
    (if 2 * flog2 (n ^ q) (d ^ q) + 1 ≤ flog2 (n ^ (2 * q)) (d ^ (2 * q)) then flog2 (n ^ q) (d ^ q) + 1 else flog2 (n ^ q) (d ^ q)) = l := by
  have one : (1 : ℚ) < 2 := by norm_num
  obtain ⟨wlo, whi⟩ := flog2_spec (n := n ^ q) (d := d ^ q) (by positivity) (by positivity)
  obtain ⟨hlo, hhi⟩ := flog2_spec (n := n ^ (2 * q)) (d := d ^ (2 * q)) (by positivity) (by positivity)
  generalize flog2 (n ^ q) (d ^ q) = whole at *
  generalize flog2 (n ^ (2 * q)) (d ^ (2 * q)) = half at *
  have square : ((n ^ (2 * q) : Nat) : ℚ) / (d ^ (2 * q) : Nat) = (((n ^ q : Nat) : ℚ) / (d ^ q : Nat)) ^ 2 := by push_cast; ring
  have power : ((n : ℚ) / d) ^ (2 * q) = ((n ^ (2 * q) : Nat) : ℚ) / (d ^ (2 * q) : Nat) := by push_cast; ring
  have strict := lt_of_le_of_ne hi (pow_even_ne_zpow_odd _ q l)
  rw [power] at lo strict
  have double (k : Int) : (2 : ℚ) ^ (2 * k) = (2 ^ k) ^ 2 := by rw [mul_comm, zpow_mul]; rfl
  have below : (2 : ℚ) ^ (2 * whole) ≤ ((n ^ (2 * q) : Nat) : ℚ) / (d ^ (2 * q) : Nat) := by
    rw [square, double]
    gcongr
  have above : ((n ^ (2 * q) : Nat) : ℚ) / (d ^ (2 * q) : Nat) < 2 ^ (2 * (whole + 1)) := by
    rw [square, double]
    gcongr
  have := (zpow_lt_zpow_iff_right₀ one).1 (lo.trans_lt hhi)
  have := (zpow_lt_zpow_iff_right₀ one).1 (hlo.trans_lt strict)
  have := (zpow_lt_zpow_iff_right₀ one).1 (below.trans_lt hhi)
  have := (zpow_lt_zpow_iff_right₀ one).1 (hlo.trans_lt above)
  split <;> omega

/-- An LNS format: its width, its steps in an octave, its greatest logarithm (R38). -/
structure IsLns (c w q top : Nat) : Prop where
  flt : fltOf c = none
  lns : 0xD ≤ c ∧ c ≤ 0xF
  width : widthOf c = w
  steps : lnsQ c = q
  greatest : lnsMax c = top
  fits : top < 2 ^ (w - 1)

theorem isLns_of_mem {c w q top : Nat} (h : (c, w, q, top) ∈ [(0x0D, 4, 2, 3), (0x0E, 6, 4, 15), (0x0F, 8, 8, 63)]) : IsLns c w q top := by
  simp only [List.mem_cons, Prod.mk.injEq, List.not_mem_nil, or_false] at h
  rcases h with ⟨rfl, rfl, rfl, rfl⟩ | ⟨rfl, rfl, rfl, rfl⟩ | ⟨rfl, rfl, rfl, rfl⟩ <;> exact ⟨rfl, by decide, rfl, rfl, rfl, by decide⟩

namespace IsLns

variable {c w q top : Nat} (h : IsLns c w q top)
include h

/-- The codes of a logarithm that rounding has given (R45, R47). -/
theorem lnsFit_eq (neg sat : Bool) (l : Int) : lnsFit c neg sat l =
    if (top : Int) < l then
      if sat then ((if neg then 2 ^ (w - 1) else 0) + top, fOF + fSAT) else (2 ^ (w - 1) + 2 ^ (w - 2), fOF)
    else if l < -(top : Int) then (2 ^ (w - 2), fUF)
    else ((if neg then 2 ^ (w - 1) else 0) + (BitVec.ofInt (w - 1) l).toNat, 0) := by
  have code (l : Int) : lnsCode c neg l = (if neg then 2 ^ (w - 1) else 0) + (BitVec.ofInt (w - 1) l).toNat := by
    rw [lnsCode, h.width, wrapN_eq_ofInt, Nat.add_comm]
  have greatest : (BitVec.ofInt (w - 1) (top : Int)).toNat = top := by simp [Nat.mod_eq_of_lt h.fits]
  simp only [lnsFit, h.greatest, code, greatest, lnsNaR, h.width]

theorem convert_fin {rm : Nat} {sat z : Bool} {n : Int} {d : Nat} (hn : n ≠ 0) : convert c rm sat (.fin n d z) =
    lnsFit c (decide (n < 0)) sat (if 2 * flog2 (n.natAbs ^ q) (d ^ q) + 1 ≤ flog2 (n.natAbs ^ (2 * q)) (d ^ (2 * q))
      then flog2 (n.natAbs ^ q) (d ^ q) + 1 else flog2 (n.natAbs ^ q) (d ^ q)) := by
  simp only [convert, h.flt, if_pos h.lns, toLns, if_neg hn, h.steps, decide_eq_true_eq]

end IsLns

end Sys2Proof
end

section
/-!
PROOFS. O12: conversions.
-/
namespace Sys2Proof

open Machine

/-- An integer with the sign kept apart. -/
theorem signed_facts (neg : Bool) {n : Nat} (hn : 0 < n) :
    (if neg then -(n : Int) else n) ≠ 0 ∧ (if neg then -(n : Int) else n).natAbs = n ∧ decide ((if neg then -(n : Int) else n) < 0) = neg := by
  cases neg
  · simp; omega
  · simp; omega

theorem convertElem_of_float {c c' : Nat} {f : Flt} (hf : IsFloatCode c f) (rm : Nat) (sat : Bool) (x : Nat) :
    convertElem c c' rm sat x = convert c' rm sat (fltVal f x) := by
  have plain := hf.plain
  rw [convertElem, if_neg (by omega), hf.elemVal_eq]

/-- Settles O12: into a float format by `roundsTo_toFlt`, into an integer format by `roundInt`, into an LNS format by the nearest step; an
element stands for its value. -/
theorem conversionsRoundOnce : Obligations.ConversionsRoundOnce := by
  refine ⟨fun c f mem => ?_, fun c w lo hi esc mem rm d n sat z hrm hd => (isIntFormat_of_mem mem).roundsToInt hrm hd n sat z,
    fun c f mem x hx rm sat hrm => ⟨fun c' g mem' => ?_, fun c' w lo hi esc mem' => ?_⟩,
    fun c w q top mem rm n d neg sat z hn hd l lo hi => ?_⟩
  · have hf := isFloatCode_of_mem mem
    refine ⟨hf.code, fun rm n d neg sat z hrm hn hd => ⟨?_, by rw [hf.convert_eq, toFlt_zero, signCode]⟩⟩
    have rounds := roundsTo_toFlt hf.max hrm sat z (signed_facts neg hn).1 hd
    rw [hf.convert_eq]
    cases neg
    · simpa using rounds
    · simpa [neg_div] using rounds
  · rw [convertElem_of_float (isFloatCode_of_mem mem)]
    exact (fltVal_is (isFloatCode_of_mem mem) hx).gives (isFloatCode_of_mem mem') hrm sat fun _ => rfl
  · rw [convertElem_of_float (isFloatCode_of_mem mem)]
    obtain ⟨n, d, z, val, hd, real, -⟩ := fltVal_is (isFloatCode_of_mem mem) hx
    rw [val, ← real]
    exact (isIntFormat_of_mem mem').roundsToInt hrm hd n sat z
  · have h := isLns_of_mem mem
    obtain ⟨nonzero, abs, sign⟩ := signed_facts neg hn
    rw [h.convert_fin nonzero, abs, sign, nearest_step hn hd lo hi]
    exact h.lnsFit_eq neg sat l

end Sys2Proof
end

section
/-!
PROOFS. Exact sums, products and the order of exact values (R32, R42, R49, R292, R294).
-/
namespace Sys2Proof

open Machine

theorem qadd_spec (n₁ : Int) {d₁ : Nat} (h₁ : 0 < d₁) (n₂ : Int) {d₂ : Nat} (h₂ : 0 < d₂) :
    0 < (qadd n₁ d₁ n₂ d₂).2 ∧ ((qadd n₁ d₁ n₂ d₂).1 : ℚ) / (qadd n₁ d₁ n₂ d₂).2 = n₁ / d₁ + n₂ / d₂ := by
  have pos₁ : (d₁ : ℚ) ≠ 0 := by exact_mod_cast h₁.ne'
  have pos₂ : (d₂ : ℚ) ≠ 0 := by exact_mod_cast h₂.ne'
  have multiple {a b : Nat} (ha : 0 < a) (h : a % b = 0) : ∃ k, 0 < k ∧ a = b * k ∧ a / b = k := by
    obtain ⟨k, rfl⟩ := Nat.dvd_of_mod_eq_zero h
    have pos := Nat.pos_of_mul_pos_right ha
    exact ⟨k, Nat.pos_of_ne_zero (by rintro rfl; simp at ha), rfl, Nat.mul_div_cancel_left k (Nat.pos_of_ne_zero (by rintro rfl; simp at ha))⟩
  unfold qadd
  split
  case isTrue h =>
    subst h
    exact ⟨h₁, by push_cast; field_simp⟩
  case isFalse =>
    split
    case isTrue h =>
      obtain ⟨k, hk, rfl, quot⟩ := multiple h₁ h
      have : (k : ℚ) ≠ 0 := by exact_mod_cast hk.ne'
      exact ⟨h₁, by rw [quot]; push_cast; field_simp⟩
    case isFalse =>
      split
      case isTrue h =>
        obtain ⟨k, hk, rfl, quot⟩ := multiple h₂ h
        have : (k : ℚ) ≠ 0 := by exact_mod_cast hk.ne'
        exact ⟨h₂, by rw [quot]; push_cast; field_simp⟩
      case isFalse => exact ⟨by positivity, by push_cast; field_simp⟩

@[simp] theorem isNeg_fin_zero (d : Nat) (z : Bool) : (XR.fin 0 d z).isNeg = z := by simp [XR.isNeg]

theorem isNeg_fin {n : Int} (hn : n ≠ 0) (d : Nat) (z : Bool) : (XR.fin n d z).isNeg = decide (n < 0) := by simp [XR.isNeg, hn]

/-- `p` is the rational `r` without flags, a zero with the sign `zs`. -/
def Exactly (p : Flagged XR) (r : ℚ) (zs : Bool) : Prop := ∃ v s, p = (v, 0) ∧ v.Is r s ∧ (r = 0 → s = zs)

/-- What is exact is given rounded once. -/
theorem Exactly.finish {p : Flagged XR} {r : ℚ} {zs : Bool} (h : Exactly p r zs) {c : Nat} {f : Flt} (hf : IsFloatCode c f) {rm : Nat}
    (hrm : rm < 5) (sat : Bool) : Gives f rm sat r zs (finish c rm sat p) := by
  obtain ⟨v, s, rfl, is, zero⟩ := h
  simpa [Machine.finish] using is.gives hf hrm sat zero

theorem add_fin (rdn : Bool) (n m : Int) (d e : Nat) (z w : Bool) : XR.add rdn (.fin n d z) (.fin m e w) =
    (.fin (qadd n d m e).1 (qadd n d m e).2 ((qadd n d m e).1 == 0 &&
      if (XR.fin n d z).isNeg = (XR.fin m e w).isNeg then (XR.fin n d z).isNeg else rdn), 0) := rfl

namespace Machine.XR.Is

variable {x y : XR} {r t : ℚ} {s u : Bool}

theorem exactly (h : x.Is r s) : Exactly (x, 0) r s := ⟨x, s, rfl, h, fun _ => rfl⟩

theorem add (h : x.Is r s) (k : y.Is t u) (rdn : Bool) : Exactly (XR.add rdn x y) (r + t) (if s = u then s else rdn) := by
  obtain ⟨n, d, z, rfl, hd, rfl, hs⟩ := h
  obtain ⟨m, e, w, rfl, he, rfl, hu⟩ := k
  obtain ⟨pos, sum⟩ := qadd_spec n hd m he
  refine ⟨_, _, add_fin .., ⟨_, _, _, rfl, pos, sum, rfl⟩, fun zero => ?_⟩
  have none : (qadd n d m e).1 = 0 := by
    rw [zero, div_eq_zero_iff] at sum
    exact_mod_cast sum.resolve_right (by exact_mod_cast pos.ne')
  rw [hs, hu, none]
  exact isNeg_fin_zero _ _

theorem mul (h : x.Is r s) (k : y.Is t u) : ∃ v, XR.mul x y = (v, 0) ∧ v.Is (r * t) (s != u) := by
  obtain ⟨n, d, z, rfl, hd, rfl, rfl⟩ := h
  obtain ⟨m, e, w, rfl, he, rfl, rfl⟩ := k
  refine ⟨_, rfl, _, _, _, rfl, by positivity, by push_cast; rw [div_mul_div_comm], ?_⟩
  rcases eq_or_ne n 0 with rfl | hn
  · simp
  rcases eq_or_ne m 0 with rfl | hm
  · simp
  rw [isNeg_fin (mul_ne_zero hn hm), isNeg_fin hn, isNeg_fin hm]
  rcases hn.lt_or_gt with hn | hn <;> rcases hm.lt_or_gt with hm | hm <;> simp [mul_neg_iff, hn, hm, hn.not_gt, hm.not_gt]

theorem neg (h : x.Is r s) : x.neg.Is (-r) (!s) := by
  obtain ⟨n, d, z, rfl, hd, rfl, rfl⟩ := h
  refine ⟨-n, d, !z && n == 0, rfl, hd, by push_cast; ring, ?_⟩
  change (XR.fin (-n) d (!z && n == 0)).isNeg = _
  rcases eq_or_ne n 0 with rfl | hn
  · simp
  rw [isNeg_fin (neg_ne_zero.2 hn), isNeg_fin hn]
  rcases hn.lt_or_gt with h | h <;> simp [h, h.not_gt]

theorem scale (h : x.Is r s) {a b : Nat} (ha : 0 < a) (hb : 0 < b) : (x.scale a b).Is (r * a / b) s := by
  obtain ⟨n, d, z, rfl, hd, rfl, rfl⟩ := h
  have pos : (0 : Int) < a := by exact_mod_cast ha
  refine ⟨n * a, d * b, z, rfl, by positivity, by push_cast; rw [div_mul_eq_mul_div, div_div], ?_⟩
  change (XR.fin (n * a) (d * b) z).isNeg = _
  rcases eq_or_ne n 0 with rfl | hn
  · simp
  rw [isNeg_fin (mul_ne_zero hn pos.ne'), isNeg_fin hn]
  simp [mul_neg_iff, pos.not_gt, ha]

/-- 1/x (R49). -/
theorem recip (h : x.Is r s) (hr : r ≠ 0) : ∃ v, sfu 2 x = (v, 0) ∧ v.Is (1 / r) s := by
  obtain ⟨n, d, z, rfl, hd, rfl, rfl⟩ := h
  have hn : n ≠ 0 := by rintro rfl; simp at hr
  have pos : (0 : Int) < d := by exact_mod_cast hd
  refine ⟨.fin (if n < 0 then -(d : Int) else d) n.natAbs false, by simp [sfu, hn], _, _, _, rfl, Int.natAbs_pos.2 hn, ?_, ?_⟩
  · rw [one_div_div, Nat.cast_natAbs]
    split
    case isTrue h => rw [abs_of_neg h]; push_cast; rw [neg_div_neg_eq]
    case isFalse h => rw [abs_of_nonneg (not_lt.1 h)]; push_cast; rfl
  · rw [isNeg_fin hn, isNeg_fin (by split <;> omega)]
    exact decide_eq_decide.2 (by split <;> omega)

theorem less_eq (h : x.Is r s) (k : y.Is t u) : XR.less x y = decide (r < t) := by
  obtain ⟨n, d, z, rfl, hd, rfl, -⟩ := h
  obtain ⟨m, e, w, rfl, he, rfl, -⟩ := k
  have posd : (0 : ℚ) < d := by exact_mod_cast hd
  have pose : (0 : ℚ) < e := by exact_mod_cast he
  refine decide_eq_decide.2 ?_
  rw [div_lt_div_iff₀ posd pose]
  exact_mod_cast Iff.rfl

theorem below_eq (h : x.Is r s) (k : y.Is t u) : XR.below x y = (decide (r < t) || (decide (r = 0) && decide (t = 0) && s && !u)) := by
  have less := less_eq h k
  obtain ⟨n, d, z, rfl, hd, rfl, rfl⟩ := h
  obtain ⟨m, e, w, rfl, he, rfl, rfl⟩ := k
  have posd : (d : ℚ) ≠ 0 := by exact_mod_cast hd.ne'
  have pose : (e : ℚ) ≠ 0 := by exact_mod_cast he.ne'
  rw [← less]
  change (XR.less (.fin n d z) (.fin m e w) || _) = _
  congr 1
  rcases eq_or_ne n 0 with rfl | hn
  · rcases eq_or_ne m 0 with rfl | hm
    · simp [XR.isNeg]
    · simp [hm, pose]
  · simp [hn, posd]

theorem ne_nan (h : x.Is r s) : x ≠ .nan := by
  obtain ⟨n, d, z, rfl, -⟩ := h
  simp

end Machine.XR.Is

/-- x·y + z (R32, R50). -/
theorem fma_exactly {x y z : XR} {r t v : ℚ} {s u w : Bool} (hx : x.Is r s) (hy : y.Is t u) (hz : z.Is v w) (rdn : Bool) :
    Exactly (fma rdn x y z) (r * t + v) (if (s != u) = w then s != u else rdn) := by
  obtain ⟨p, eq, hp⟩ := hx.mul hy
  obtain ⟨q, o, eq', hq, zero⟩ := hp.add hz rdn
  exact ⟨q, o, by simp [fma, eq, eq'], hq, zero⟩

end Sys2Proof
end

section
/-!
PROOFS. Float elements (R291-R295, R299, R302): each operation's exact value, its order and its signs.
-/
namespace Sys2Proof

open Machine

theorem code_injective {f : Flt} {x y : Nat} (hx : x < 2 ^ (f.eb + f.fb + 1)) (hy : y < 2 ^ (f.eb + f.fb + 1)) (sign : signOf f x = signOf f y)
    (mag : |realOf f x| = |realOf f y|) : x = y := by
  rw [abs_realOf, abs_realOf, (magVal_strictMono f).injective.eq_iff] at mag
  rw [← signCode_add_magOf hx, ← signCode_add_magOf hy, sign, mag]

theorem xor_sign {f : Flt} {x : Nat} (hx : x < 2 ^ (f.eb + f.fb + 1)) :
    x ^^^ 2 ^ (f.eb + f.fb) = magOf f x + if signOf f x then 0 else 2 ^ (f.eb + f.fb) := by
  have double : 2 ^ (f.eb + f.fb + 1) = 2 ^ (f.eb + f.fb) * 2 := by ring
  have pos : 0 < 2 ^ (f.eb + f.fb) := by positivity
  have top : x / 2 ^ (f.eb + f.fb) < 2 := Nat.div_lt_of_lt_mul (double ▸ hx)
  have low : (x ^^^ 2 ^ (f.eb + f.fb)) % 2 ^ (f.eb + f.fb) = magOf f x := by rw [Nat.xor_mod_two_pow]; simp [magOf]
  have high : (x ^^^ 2 ^ (f.eb + f.fb)) / 2 ^ (f.eb + f.fb) = x / 2 ^ (f.eb + f.fb) ^^^ 1 := by rw [Nat.xor_div_two_pow, Nat.div_self pos]
  have parts := Nat.div_add_mod' (x ^^^ 2 ^ (f.eb + f.fb)) (2 ^ (f.eb + f.fb))
  rw [low, high] at parts
  unfold signOf
  rcases Nat.lt_succ_iff_lt_or_eq.1 top with zero | one
  · rw [Nat.lt_one_iff.1 zero] at parts ⊢
    simpa [Nat.add_comm] using parts.symm
  · rw [one] at parts ⊢
    simpa using parts.symm

/-- A float format of the vector unit: it has infinities and a NaN. -/
structure IsVectorFloat (ty : Nat) (f : Flt) : Prop extends IsFloatCode ty f where
  width : widthOf ty = f.eb + f.fb + 1
  special : f.hasInf = true

theorem isVectorFloat_of_mem {ty : Nat} {f : Flt} (h : (ty, f) ∈ vectorFloats) : IsVectorFloat ty f := by
  refine ⟨isFloatCode_of_mem (List.mem_of_mem_take h), ?_, ?_⟩ <;>
  · simp only [vectorFloats, floatFormats, List.take, List.mem_cons, Prod.mk.injEq, List.not_mem_nil, or_false] at h
    rcases h with ⟨rfl, rfl⟩ | ⟨rfl, rfl⟩ | ⟨rfl, rfl⟩ <;> rfl

namespace IsVectorFloat

variable {ty : Nat} {f : Flt} (h : IsVectorFloat ty f)
include h

theorem isFlt : isFlt ty = true := by simp [Machine.isFlt, h.code]

theorem nanOf {c : Nat} (hc : f.nan = some c) : nanOf ty = c := by simp [Machine.nanOf, h.code, hc]

theorem elem {x : Nat} (hx : Finite f x) : (elemVal ty x).Is (realOf f x) (signOf f x) := by
  rw [h.elemVal_eq]
  exact fltVal_is h.toIsFloatCode hx

section

variable {fn a b d : Nat} (hfn : fn < 5) (ha : Finite f a) (hb : Finite f b) (hd : Finite f d)
include hfn ha

theorem gives_vMacc (hd : Finite f d) {e v : Nat} (he : 0 < e) (hv : 0 < v) : Gives f fn false (realOf f d + realOf f a * e / v)
    (if signOf f a = signOf f d then signOf f a else fn == 3) (vMacc ty fn e v a d) := by
  have sum := (((h.elem hd).add ((h.elem ha).scale he hv) (fn == 3))).finish h.toIsFloatCode hfn false
  rw [vMacc, if_neg hv.ne']
  convert sum using 1
  grind

theorem gives_recip (ha0 : realOf f a ≠ 0) : Gives f fn false (1 / realOf f a) (signOf f a) (finish ty fn false (sfu 2 (elemVal ty a))) := by
  obtain ⟨v, eq, is⟩ := (h.elem ha).recip ha0
  exact eq ▸ is.exactly.finish h.toIsFloatCode hfn false

include hb

theorem gives_vAdd : Gives f fn false (realOf f a + realOf f b) (if signOf f a = signOf f b then signOf f a else fn == 3) (vAdd ty fn a b) := by
  rw [vAdd, if_pos h.isFlt]
  exact ((h.elem ha).add (h.elem hb) _).finish h.toIsFloatCode hfn false

theorem gives_vSub : Gives f fn false (realOf f a - realOf f b) (if signOf f a = signOf f b then fn == 3 else signOf f a) (vSub ty fn a b) := by
  have diff := ((h.elem ha).add (h.elem hb).neg (fn == 3)).finish h.toIsFloatCode hfn false
  rw [vSub, if_pos h.isFlt, sub_eq_add_neg]
  convert diff using 1
  cases signOf f a <;> cases signOf f b <;> rfl

theorem gives_vMul : Gives f fn false (realOf f a * realOf f b) (signOf f a != signOf f b) (vMul ty fn a b) := by
  obtain ⟨v, eq, is⟩ := (h.elem ha).mul (h.elem hb)
  rw [vMul, if_pos h.isFlt, eq]
  exact is.exactly.finish h.toIsFloatCode hfn false

include hd

theorem gives_vFma : Gives f fn false (realOf f a * realOf f b + realOf f d)
    (if (signOf f a != signOf f b) = signOf f d then signOf f a != signOf f b else fn == 3) (vFma ty fn a b d) := by
  rw [vFma, if_pos h.isFlt]
  exact (fma_exactly (h.elem ha) (h.elem hb) (h.elem hd) _).finish h.toIsFloatCode hfn false

end

section

variable {a b : Nat} (ha : Finite f a) (hb : Finite f b)
include ha

/-- An equal value with the same sign is the same code; the two zeros differ in the sign only. -/
theorem eq_or_zeros (hb : Finite f b) (eq : realOf f a = realOf f b) : a = b ∨ (realOf f a = 0 ∧ realOf f b = 0 ∧ signOf f a ≠ signOf f b) := by
  rcases eq_or_ne (signOf f a) (signOf f b) with sign | sign
  · exact .inl (code_injective ha.1 hb.1 sign (congrArg abs eq))
  · by_cases zero : realOf f a = 0
    · exact .inr ⟨zero, eq ▸ zero, sign⟩
    · exact absurd (by rw [(h.elem ha).sign zero, (h.elem hb).sign (eq ▸ zero), eq]) sign

theorem vAbs_eq : vAbs ty a = (magOf f a, 0) := by
  rw [vAbs, if_pos h.isFlt, if_neg (h.elem ha).ne_nan, h.width]
  rfl

theorem vNeg_eq : vNeg ty a = (magOf f a + (if signOf f a then 0 else 2 ^ (f.eb + f.fb)), 0) := by
  rw [vNeg, if_pos h.isFlt, if_neg (h.elem ha).ne_nan, h.width, Nat.add_sub_cancel, xor_sign ha.1]

include hb

theorem vCmp_eq {k : Nat} {p : Bool} (hk : (k, p) ∈ [(0, decide (realOf f a = realOf f b)), (1, decide (realOf f a ≠ realOf f b)),
    (2, decide (realOf f a < realOf f b)), (3, decide (realOf f a ≤ realOf f b)), (4, decide (realOf f b < realOf f a)),
    (5, decide (realOf f b ≤ realOf f a))]) : vCmp ty k a b = if p then 2 ^ (f.eb + f.fb + 1) - 1 else 0 := by
  have equal : (!decide (realOf f a < realOf f b) && !decide (realOf f b < realOf f a)) = decide (realOf f a = realOf f b) := by
    rcases lt_trichotomy (realOf f a) (realOf f b) with lt | eq | gt
    · simp [lt, lt.ne]
    · simp [eq]
    · simp [gt, gt.ne']
  rw [vCmp, if_pos h.isFlt, if_neg (not_or.2 ⟨(h.elem ha).ne_nan, (h.elem hb).ne_nan⟩), (h.elem ha).less_eq (h.elem hb),
    (h.elem hb).less_eq (h.elem ha), equal, condOf_eq _ _ hk, h.width]

theorem vPick_eq (greatest : Bool) : vPick ty greatest a b =
    if (decide (realOf f a < realOf f b) || (decide (realOf f a = 0) && decide (realOf f b = 0) && signOf f a && !signOf f b)) = greatest
    then b else a := by
  rw [vPick, if_pos h.isFlt, if_neg (not_or.2 ⟨(h.elem ha).ne_nan, (h.elem hb).ne_nan⟩), (h.elem ha).below_eq (h.elem hb)]

theorem vPick_least : vPick ty false a b =
    if realOf f a < realOf f b ∨ (realOf f a = realOf f b ∧ (signOf f a = true ∨ signOf f b = false)) then a else b := by
  rw [h.vPick_eq ha hb]
  rcases lt_trichotomy (realOf f a) (realOf f b) with lt | eq | gt
  · simp [lt]
  · rcases h.eq_or_zeros ha hb eq with rfl | ⟨za, zb, sign⟩
    · simp only [ite_self]
    · rw [za, zb]
      cases sa : signOf f a <;> cases sb : signOf f b <;> simp_all
  · have apart : ¬(realOf f a = 0 ∧ realOf f b = 0) := fun h => by rw [h.1, h.2] at gt; exact gt.false
    simp [gt.not_gt, gt.ne', ← Bool.decide_and, apart]

theorem vPick_greatest : vPick ty true a b =
    if realOf f b < realOf f a ∨ (realOf f a = realOf f b ∧ (signOf f a = false ∨ signOf f b = true)) then a else b := by
  rw [h.vPick_eq ha hb]
  rcases lt_trichotomy (realOf f a) (realOf f b) with lt | eq | gt
  · simp [lt, lt.not_gt, lt.ne]
  · rcases h.eq_or_zeros ha hb eq with rfl | ⟨za, zb, sign⟩
    · simp only [ite_self]
    · rw [za, zb]
      cases sa : signOf f a <;> cases sb : signOf f b <;> simp_all
  · have apart : ¬(realOf f a = 0 ∧ realOf f b = 0) := fun h => by rw [h.1, h.2] at gt; exact gt.false
    simp [gt, gt.not_gt, ← Bool.decide_and, apart]

end

/-! ## NaN operands -/

/-- A code above that of infinity is a NaN (R31). -/
theorem elem_nan {x : Nat} (number : (2 ^ f.eb - 1) * 2 ^ f.fb < magOf f x) : elemVal ty x = .nan := by
  have size : magOf f x < 2 ^ f.fb * 2 ^ f.eb := by rw [← Nat.pow_add, Nat.add_comm]; exact Nat.mod_lt _ (by positivity)
  have pos : 0 < 2 ^ f.fb := by positivity
  have exp : magOf f x / 2 ^ f.fb = 2 ^ f.eb - 1 := by
    have lo : 2 ^ f.eb - 1 ≤ magOf f x / 2 ^ f.fb := (Nat.le_div_iff_mul_le pos).2 number.le
    have hi : magOf f x / 2 ^ f.fb < 2 ^ f.eb := Nat.div_lt_of_lt_mul size
    omega
  have frac : magOf f x % 2 ^ f.fb ≠ 0 := by
    intro zero
    have := Nat.div_add_mod' (magOf f x) (2 ^ f.fb)
    rw [exp, zero] at this
    omega
  rw [h.elemVal_eq]
  simp [fltVal, expField_eq f x, fracField_eq f x, h.special, exp, frac]

end IsVectorFloat

/-- A NaN operand of an exact operation gives NaN, without flags (R32). -/
theorem add_nan_left (rdn : Bool) (x : XR) : XR.add rdn .nan x = (.nan, 0) := rfl

theorem add_nan_right (rdn : Bool) (x : XR) : XR.add rdn x .nan = (.nan, 0) := by cases x <;> rfl

theorem mul_nan_left (x : XR) : XR.mul .nan x = (.nan, 0) := rfl

theorem mul_nan_right (x : XR) : XR.mul x .nan = (.nan, 0) := by cases x <;> rfl

theorem IsVectorFloat.finish_nan {ty c : Nat} {f : Flt} (h : IsVectorFloat ty f) (hc : f.nan = some c) (rm : Nat) (sat : Bool) :
    finish ty rm sat (.nan, 0) = (c, 0) := by
  simp [finish, h.convert_eq, toFlt, hc]

end Sys2Proof
end

section
/-!
PROOFS. The value of a block of products, and its sum with the accumulator (R36, R41, R42).
-/
namespace Sys2Proof

open Machine

/-- A last block is added to the accumulator of the blocks before it (R41). -/
theorem sumFloat_append {acc m : Nat} {p blk : List (Flagged XR)} (hp : p.length = 32 * m) (pos : 0 < blk.length) (le : blk.length ≤ 32) :
    sumFloat acc (p ++ blk) = ((accAdd (sumFloat acc p).1 (blockSum blk)).1,
      (sumFloat acc p).2 ||| (accAdd (sumFloat acc p).1 (blockSum blk)).2) := by
  simp only [sumFloat, blocks32_length_append hp pos le, List.foldl_append, List.foldl_cons, List.foldl_nil]

/-! ## Blocks with NaN or infinities -/

/-- The flags of products that set none. -/
theorem foldl_flags_none {ps : List (Flagged XR)} (hf : ∀ p ∈ ps, p.2 = 0) (a : Nat) : ps.foldl (fun a p => a ||| p.2) a = a := by
  induction ps generalizing a with
  | nil => rfl
  | cons p ps ih => rw [List.foldl_cons, hf p (by simp), Nat.or_zero, ih fun q hq => hf q (by simp [hq])]

/-- The flags of products that set IV at most. -/
theorem foldl_flags_iv {ps : List (Flagged XR)} (hf : ∀ p ∈ ps, p.2 = 0 ∨ p.2 = fIV) {a : Nat} (ha : a = 0 ∨ a = fIV)
    (some : a = fIV ∨ ∃ p ∈ ps, p.2 = fIV) : ps.foldl (fun a p => a ||| p.2) a = fIV := by
  induction ps generalizing a with
  | nil => simpa using some
  | cons p ps ih =>
    have rest : ∀ q ∈ ps, q.2 = 0 ∨ q.2 = fIV := fun q hq => hf q (by simp [hq])
    have step : a ||| p.2 = 0 ∨ a ||| p.2 = fIV := by
      rcases ha with rfl | rfl <;> rcases hf p (by simp) with h | h <;> simp [h, fIV]
    refine ih rest step ?_
    rcases some with rfl | ⟨q, hq, iv⟩
    · exact .inl (by rcases hf p (by simp) with h | h <;> simp [h, fIV])
    · rcases List.mem_cons.1 hq with rfl | hq
      · exact .inl (by change a ||| q.2 = fIV; rw [iv]; rcases ha with rfl | rfl <;> simp [fIV])
      · exact .inr ⟨q, hq, iv⟩

theorem foldl_flags {ps : List (Flagged XR)} (hf : ∀ p ∈ ps, p.2 = 0 ∨ p.2 = fIV) :
    ps.foldl (fun a p => a ||| p.2) 0 = if ∃ p ∈ ps, p.2 = fIV then fIV else 0 := by
  split
  case isTrue h => exact foldl_flags_iv hf (.inl rfl) (.inr h)
  case isFalse h => exact foldl_flags_none (fun p hp => (hf p hp).resolve_right fun iv => h ⟨p, hp, iv⟩) 0

theorem any_beq_iff (ps : List (Flagged XR)) (x : XR) : ((ps.map (·.1)).any fun y => y == x) = true ↔ x ∈ ps.map (·.1) := by
  simp

/-- The exact sum of finite values, term by term. -/
def finSum (a : Int × Nat) (xs : List XR) : Int × Nat :=
  xs.foldl (fun a x => match x with
    | .fin m e _ => qadd a.1 a.2 m e
    | _ => a) a

/-- The cases of R42, the first that applies. -/
theorem blockSum_eq (ps : List (Flagged XR)) : blockSum ps =
    if .inf false ∈ ps.map (·.1) ∧ .inf true ∈ ps.map (·.1) then (.nan, ps.foldl (fun a p => a ||| p.2) 0 ||| fIV)
    else if .nan ∈ ps.map (·.1) then (.nan, ps.foldl (fun a p => a ||| p.2) 0)
    else if .inf false ∈ ps.map (·.1) then (.inf false, 0)
    else if .inf true ∈ ps.map (·.1) then (.inf true, 0)
    else (.fin (finSum (0, 1) (ps.map (·.1))).1 (finSum (0, 1) (ps.map (·.1))).2
      ((finSum (0, 1) (ps.map (·.1))).1 == 0 && (ps.map (·.1)).all fun x => x.isZero && x.isNeg), 0) := by
  simp only [blockSum, Bool.and_eq_true, any_beq_iff]
  rfl

/-! ## Finite blocks -/

theorem Machine.XR.Is.isZero_iff {x : XR} {r : ℚ} {s : Bool} (h : x.Is r s) : x.isZero = true ↔ r = 0 := by
  obtain ⟨n, d, z, rfl, hd, rfl, -⟩ := h
  have pos : (d : ℚ) ≠ 0 := by exact_mod_cast hd.ne'
  simp [XR.isZero, pos]

theorem Machine.XR.Is.isNeg_eq {x : XR} {r : ℚ} {s : Bool} (h : x.Is r s) : x.isNeg = s := by
  obtain ⟨n, d, z, -, -, -, sign⟩ := h
  exact sign

theorem Machine.XR.Is.nonpos {x : XR} {r : ℚ} (h : x.Is r true) : r ≤ 0 := by
  rcases eq_or_ne r 0 with rfl | hr
  · exact le_rfl
  · exact (of_decide_eq_true (h.sign hr).symm).le

section

variable {α : Type} {val : α → Flagged XR} {r : α → ℚ} {s : α → Bool}

theorem finSum_spec {l : List α} (h : ∀ p ∈ l, (val p).1.Is (r p) (s p)) {a : Int × Nat} (ha : 0 < a.2) :
    0 < (finSum a (l.map fun p => (val p).1)).2 ∧
    ((finSum a (l.map fun p => (val p).1)).1 : ℚ) / (finSum a (l.map fun p => (val p).1)).2 = a.1 / a.2 + (l.map r).sum := by
  induction l generalizing a with
  | nil => exact ⟨ha, by simp [finSum]⟩
  | cons p l ih =>
    obtain ⟨n, d, z, eq, hd, real, -⟩ := h p (by simp)
    obtain ⟨pos, sum⟩ := qadd_spec a.1 ha n hd
    have step : finSum a ((p :: l).map fun p => (val p).1) = finSum (qadd a.1 a.2 n d) (l.map fun p => (val p).1) := by
      simp [finSum, eq]
    rw [step, List.map_cons, List.sum_cons, ← add_assoc, ← real, ← sum]
    exact ih (fun q hq => h q (by simp [hq])) pos

/-- Values that are not positive and cancel are zeros. -/
theorem zeros_of_sum {l : List α} (le : ∀ p ∈ l, r p ≤ 0) (sum : (l.map r).sum = 0) {p : α} (hp : p ∈ l) : r p = 0 := by
  have cancel : ((l.map r).map Neg.neg).sum = 0 := by rw [← List.sum_neg, sum, neg_zero]
  exact neg_eq_zero.1 (List.all_zero_of_le_zero_le_of_sum_eq_zero (by simpa using le) cancel
    (List.mem_map_of_mem (List.mem_map_of_mem hp)))

theorem all_negZero_iff {l : List α} (is : ∀ p ∈ l, (val p).1.Is (r p) (s p)) (sum : (l.map r).sum = 0) :
    (((l.map val).map (·.1)).all fun x => x.isZero && x.isNeg) = l.all s := by
  rw [Bool.eq_iff_iff, List.map_map, List.all_map, List.all_eq_true, List.all_eq_true]
  simp only [Function.comp_def, Bool.and_eq_true]
  refine ⟨fun h p hp => (is p hp).isNeg_eq ▸ (h p hp).2, fun h p hp => ?_⟩
  have le : ∀ q ∈ l, r q ≤ 0 := fun q hq => (h q hq ▸ is q hq).nonpos
  exact ⟨(is p hp).isZero_iff.2 (zeros_of_sum le sum hp), (is p hp).isNeg_eq.trans (h p hp)⟩

/-- A block of finite products has their exact sum; a zero is negative when every product is -0 (R42). -/
theorem blockSum_exactly {l : List α} (h : ∀ p ∈ l, ∃ v, val p = (v, 0) ∧ v.Is (r p) (s p)) :
    Exactly (blockSum (l.map val)) (l.map r).sum (l.all s) := by
  have is : ∀ p ∈ l, (val p).1.Is (r p) (s p) := fun p hp => by
    obtain ⟨v, eq, is⟩ := h p hp
    rwa [eq]
  have finite {x : XR} (hx : ∀ n d z, x ≠ .fin n d z) : x ∉ (l.map val).map (·.1) := by
    intro mem
    rw [List.map_map] at mem
    obtain ⟨p, hp, rfl⟩ := List.mem_map.1 mem
    obtain ⟨n, d, z, eq, -⟩ := is p hp
    exact hx n d z eq
  rw [blockSum_eq, if_neg fun h => finite (by simp) h.1, if_neg (finite (by simp)), if_neg (finite (by simp)), if_neg (finite (by simp))]
  have terms : (l.map val).map (·.1) = l.map fun p => (val p).1 := List.map_map
  obtain ⟨pos, sum⟩ := finSum_spec is (a := (0, 1)) Nat.one_pos
  rw [Int.cast_zero, zero_div, zero_add] at sum
  rw [← terms] at pos sum
  refine ⟨_, _, rfl, ⟨_, _, _, rfl, pos, sum, rfl⟩, fun zero => ?_⟩
  have none : (finSum (0, 1) ((l.map val).map (·.1))).1 = 0 := by
    rw [zero, div_eq_zero_iff] at sum
    exact_mod_cast sum.resolve_right (by exact_mod_cast pos.ne')
  rw [none, isNeg_fin_zero, all_negZero_iff is zero]
  rfl

end

/-! ## Scales and the accumulator -/

theorem Machine.XR.Is.gives_toFlt {x : XR} {r : ℚ} {s : Bool} (h : x.Is r s) {c : Nat} {f : Flt} (hf : IsFloatCode c f) {rm : Nat} (hrm : rm < 5)
    (sat : Bool) {zs : Bool} (zero : r = 0 → s = zs) : Gives f rm sat r zs (toFlt f rm sat x) :=
  hf.convert_eq rm sat x ▸ h.gives hf hrm sat zero

/-- A scale is a power of 2 (R36). -/
theorem Machine.XR.Is.mxScale {x : XR} {r : ℚ} {s : Bool} (h : x.Is r s) {e : Nat} (he : e < 255) :
    (mxScale e x).Is (r * 2 ^ ((e : Int) - 127)) s := by
  rw [Machine.mxScale, if_neg (by omega)]
  split
  case isTrue up =>
    have power : (2 : ℚ) ^ ((e : Int) - 127) = (2 ^ (e - 127) : Nat) := by
      rw [show (e : Int) - 127 = ((e - 127 : Nat) : Int) by omega, zpow_natCast]
      push_cast
      rfl
    have scaled := h.scale (a := 2 ^ (e - 127)) (b := 1) (by positivity) Nat.one_pos
    rwa [Nat.cast_one, div_one, ← power] at scaled
  case isFalse down =>
    have power : (2 : ℚ) ^ ((e : Int) - 127) = ((2 ^ (127 - e) : Nat) : ℚ)⁻¹ := by
      rw [show (e : Int) - 127 = -((127 - e : Nat) : Int) by omega, zpow_neg, zpow_natCast]
      push_cast
      rfl
    have scaled := h.scale (a := 1) (b := 2 ^ (127 - e)) Nat.one_pos (by positivity)
    rwa [Nat.cast_one, mul_one, div_eq_mul_inv, ← power] at scaled

/-- The accumulator's format is FP32. -/
theorem f32_isVectorFloat : IsVectorFloat 0 f32 := isVectorFloat_of_mem (by decide)

theorem eq_f32_of_mem {f : Flt} (h : (0, f) ∈ vectorFloats) : f = f32 := by
  simp only [vectorFloats, floatFormats, List.take, List.mem_cons, Prod.mk.injEq, List.not_mem_nil, or_false] at h
  obtain ⟨-, rfl⟩ := h.resolve_right (by simp)
  rfl

/-- What is exact is rounded to FP32, and its sum with the accumulator again (R41, R46). -/
theorem Exactly.accAdd {p : Flagged XR} {x : ℚ} {zs : Bool} (h : Exactly p x zs) {acc : Nat} (hacc : Finite f32 acc) :
    ∃ blk r : Nat × Nat, Gives f32 0 false x zs blk ∧
      (Finite f32 blk.1 → Gives f32 0 false (realOf f32 acc + realOf f32 blk.1) (signOf f32 acc && signOf f32 blk.1) r ∧
        Machine.accAdd acc p = (r.1, blk.2 ||| r.2)) := by
  have hf := f32_isVectorFloat.toIsFloatCode
  obtain ⟨v, s, rfl, is, zero⟩ := h
  refine ⟨toFlt f32 0 false v, toFlt f32 0 false (XR.add false (fltVal f32 acc) (fltVal f32 (toFlt f32 0 false v).1)).1,
    is.gives_toFlt hf (by decide) false zero, fun finite => ?_⟩
  generalize made : toFlt f32 0 false v = blk at finite ⊢
  obtain ⟨w, t, eq, sum, cancel⟩ := (fltVal_is hf hacc).add (fltVal_is hf finite) false
  refine ⟨?_, by simp [Machine.accAdd, made, eq]⟩
  rw [eq]
  refine sum.gives_toFlt hf (by decide) false fun none => (cancel none).trans ?_
  cases signOf f32 acc <;> cases signOf f32 blk.1 <;> rfl

end Sys2Proof
end

section
/-!
PROOFS. A block of a float or MX routine (R36, R41), and values rescaled and quantised (R50, R51).
-/
namespace Sys2Proof

open Machine

/-- An element of a float routine or of an MX routine is one of the float format behind its code (R36). -/
theorem elemVal_routine {c fa ri : Nat} {ga : Flt} (hg : IsFloatCode fa ga) (h : ri = 0 ∧ c = fa ∨ ri = 1 ∧ 3 ≤ fa ∧ c = fa + 0xD) {x : Nat}
    (hx : Finite ga x) : (elemVal c x).Is (realOf ga x) (signOf ga x) := by
  have plain := hg.plain
  have base : fltOf (mxBase c) = some ga := by
    rcases h with ⟨-, rfl⟩ | ⟨-, le, rfl⟩
    · rw [mxBase, if_pos (by omega), hg.code]
    · rw [mxBase, if_neg (by omega), if_pos (by omega), Nat.add_sub_cancel, hg.code]
  simp only [elemVal, base]
  exact fltVal_is hg hx

theorem product_is {ri fa fb ca cb : Nat} {ga gb : Flt} (ha : IsFloatCode fa ga) (hb : IsFloatCode fb gb)
    (routine : ri = 0 ∧ ca = fa ∧ cb = fb ∨ ri = 1 ∧ 3 ≤ fa ∧ 3 ≤ fb ∧ ca = fa + 0xD ∧ cb = fb + 0xD) {x y : Nat} (hx : Finite ga x)
    (hy : Finite gb y) :
    ∃ v, product ri ca cb (Int.ofNat x) (Int.ofNat y) = (v, 0) ∧ v.Is (realOf ga x * realOf gb y) (signOf ga x != signOf gb y) := by
  rw [product, if_neg (by omega)]
  exact (elemVal_routine (ri := ri) ha (by omega) hx).mul (elemVal_routine (ri := ri) hb (by omega) hy)

/-- A block's exact sum, times its scales (R36). -/
theorem scaledBlock_exactly {p : Flagged XR} {x : ℚ} {zs : Bool} (h : Exactly p x zs) {ri ea eb : Nat}
    (scales : ri = 0 ∧ ea = 127 ∧ eb = 127 ∨ ri = 1 ∧ ea < 255 ∧ eb < 255) :
    Exactly (if ri = 1 then (mxScale eb (mxScale ea p.1), p.2) else p) (x * 2 ^ ((ea : Int) - 127) * 2 ^ ((eb : Int) - 127)) zs := by
  rcases scales with ⟨rfl, rfl, rfl⟩ | ⟨rfl, hea, heb⟩
  · simpa using h
  · obtain ⟨v, s, rfl, is, zero⟩ := h
    rw [if_pos rfl]
    refine ⟨_, s, rfl, (is.mxScale hea).mxScale heb, fun none => zero ?_⟩
    simpa [zpow_ne_zero] using none

theorem blockElem_routine {fa fb ri ca cb ea eb acc : Nat} {ga gb : Flt} (hacc : Finite f32 acc) (ha : IsFloatCode fa ga)
    (hb : IsFloatCode fb gb) {xs ys : List Nat} (hxs : ∀ x ∈ xs, Finite ga x) (hys : ∀ y ∈ ys, Finite gb y)
    (routine : ri = 0 ∧ ca = fa ∧ cb = fb ∧ ea = 127 ∧ eb = 127 ∨
      ri = 1 ∧ 3 ≤ fa ∧ 3 ≤ fb ∧ ca = fa + 0xD ∧ cb = fb + 0xD ∧ ea < 255 ∧ eb < 255) :
    ∃ blk r : Nat × Nat,
      Gives f32 0 false (((xs.zip ys).map fun p => realOf ga p.1 * realOf gb p.2).sum * 2 ^ ((ea : Int) - 127) * 2 ^ ((eb : Int) - 127))
        ((xs.zip ys).all fun p => signOf ga p.1 != signOf gb p.2) blk ∧
      (Finite f32 blk.1 → Gives f32 0 false (realOf f32 acc + realOf f32 blk.1) (signOf f32 acc && signOf f32 blk.1) r ∧
        blockElem ri ca cb ea eb (xs.map Int.ofNat) (ys.map Int.ofNat) acc = (r.1, blk.2 ||| r.2)) := by
  have bank : intBank ri = false := by rcases routine with ⟨rfl, -⟩ | ⟨rfl, -⟩ <;> rfl
  have products : ∀ p ∈ xs.zip ys, ∃ v, product ri ca cb (Int.ofNat p.1) (Int.ofNat p.2) = (v, 0) ∧
      v.Is (realOf ga p.1 * realOf gb p.2) (signOf ga p.1 != signOf gb p.2) := fun p hp =>
    product_is ha hb (by omega) (hxs _ (List.of_mem_zip hp).1) (hys _ (List.of_mem_zip hp).2)
  have scaled := scaledBlock_exactly (blockSum_exactly products) (ri := ri) (ea := ea) (eb := eb) (by omega)
  have zip : ((xs.map Int.ofNat).zip (ys.map Int.ofNat)).map (fun p => product ri ca cb p.1 p.2) =
      (xs.zip ys).map fun p => product ri ca cb (Int.ofNat p.1) (Int.ofNat p.2) := by rw [List.zip_map, List.map_map]; rfl
  rw [blockElem, bank, if_neg (by simp), zip]
  exact scaled.accAdd hacc

/-- s·n + b, rounded once (R50). -/
theorem gives_rescale {c rm s b : Nat} {g : Flt} (hg : IsFloatCode c g) (hs : Finite f32 s) (hb : Finite f32 b) (hrm : rm < 5) (n : Int)
    (sat : Bool) : Gives g rm sat (n * realOf f32 s + realOf f32 b)
      (if (decide (n < 0) != signOf f32 s) = signOf f32 b then signOf f32 b else rm == 3) (rescale c rm sat (.ofInt n) (s, b)) := by
  have hf := f32_isVectorFloat.toIsFloatCode
  have exact' := (fma_exactly (ofInt_is n) (fltVal_is hf hs) (fltVal_is hf hb) (rm == 3)).finish hg hrm sat
  rw [rescale]
  convert exact' using 1
  split
  case isTrue h => exact h.symm
  case isFalse => rfl

theorem sign_div_natAbs (n : Int) : ((if n < 0 then -1 else 1 : Int) : ℚ) / (n.natAbs : ℚ) = 1 / n := by
  rw [Nat.cast_natAbs]
  split
  case isTrue h => rw [abs_of_neg h]; push_cast; rw [neg_div_neg_eq]
  case isFalse h => rw [abs_of_nonneg (not_lt.1 h)]; push_cast; rfl

/-- (x - b) / s, rounded to an integer (R51). -/
theorem quantInt_eq {dst rm s b xb : Nat} {lo hi : Int} {x : XR} {r : ℚ} {sx : Bool} (hs : Finite f32 s) (hb : Finite f32 b) (hx : x.Is r sx) :
    (realOf f32 s = 0 → quantInt dst rm lo hi (s, b) xb x = (0, 0)) ∧
    (realOf f32 s ≠ 0 → ∃ m : Nat, Rounded rm (decide ((r - realOf f32 b) / realOf f32 s < 0)) |(r - realOf f32 b) / realOf f32 s| m ∧
      quantInt dst rm lo hi (s, b) xb x = (if (r - realOf f32 b) / realOf f32 s < 0 then -(m : Int) else m, 0)) := by
  have hf := f32_isVectorFloat.toIsFloatCode
  obtain ⟨n, d, z, rfl, hd, rfl, -⟩ := hx
  obtain ⟨sn, sd, sz, seq, hsd, sreal, -⟩ := fltVal_is hf hs
  obtain ⟨bn, bd, bz, beq, hbd, breal, -⟩ := fltVal_is hf hb
  have pos : (sd : ℚ) ≠ 0 := by exact_mod_cast hsd.ne'
  obtain ⟨dpos, diff⟩ := qadd_spec n hd (-bn) hbd
  have eq : quantInt dst rm lo hi (s, b) xb (.fin n d z) = if sn = 0 then (0, 0) else
      (roundInt rm ((qadd n d (-bn) bd).1 * sd * (if sn < 0 then -1 else 1)) ((qadd n d (-bn) bd).2 * sn.natAbs), 0) := by
    simp only [quantInt, seq, beq]
    simp
  rw [← sreal, ← breal, eq]
  refine ⟨fun zero => if_pos (by simpa [pos] using zero), fun nonzero => ?_⟩
  have hsn : sn ≠ 0 := by rintro rfl; simp at nonzero
  obtain ⟨m, rounded, value⟩ := rounded_roundInt rm ((qadd n d (-bn) bd).1 * sd * (if sn < 0 then -1 else 1))
    (d := (qadd n d (-bn) bd).2 * sn.natAbs) (Nat.mul_pos dpos (Int.natAbs_pos.2 hsn))
  have quotient : (((qadd n d (-bn) bd).1 * sd * (if sn < 0 then -1 else 1) : Int) : ℚ) / ((qadd n d (-bn) bd).2 * sn.natAbs : Nat) =
      ((n : ℚ) / d - bn / bd) / (sn / sd) := by
    rw [sub_eq_add_neg, ← neg_div, ← Int.cast_neg, ← diff, Int.cast_mul, Nat.cast_mul, mul_div_mul_comm, sign_div_natAbs, Int.cast_mul,
      Int.cast_natCast, one_div, div_div_eq_mul_div]
    ring
  rw [quotient] at rounded value
  rw [if_neg hsn, value]
  exact ⟨m, rounded, rfl⟩

end Sys2Proof
end

section
/-!
PROOFS. The table entry of a channel (R51): its greatest magnitude, its least and greatest element, and an offset that FP32 holds exactly.
-/
namespace Sys2Proof

open Machine

/-! ## Elements that FP32 holds exactly -/

/-- Every finite value of a format with no more fraction bits and no lower or higher values is one of FP32. -/
structure InF32 (h : Flt) : Prop where
  frac : h.fb ≤ 23
  low : h.bias + h.fb ≤ 150
  high : magVal h h.maxCode ≤ magVal f32 f32.maxCode

theorem inF32_of_mem {ty : Nat} {h : Flt} (mem : (ty, h) ∈ vectorFloats) : InF32 h := by
  simp only [vectorFloats, floatFormats, List.take, List.mem_cons, Prod.mk.injEq, List.not_mem_nil, or_false] at mem
  rcases mem with ⟨rfl, rfl⟩ | ⟨rfl, rfl⟩ | ⟨rfl, rfl⟩
  · exact ⟨by decide, by decide, le_rfl⟩
  · exact ⟨by decide, by decide, by norm_num [magVal, f32]⟩
  · exact ⟨by decide, by decide, by norm_num [magVal, f32]⟩

/-- Such a value is a whole number of the quantum that FP32 has in its binade. -/
theorem InF32.whole {h : Flt} (hh : InF32 h) {x : Nat} {e : Int} (lo : (2 : ℚ) ^ e ≤ |realOf h x|) :
    ∃ k : Nat, |realOf h x| / 2 ^ (max e (1 - (f32.bias : Int)) - f32.fb) = k := by
  have two : (2 : ℚ) ≠ 0 := by norm_num
  obtain ⟨k, m, eq, lt, low⟩ := exists_binade h (magOf h x)
  have frac := hh.frac
  have least := hh.low
  rw [abs_realOf, eq, magVal_binade h lt.le low] at lo ⊢
  have below : (m : ℚ) * 2 ^ (1 - (h.bias : Int) + k - h.fb) < 2 ^ ((h.fb + 1 : Nat) + (1 - (h.bias : Int) + k - h.fb)) := by
    rw [zpow_add₀ two, zpow_natCast]
    gcongr
    exact_mod_cast lt
  have binade := (zpow_lt_zpow_iff_right₀ (by norm_num : (1 : ℚ) < 2)).1 (lo.trans_lt below)
  have f32bias : f32.bias = 127 := rfl
  have f32frac : f32.fb = 23 := rfl
  have fine : 0 ≤ (1 - (h.bias : Int) + k - h.fb) - (max e (1 - (f32.bias : Int)) - f32.fb) := by
    rw [f32bias, f32frac]
    push_cast at binade
    omega
  refine ⟨m * 2 ^ ((1 - (h.bias : Int) + k - h.fb) - (max e (1 - (f32.bias : Int)) - f32.fb)).toNat, ?_⟩
  rw [mul_div_assoc, ← zpow_sub₀ two, zpow_toNat fine]
  push_cast
  rfl

/-- A whole number is rounded to itself. -/
theorem rounded_nearest_whole {neg : Bool} {k m : Nat} (h : Rounded 0 neg k m) : m = k := by
  have near := abs_le.1 h.1
  have up : (m : ℚ) < (k + 1 : Nat) := by push_cast; linarith
  have down : (k : ℚ) < (m + 1 : Nat) := by push_cast; linarith
  have := Nat.cast_lt.1 up
  have := Nat.cast_lt.1 down
  omega

theorem realOf_eq_of_abs {f : Flt} {x : Nat} {r : ℚ} (abs : |realOf f x| = |r|) (sign : signOf f x = decide (r < 0)) : realOf f x = r := by
  rw [abs_realOf] at abs
  rw [realOf_eq, sign, abs]
  split
  case isTrue h => rw [abs_of_neg (of_decide_eq_true h), neg_neg]
  case isFalse h => exact abs_of_nonneg (not_lt.1 (by simpa using h))

/-- An element is kept exactly as an FP32 offset. -/
theorem toFlt_f32_exact {ty x : Nat} {h : Flt} (mem : (ty, h) ∈ vectorFloats) (hx : Finite h x) :
    Finite f32 (toFlt f32 0 false (elemVal ty x)).1 ∧ realOf f32 (toFlt f32 0 false (elemVal ty x)).1 = realOf h x := by
  have hf := f32_isVectorFloat.toIsFloatCode
  have hh := inF32_of_mem mem
  obtain ⟨rounds, zero⟩ := ((isVectorFloat_of_mem mem).elem hx).gives_toFlt hf (show 0 < 5 by decide) false fun _ => rfl
  generalize toFlt f32 0 false (elemVal ty x) = r at rounds zero
  rcases eq_or_ne (realOf h x) 0 with none | some
  · rw [zero none, none]
    cases signOf h x <;> exact ⟨⟨by decide, by decide⟩, by norm_num [realOf, signOf, f32]⟩
  · have pos : 0 < |realOf h x| := abs_pos.2 some
    have lo := Int.zpow_log_le_self (b := 2) (by norm_num) pos
    have hi := Int.lt_zpow_succ_log_self (b := 2) (by norm_num) |realOf h x|
    push_cast at lo hi
    obtain ⟨m, rounded, fits, -⟩ := rounds some _ lo hi
    obtain ⟨k, whole⟩ := hh.whole lo
    rw [whole] at rounded
    rw [rounded_nearest_whole rounded, ← whole, div_mul_cancel₀ _ (by positivity)] at fits
    have le : |realOf h x| ≤ realOf f32 f32.maxCode := by
      rw [abs_realOf, realOf_of_lt hf.max]
      exact ((magVal_strictMono h).monotone hx.2).trans hh.high
    obtain ⟨finite, sign, abs, -⟩ := fits le
    exact ⟨finite, realOf_eq_of_abs abs sign⟩

end Sys2Proof
end

section
/-!
PROOFS. The table entry that calibration makes of a channel's elements (R51).
-/
namespace Sys2Proof

open Machine

/-- A fold whose state stands for the item with the greatest key seen so far ends with the greatest of all. -/
theorem foldl_keeps_greatest {α β : Type} {key : α → ℚ} {stands : β → α → Prop} {step : β → α → β} {l : List α}
    (keeps : ∀ a m, ∀ x ∈ l, stands a m → stands (step a x) m ∧ key x ≤ key m ∨ stands (step a x) x ∧ key m ≤ key x) {a : β} {m : α}
    (start : stands a m) : ∃ g ∈ m :: l, stands (l.foldl step a) g ∧ ∀ x ∈ m :: l, key x ≤ key g := by
  induction l generalizing a m with
  | nil => exact ⟨m, by simp, start, by simp⟩
  | cons x l ih =>
    have rest : ∀ a m, ∀ y ∈ l, stands a m → stands (step a y) m ∧ key y ≤ key m ∨ stands (step a y) y ∧ key m ≤ key y :=
      fun a m y hy => keeps a m y (by simp [hy])
    rw [List.foldl_cons]
    rcases keeps a m x (by simp) start with ⟨stay, le⟩ | ⟨move, le⟩
    · obtain ⟨g, mem, is, top⟩ := ih rest stay
      refine ⟨g, by simp at mem ⊢; tauto, is, ?_⟩
      simp only [List.forall_mem_cons] at top ⊢
      exact ⟨top.1, le.trans top.1, top.2⟩
    · obtain ⟨g, mem, is, top⟩ := ih rest move
      refine ⟨g, List.mem_cons_of_mem _ mem, is, ?_⟩
      simp only [List.forall_mem_cons] at top ⊢
      exact ⟨le.trans top.1, top.1, top.2⟩

/-! ## A channel's elements -/

/-- The greater of a magnitude and that of an element. -/
def greaterMag (a : Int × Nat) : XR → Int × Nat
  | .fin n d _ => if a.1 * d < n.natAbs * a.2 then ((n.natAbs : Int), d) else a
  | _ => a

/-- `a` is the magnitude of the element `m`. -/
def IsMagOf (h : Flt) (a : Int × Nat) (m : Nat) : Prop := 0 < a.2 ∧ (a.1 : ℚ) / a.2 = |realOf h m|

/-- The table entry of finite elements under a symmetric integer format. -/
theorem calibrate_symmetric {dst : Nat} (sym : symmetric dst = true) {x : XR} {xs : List XR} (finite : ∀ y ∈ x :: xs, y.rat.isSome = true) :
    calibrate dst (x :: xs) =
      let m := (x :: xs).foldl greaterMag (0, 1)
      let r := toFlt f32 0 false (.fin m.1 (m.2 * if dst = 8 then 32767 else if dst = 9 ∨ dst = 0x16 then 127 else 7) false)
      ((r.1, 0), r.2) := by
  rw [calibrate, List.filter_eq_self.2 finite]
  simp only [if_pos sym]
  rfl

/-- The lesser of two elements, with -0 below +0. -/
def lesser (a x : XR) : XR := if XR.below x a then x else a

/-- The greater of two elements, with +0 above -0. -/
def greater (a x : XR) : XR := if XR.below a x then x else a

/-- The table entry of finite elements under an asymmetric integer format, from their least and greatest value. -/
theorem calibrate_asymmetric {dst : Nat} (asym : symmetric dst = false) {x : XR} {xs : List XR} (finite : ∀ y ∈ x :: xs, y.rat.isSome = true)
    {n₁ n₂ : Int} {d₁ d₂ : Nat} {z₁ z₂ : Bool} (least : (x :: xs).foldl lesser x = .fin n₁ d₁ z₁)
    (greatest : (x :: xs).foldl greater x = .fin n₂ d₂ z₂) :
    calibrate dst (x :: xs) =
      let b := (toFlt f32 0 false (.fin n₁ d₁ z₁)).1
      let r := toFlt f32 0 false (.fin (qadd n₂ d₂ (-n₁) d₁).1 ((qadd n₂ d₂ (-n₁) d₁).2 * (2 ^ widthOf dst - 1)) false)
      if (qadd n₂ d₂ (-n₁) d₁).1 = 0 then ((0, b), fCONST) else ((r.1, b), r.2) := by
  change (x :: xs).foldl (fun a x => if XR.below x a then x else a) x = _ at least
  change (x :: xs).foldl (fun a x => if XR.below a x then x else a) x = _ at greatest
  rw [calibrate, List.filter_eq_self.2 finite]
  simp only [asym, Bool.false_eq_true, if_false, least, greatest]

theorem Machine.XR.Is.rat_isSome {x : XR} {r : ℚ} {s : Bool} (h : x.Is r s) : x.rat.isSome = true := by
  obtain ⟨n, d, z, rfl, -⟩ := h
  rfl

/-- A quotient of a magnitude by a positive whole number, rounded to FP32: its zero is +0. -/
theorem gives_quotient {n : Int} {d q : Nat} {r : ℚ} (hd : 0 < d) (hq : 0 < q) (real : (n : ℚ) / d = r) (nonneg : 0 ≤ r) :
    Gives f32 0 false (r / q) false (toFlt f32 0 false (.fin n (d * q) false)) := by
  have pos : (0 : ℚ) < d := by exact_mod_cast hd
  have hn : ¬n < 0 := fun neg => nonneg.not_gt (real ▸ div_neg_of_neg_of_pos (by exact_mod_cast neg) pos)
  have is := fin_is (n := n) (z := false) (Nat.mul_pos hd hq)
  rw [Nat.cast_mul, ← div_div, real] at is
  exact is.gives_toFlt f32_isVectorFloat.toIsFloatCode (by decide) false fun _ => by simp [hn]

section

variable {ty : Nat} {h : Flt} (hv : IsVectorFloat ty h)
include hv

theorem greaterMag_eq {a : Int × Nat} (ha : 0 < a.2) {x : Nat} (hx : Finite h x) :
    (a.1 : ℚ) / a.2 < |realOf h x| ∧ IsMagOf h (greaterMag a (elemVal ty x)) x ∨
    |realOf h x| ≤ (a.1 : ℚ) / a.2 ∧ greaterMag a (elemVal ty x) = a := by
  obtain ⟨n, d, z, eq, hd, real, -⟩ := hv.elem hx
  have posa : (0 : ℚ) < a.2 := by exact_mod_cast ha
  have posd : (0 : ℚ) < d := by exact_mod_cast hd
  have mag : ((n.natAbs : Int) : ℚ) / d = |realOf h x| := by rw [← real, abs_div, abs_of_pos posd, Int.natCast_natAbs, Int.cast_abs]
  have less : a.1 * d < n.natAbs * a.2 ↔ (a.1 : ℚ) / a.2 < |realOf h x| := by
    rw [← mag, div_lt_div_iff₀ posa posd, ← @Int.cast_lt ℚ]
    simp only [Int.cast_mul, Int.cast_natCast]
  rw [eq, greaterMag]
  split
  case isTrue gt => exact .inl ⟨less.1 gt, hd, mag⟩
  case isFalse le => exact .inr ⟨not_lt.1 fun gt => le (less.2 gt), rfl⟩

theorem lesser_elem {x y : Nat} (hx : Finite h x) (hy : Finite h y) :
    lesser (elemVal ty x) (elemVal ty y) = elemVal ty x ∧ realOf h x ≤ realOf h y ∨
    lesser (elemVal ty x) (elemVal ty y) = elemVal ty y ∧ realOf h y ≤ realOf h x := by
  rw [lesser, (hv.elem hy).below_eq (hv.elem hx)]
  split
  case isTrue below => exact .inr ⟨rfl, by grind⟩
  case isFalse above => exact .inl ⟨rfl, by grind⟩

theorem greater_elem {x y : Nat} (hx : Finite h x) (hy : Finite h y) :
    greater (elemVal ty x) (elemVal ty y) = elemVal ty x ∧ realOf h y ≤ realOf h x ∨
    greater (elemVal ty x) (elemVal ty y) = elemVal ty y ∧ realOf h x ≤ realOf h y := by
  rw [greater, (hv.elem hx).below_eq (hv.elem hy)]
  split
  case isTrue below => exact .inr ⟨rfl, by grind⟩
  case isFalse above => exact .inl ⟨rfl, by grind⟩

variable {x : Nat} {xs : List Nat} (finite : ∀ y ∈ x :: xs, Finite h y)
include finite

theorem foldl_greaterMag : ∃ m ∈ x :: xs, IsMagOf h (((x :: xs).map (elemVal ty)).foldl greaterMag (0, 1)) m ∧
    ∀ y ∈ x :: xs, |realOf h y| ≤ |realOf h m| := by
  have head : IsMagOf h (greaterMag (0, 1) (elemVal ty x)) x := by
    rcases greaterMag_eq hv (a := (0, 1)) Nat.one_pos (finite x (by simp)) with ⟨-, is⟩ | ⟨le, eq⟩
    · exact is
    · rw [eq]
      exact ⟨Nat.one_pos, le.antisymm' (by simp)⟩
  rw [List.foldl_map, List.foldl_cons]
  refine foldl_keeps_greatest (key := fun y => |realOf h y|) (fun a m y hy is => ?_) head
  rcases greaterMag_eq hv is.1 (finite y (by simp [hy])) with ⟨lt, move⟩ | ⟨le, stay⟩
  · exact .inr ⟨move, (is.2 ▸ lt).le⟩
  · rw [stay]
    exact .inl ⟨is, is.2 ▸ le⟩

theorem rat_isSome_map : ∀ v ∈ (x :: xs).map (elemVal ty), v.rat.isSome = true :=
  List.forall_mem_map.2 fun y hy => (hv.elem (finite y hy)).rat_isSome

omit hv in
/-- A fold that keeps one of two elements, that with the greater key, ends with an element of greatest key. -/
theorem foldl_picks {pick : XR → XR → XR} {key : Nat → ℚ} (picks : ∀ {a b}, Finite h a → Finite h b →
      pick (elemVal ty a) (elemVal ty b) = elemVal ty a ∧ key b ≤ key a ∨ pick (elemVal ty a) (elemVal ty b) = elemVal ty b ∧ key a ≤ key b) :
    ∃ m ∈ x :: xs, ((x :: xs).map (elemVal ty)).foldl pick (elemVal ty x) = elemVal ty m ∧ ∀ y ∈ x :: xs, key y ≤ key m := by
  rw [List.foldl_map]
  have keeps : ∀ a m, ∀ y ∈ x :: xs, a = elemVal ty m ∧ Finite h m →
      (pick a (elemVal ty y) = elemVal ty m ∧ Finite h m) ∧ key y ≤ key m ∨
      (pick a (elemVal ty y) = elemVal ty y ∧ Finite h y) ∧ key m ≤ key y := by
    rintro _ m y hy ⟨rfl, hm⟩
    exact (picks hm (finite y hy)).imp (fun ⟨eq, le⟩ => ⟨⟨eq, hm⟩, le⟩) fun ⟨eq, le⟩ => ⟨⟨eq, finite y hy⟩, le⟩
  obtain ⟨m, mem, ⟨eq, -⟩, top⟩ := foldl_keeps_greatest keeps ⟨rfl, finite x (by simp)⟩
  exact ⟨m, by simpa using mem, eq, fun y hy => top y (by simp [hy])⟩

/-- R51, symmetric: the greatest magnitude over the greatest code. -/
theorem calibrate_symmetric_elems {dst qmax : Nat} (mem : (dst, qmax) ∈ [(0x08, 32767), (0x09, 127), (0x16, 127), (0x0B, 7), (0x17, 7)]) :
    ∃ m ∈ x :: xs, ∃ s : Nat × Nat, (∀ y ∈ x :: xs, |realOf h y| ≤ |realOf h m|) ∧ Gives f32 0 false (|realOf h m| / qmax) false s ∧
      calibrate dst ((x :: xs).map (elemVal ty)) = ((s.1, 0), s.2) := by
  obtain ⟨m, hm, ⟨pos, mag⟩, top⟩ := foldl_greaterMag hv finite
  have code : symmetric dst = true ∧ 0 < qmax ∧ (if dst = 8 then 32767 else if dst = 9 ∨ dst = 0x16 then 127 else 7) = qmax := by
    simp only [List.mem_cons, Prod.mk.injEq, List.not_mem_nil, or_false] at mem
    rcases mem with ⟨rfl, rfl⟩ | ⟨rfl, rfl⟩ | ⟨rfl, rfl⟩ | ⟨rfl, rfl⟩ | ⟨rfl, rfl⟩ <;> decide
  obtain ⟨sym, hq, greatest⟩ := code
  have entry := calibrate_symmetric sym (rat_isSome_map hv finite)
  rw [greatest] at entry
  exact ⟨m, hm, _, top, gives_quotient pos hq mag (abs_nonneg _), entry⟩

/-- R51, asymmetric: the least element, and the width of the range over that of the codes. -/
theorem calibrate_asymmetric_elems (hmem : (ty, h) ∈ vectorFloats) {dst w : Nat} (mem : (dst, w) ∈ [(0x0A, 8), (0x0C, 4)]) :
    ∃ lo ∈ x :: xs, ∃ hi ∈ x :: xs, ∃ b, ∃ s : Nat × Nat, (∀ y ∈ x :: xs, realOf h lo ≤ realOf h y ∧ realOf h y ≤ realOf h hi) ∧ Finite f32 b ∧
      realOf f32 b = realOf h lo ∧ Gives f32 0 false ((realOf h hi - realOf h lo) / (2 ^ w - 1)) false s ∧
      calibrate dst ((x :: xs).map (elemVal ty)) = ((s.1, b), if realOf h lo = realOf h hi then fCONST else s.2) := by
  have code : symmetric dst = false ∧ widthOf dst = w ∧ 0 < 2 ^ w - 1 := by
    simp only [List.mem_cons, Prod.mk.injEq, List.not_mem_nil, or_false] at mem
    rcases mem with ⟨rfl, rfl⟩ | ⟨rfl, rfl⟩ <;> decide
  obtain ⟨asym, width, hq⟩ := code
  obtain ⟨lo, hlo, least, bottom⟩ := foldl_picks finite (key := fun y => -realOf h y) fun ha hb => by
    simpa only [neg_le_neg_iff] using lesser_elem hv ha hb
  obtain ⟨hi, hhi, greatest, top⟩ := foldl_picks finite (greater_elem hv)
  obtain ⟨exactly, offset⟩ := toFlt_f32_exact hmem (finite lo hlo)
  obtain ⟨n₁, d₁, z₁, eq₁, hd₁, real₁, -⟩ := hv.elem (finite lo hlo)
  obtain ⟨n₂, d₂, z₂, eq₂, hd₂, real₂, -⟩ := hv.elem (finite hi hhi)
  obtain ⟨pos, diff⟩ := qadd_spec n₂ hd₂ (-n₁) hd₁
  rw [Int.cast_neg, neg_div, ← sub_eq_add_neg, real₁, real₂] at diff
  have gives := gives_quotient pos hq diff (sub_nonneg.2 (top lo hlo))
  rw [Nat.cast_sub Nat.one_le_two_pow, Nat.cast_pow, Nat.cast_ofNat, Nat.cast_one] at gives
  have entry := calibrate_asymmetric asym (rat_isSome_map hv finite) (least.trans eq₁) (greatest.trans eq₂)
  rw [← eq₁, width] at entry
  have none : (qadd n₂ d₂ (-n₁) d₁).1 = 0 ↔ realOf h lo = realOf h hi := by
    rw [eq_comm (a := realOf h lo), ← sub_eq_zero (a := realOf h hi), ← diff, div_eq_zero_iff, Int.cast_eq_zero]
    simp [pos.ne']
  refine ⟨lo, hlo, hi, hhi, _, _, fun y hy => ⟨neg_le_neg_iff.1 (bottom y hy), top y hy⟩, exactly, offset, gives, entry.trans ?_⟩
  by_cases equal : realOf h lo = realOf h hi
  · have zero := gives.2 (by rw [equal, sub_self, zero_div])
    rw [if_pos (none.2 equal), if_pos equal, zero]
    rfl
  · rw [if_neg fun h => equal (none.1 h), if_neg equal]

end

end Sys2Proof
end

section
/-!
PROOFS. O13: float arithmetic.
-/
namespace Sys2Proof

open Machine

namespace IsVectorFloat

variable {ty : Nat} {f : Flt} (h : IsVectorFloat ty f) {a b : Nat}
include h

/-- With a NaN operand, VMIN and VMAX give the canonical NaN (R292). -/
theorem vPick_nan {c : Nat} (hc : f.nan = some c) (nan : elemVal ty a = .nan ∨ elemVal ty b = .nan) (greatest : Bool) :
    vPick ty greatest a b = c := by
  rw [vPick, if_pos h.isFlt, if_pos nan, h.nanOf hc]

/-- With a NaN operand, only "not equal" holds (R294). -/
theorem vCmp_nan (nan : elemVal ty a = .nan ∨ elemVal ty b = .nan) (k : Nat) :
    vCmp ty k a b = if k = 1 then 2 ^ (f.eb + f.fb + 1) - 1 else 0 := by
  rw [vCmp, if_pos h.isFlt, if_pos nan, h.width]
  simp only [beq_iff_eq]

theorem nanOperand {c : Nat} (hc : f.nan = some c) (fn : Nat) (nan : elemVal ty a = .nan) :
    vAdd ty fn a b = (c, 0) ∧ vAdd ty fn b a = (c, 0) ∧ vSub ty fn a b = (c, 0) ∧ vMul ty fn a b = (c, 0) ∧ vMul ty fn b a = (c, 0) ∧
    vPick ty true a b = c ∧ vPick ty false b a = c ∧ vAbs ty a = (c, 0) ∧ vNeg ty a = (c, 0) ∧
    vCmp ty 1 a b = 2 ^ (f.eb + f.fb + 1) - 1 ∧ ∀ k, k < 6 → k ≠ 1 → vCmp ty k a b = 0 := by
  have finish := h.finish_nan hc fn false
  refine ⟨?_, ?_, ?_, ?_, ?_, h.vPick_nan hc (.inl nan) true, h.vPick_nan hc (.inr nan) false, ?_, ?_, ?_, fun k _ hk => ?_⟩
  · rw [vAdd, if_pos h.isFlt, nan, add_nan_left, finish]
  · rw [vAdd, if_pos h.isFlt, nan, add_nan_right, finish]
  · rw [vSub, if_pos h.isFlt, nan, add_nan_left, finish]
  · rw [vMul, if_pos h.isFlt, nan, mul_nan_left, finish]
  · rw [vMul, if_pos h.isFlt, nan, mul_nan_right, finish]
  · rw [vAbs, if_pos h.isFlt, if_pos nan, h.nanOf hc]
  · rw [vNeg, if_pos h.isFlt, if_pos nan, h.nanOf hc]
  · rw [h.vCmp_nan (.inl nan), if_pos rfl]
  · rw [h.vCmp_nan (.inl nan), if_neg hk]

end IsVectorFloat

/-- The value of a block with infinities or NaN, whose products set IV at most (R42). -/
theorem blockSum_special {ps : List (Flagged XR)} (flags : ∀ p ∈ ps, p.2 = 0 ∨ p.2 = fIV) :
    (.inf false ∈ ps.map (·.1) → .inf true ∈ ps.map (·.1) → blockSum ps = (.nan, fIV)) ∧
    (¬(.inf false ∈ ps.map (·.1) ∧ .inf true ∈ ps.map (·.1)) → .nan ∈ ps.map (·.1) →
      blockSum ps = (.nan, if ∃ p ∈ ps, p.2 = fIV then fIV else 0)) ∧
    ∀ s, .inf s ∈ ps.map (·.1) → .inf (!s) ∉ ps.map (·.1) → .nan ∉ ps.map (·.1) → blockSum ps = (.inf s, 0) := by
  rw [blockSum_eq, foldl_flags flags]
  refine ⟨fun pos neg => ?_, fun one nan => by rw [if_neg one, if_pos nan], fun s mem none number => ?_⟩
  · rw [if_pos ⟨pos, neg⟩]
    split <;> rfl
  · cases s with
    | false => rw [if_neg fun both => none both.2, if_neg number, if_pos mem]
    | true => rw [if_neg fun both => none both.1, if_neg number, if_neg (show .inf false ∉ ps.map (·.1) from none), if_pos mem]

/-- Settles O13: elements, blocks, rescaled and quantised values have an exact value (`XR.Is`, `Exactly`) that is rounded once; a table
entry comes from the extreme elements, which the folds of `calibrate` keep. -/
theorem floatArithmetic : Obligations.FloatArithmetic := by
  refine ⟨fun ty f mem fn a b d hfn ha hb hd => ?_, fun ty f c mem hc fn a b _ _ number => ?_,
    fun acc m p blk hp pos le => ⟨rfl, sumFloat_append hp pos le⟩, fun ps _ flags => blockSum_special flags,
    fun f mem acc fa fb ga gb hacc ha hb xs ys hxs hys _ _ ri ca cb ea eb routine => ?_,
    fun f g c mem hg s b rm hs hb hrm n sat => ?_, fun f ty h mem hmem xs some finite => ?_⟩
  · have h := isVectorFloat_of_mem mem
    exact ⟨h.gives_vAdd hfn ha hb, h.gives_vSub hfn ha hb, h.gives_vMul hfn ha hb, h.gives_vFma hfn ha hb hd,
      fun e v he hv => h.gives_vMacc hfn ha hd he hv, fun e => if_pos rfl, h.gives_recip hfn ha, h.vPick_least ha hb, h.vPick_greatest ha hb,
      fun k p hk => h.vCmp_eq ha hb hk, h.vAbs_eq ha, h.vNeg_eq ha⟩
  · have h := isVectorFloat_of_mem mem
    exact h.nanOperand hc fn (h.elem_nan number)
  · obtain rfl := eq_f32_of_mem mem
    exact blockElem_routine hacc (isFloatCode_of_mem ha) (isFloatCode_of_mem hb) hxs hys routine
  · obtain rfl := eq_f32_of_mem mem
    exact ⟨gives_rescale (isFloatCode_of_mem hg) hs hb hrm n sat, fun ty h hmem x hx dst w lo hi esc _ =>
      quantInt_eq hs hb ((isVectorFloat_of_mem hmem).elem hx)⟩
  · obtain rfl := eq_f32_of_mem mem
    obtain ⟨x, xs, rfl⟩ := List.exists_cons_of_ne_nil some
    have hv := isVectorFloat_of_mem hmem
    exact ⟨fun dst qmax code => calibrate_symmetric_elems hv finite code, fun dst w code => calibrate_asymmetric_elems hv finite hmem code⟩

end Sys2Proof
end

section
/-!
PROOFS. What a bundle of one slot does when it is first presented: the four examinations in order, and a slot that is predicated off
(R60, R424).
-/
namespace Sys2Proof.Laws

open Machine

/-- The bundle of slot `o` alone, its checks passed, must hold: the slot itself, its semaphores or the command port (R213, R257). -/
def mustHold (s : State) (o : SlotSem) : Bool :=
  o.hold (hooked s o) || !semRoom (hooked s o).cur (o.adds (hooked s o)) ||
    (o.port != 0 && decide (64 < ((hooked s o).unit (shown s o.i).curU).jobs.countP Job.engine + o.port))

/-- The machine after the bundle of slot `o` alone is first presented: an observed fault, a failed check or a fault of a hold is raised, in
this order; else it is held, or issues (R424). -/
def examined (s : State) (o : SlotSem) : State :=
  match (shown s o.i).faultOf (shown s o.i).curU (o.obs (shown s o.i)) with
  | some t => raised s o.i t
  | none =>
    match o.check (shown s o.i) with
    | some t => raised s o.i (o.fill (shown s o.i) t)
    | none =>
      match o.stuck (shown s o.i) with
      | some t => raised s o.i (o.fill (shown s o.i) t)
      | none => if mustHold s o then heldAt s o else issued s o

theorem presOf_of_pres_none {s : State} {o : SlotSem} (fresh : s.begin.cur.pres = none) :
    (s.begin.cur.pres.getD { addr := s.begin.cur.pc, stop := true, len := 1 + ([o].map fun o => o.i.syl.bytes.length).foldl (· + ·) 0
                             leaf0 := s.begin.cur.leafNext }) = presOf s o.i := by
  simp [fresh, presOf]

/-- A bundle that does not straddle the end of the innermost loop raises no fault for it (R208). -/
theorem not_straddles {s : State} {i : Instr} {l : Loop} {ls : List Loop} (loop : s.begin.cur.li = l :: ls)
    (inside : noStraddle s.begin.cur (1 + i.syl.bytes.length) = true) :
    ¬(l.start ≤ (presOf s i).addr ∧ (presOf s i).addr < l.stop ∧ l.stop < (presOf s i).addr + (presOf s i).len) := by
  simp only [noStraddle, loop, Bool.or_eq_true, decide_eq_true_eq] at inside
  simp only [presOf]
  omega

theorem runBundle_ready {s : State} {o : SlotSem} (ready : Ready s o.i o.q) : s.runBundle [o] = examined s o := by
  obtain ⟨fresh, live, -, -, inside⟩ := ready
  have live' : ([o].filter fun o : SlotSem => s.begin.cur.rq o.q) = [o] := by simp [live]
  have begun : s.begin.setCur { s.begin.cur with
      pres := some (presOf s o.i), grpFrom := s.begin.cur.grpFrom.or (some (presOf s o.i).addr) } = shown s o.i := rfl
  have started : (presOf s o.i).started = false := rfl
  have checked : (presOf s o.i).checked = false := rfl
  have entered : (presOf s o.i).entered = false := rfl
  have starts : ([o].filter fun o : SlotSem => o.start.isSome).foldl (fun s o => (o.start.getD id) s) (o.hook (shown s o.i)) = hooked s o := by
    cases h : o.start <;> simp [hooked, h]
  have starting : (!([o].filter fun o : SlotSem => o.start.isSome).isEmpty) = o.start.isSome := by cases h : o.start <;> simp [h]
  unfold State.runBundle examined
  simp only [presOf_of_pres_none fresh, begun]
  simp only [live', started, checked, entered, starts, starting, Bool.false_eq_true, if_false,
    List.flatMap_cons, List.flatMap_nil, List.append_nil, List.foldl_cons, List.foldl_nil, slotChecks_one, List.map_cons, List.map_nil,
    List.any_cons, List.any_nil, Bool.or_false, Bool.false_or, Bool.not_false, Bool.true_and, twoForPort_one, Bool.false_and, takeEffect_one]
  cases hf : (shown s o.i).faultOf (shown s o.i).curU (o.obs (shown s o.i)) with
  | some t => rfl
  | none =>
    cases hc : o.check (shown s o.i) with
    | some t => rfl
    | none =>
      simp only [Option.map_none]
      rw [if_neg]
      · cases hs : o.stuck (shown s o.i) with
        | some t => rfl
        | none =>
          simp only [Option.map_none, firstTrap, Nat.zero_add, ← List.countP_eq_length_filter]
          unfold mustHold
          split
          · next h => simp only [h]; rfl
          · rfl
      · cases loop : s.begin.cur.li with
        | nil => simp
        | cons l ls => simp only [decide_eq_false (not_straddles loop inside), Bool.false_and]; simp

/-- A bundle of one slot that is predicated off passes its examinations: only the sequencer's part is left (R60). -/
theorem runBundle_off {s : State} {o : SlotSem} (fresh : s.begin.cur.pres = none)
    (inside : noStraddle s.begin.cur (1 + o.i.syl.bytes.length) = true) (off : s.begin.cur.rq o.q = false) :
    s.runBundle [o] = (shown s o.i).finishBundle (presOf s o.i) [o.i] := by
  have dead : ([o].filter fun o : SlotSem => s.begin.cur.rq o.q) = [] := by simp [off]
  have begun : s.begin.setCur { s.begin.cur with
      pres := some (presOf s o.i), grpFrom := s.begin.cur.grpFrom.or (some (presOf s o.i).addr) } = shown s o.i := rfl
  have started : (presOf s o.i).started = false := rfl
  have checked : (presOf s o.i).checked = false := rfl
  unfold State.runBundle
  simp only [presOf_of_pres_none fresh, begun]
  simp only [dead, started, checked, Bool.false_eq_true, if_false, List.flatMap_nil, faultOf_nil, State.slotChecks, List.any_nil, Bool.not_false,
    Bool.true_and, Bool.and_true]
  rw [if_neg]
  · rfl
  · cases loop : s.begin.cur.li with
    | nil => simp
    | cons l ls => simp only [decide_eq_false (not_straddles loop inside)]; simp

theorem mustHold_eq_true {s : State} {o : SlotSem} : mustHold s o = true ↔
    o.hold (hooked s o) = true ∨ semRoom (hooked s o).cur (o.adds (hooked s o)) = false ∨
      (o.port ≠ 0 ∧ 64 < ((hooked s o).unit (shown s o.i).curU).jobs.countP Job.engine + o.port) := by
  simp [mustHold, or_assoc]

theorem fill_slotTrap {s : State} {o : SlotSem} {t : Trap} (own : t.engine = false) :
    o.fill (shown s o.i) t = slotTrap s o.i t := by
  simp [SlotSem.fill, own, slotTrap]

end Sys2Proof.Laws
end

section
/-!
PROOFS. O5, O15, O16, O17: predicates, the faults and waits before an issue, supervisor operations at task level.
-/
namespace Sys2Proof

open Machine Laws

/-- Settles O15: the first two of the examinations in `examined`. -/
theorem faultsAreRaisedBeforeIssue : Obligations.FaultsAreRaisedBeforeIssue := by
  refine ⟨fun i o s t slot level ready fault => ?_, fun i o s t slot level ready quiet failed own => ?_⟩ <;> obtain rfl := semOf_i slot
  · rw [exec_issue slot s level, State.issue1, runBundle_ready ready]
    simp only [examined, fault]
  · rw [exec_issue slot s level, State.issue1, runBundle_ready ready]
    simp only [examined, quiet, failed, fill_slotTrap own]

/-- Settles O16: the third of the examinations in `examined`. -/
theorem heldBundlesWait : Obligations.HeldBundlesWait := by
  intro i o s slot level ready quiet passed free wait
  obtain rfl := semOf_i slot
  rw [exec_issue slot s level, State.issue1, runBundle_ready ready]
  simp only [examined, quiet, passed, free, if_pos (mustHold_eq_true.2 wait)]

/-- Settles O5: with no slot live only the sequencer's part of the bundle is left, and that of a bundle that asks for nothing is `goOn`. -/
theorem predicatedOffHasNoEffect : Obligations.PredicatedOffHasNoEffect := by
  intro s i o slot level fresh after running inside off noEnd
  obtain rfl := semOf_i slot
  have plain : (shown s o.i).cur.after = .none := (after_shown s o.i).trans after
  rw [exec_issue slot s level, State.issue1, runBundle_off fresh inside off, finishBundle_plain _ _ _ plain rfl noEnd, shown_setCur]
  refine ⟨_, rfl, ?_, ?_⟩
  · simp [CtxFrame, goOn, running]
  · simp [goOn, running]

/-- At task level a supervisor operation takes PRIV with the mask of its slot (R68, R223). -/
theorem issuePriv_atTask {s : State} (task : s.cur.level = 0) (o : SlotSem) : s.issuePriv o =
    .next (s.enterTrap s.curU s.curB { cause := 4, reason := 3, dreason := 3, mask := 2 ^ o.i.slot } s.cur.pc) := if_pos task

/-- Settles O17: each of the operations is issued behind the check of the level. -/
theorem privilegedOperationsTrap : Obligations.PrivilegedOperationsTrap := by
  intro s qp sd f sa sb e rights csr off n index task
  simp only [List.forall_mem_cons, List.not_mem_nil, false_implies, implies_true, and_true]
  and_intros <;> exact issuePriv_atTask task _

end Sys2Proof
end

section
/-!
PROOFS. O7-O10: operations issue with the effect of their slot.
-/
namespace Sys2Proof

open Machine Laws

/-- An operation issues at the level it needs, whatever its slot: its bundle has passed the examinations. -/
theorem issues_of_level {sup : Bool} {i : Instr} (level : supervisorOp i = true → sup = true) : Issues sup i := by
  intro o slot s ok high
  rw [exec_issue slot s fun h => high (level h), issue1_issuable ok]

theorem issues_of_all_task {l : List Instr} (task : l.all (fun i => !supervisorOp i) = true) : ∀ i ∈ l, Issues false i := by
  intro i mem
  exact issues_of_level fun h => by simpa [h] using List.all_eq_true.1 task i mem

/-- Settles O7: no operation of the control class needs a level. -/
theorem controlOperationsIssue : Obligations.ControlOperationsIssue := by
  unfold Obligations.ControlOperationsIssue
  intros
  exact issues_of_all_task rfl _ ‹_›

/-- Settles O8: no operation of the copy, store and channel classes that a task may issue needs a level. -/
theorem tileOperationsIssue : Obligations.TileOperationsIssue := by
  refine ⟨?_, ?_, ?_⟩ <;> intros <;> exact issues_of_all_task rfl _ ‹_›

/-- Settles O9: no vector or matrix operation that a task may issue needs a level, nor do AUDMARK, AUDROOT and TRAP. -/
theorem arithmeticOperationsIssue : Obligations.ArithmeticOperationsIssue := by
  refine ⟨?_, ?_, ?_⟩ <;> intros <;> exact issues_of_all_task rfl _ ‹_›

/-- Settles O10: at the level that they need, these issue as every operation does. -/
theorem supervisorOperationsIssue : Obligations.SupervisorOperationsIssue := by
  unfold Obligations.SupervisorOperationsIssue
  intros
  exact issues_of_level fun _ => rfl

end Sys2Proof
end

section
/-!
PROOFS. O3: results land at their bound.
-/
namespace Sys2Proof

open Machine

theorem settle_of_no_shadow {c : Ctx} (none_open : c.shadow = []) : c.settle = c := by
  simp only [Ctx.settle, Ctx.settleWhere, none_open, List.filter_nil, List.foldl_nil]
  rw [← none_open]

theorem landWhere_due {c : Ctx} {f : Fly} {p : Fly → Bool} (one : c.fly = [f]) (due : p f = true) :
    c.landWhere p = { c.land1 f with fly := [] } := by
  simp [Ctx.landWhere, one, landSplit, due]

theorem landWhere_early {c : Ctx} {f : Fly} {p : Fly → Bool} (one : c.fly = [f]) (early : p f = false) : c.landWhere p = c := by
  simp only [Ctx.landWhere, one, landSplit, early, Bool.false_or, List.any_nil, Bool.false_eq_true, if_false, List.foldl_nil]
  rw [← one]

/-- A context that presents a bundle anew, with nothing in a shadow: what is due lands (R65). -/
theorem begin_of_no_shadow {c : Ctx} (fresh : c.pres = none) (none_open : c.shadow = []) :
    c.begin = c.landWhere fun f => decide (f.due ≤ c.bundleNo) := by
  have : (c.landWhere fun f => decide (f.due ≤ c.bundleNo)).shadow = [] := by rw [c.landsTo_landWhere]; exact none_open
  simp only [Ctx.begin, fresh, settle_of_no_shadow this]

/-- Settles O3: the only result in flight is landed when it is due, and stays in flight while it is not. -/
theorem resultsLandAtTheirBound : Obligations.ResultsLandAtTheirBound := by
  intro c n v b l fresh some_reg none_open one
  rw [begin_of_no_shadow fresh none_open]
  refine ⟨fun due => ?_, fun early => ?_⟩
  · rw [landWhere_due one (decide_eq_true due)]
    simp [Ctx.land1, Ctx.setReg, Ctx.ps, Nat.ne_of_gt some_reg, Ctx.setFlags]
  · rw [landWhere_early one (decide_eq_false (Nat.not_le.2 early))]
    exact ⟨rfl, rfl⟩

end Sys2Proof
end

section
/-!
PROOFS. O55: the bytes of an operation hold its syllable, and the syllable decodes to it (R55-R59).
-/
namespace Sys2Proof.Laws.RoundTrip

/-- Every operation decodes from its own syllable; an event has none. -/
theorem decodes_from_syl (i : Instr) : Statement i := by
  cases i with
  | add => exact add _ _ _ _
  | sub => exact sub _ _ _ _
  | and => exact and _ _ _ _
  | or => exact or _ _ _ _
  | xor => exact xor _ _ _ _
  | shl => exact shl _ _ _ _
  | shr => exact shr _ _ _ _
  | sar => exact sar _ _ _ _
  | mul => exact mul _ _ _ _
  | mulh => exact mulh _ _ _ _
  | mulhn => exact mulhn _ _ _ _
  | div => exact div _ _ _ _
  | divn => exact divn _ _ _ _
  | rem => exact rem _ _ _ _
  | remn => exact remn _ _ _ _
  | min => exact min _ _ _ _
  | max => exact max _ _ _ _
  | minn => exact minn _ _ _ _
  | maxn => exact maxn _ _ _ _
  | clz => exact clz _ _ _
  | ctz => exact ctz _ _ _
  | popc => exact popc _ _ _
  | andn => exact andn _ _ _ _
  | orn => exact orn _ _ _ _
  | addi => exact addi _ _ _ _
  | addiExt => exact addiExt _ _ _ _ _
  | andi => exact andi _ _ _ _
  | andiExt => exact andiExt _ _ _ _ _
  | ori => exact ori _ _ _ _
  | oriExt => exact oriExt _ _ _ _ _
  | xori => exact xori _ _ _ _
  | xoriExt => exact xoriExt _ _ _ _ _
  | shli => exact shli _ _ _ _
  | shliExt => exact shliExt _ _ _ _ _
  | shri => exact shri _ _ _ _
  | shriExt => exact shriExt _ _ _ _ _
  | sari => exact sari _ _ _ _
  | sariExt => exact sariExt _ _ _ _ _
  | muli => exact muli _ _ _ _
  | muliExt => exact muliExt _ _ _ _ _
  | movi => exact movi _ _ _
  | moviExt => exact moviExt _ _ _ _
  | movhi => exact movhi _ _ _
  | cmp => exact cmp _ _ _ _ _ _
  | cmpi => exact cmpi _ _ _ _ _ _
  | cmpiExt => exact cmpiExt _ _ _ _ _ _ _
  | sel => exact sel _ _ _ _ _
  | bfx => exact bfx _ _ _ _ _
  | bfxs => exact bfxs _ _ _ _ _
  | bfi => exact bfi _ _ _ _ _
  | lea => exact lea _ _ _ _ _
  | movs => exact movs _ _ _
  | br => exact br _ _
  | brExt => exact brExt _ _ _
  | call => exact call _ _
  | callExt => exact callExt _ _ _
  | brs => exact brs _ _
  | calls => exact calls _ _
  | loop => exact loop _ _ _
  | loopi => exact loopi _ _ _
  | loopiExt => exact loopiExt _ _ _ _
  | loopr => exact loopr _ _ _ _
  | lbreak => exact lbreak _
  | plog => exact plog _ _ _ _ _
  | fmtset => exact fmtset _ _
  | fmtseti => exact fmtseti _ _
  | semwait => exact semwait _ _ _
  | semsig => exact semsig _ _ _
  | waitc => exact waitc _ _ _ _
  | ctrwait => exact ctrwait _ _ _
  | tfence => exact tfence _
  | fence => exact fence _ _ _
  | taskend => exact taskend _
  | spawn => exact spawn _ _ _ _
  | spawnOverlap => exact spawnOverlap _ _ _ _ _
  | yield => exact yield _
  | statpop => exact statpop _ _ _
  | trap => exact trap _ _
  | eret => exact eret _
  | csrr => exact csrr _ _ _ _
  | csrw => exact csrw _ _ _ _
  | jobres => exact jobres _ _
  | iflush => exact iflush _
  | capopDerive => exact capopDerive _ _ _ _ _
  | capopRevoke => exact capopRevoke _ _ _ _
  | capopInfo => exact capopInfo _ _ _ _
  | capopFree => exact capopFree _ _ _ _
  | ctxctlStop => exact ctxctlStop _ _ _ _
  | ctxctlGo => exact ctxctlGo _ _ _ _
  | ctxctlKill => exact ctxctlKill _ _ _ _
  | ctxctlRead => exact ctxctlRead _ _ _ _ _
  | ctxctlWrite => exact ctxctlWrite _ _ _ _ _
  | ctxctlBrkSet => exact ctxctlBrkSet _ _ _ _ _
  | ctxctlBrkClr => exact ctxctlBrkClr _ _ _ _ _
  | ctxctlTestMode => exact ctxctlTestMode _ _ _ _
  | audmark => exact audmark _ _ _
  | audsealSeal => exact audsealSeal _ _ _ _
  | audsealConfig => exact audsealConfig _ _ _ _
  | audbisect => exact audbisect _ _ _ _ _
  | audref => exact audref _ _ _ _ _
  | audreplay => exact audreplay _ _ _ _ _
  | audroot => exact audroot _ _ _
  | shset => exact shset _ _ _ _
  | shseti => exact shseti _ _ _ _
  | shcopy => exact shcopy _ _ _
  | shstep => exact shstep _ _ _ _
  | mpset => exact mpset _ _ _ _
  | mpseti => exact mpseti _ _ _ _
  | vshape => exact vshape _ _ _
  | fpnarrow => exact fpnarrow _ _ _ _ _ _
  | shrd => exact shrd _ _ _ _ _
  | alloc => exact alloc _ _ _ _
  | allocr => exact allocr _ _ _ _
  | alloct => exact alloct _ _ _ _ _
  | copyin => exact copyin _ _ _ _
  | gpush => exact gpush _ _ _ _
  | gather => exact gather _ _ _ _
  | tmove => exact tmove _ _ _ _ _
  | ldt => exact ldt _ _ _ _ _ _
  | ldtr => exact ldtr _ _ _ _ _ _
  | ldg => exact ldg _ _ _ _ _ _ _
  | tread => exact tread _ _ _ _ _
  | trel => exact trel _ _
  | tinfo => exact tinfo _ _ _ _
  | ovl => exact ovl _ _ _ _ _
  | landh => exact landh _ _ _ _
  | vadd => exact vadd _ _ _ _ _ _ _ _
  | vsub => exact vsub _ _ _ _ _ _ _ _
  | vmul => exact vmul _ _ _ _ _ _ _ _
  | vfma => exact vfma _ _ _ _ _ _ _ _
  | vmin => exact vmin _ _ _ _ _ _ _
  | vmax => exact vmax _ _ _ _ _ _ _
  | vand => exact vand _ _ _ _ _ _ _
  | vor => exact vor _ _ _ _ _ _ _
  | vxor => exact vxor _ _ _ _ _ _ _
  | vshl => exact vshl _ _ _ _ _ _ _
  | vshr => exact vshr _ _ _ _ _ _ _
  | vcmp => exact vcmp _ _ _ _ _ _ _ _
  | vsel => exact vsel _ _ _ _ _ _ _
  | vabs => exact vabs _ _ _ _ _
  | vneg => exact vneg _ _ _ _ _
  | vmov => exact vmov _ _ _ _ _
  | vfill => exact vfill _ _ _
  | vfillExt => exact vfillExt _ _ _ _
  | vbrow => exact vbrow _ _ _ _ _
  | vbcol => exact vbcol _ _ _ _ _
  | vtrans => exact vtrans _ _ _ _ _
  | vsfu => exact vsfu _ _ _ _ _ _ _
  | vrsum => exact vrsum _ _ _ _ _ _
  | vrmax => exact vrmax _ _ _ _ _
  | vcsum => exact vcsum _ _ _ _ _ _
  | vcmax => exact vcmax _ _ _ _ _
  | vdot => exact vdot _ _ _ _ _ _ _ _
  | vmacc => exact vmacc _ _ _ _ _ _ _ _
  | vcvt => exact vcvt _ _ _ _ _ _ _ _ _
  | vqnt => exact vqnt _ _ _ _ _ _ _ _ _ _ _ _
  | vdqnt => exact vdqnt _ _ _ _ _ _ _ _ _ _ _ _
  | vscale => exact vscale _ _ _ _ _ _ _ _
  | viota => exact viota _ _ _ _
  | vsums => exact vsums _ _ _ _ _ _
  | mcall => exact mcall _ _ _ _ _
  | acczero => exact acczero _ _ _
  | accrd => exact accrd _ _ _ _ _ _ _ _
  | accwr => exact accwr _ _ _ _ _
  | accmov => exact accmov _ _ _
  | ringpush => exact ringpush _ _ _
  | ringdrop => exact ringdrop _ _ _
  | ringinfo => exact ringinfo _ _ _
  | mprog => exact mprog _ _ _ _
  | mprogExt => exact mprogExt _ _ _ _ _
  | copyout => exact copyout _ _ _ _ _ _
  | copyacc => exact copyacc _ _ _ _
  | stt => exact stt _ _ _ _ _
  | sttr => exact sttr _ _ _ _ _
  | stg => exact stg _ _ _ _ _ _
  | atom => exact atom _ _ _ _ _ _ _ _ _ _
  | cas => exact cas _ _ _ _ _ _ _ _ _
  | send => exact send _ _ _ _ _
  | sendt => exact sendt _ _ _ _ _ _ _
  | putr => exact putr _ _ _ _ _
  | ctraddRemote => exact ctraddRemote _ _ _
  | ctraddLocal => exact ctraddLocal _ _ _
  | mbox => exact mbox _ _ _ _ _
  | scatter => exact scatter _ _ _ _ _ _ _ _
  | prime => exact prime _ _ _ _ _
  | _ => exact fun _ _ e => nomatch (show none = some _ from e)

end Sys2Proof.Laws.RoundTrip

namespace Sys2Proof

open Machine

theorem slots_header {k : Nat} (slot : k < 7) : (List.range 7).filter (fun i => fld (BitVec.ofNat 8 (0x80 + 2 ^ k)).toNat i 1 == 1) = [k] := by
  interval_cases k <;> rfl

/-- The syllables of a bundle of one slot are read from its bytes, whatever follows them (R57). -/
theorem takeSyls_bytes {y : Syl} (rest : Bytes) (w : y.w < 2 ^ 32) (ext : y.ext < 2 ^ 32) (short : fld y.w 25 1 = 0 → y.ext = 0) :
    takeSyls [y.slot] (y.bytes ++ rest) = some ([y], y.bytes.length) := by
  obtain ⟨slot, word, ext'⟩ := y
  have word_read : leVal (leBytes 4 word) = word := leVal_leBytes 4 word w
  have x : fld word 25 1 = 0 ∨ fld word 25 1 = 1 := by unfold fld; omega
  rcases x with x | x
  · obtain rfl : ext' = 0 := short x
    simp [takeSyls, Syl.bytes, x, word_read]
  · have ext_read : leVal (leBytes 4 ext') = ext' := leVal_leBytes 4 ext' ext
    have long : ¬4 + (4 + rest.length) < 8 := by omega
    simp [takeSyls, Syl.bytes, x, word_read, ext_read, long]

theorem decodeOne_syl {y : Syl} {i : Instr} (rest : Bytes) (slot : y.slot < 7) (w : y.w < 2 ^ 32) (ext : y.ext < 2 ^ 32)
    (short : fld y.w 25 1 = 0 → y.ext = 0) (ok : decodeSyl y = .ok i) :
    decodeOne (BitVec.ofNat 8 (0x80 + 2 ^ y.slot) :: (y.bytes ++ rest)) = some i := by
  have header : (BitVec.ofNat 8 (0x80 + 2 ^ y.slot)).toNat ≠ 0 := by generalize y.slot = k at slot; interval_cases k <;> decide
  simp only [decodeOne, decodeLine, header, if_false, slots_header slot, takeSyls_bytes rest w ext short, ok]

theorem encode_of_syl {i : Instr} {y : Syl} (enc : encodeSyl i = some y) : encode i = BitVec.ofNat 8 (0x80 + 2 ^ y.slot) :: y.bytes := by
  unfold encode
  split
  · cases enc
  · rw [enc]

/-- Settles O55: the bytes of an operation are the header of its slot and its syllable, which are read back and decode to it. -/
theorem encodedOperationsDecode : Obligations.EncodedOperationsDecode := by
  intro i rest wf op
  obtain ⟨y, enc⟩ := Option.isSome_iff_exists.1 op
  obtain ⟨slot, w, ext, short, ok⟩ := Laws.RoundTrip.decodes_from_syl i wf y enc
  rw [encode_of_syl enc]
  exact decodeOne_syl rest slot w ext short ok

end Sys2Proof
end

section
/-!
PROOFS. O57: an op that the map of its slot marks reserved. Above the last op of a slot, an op is that number and some more.
-/
namespace Sys2Proof

variable {w : Nat} (e : Nat)

theorem decodeA_reserved {k : Nat} (op : fld w 26 6 = k + 0x13) : decodeA w e = .err .reservedOp := by
  unfold decodeA
  rw [op]
  rfl

theorem decodeB_reserved_between (gap : (0x15 ≤ fld w 26 6 ∧ fld w 26 6 ≤ 0x1F) ∨ (0x28 ≤ fld w 26 6 ∧ fld w 26 6 ≤ 0x2F)) :
    decodeB w e = .err .reservedOp := by
  rcases gap with ⟨lo, hi⟩ | ⟨lo, hi⟩ <;> unfold decodeB <;> interval_cases op : fld w 26 6 <;> rfl

theorem decodeB_reserved {k : Nat} (op : fld w 26 6 = k + 0x36) : decodeB w e = .err .reservedOp := by
  unfold decodeB
  rw [op]
  rfl

theorem decodeD_reserved {k : Nat} (op : fld w 26 6 = k + 9) : decodeD w e = .err .reservedOp := by
  unfold decodeD
  rw [op]
  rfl

theorem decodeL_reserved {k : Nat} (op : fld w 26 6 = k + 0xF) : decodeL w e = .err .reservedOp := by
  unfold decodeL
  rw [op]
  rfl

theorem decodeV_reserved {k : Nat} (op : fld w 26 6 = k + 0x21) : decodeV w e = .err .reservedOp := by
  unfold decodeV
  rw [op]
  rfl

theorem decodeM_reserved {k : Nat} (op : fld w 26 6 = k + 9) : decodeM w e = .err .reservedOp := by
  unfold decodeM
  rw [op]
  rfl

theorem decodeO_reserved {k : Nat} (op : fld w 26 6 = k + 0xE) : decodeO w e = .err .reservedOp := by
  unfold decodeO
  rw [op]
  rfl

/-- Settles O57: by slot, from what its decoder answers beyond the last op of its map and in the gaps of slot B's. -/
theorem reservedOpsAreRefused : Obligations.ReservedOpsAreRefused := by
  rintro ⟨slot, w, e⟩ - op (⟨rfl, h⟩ | ⟨rfl, h | h | h⟩ | ⟨rfl, h⟩ | ⟨rfl, h⟩ | ⟨rfl, h⟩ | ⟨rfl, h⟩ | ⟨rfl, h⟩)
  · exact decodeA_reserved e (Nat.sub_add_cancel h).symm
  · exact decodeB_reserved_between e (.inl h)
  · exact decodeB_reserved_between e (.inr h)
  · exact decodeB_reserved e (Nat.sub_add_cancel h).symm
  · exact decodeD_reserved e (Nat.sub_add_cancel h).symm
  · exact decodeL_reserved e (Nat.sub_add_cancel h).symm
  · exact decodeV_reserved e (Nat.sub_add_cancel h).symm
  · exact decodeM_reserved e (Nat.sub_add_cancel h).symm
  · exact decodeO_reserved e (Nat.sub_add_cancel h).symm

end Sys2Proof
end

section
/-!
PROOFS. O56: bundles that the spec writes out.
-/
namespace Sys2Proof

/-- Settles O56: the decoder evaluates each of them. -/
theorem writtenBundlesDecode : Obligations.WrittenBundlesDecode := by
  unfold Obligations.WrittenBundlesDecode
  decide +kernel

end Sys2Proof
end

section
/-!
PROOFS. O49: a stall swap lands vector results of the context in the shadow too.
-/
namespace Sys2Proof.StallSwap

open Machine

/-- The context that has stalled for more than 256 cycles. -/
def stalled : Ctx := { cid := 1, stall := 257 }

/-- The context that waits in the shadow. -/
def waiting : Ctx := { cid := 2 }

/-- A vector operation of context `cid` that the unit has accepted and whose result has not landed. -/
def pendingVec (jid cid flags : Nat) : Job :=
  { jid := jid, cid := cid, die := 0, queue := 0, kind := .vec, instr := .vmin 0 1 2 3 0 0 0, flags := flags }

/-- Unit 0 with both contexts, of whose vector operations the one of the context in the shadow was accepted first, with a flag to set. -/
def both : State :=
  (State.reset.updUnit 0 fun x =>
    { x with ctxs := [(0, stalled), (2, waiting)], shadow := 2, swap := none, freeze := 0, jobs := [pendingVec 1 2 1, pendingVec 2 1 0] }).updDie 0
      fun d => { d with saveN := 129 }

/-- The swap lands the results of the context that leaves, and with them every one accepted earlier, of either context (R284, R289): the context
in the shadow becomes live with the flag of its own result set. -/
theorem flags_of_waiting {t : State} (swapped : exec (.stallSwap 0 0) both = .next t) : (t.ctx? 0 2).map Ctx.flags = some 1 := by
  have h : (match exec (.stallSwap 0 0) both with
      | .next t => (t.ctx? 0 2).map Ctx.flags
      | _ => none) = some 1 := by decide +kernel
  rw [swapped] at h
  exact h

end Sys2Proof.StallSwap

namespace Sys2Proof

open Machine StallSwap

/-- Refutes O49: its clause of the exchange says that the context of the shadow becomes live as it was, and does not exclude that a result of
that context is still in flight, accepted by the vector unit before one of the context that leaves: the swap lands both. -/
theorem not_unitEvents : ¬ Obligations.UnitEvents := by
  intro h
  obtain ⟨-, -, -, banks⟩ := h.2 both 0 0 0 0 0 ⟨0, 0⟩ stalled waiting
  obtain ⟨exchange, -⟩ := banks rfl rfl rfl
  obtain ⟨t, swapped, -, -, same, -⟩ := exchange rfl rfl rfl rfl (by decide +kernel) (.inl (by decide)) (.inl ⟨rfl, rfl⟩) rfl (by decide +kernel)
  have flags := flags_of_waiting swapped
  rw [show t.ctx? 0 2 = some waiting from same] at flags
  exact absurd flags (by decide)

end Sys2Proof
end

section
/-!
PROOFS. The landing of vector results changes no unit that has its cycle, and the wait counts of the merge stage no order (R132, R284).
-/
namespace Sys2Proof.Machine

variable (s : State)

/-- Steps that each leave the unit that has its cycle leave it together. -/
theorem State.curU_foldl {α : Type} (f : State → α → State) (h : ∀ s a, (f s a).curU = s.curU) (l : List α) : (l.foldl f s).curU = s.curU := by
  induction l generalizing s with
  | nil => rfl
  | cons a l ih => rw [List.foldl_cons, ih, h]

@[simp] theorem State.curU_updCid (u cid : Nat) (f : Ctx → Ctx) : (s.updCid u cid f).curU = s.curU := by
  unfold State.updCid
  split <;> rfl

@[simp] theorem State.curU_landChunks (u : Nat) (j : Job) (t : TileRef) : (s.landChunks u j t).curU = s.curU := rfl

@[simp] theorem State.curU_jobLeaf (u : Nat) (j : Job) (l : LeafRec) : (s.jobLeaf u j l).curU = s.curU := by
  unfold State.jobLeaf
  split
  · exact s.curU_updCid _ _ _
  · rfl

@[simp] theorem State.curU_placeOrWait (u : Nat) (j : Job) : (s.placeOrWait u j).curU = s.curU := by
  unfold State.placeOrWait
  dsimp only
  split
  · exact s.curU_jobLeaf _ _ _
  · rfl

@[simp] theorem State.curU_landVec (u : Nat) (j : Job) : (s.landVec u j).curU = s.curU := by
  have chunks := s.curU_foldl (fun s t => s.landChunks u j t) (fun _ _ => rfl) (j.dst.toList ++ j.tilesA)
  unfold State.landVec
  simp only [State.dropJob, State.updUnit_curU, State.curU_placeOrWait]
  split
  · rw [State.curU_updCid, chunks]
  · split
    · exact chunks
    · rw [State.curU_updCid, chunks]

@[simp] theorem State.curU_landVecs (u cid : Nat) (p : Job → Bool) : (s.landVecs u cid p).curU = s.curU :=
  s.curU_foldl _ (fun s j => s.curU_landVec u j) _

@[simp] theorem State.curU_begin : s.begin.curU = s.curU := by
  unfold State.begin
  dsimp only
  split
  · rfl
  · simp

/-- Setting the current context to what it is, where it was just set, changes nothing. -/
theorem State.setCur_cur_updCur (f : Ctx → Ctx) : (s.updCur f).setCur (s.updCur f).cur = s.updCur f := by
  simp [State.updCur]

/-! ## The order of the banks -/

variable {x : UnitSt} {b : Nat}

theorem UnitSt.order_eq_single : x.order = [b] ↔ x.liveBanks.filter x.issues = [b] := by
  unfold UnitSt.order
  split
  · next _ _ two => dsimp only; rw [two]; split <;> simp
  · rfl

/-- With one bank that issues there is no secondary: no wait count stands. -/
theorem UnitSt.onlySecondary_eq (one : x.order = [b]) : x.onlySecondary = { x with ctxs := x.ctxs.mapv fun c => { c with waited := 0 } } := by
  simp [UnitSt.onlySecondary, one, Map.mapv]

theorem UnitSt.issues_onlySecondary (one : x.order = [b]) (d : Nat) : x.onlySecondary.issues d = x.issues d := by
  rw [UnitSt.onlySecondary_eq one]
  simp only [UnitSt.issues, UnitSt.liveBanks, Map.entry_mapv, Option.map_map]
  rfl

theorem UnitSt.order_onlySecondary (one : x.order = [b]) : x.onlySecondary.order = [b] := by
  rw [UnitSt.order_eq_single] at one ⊢
  have same : x.onlySecondary.issues = x.issues := funext (UnitSt.issues_onlySecondary (UnitSt.order_eq_single.2 one))
  rw [same]
  exact one

/-- With one bank that issues the merge stage is the presentation of its bundle (R132). -/
theorem State.merge_single {u : Nat} (one : (s.unit u).order = [b]) : s.merge u = (s.updUnit u UnitSt.onlySecondary).present u b := by
  unfold State.merge
  simp only [State.unit_updUnit, UnitSt.order_onlySecondary one]

/-- The context that issues alone is what it was, but for its wait count. -/
theorem State.cur_onlySecondary (one : (s.unit s.curU).order = [b]) :
    ∃ n, (s.updUnit s.curU UnitSt.onlySecondary).cur = { s.cur with waited := n } := by
  simp only [State.cur, State.ctxAt, State.updUnit_curU, State.updUnit_curB, State.unit_updUnit, UnitSt.onlySecondary_eq one, Map.look,
    Map.entry_mapv]
  cases (s.unit s.curU).ctxs.entry? s.curB with
  | none => exact ⟨0, rfl⟩
  | some c => exact ⟨0, rfl⟩

end Sys2Proof.Machine
end

section
/-!
PROOFS. O58: a step is the issue of the operation at the PC.
-/
namespace Sys2Proof

open Machine Laws

/-! ## One operation is fetched -/

theorem willJump_pres (c : Ctx) (p : Option Pres) (i : Instr) : willJump { c with pres := p } i = willJump c i := by
  unfold willJump
  rfl

/-- The presentation of a bundle of `len` bytes at the PC of a context, the last of its group. -/
def presAt (len : Nat) (c : Ctx) : Pres := { addr := c.pc, stop := true, len := len, leaf0 := c.leafNext }

/-- A bundle that is put under presentation as it would be by itself runs as it would by itself. -/
theorem runBundle_presented {r : State} {o : SlotSem} (begun : r.begin = r) (fresh : r.cur.pres = none) :
    (r.updCur fun c => { c with pres := some (presAt (1 + o.i.syl.bytes.length) c) }).runBundle [o] = r.runBundle [o] := by
  generalize under : (r.updCur fun c => { c with pres := some (presAt (1 + o.i.syl.bytes.length) c) }) = t
  have begun' : t.begin = t := by rw [← under]; simp [State.begin]
  have cur : t.cur = { r.cur with pres := some (presAt (1 + o.i.syl.bytes.length) r.cur) } := by rw [← under, State.cur_updCur]
  have set (c : Ctx) : t.setCur c = r.setCur c := by rw [← under]; simp [State.updCur]
  unfold State.runBundle
  simp only [begun, begun', cur, set, fresh, Option.getD_none, Option.getD_some, List.map_cons, List.map_nil, List.foldl_cons, List.foldl_nil,
    Nat.zero_add, willJump_pres]
  rfl

/-- The bundle of one operation at the PC is fetched, decoded and run (R55-R57, R64, R67, R68). -/
theorem fetchBundle_one {r : State} {y : Syl} {o : SlotSem} (begun : r.begin = r)
    (runs : r.cur.inRun = true ∨ r.scanRun r.curU r.cur 1048576 r.cur.pc = none) (go : r.brkHit r.cur = none)
    (line : decodeLine (r.codeLine r.curU r.cur r.cur.pc) = .bundle true (1 + o.i.syl.bytes.length) [y])
    (decoded : decodeBundle r.cur.level r.cur.m3 r.cur.grp [y] = .ok [o.i]) (slot : semOf o.i = some o) :
    r.fetchBundle = (r.runBundle [o]).noteStall := by
  have scanned : (if r.cur.inRun || r.cur.pres.isSome then none else r.scanRun r.curU r.cur 1048576 r.cur.pc) = none := by
    rcases runs with h | h <;> simp [h]
  unfold State.fetchBundle
  simp only [scanned, go, line, decoded, List.filterMap_cons, List.filterMap_nil, slot]
  cases fresh : r.cur.pres with
  | some p => rfl
  | none => exact congrArg State.noteStall (runBundle_presented begun fresh)

/-! ## The cycle of a unit -/

/-- The machine in the cycle of the next unit before its merge stage. -/
def settled (s : State) : State :=
  let u := nextUnit s
  let t : State := (({ s with turn := s.turn + 1 } : State).tickDie u).updUnit u fun x => { x with cycle := (x.cycle + 1) % 2 ^ 64 }
  let t := ((t.updUnit u UnitSt.thaw).tickSwap u).updUnit u fun x => x.tickWatch.tickDeadlines.tickLanes
  ((((t.endSteps u).landHeld u).leaveWaiting u).drainGather u).settleLeaves u

theorem cycled_eq (s : State) (b : Nat) : cycled s b = { settled s with curU := nextUnit s, curB := b } := rfl

theorem die_at (t : State) (u b d : Nat) : ({ t with curU := u, curB := b } : State).die d = t.die d := rfl

theorem die_cycled (s : State) (b d : Nat) : (cycled s b).die d = (settled s).die d := by rw [cycled_eq, die_at]

/-- With the module on and no event due, an even turn is the cycle of the next unit, up to its merge stage outside a freeze (log 2). -/
theorem step_turn {s : State} (on : s.power = .on) (due : s.agenda = []) (even : s.turn % 2 = 0) (runs : (s.unit (nextUnit s)).freeze ≤ 1) :
    step s = .next (if ((settled s).die (nextUnit s / 128)).idle then settled s else (settled s).merge (nextUnit s)) := by
  have running : ¬1 < (((({ s with turn := s.turn + 1 } : State).tickDie (nextUnit s)).updUnit (nextUnit s)
      fun x => { x with cycle := (x.cycle + 1) % 2 ^ 64 }).unit (nextUnit s)).freeze := by
    have same (t : State) (u v : Nat) : (t.tickDie u).unit v = t.unit v := by unfold State.tickDie; split <;> rfl
    rw [State.unit_updUnit, same]
    exact Nat.not_lt.2 runs
  have turn : step s = .next (({ s with turn := s.turn + 1 } : State).cycleUnit (nextUnit s)) := by
    simp only [step, on, due, State.advance, even, if_true]
    rfl
  rw [turn, State.cycleUnit]
  simp only [if_neg running]
  rfl

/-- A context that nothing stops and no fence stalls presents the bundle at its PC, when no line pad stands there. -/
theorem present_one {t r : State} (running : t.cur.wdKill = false) (going : t.cur.stopReq = false) (free : t.cur.fencing = none)
    (fetched : (t.begin.updCur fun c => t.begin.fetchLines t.begin.curU c) = r)
    (placed : (skipPads (r.codeByte r.curU r.cur) 65536 r.cur.pc).1 = r.cur.pc) : t.present t.curU t.curB = r.fetchBundle := by
  have curU : t.curU = r.curU := by rw [← fetched, State.updCur_curU, State.curU_begin]
  have skipped : (r.updCur fun c => if c.pres.isSome then c else { c with pc := (skipPads (r.codeByte t.curU c) 65536 c.pc).1 }) = r := by
    have here : (if r.cur.pres.isSome then r.cur else { r.cur with pc := (skipPads (r.codeByte t.curU r.cur) 65536 r.cur.pc).1 }) = r.cur := by
      rw [curU, placed, ite_self]
    rw [State.updCur, here, ← fetched, State.setCur_cur_updCur]
  rw [State.curU_begin] at fetched
  unfold State.present
  simp only [running, going, free, Bool.false_and, Bool.false_eq_true, if_false, fetched, skipped]

/-- A merge stage in which bank `b` alone issues fetches and runs the bundle at the PC of its context, on the machine `w` in which it is the
current bank (R132). -/
theorem merge_one {t w r : State} {u b : Nat} (at_bank : w = { t with curU := u, curB := b }) (one : (w.unit u).order = [b])
    (running : w.cur.wdKill = false) (going : w.cur.stopReq = false) (free : w.cur.fencing = none)
    (fetched : ((w.updUnit u UnitSt.onlySecondary).begin.updCur fun c =>
      (w.updUnit u UnitSt.onlySecondary).begin.fetchLines (w.updUnit u UnitSt.onlySecondary).begin.curU c) = r)
    (placed : (skipPads (r.codeByte r.curU r.cur) 65536 r.cur.pc).1 = r.cur.pc) : t.merge u = r.fetchBundle := by
  have curU : w.curU = u := by rw [at_bank]
  have curB : w.curB = b := by rw [at_bank]
  have merged : t.merge u = (w.updUnit u UnitSt.onlySecondary).present u b := by
    subst at_bank
    exact t.merge_single one
  subst curU curB
  obtain ⟨n, cur⟩ := w.cur_onlySecondary one
  rw [merged]
  exact present_one (by rw [cur]; exact running) (by rw [cur]; exact going) (by rw [cur]; exact free) fetched placed

/-- Settles O58: the turn is the cycle of the next unit, whose merge stage presents, fetches and runs the bundle. -/
theorem stepRunsTheDecodedOperation : Obligations.StepRunsTheDecodedOperation := by
  intro s b len y i on due even runs w r awake one running going free fresh begun placed scanned go line decoded length isOp level
  obtain ⟨o, slot⟩ := Option.isSome_iff_exists.1 isOp
  obtain rfl := semOf_i slot
  subst length
  have merged : (settled s).merge (nextUnit s) = r.fetchBundle := merge_one (cycled_eq s b) one running going free rfl placed
  rw [die_cycled] at awake
  refine ⟨r.runBundle [o], exec_issue slot r level, ?_⟩
  rw [step_turn on due even runs, if_neg (ne_true_of_eq_false awake), merged, fetchBundle_one begun scanned go line decoded slot]

end Sys2Proof
end

section
/-!
PROOFS. O38: footprint records that conflict (R118).
-/
namespace Sys2Proof.Machine

variable {a b : FpRec}

/-- Two ranges that are not empty share an address when each begins before the other ends. -/
theorem FpRec.meet_iff (ha : a.len ≠ 0) (hb : b.len ≠ 0) :
    (∃ x, (a.base ≤ x ∧ x < a.base + a.len) ∧ (b.base ≤ x ∧ x < b.base + b.len)) ↔
      a.base < b.base + b.len ∧ b.base < a.base + a.len := by
  constructor
  · rintro ⟨x, ⟨aFrom, aTo⟩, bFrom, bTo⟩
    exact ⟨by omega, by omega⟩
  · rintro ⟨ab, ba⟩
    exact ⟨max a.base b.base, by omega, by omega⟩

theorem fpClash_iff : fpClash a b = true ↔
    (a.base < b.base + b.len ∧ b.base < a.base + a.len) ∧ ¬(a.mode = b.mode ∧ (a.mode = 0 ∨ a.mode = 3)) := by
  simp only [fpClash, Bool.and_eq_true, decide_eq_true_eq, Bool.not_eq_true', Bool.and_eq_false_iff, Bool.or_eq_false_iff,
    beq_eq_false_iff_ne, not_and_or, not_or, ne_eq]

/-- Of the modes read, write, both and atomic, two conflict unless both are read or both are atomic. -/
theorem modes_conflict_iff {m n : Nat} (hm : m ≤ 3) (hn : n ≤ 3) : ¬(m = n ∧ (m = 0 ∨ m = 3)) ↔
    ((m = 1 ∨ m = 2) ∧ (n = 0 ∨ n = 2)) ∨ ((m = 0 ∨ m = 2) ∧ (n = 1 ∨ n = 2)) ∨ ((m = 1 ∨ m = 2) ∧ (n = 1 ∨ n = 2)) ∨
      (m = 3 ∧ n ≠ 3) ∨ (m ≠ 3 ∧ n = 3) := by
  omega

end Sys2Proof.Machine

namespace Sys2Proof

open Machine

/-- Settles O38: the ranges meet at the greater of the two bases, and the modes are those of R118. -/
theorem footprintsConflict : Obligations.FootprintsConflict := by
  intro a b ha hb hma hmb writes reads
  rw [fpClash_iff, FpRec.meet_iff ha hb, modes_conflict_iff hma hmb]

end Sys2Proof
end

section
/-!
PROOFS. The oldest ready node of a queue that has waited 2^20 cycles (R128): it starts on the first unit that it fits, and before any
other node of its die.
-/
namespace Sys2Proof.Machine

/-- The first hit of a search of the numbers below a bound. -/
theorem findSome?_range {α : Type} {f : Nat → Option α} {n i : Nat} {b : α} (lt : i < n) (hit : f i = some b)
    (first : ∀ j < i, f j = none) : (List.range n).findSome? f = some b := by
  obtain ⟨k, rfl⟩ := Nat.exists_eq_add_of_lt lt
  have before : (List.range i).findSome? f = none := List.findSome?_eq_none_iff.2 fun j mem => first j (List.mem_range.1 mem)
  rw [Nat.add_assoc, List.range_add, List.range_succ_eq_map, List.map_cons, List.findSome?_append, before, Option.none_or,
    List.findSome?_cons, Nat.add_zero, hit]

variable {s : State} {d q n u b : Nat} {x : Node} {bs : List Nat} {pt : Map PtEnt}

/-- What a node that has waited long enough comes to on a unit: it starts in the first free bank of one that it fits (R128). -/
def State.startOn (s : State) (d q n : Nat) (x : Node) (u : Nat) : Option State :=
  match s.takesWork u, (s.unit u).freeBanks, s.fitNode d u x with
  | true, b :: _, .ok pt => some ((s.startNode d n u b x pt).updQueue d q fun y => { y with waitFrom := (s.die d).cycle })
  | _, _, _ => none

theorem State.startOn_fits (takes : s.takesWork u = true) (bank : (s.unit u).freeBanks = b :: bs) (fits : s.fitNode d u x = .ok pt) :
    s.startOn d q n x u = some ((s.startNode d n u b x pt).updQueue d q fun y => { y with waitFrom := (s.die d).cycle }) := by
  simp only [State.startOn, takes, bank, fits]

theorem State.startOn_eq_none (busy : s.takesWork u = false ∨ (s.unit u).freeBanks = [] ∨ ∀ pt, s.fitNode d u x ≠ .ok pt) :
    s.startOn d q n x u = none := by
  unfold State.startOn
  split
  · next takes bank fits => simp [takes, bank, fits] at busy
  · rfl

/-- A node that no binding ties to a unit tries every unit of its die in order. -/
theorem State.startStarved_eq (oldest : s.oldestReady d q = some (n, x)) (due : s.waitSince d q x + 2 ^ 20 ≤ (s.die d).cycle)
    (free : x.desc.task.bound = false) :
    s.startStarved d q = ((List.range 128).map (d * 128 + ·)).findSome? (s.startOn d q n x) := by
  simp only [State.startStarved, oldest, if_neg (Nat.not_lt.2 due), free, Bool.false_eq_true, if_false]
  rfl

theorem State.startStarved_none (none_ready : s.oldestReady d q = none) : s.startStarved d q = none := by
  simp only [State.startStarved, none_ready]

theorem State.startStarved_early (oldest : s.oldestReady d q = some (n, x)) (early : (s.die d).cycle < s.waitSince d q x + 2 ^ 20) :
    s.startStarved d q = none := by
  simp only [State.startStarved, oldest, if_pos early]

/-- It starts on the first unit that it fits. -/
theorem State.startStarved_first {i : Nat} (oldest : s.oldestReady d q = some (n, x))
    (due : s.waitSince d q x + 2 ^ 20 ≤ (s.die d).cycle) (free : x.desc.task.bound = false) (inDie : i < 128)
    (busy : ∀ v, d * 128 ≤ v → v < d * 128 + i → s.takesWork v = false ∨ (s.unit v).freeBanks = [] ∨ ∀ pt, s.fitNode d v x ≠ .ok pt)
    (takes : s.takesWork (d * 128 + i) = true) (bank : (s.unit (d * 128 + i)).freeBanks = b :: bs)
    (fits : s.fitNode d (d * 128 + i) x = .ok pt) :
    s.startStarved d q = some ((s.startNode d n (d * 128 + i) b x pt).updQueue d q fun y => { y with waitFrom := (s.die d).cycle }) := by
  rw [s.startStarved_eq oldest due free, List.findSome?_map]
  exact findSome?_range inDie (State.startOn_fits takes bank fits) fun j lt =>
    State.startOn_eq_none (busy _ (Nat.le_add_right _ _) (Nat.add_lt_add_left lt _))

/-- A queue of the window whose oldest ready node is due and fits a unit with room comes first in its die. -/
theorem State.starvedFirst_of_fits {m : Nat} (mem : (m, x) ∈ (s.die d).window) (oldest : s.oldestReady d x.queue = some (n, x))
    (due : s.waitSince d x.queue x + 2 ^ 20 ≤ (s.die d).cycle) (free : x.desc.task.bound = false) (ofDie : u / 128 = d)
    (takes : s.takesWork u = true) (bank : (s.unit u).freeBanks = b :: bs) (fits : s.fitNode d u x = .ok pt) : s.starvedFirst d = true := by
  have unit : u ∈ (List.range 128).map (d * 128 + ·) := List.mem_map.2 ⟨u % 128, by simp [Nat.mod_lt], by omega⟩
  have starts : (s.startStarved d x.queue).isSome = true := by
    rw [s.startStarved_eq oldest due free]
    exact List.findSome?_isSome_iff.2 ⟨u, unit, by rw [State.startOn_fits takes bank fits]; rfl⟩
  exact List.any_eq_true.2 ⟨x.queue, List.mem_eraseDups.2 (List.mem_map.2 ⟨_, mem, rfl⟩), starts⟩

end Sys2Proof.Machine
end

section
/-!
PROOFS. The events of the graph engine (R116-R120, R125-R128).
-/
namespace Sys2Proof.Machine

variable {s t : State} {d q n u b now : Nat} {x : Node} {bs : List Nat}

/-- The nodes of a queue in the window whose records conflict with those of a node that enters (R118, R119). -/
def DieSt.conflicting (x : DieSt) (q : Nat) (fps : Map FpRec) : List Nat :=
  (x.window.filter fun e => e.2.queue == q && (fpsOf e.2.fps).any fun a => (fpsOf fps).any fun b => fpClash a b).map (·.1)

theorem DieSt.mem_conflicting {y : DieSt} {fps : Map FpRec} {i : Nat} : i ∈ y.conflicting q fps ↔
    ∃ z, (i, z) ∈ y.window ∧ z.queue = q ∧ ((fpsOf z.fps).any fun a => (fpsOf fps).any fun b => fpClash a b) = true := by
  simp only [DieSt.conflicting, List.mem_map, List.mem_filter, Bool.and_eq_true, beq_iff_eq]
  constructor
  · rintro ⟨⟨i, z⟩, ⟨mem, queue, clash⟩, rfl⟩
    exact ⟨z, mem, queue, clash⟩
  · rintro ⟨z, mem, queue, clash⟩
    exact ⟨(i, z), ⟨mem, queue, clash⟩, rfl⟩

/-- The next node of the queue whose turn it is enters the free place with its records and its edges (R116-R120). -/
theorem exec_nodeEntersWindow {gk : Nat} {g : Graph} {k : Todo} {ks : List Todo} {o : Obj} {tk : TaskRec} {fps : Map FpRec}
    (turn : (s.die d).turnQ = some q) (free : (s.die d).freeWin = some n) (next : (s.die d).nextTodo q = some (gk, g))
    (todo : g.todo = k :: ks) (bound : g.bindWait = false) (obj : (s.die d).objs.entry? g.obj = some o)
    (task : o.tasks[k.task]? = some tk) (records : instFps o tk k.params = some fps) :
    ∃ e, exec (.nodeEntersWindow d q) s = .next e ∧ ∃ m, (e.die d).window.entry? n = some m ∧ m.queue = q ∧ m.graph = gk ∧
      m.fps = fps ∧ m.desc = ⟨o.base, tk, o.poolsOf tk⟩ ∧ m.deps = (s.die d).conflicting q fps := by
  refine ⟨_, by
    change execNodeEntersWindow d q s = _
    simp only [execNodeEntersWindow, turn, free, next, todo, bound, obj, task, records, decide_true, List.head?_cons, Option.bind_some,
      Option.map_some, Bool.false_eq_true, if_false]
    rfl, ?_⟩
  simp only [State.die_updDie, Map.entry_put_same]
  exact ⟨_, rfl, rfl, rfl, rfl, rfl, rfl⟩

/-- A ready node is queued on the unit chosen, behind what is there (R125). -/
theorem exec_nodeDispatch (here : (s.die d).window.entry? n = some x) (ready : s.nodeReady d x = true) (unit : s.chooseUnit d x = some u)
    (oldest : ((s.die d).window.any fun e => decide (e.2.age < x.age) && s.nodeReady d e.2 && s.chooseUnit d e.2 == some u) = false)
    (room : (s.unit u).deque.length < 64) : ∃ e, exec (.nodeDispatch d n) s = .next e ∧
      (e.unit u).deque = (s.unit u).deque ++ [(n, x.desc.task.prio, x.queue)] ∧
      (e.die d).window.entry? n = some { x with state := .queued u, readyAt := x.readyAt.or (some (s.die d).cycle) } := by
  refine ⟨_, by
    change execNodeDispatch d n s = _
    simp only [execNodeDispatch, here, ready, unit, oldest, Bool.not_true, Bool.false_eq_true, if_false, false_or, if_neg (Nat.not_le.2 room)]
    rfl, ?_⟩
  simp

/-- The units from which a unit may take a node, in order: those of its cluster, then the others of its die, the longest deque first (R127). -/
def State.victims (s : State) (u : Nat) : List Nat :=
  (((List.range 16).map (u / 16 * 16 + ·)).filter fun v => v != u && (s.unit v).deque != []).foldl (fun l v => insVictim s v l) [] ++
    (((List.range 128).map (u / 128 * 128 + ·)).filter fun v => v / 16 != u / 16 && (s.unit v).deque != []).foldl
      (fun l v => insVictim s v l) []

section

variable (takes : s.takesWork u = true) (bank : (s.unit u).freeBanks = b :: bs)
include takes bank

/-- A unit with a free bank starts what its deque gives (R126), unless a starved node comes first. -/
theorem exec_taskStart : exec (.taskStart u) s =
    .next (if s.starvedFirst (u / 128) then s else (s.tryStart (u / 128) u b true (s.unit u).tryOrder).getD s) := by
  change execTaskStart u s = _
  simp only [execTaskStart, takes, bank, Bool.not_true, Bool.false_eq_true, if_false]

theorem exec_taskStart_starts (own : s.starvedFirst (u / 128) = false)
    (starts : s.tryStart (u / 128) u b true (s.unit u).tryOrder = some t) : exec (.taskStart u) s = .next t := by
  rw [exec_taskStart takes bank, own, starts]
  rfl

/-- A unit whose deque gives nothing takes from the longest deque of its cluster, then of its die (R127). -/
theorem exec_steal_starts (own : s.starvedFirst (u / 128) = false)
    (nothing : s.tryStart (u / 128) u b true (s.unit u).tryOrder = none)
    (starts : (s.victims u).findSome? (fun v => s.tryStart (u / 128) u b false (s.stealOrder (u / 128) v)) = some t) :
    exec (.steal u) s = .next t := by
  change execSteal u s = _
  simp only [execSteal, takes, bank, own, nothing, Bool.not_true, Option.isSome_none, Bool.or_self, Bool.false_eq_true, if_false]
  exact congrArg (fun r : Option State => Host.Outcome.next (r.getD s)) starts

/-- While a starved node comes first the unit starts and steals nothing (R128). -/
theorem exec_gives_way (starved : s.starvedFirst (u / 128) = true) : exec (.taskStart u) s = .next s ∧ exec (.steal u) s = .next s := by
  constructor
  · rw [exec_taskStart takes bank, if_pos starved]
  · change execSteal u s = _
    simp only [execSteal, takes, bank, starved, Bool.not_true, Bool.true_or, Bool.false_eq_true, if_false, if_true]

end

theorem exec_queueStarvation : exec (.queueStarvation d q now) s = .next (((s.clockTo d now).startStarved d q).getD (s.clockTo d now)) := rfl

@[simp] theorem State.cycle_clockTo : ((s.clockTo d now).die d).cycle = max (s.die d).cycle now := by simp [State.clockTo]

end Sys2Proof.Machine
end

section
/-!
PROOFS. O47: the events of the graph engine.
-/
namespace Sys2Proof

open Machine

/-- Settles O47: the events by their definitions; a starved node by the first unit of its die that it fits. -/
theorem schedulerEvents : Obligations.SchedulerEvents := by
  intro s t d q n u b now gk g x k ks bs o tk fps
  refine ⟨?_, exec_nodeDispatch, exec_taskStart_starts, exec_steal_starts, ?_, ?_⟩
  · intro turn free next todo bound obj task records
    obtain ⟨e, exec, m, here, queue, graph, fps, desc, deps⟩ := exec_nodeEntersWindow turn free next todo bound obj task records
    exact ⟨e, exec, m, here, queue, graph, fps, desc, fun i => deps ▸ DieSt.mem_conflicting⟩
  · rintro takes bank ⟨m, z, v, a, as, pt, mem, oldest, due, unbound, ofDie, vTakes, vBank, fits⟩
    exact exec_gives_way takes bank (State.starvedFirst_of_fits mem oldest due unbound ofDie vTakes vBank fits)
  · refine ⟨State.cycle_clockTo, fun none_ready => ?_, fun oldest early => ?_, ?_⟩
    · rw [exec_queueStarvation, State.startStarved_none none_ready, Option.getD_none]
    · rw [exec_queueStarvation, State.startStarved_early oldest early, Option.getD_none]
    · rintro i pt oldest due inDie rfl unbound busy takes bank fits
      rw [exec_queueStarvation, State.startStarved_first oldest due unbound inDie busy takes bank fits, Option.getD_some]

end Sys2Proof
end

section
/-!
PROOFS. The end of a task (R122): what leaves the window and the directory.
-/
namespace Sys2Proof.Machine

/-- A map whose entries are changed with regard to their numbers. -/
theorem Map.entry_map {α β : Type} (m : Map α) (f : Nat × α → β) (k : Nat) :
    Map.entry? (m.map fun e => (e.1, f e)) k = (Map.entry? m k).map fun v => f (k, v) := by
  induction m with
  | nil => rfl
  | cons e m ih =>
    rw [List.map_cons, Map.entry?, Map.entry?, ih]
    split
    · next h => subst h; rfl
    · rfl

variable (s : State)

/-- Releasing a task's pools changes the pads alone (R131). -/
theorem State.unreserve_eq (u : Nat) (pt : Map PtEnt) : ∃ ps, s.unreserve u pt = { s with pads := ps } := by
  unfold State.unreserve
  induction pt generalizing s with
  | nil => exact ⟨_, rfl⟩
  | cons e pt ih =>
    rw [List.foldl_cons]
    split
    · exact ih s
    · obtain ⟨ps, eq⟩ := ih (s.updPad (padIdx u e.2.level) fun p => { p with resv := p.resv.adj e.2.pool 0 (· - (e.2.resM1 + 1)) })
      exact ⟨ps, eq⟩

@[simp] theorem State.dir_unreserve (u : Nat) (pt : Map PtEnt) : (s.unreserve u pt).dir = s.dir := by
  obtain ⟨ps, eq⟩ := s.unreserve_eq u pt
  rw [eq]

/-- The unit that a node goes to next is none of its edges. -/
theorem Node.deps_noteUnit (p : Bool) (m : Node) (l : Option Nat) : (if p then { m with lastUnit := l } else m).deps = m.deps := by
  cases p <;> rfl

variable {s} {d n u : Nat} {x : Node}

/-- A task that has ended leaves the window, its successors' edges and the directory (R122). -/
theorem exec_taskComplete (here : (s.die d).window.entry? n = some x) (ended : x.state = .ended u) :
    ∃ e, exec (.taskComplete d n) s = .next e ∧ (e.die d).window.entry? n = none ∧
      (∀ k z, (e.die d).window.entry? k = some z → n ∉ z.deps) ∧ ∀ r ∈ e.dir, ¬(r.die = d ∧ r.node = n) := by
  refine ⟨_, by
    change execTaskComplete d n s = _
    simp only [execTaskComplete, here, ended]
    rfl, ?_, ?_, ?_⟩
  · simp only [State.die_updDie, Map.entry_map, Map.entry_mapv, Map.entry_del, if_true, Option.map_none]
  · intro k z found
    simp only [State.die_updDie, Map.entry_map, Map.entry_mapv, Option.map_map, Option.map_eq_some_iff, Function.comp_apply] at found
    obtain ⟨m, -, rfl⟩ := found
    rw [Node.deps_noteUnit _ { m with deps := m.deps.filter (· != n) } (some u)]
    simp
  · intro r mem
    simp only [State.updDie_dir, State.dir_unreserve, List.mem_filter, Bool.not_eq_true', Bool.and_eq_false_iff, beq_eq_false_iff_ne] at mem
    rintro ⟨die, node⟩
    exact mem.2.elim (· die) (· node)

end Sys2Proof.Machine
end

section
/-!
PROOFS. The end of a graph (R143, R344, R371).
-/
namespace Sys2Proof.Machine

variable {s t w : State} {d g : Nat} {y z : Graph}

/-- No earlier graph of the queue has a record to write. -/
def State.FirstToRecord (s : State) (d g q : Nat) : Prop :=
  ∀ k h, (k, h) ∈ (s.die d).graphs → h.queue = q → k < g → h.record = false

/-- The residue root of a graph, if it has one, stands in its session's tree: the root queue does not hold it (R371). -/
def State.Rooted (w : State) (d : Nat) (z : Graph) : Prop :=
  ∀ e ∈ (w.die d).rootQ, ¬(e.isSeal = false ∧ e.status = 2 ∧ e.queue = z.queue ∧ e.idx = z.leaf)

theorem State.graphDone_of (left : y.left = 0) (todo : y.todo = []) (arrived : ∀ k ∈ y.sent, s.airborne k s.nextJid = false) :
    s.graphDone y = true := by
  have none_on_way : (y.sent.any fun k => s.airborne k s.nextJid) = false := List.any_eq_false.2 fun k mem => by simp [arrived k mem]
  simp [State.graphDone, Graph.complete, left, todo, none_on_way]

/-- A graph is complete and its residue is passed: `w` is the state in which its record is looked at. -/
structure Completes (s : State) (d g : Nat) (y : Graph) (w : State) : Prop where
  here : (s.die d).graphs.entry? g = some y
  done : s.graphDone y = true
  passed : (if y.residued then some s else s.endChans d g y) = some w

/-- The record is written now: it is wanted, was not refused before, and nothing comes before it (R143, R371). -/
def State.RecordDue (s : State) (d g q : Nat) (w : State) (z : Graph) : Prop :=
  z.record = true ∧ z.tried = false ∧ (s.FirstToRecord d g q ∨ z.overlap = true) ∧ w.Rooted d z

theorem State.recordDue_iff {q : Nat} :
    (z.record ∧ !z.tried ∧ (!((s.die d).graphs.any fun e => e.2.queue == q && decide (e.1 < g) && e.2.record) ∨ z.overlap) ∧
      !(w.die d).residueWaits z) ↔ s.RecordDue d g q w z := by
  have first : ((s.die d).graphs.any fun e => e.2.queue == q && decide (e.1 < g) && e.2.record) = false ↔ s.FirstToRecord d g q := by
    simp only [List.any_eq_false, Bool.and_eq_true, beq_iff_eq, decide_eq_true_eq, State.FirstToRecord, Prod.forall, not_and,
      Bool.not_eq_true, and_imp]
  have rooted : (w.die d).residueWaits z = false ↔ w.Rooted d z := by
    simp only [DieSt.residueWaits, List.any_eq_false, Bool.and_eq_true, Bool.not_eq_true', beq_iff_eq, State.Rooted, and_assoc]
  simp only [Bool.not_eq_true', first, rooted, State.RecordDue]

namespace Completes

variable (h : Completes s d g y w)
include h

theorem exec_graphComplete_of_due (due : s.RecordDue d g y.queue w ((w.die d).graphs.look g y)) :
    exec (.graphComplete d g) s = .next (w.writeDone d g ((w.die d).graphs.look g y)) := by
  change execGraphComplete d g s = _
  simp only [execGraphComplete, h.here, h.done, h.passed, Bool.not_true, Bool.false_eq_true, if_false]
  exact if_pos (State.recordDue_iff.2 due)

/-- A graph whose record is not written now frees its channels, and goes when it has no record to write (R344). -/
theorem exec_graphComplete_of_not_due (wait : ¬s.RecordDue d g y.queue w ((w.die d).graphs.look g y)) :
    let z := (w.die d).graphs.look g y
    exec (.graphComplete d g) s = .next (if z.record then w.freeChans d g z
      else (w.freeChans d g z).updDie d fun v => { v with graphs := v.graphs.del g }) := by
  intro z
  change execGraphComplete d g s = _
  simp only [execGraphComplete, h.here, h.done, h.passed, Bool.not_true, Bool.false_eq_true, if_false]
  exact if_neg (mt State.recordDue_iff.1 wait)

end Completes

/-- A record that host memory takes is written; its graph goes, or keeps only its channels (R143). -/
theorem State.writeDone_written (wrote : w.writeRec (w.whoQ d z.queue) z.sig z.bytes = (t, true)) :
    w.writeDone d g z = (t.updDie d fun v =>
      { v with graphs := if z.chans = [] then v.graphs.del g else v.graphs.put g { z with record := false } }).refusalRecorded z := by
  simp only [State.writeDone, wrote]

/-- A record that host memory refuses is kept for the next try (R143). -/
theorem State.writeDone_refused (refused : w.writeRec (w.whoQ d z.queue) z.sig z.bytes = (t, false)) :
    w.writeDone d g z = t.updDie d fun v => { v with graphs := v.graphs.put g { z with tried := true } } := by
  simp only [State.writeDone, refused]

/-- A written record gives the SPAWN that it refused its signal (R220). -/
theorem State.refusalRecorded_owing {u k e : Nat} (owes : y.owes = some (u, k, e)) (sem : e ≠ 0) (mail : e ≠ 16) :
    s.refusalRecorded y = s.updCid u k fun c => { c with semV := c.semV.adj e 0 (· + 1), semP := c.semP.adj e 0 (· - 1) } := by
  simp only [State.refusalRecorded, owes, State.semGain, sem, mail, or_self, if_false]

end Sys2Proof.Machine
end

section
/-!
PROOFS. O48: ends of tasks and graphs, spawns accepted, messages delivered.
-/
namespace Sys2Proof

open Machine

/-- A SPAWN whose header has been read has its graph admitted and is done, or refused: then its job goes and the record to come owes the
signal, where there is one (R220, log 115). -/
theorem exec_spawnAccepted {s r s' t' : State} {u jid : Nat} {j j' : Job} {bs : Bytes} (live : LiveJob s u jid j) (kind : j.kind = .spawn)
    (ready : s.ready u j (s.jobKeys u j) = some r) (header : r.spawnHeader u j = (s', j', .ok bs))
    (launched : s'.launchGraph j'.die j'.queue (wrapN 80 ((fpOf j'.fps j'.a).base + j'.b : Nat)) bs (j'.c == 1)
      (some (u, j'.cid, j'.jid)) = some t') :
    exec (.spawnAccepted u jid) s = .next (
      if (((t'.die j'.die).graphs.entry? (s'.die j'.die).nextGraph).map fun z => z.status != 0 && z.record).getD false then
        (t'.updDie j'.die fun v => { v with graphs := v.graphs.adj (s'.die j'.die).nextGraph Graph.none fun z =>
          { z with owes := some (u, j'.cid, j'.sem) } }).dropJob u j'.jid
      else t'.finishJob u j' none 0 0) := by
  obtain ⟨found, unfaulted, running⟩ := live
  refine s.onJob_live found unfaulted running ?_
  simp only [kind, ne_eq, not_true_eq_false, if_false, ready, Option.bind_some, header, launched, Option.map_some]

theorem exec_mboxLocalDelivery {s : State} {i : Nat} {m : Msg} (here : s.msgs[i]? = some m) (plain : m.request = 0)
    (first : s.msgFirst i m = true) :
    exec (.mboxLocalDelivery i) s = .next (s.deliver i m (s.accept m.die m.mb m.bytes m.sealed)) := by
  change execMboxLocalDelivery i s = _
  simp only [execMboxLocalDelivery, here, plain, first, ne_eq, not_true_eq_false, Bool.not_true, Bool.false_eq_true, or_self, if_false]

/-- Settles O48: a task, a spawn and a message by their definitions; a graph by what its record waits for. -/
theorem completionEvents : Obligations.CompletionEvents := by
  intro s t w d n g u jid i x y j j' bs m
  refine ⟨exec_taskComplete, ?_, fun r s' t' => exec_spawnAccepted, fun k e => State.refusalRecorded_owing, exec_mboxLocalDelivery⟩
  intro here left todo arrived passed z first record rooted
  have h : Completes s d g y w := ⟨here, State.graphDone_of left todo arrived, passed⟩
  refine ⟨?_, ?_, ?_, ?_⟩
  · intro wanted untried turn root wrote
    rw [h.exec_graphComplete_of_due ⟨wanted, untried, turn, root⟩, State.writeDone_written wrote]
  · intro wanted untried turn root refused
    rw [h.exec_graphComplete_of_due ⟨wanted, untried, turn, root⟩, State.writeDone_refused refused]
  · intro wanted waits
    have wait : ¬s.RecordDue d g y.queue w z := by
      rintro ⟨-, untried, turn, root⟩
      rcases waits with tried | ⟨later, ordered⟩ | unrooted
      · simp [tried] at untried
      · exact turn.elim later (by simp [ordered])
      · exact unrooted root
    rw [h.exec_graphComplete_of_not_due wait, if_pos wanted]
  · intro unwanted
    have unrecorded : ¬z.record = true := by simp [unwanted]
    have wait : ¬s.RecordDue d g y.queue w z := fun due => unrecorded due.1
    rw [h.exec_graphComplete_of_not_due wait, if_neg unrecorded]

end Sys2Proof
end

section
/-!
PROOFS. The events of the supervisor's registers (R238, R239).
-/
namespace Sys2Proof.Machine

variable {s : State} {d q u idx val cap : Nat}

theorem exec_xinv (ok : csrIdxOk d 0x40 idx = true) : exec (.xinv d idx val) s = .next (s.xinv d idx val) :=
  congrArg Host.Outcome.next (if_pos ok)

theorem exec_qrootWrite (idxOk : csrIdxOk d 0x11 q = true) (valOk : s.csrValOk d 0x11 q val = true) :
    exec (.qrootWrite d q val) s = .next (s.setQroot d q val) :=
  congrArg Host.Outcome.next (if_pos (Bool.and_eq_true_iff.2 ⟨idxOk, valOk⟩))

theorem exec_ufenceClear (ofDie : u < 128) : exec (.ufenceClear d u) s = .next (s.ufenceClear (d * 128 + u)) :=
  congrArg Host.Outcome.next (if_pos ofDie)

theorem exec_ufenceSet (ofDie : u < 128) : exec (.ufenceSet d u) s = .next (s.fenceUnit (d * 128 + u) 4) :=
  congrArg Host.Outcome.next (if_pos ofDie)

theorem exec_qctlEnable (ofDie : q < 4096) (off : (s.queue d q).en = false) : exec (.qctlEnable d q) s = .next (s.enableQueue d q) :=
  congrArg Host.Outcome.next (if_pos ⟨ofDie, by simp [off]⟩)

theorem exec_qctlDisable (ofDie : q < 4096) (on : (s.queue d q).en = true) : exec (.qctlDisable d q) s = .next (s.disableQueue d q) :=
  congrArg Host.Outcome.next (if_pos ⟨ofDie, on⟩)

theorem exec_poolcfgWrite (ok : s.poolOk d idx val = true) : exec (.poolcfgWrite d idx val) s = .next (s.setPool d idx val) :=
  congrArg Host.Outcome.next (if_pos ok)

theorem exec_statrd (ok : s.statTrap d cap = none) : exec (.statrd d cap) s = .next (s.popStat d cap).1 :=
  congrArg Host.Outcome.next (if_neg (by simp [ok]))

end Sys2Proof.Machine
end

section
/-!
PROOFS. The messages of the configuration mailbox (R340, R374), and what the bytes of a route table say.
-/
namespace Sys2Proof.Machine

theorem bit_toNat {w : Nat} (x : BitVec w) (i : Nat) : bit x.toNat i = x.getLsbD i := by
  rw [BitVec.getLsbD, Nat.testBit_eq_decide_div_mod_eq]
  rfl

theorem fld_low (v n : Nat) : fld v 0 n = v % 2 ^ n := by rw [fld, Nat.pow_zero, Nat.div_one]

/-- One byte a chip: bit 7 marks the route as valid, and the port is one of the 20 of the module (R340). -/
theorem State.mem_routeTable {s : State} {place pa chip port : Nat} : (chip, port) ∈ s.routeTable place pa ↔
    chip < 2 ^ 20 ∧ ∃ key, placeKey place (pa + chip) = some key ∧ (s.mem.read key).getLsbD 7 = true ∧
      port = (s.mem.read key).toNat % 32 ∧ port < 20 := by
  simp only [State.routeTable, List.mem_filterMap, List.mem_range, bit_toNat, fld_low]
  constructor
  · rintro ⟨c, lt, entry⟩
    split at entry
    · next key at_key =>
      split at entry
      · next routed =>
        obtain ⟨rfl, rfl⟩ := Prod.mk.inj (Option.some.inj entry)
        exact ⟨lt, key, at_key, routed.1, rfl, routed.2⟩
      · cases entry
    · cases entry
  · rintro ⟨lt, key, at_key, valid, rfl, known⟩
    refine ⟨chip, lt, ?_⟩
    simp only [at_key]
    rw [if_pos ⟨valid, known⟩]
    rfl

variable {s : State} {d i : Nat} {m : Msg}

/-- SETCHIP before the chip identifier is set. -/
theorem exec_setchip (asked : s.configMsg d 1 = some (i, m)) (unset : s.chipSet = false) :
    exec (.setchip d) s = .next (s.deliver i m (some { s with chipId := fld (leAt m.bytes 4 4) 0 20, chipSet := true })) := by
  change execSetchip d s = _
  simp only [execSetchip, asked, unset, Bool.false_eq_true, if_false]

theorem exec_setroute (asked : s.configMsg d 2 = some (i, m)) :
    let place := fld (leAt m.bytes 8 8) 0 3
    let pa := fld (leAt m.bytes 8 8) 16 36 * 2 ^ 16
    exec (.setroute d) s = .next ((s.deliver i m (some ((s.countVA d ((List.range (2 ^ 14)).filterMap fun b =>
      placeKey place (pa + 64 * b))).updDie d fun x => { x with routes := s.routeTable place pa }))).flushWaiting d) := by
  intro place pa
  change execSetroute d s = _
  simp only [execSetroute, asked]
  rfl

/-- RETRAIN of a port of the die: a dead one begins its training. -/
theorem exec_retrain (asked : s.configMsg d 3 = some (i, m)) (ofDie : leAt m.bytes 4 1 / 5 = d) (known : leAt m.bytes 4 1 < 20) :
    exec (.retrain d) s = .next (s.deliver i m (some (s.updPort (leAt m.bytes 4 1) fun x => if x.dead then { x with training := true } else x))) := by
  change execRetrain d s = _
  simp only [execRetrain, asked, ofDie, known, and_self, if_true]

end Sys2Proof.Machine
end

section
/-!
PROOFS. O51: the supervisor's registers and the configuration mailbox.
-/
namespace Sys2Proof

open Machine

/-- Settles O51: each register's event by its guard, each message by its definition, the route table byte by byte. -/
theorem configurationEvents : Obligations.ConfigurationEvents := by
  intro s d q u n idx val cap i m
  refine ⟨exec_xinv, exec_qrootWrite, rfl, rfl, fun ofDie => ⟨exec_ufenceClear ofDie, exec_ufenceSet ofDie⟩, exec_qctlEnable,
    exec_qctlDisable, exec_poolcfgWrite, exec_statrd, exec_setchip, fun asked => ?_, fun _ _ _ _ => State.mem_routeTable, exec_retrain⟩
  rw [← fld_low]
  exact exec_setroute asked

end Sys2Proof
end

section
/-!
PROOFS. Parts of a job by themselves (R164, R180, R258): what a number from 65536 on stands for (log 125).
-/
namespace Sys2Proof.Machine

variable {s : State} {u k : Nat} {j : Job}

theorem JobKind.out_iff {k : JobKind} : k.out = true ↔ k = .copyOut ∨ k = .copyAcc ∨ k = .scatter ∨ k = .stg ∨ k = .atomic := by
  cases k <;> simp [JobKind.out]

theorem State.partOf_chunk (kind : j.kind = .copyIn ∨ j.kind = .gather ∨ j.kind = .tmove) (lt : k < 65536) :
    s.partOf u j k = s.arrive u j k := by
  rcases kind with kind | kind | kind <;> simp only [State.partOf, kind, lt, if_true]

theorem State.partOf_read (kind : j.kind = .copyIn ∨ j.kind = .gather ∨ (j.kind = .routine ∧ j.phase = 1)) :
    s.partOf u j (65536 + k) = s.readAhead u j k := by
  have past : ¬65536 + k < 65536 := by omega
  rcases kind with kind | kind | ⟨kind, running⟩
  · simp only [State.partOf, kind, past, if_false, Nat.add_sub_cancel_left]
  · simp only [State.partOf, kind, past, if_false, Nat.add_sub_cancel_left]
  · simp only [State.partOf, kind, running, past, ne_eq, not_true_eq_false, or_self, if_false, Nat.add_sub_cancel_left]

theorem State.partOf_write (out : j.kind.out = true) : s.partOf u j (65536 + k) = s.arriveEl u j k := by
  have past : ¬65536 + k < 65536 := by omega
  rcases JobKind.out_iff.1 out with kind | kind | kind | kind | kind <;>
    simp only [State.partOf, kind, past, if_false, Nat.add_sub_cancel_left]

/-- A digest whose chunks are all known, other than the VD of AUX, is TD over them (R364, R369). -/
theorem TdWait.value_known {w : TdWait} (tile : w.pos ≠ 3) (known : ∀ c ∈ w.cells, c.isSome = true) :
    w.value = some (tdOf w.desc ((w.cells.filterMap id).map Prod.fst)) := by
  have all_known : w.cells.any Option.isNone = false := List.any_eq_false.2 fun c mem => by
    rw [Option.isNone_eq_false_iff.2 (known c mem)]; exact Bool.false_ne_true
  simp only [TdWait.value, all_known, tile, Bool.false_eq_true, if_false]

/-- RESULT in the leaf of a tile job is what the first of its digests has come to (R369). -/
theorem Job.res_inLeaf {w : TdWait} {ws : List TdWait} (waits : j.tds = w :: ws) : j.inLeaf.res = w.value.getD noDigest := by
  simp only [Job.inLeaf, waits, LeafRec.withValid]

/-! What the list of the crossings that ask for tokens leaves alone (R415). -/

theorem State.unit_reqs (rs : List (Nat × Nat)) (v : Nat) : ({ s with sec := { s.sec with reqs := rs } } : State).unit v = s.unit v := rfl

theorem State.sendBad_reqs (rs : List (Nat × Nat)) (x : Job) :
    ({ s with sec := { s.sec with reqs := rs } } : State).sendBad x = s.sendBad x := rfl

theorem State.crossRefused_reqs (rs : List (Nat × Nat)) (b : Nat) :
    ({ s with sec := { s.sec with reqs := rs } } : State).crossRefused b = s.crossRefused b := rfl

end Sys2Proof.Machine
end

section
/-!
PROOFS. The events of copy and store jobs: what a live job's event comes to once its guard holds (R258, R268, R272, R274).
-/
namespace Sys2Proof

open Machine

/-- A live job's event that acts goes to where it acts. -/
theorem LiveJob.onJob {s t : State} {u jid : Nat} {j : Job} {f : Job → Option State} (live : LiveJob s u jid j) (acts : f j = some t) :
    s.onJob u jid f = .next t := by
  obtain ⟨found, unfaulted, running⟩ := live
  exact s.onJob_live found unfaulted running acts

namespace LiveJob

variable {s t w : State} {u jid k : Nat} {j j' : Job} {tile : TileRef} (live : LiveJob s u jid j)
include live

theorem exec_chunkArrives (acts : s.partOf u j k = some t) : exec (.chunkArrives u jid k) s = .next t := live.onJob acts

/-- A tile job with no chunk left to land, a gather only once it is closed, completes with its leaf (R258, R263). -/
theorem exec_tileJobComplete (dst : j.dst = some tile) (landed : j.left = [])
    (kind : j.kind = .copyIn ∨ (j.kind = .gather ∧ j.closed = true) ∨ j.kind = .tmove) :
    exec (.tileJobComplete u jid) s = .next (s.finishJob u j (some j.inLeaf) (s.slot tile).len (s.slot tile).seq) := by
  refine live.onJob ?_
  rcases kind with kind | ⟨kind, closed⟩ | kind
  · simp [kind, dst, landed]
  · simp [kind, dst, landed, closed]
  · simp [kind, dst, landed]

theorem exec_ldgComplete (kind : j.kind = .ldg) (ready : s.ready u j (s.jobKeys u j) = some w) (done : w.doLdg u j = .done t j') :
    exec (.ldgComplete u jid) s = .next (t.finishJob u j' none 0 0) := by
  refine live.onJob ?_
  simp only [kind, ready, done, ne_eq, not_true_eq_false, if_false]

theorem exec_ovlComplete (kind : j.kind = .ovl) (ready : s.ready u j (s.jobKeys u j) = some w) (done : w.runOvl u j = .done t j') :
    exec (.ovlComplete u jid) s = .next (t.finishJob u j' none 0 0) := by
  refine live.onJob ?_
  simp only [kind, ready, done, ne_eq, not_true_eq_false, if_false]

/-- A job other than the tree engine's stops at the fault that it finds now (R258, R274). -/
theorem exec_jobFault (kind : j.kind ≠ .audit) (faults : s.jobFaultNow u j = some t) : exec (.jobFault u jid) s = .next t := by
  refine live.onJob ?_
  split
  · next audit => exact absurd audit kind
  · exact faults

/-- An out job that has performed completes behind its egress record (R417), an atomic with its result (R282). -/
theorem exec_outJobComplete (out : j.kind.out = true) (done : s.perform u j = .done t j') (logged : t.logEgress u j' = some w) :
    exec (.outJobComplete u jid) s =
      .next ((w.deliverReg u j').finishJob u j' j'.outLeaf (j'.stored.length * shWidth j'.shape / 8) j'.seq) := by
  refine live.onJob ?_
  simp only [out, done, logged, Bool.not_true, Bool.false_eq_true, if_false, Option.map_some]

end LiveJob

/-- A crossing that asks when no other does is first in the order of requests: it gets its tokens and goes on (R415). -/
theorem exec_crossingGrant {s t : State} {u jid b : Nat} {x : Job} (alone : s.sec.reqs = []) (running : (s.unit u).freeze = 0)
    (wants : s.wantsToken u jid = some (x, b)) (good : s.sendBad x = none) (allowed : s.crossRefused b = false)
    (granted : ({ s with sec := { s.sec with reqs := [(u, jid)] } } : State).cross u x b = some t) :
    exec (.crossingGrant u jid) s = .next { t with sec := { t.sec with reqs := t.sec.reqs.drop 1 } } := by
  change execCrossingGrant u jid s = _
  simp only [execCrossingGrant, wants, alone, List.filter_nil, List.contains_nil, Option.isNone_some, Bool.or_self, Bool.false_eq_true,
    if_false, List.nil_append, List.head?_cons, ne_eq, not_true_eq_false, State.unit_reqs, State.sendBad_reqs, State.crossRefused_reqs,
    running, good, allowed, granted]

end Sys2Proof
end

section
/-!
PROOFS. O43: the events of copy and store jobs.
-/
namespace Sys2Proof

open Machine

/-- Settles O43: each event by its guard, its part of the job by its number, RESULT by the chunks that the job's digest has come to know. -/
theorem memoryJobEvents : Obligations.MemoryJobEvents := by
  constructor
  · intro s t u jid j j' tile live
    refine ⟨fun k lt kind arrives => ?_, fun k kind reads => ?_, live.exec_tileJobComplete, fun w ws waits result known => ?_,
      fun s' => live.exec_ldgComplete, fun s' => live.exec_ovlComplete, live.exec_jobFault⟩
    · exact live.exec_chunkArrives ((State.partOf_chunk kind lt).trans arrives)
    · exact live.exec_chunkArrives ((State.partOf_read kind).trans reads)
    · rw [Job.res_inLeaf waits, TdWait.value_known (by omega) known, Option.getD_some]
  · intro s t v u jid j j' x b
    refine ⟨fun k live out arrives => ?_, fun live out done logged => ?_, exec_crossingGrant⟩
    · exact live.exec_chunkArrives ((State.partOf_write out).trans arrives)
    · rw [live.exec_outJobComplete out done logged]
      cases result : j'.dreg with
      | none => simp only [State.deliverReg, result]
      | some dest => simp only [State.deliverReg, result]

end Sys2Proof
end

section
/-!
PROOFS. Operations of one slot that write registers and do nothing else: the scalar class and PLOG (R192, R424).
-/
namespace Sys2Proof

open Machine Laws

/-- An operation whose slot makes no check, waits for nothing and only writes registers has the row of these writes. -/
theorem writeRow_holds {i : Instr} {q : Nat} {eff : State → State} {writes : State → List RegWrite}
    (slot : semOf i = some { i := i, q := q, eff := eff }) (task : supervisorOp i = false)
    (acts : ∀ t, eff t = t.setCur ((writes t).foldl (fun c x => c.write x.dest x.val x.bound x.flags) t.cur)) :
    RegRow.Holds { i := i, q := q, writes := writes } :=
  regRow_holds _ { i := i, q := q, eff := eff } rfl rfl (fun s _ => exec_issue slot s fun high => absurd (task.symm.trans high) Bool.false_ne_true)
    (fun _ _ => rfl) rfl rfl rfl rfl rfl rfl rfl rfl fun t _ => acts t

/-- A scalar operation has the row of its result. -/
theorem scalarRow_holds {i : Instr} {qp sd l : Nat} {f : State → Res} {v : Ctx → Word} {flags : Ctx → Nat}
    (slot : semOf i = some (alu i qp sd l f)) (task : supervisorOp i = false) (result : ∀ t, f t = (v t.cur, flags t.cur)) :
    (scalarRow i qp sd l v flags).Holds :=
  writeRow_holds slot task fun t => by
    simp only [result]
    rfl

end Sys2Proof
end

section
/-!
PROOFS. O1: the values of the scalar operations, and what each one writes.
-/
namespace Sys2Proof

namespace Machine

/-! ## Division (R195): which case gives the value, and which the flag -/

theorem divS_eq (a b : Word) : divS a b =
    (if a.toInt = -(2 ^ 63) ∧ b.toInt = -1 then a else BitVec.ofInt 64 (Int.tdiv a.toInt b.toInt),
      if a.toInt = -(2 ^ 63) ∧ b.toInt = -1 then 0 else BitVec.ofInt 64 (a.toInt - Int.tdiv a.toInt b.toInt * b.toInt),
      decide (a.toInt = -(2 ^ 63) ∧ b.toInt = -1)) := by
  unfold divS sv wd
  split
  · next overflows => rw [decide_eq_true overflows]
  · next fits => rw [decide_eq_false fits]

theorem divRes_eq (a b : Word) : divRes a b =
    (if b = 0 then BitVec.allOnes 64 else if a.toInt = -(2 ^ 63) ∧ b.toInt = -1 then a else BitVec.ofInt 64 (Int.tdiv a.toInt b.toInt),
      if b = 0 then fDZ else if a.toInt = -(2 ^ 63) ∧ b.toInt = -1 then fIOV else 0) := by
  simp only [divRes, divS_eq, decide_eq_true_eq]
  by_cases zero : b = 0
  · simp only [if_pos zero]
  · simp only [if_neg zero]

theorem remRes_eq (a b : Word) : remRes a b =
    (if b = 0 then a else if a.toInt = -(2 ^ 63) ∧ b.toInt = -1 then 0
        else BitVec.ofInt 64 (a.toInt - Int.tdiv a.toInt b.toInt * b.toInt),
      if b = 0 then fDZ else 0) := by
  simp only [remRes, divS_eq]
  by_cases zero : b = 0
  · simp only [if_pos zero]
  · simp only [if_neg zero]

theorem divnRes_eq (a b : Word) : divnRes a b =
    (if b = 0 then BitVec.allOnes 64 else BitVec.ofNat 64 (a.toNat / b.toNat), if b = 0 then fDZ else 0) := by
  unfold divnRes
  split <;> rfl

theorem remnRes_eq (a b : Word) : remnRes a b =
    (if b = 0 then a else BitVec.ofNat 64 (a.toNat % b.toNat), if b = 0 then fDZ else 0) := by
  unfold remnRes
  split <;> rfl

/-! ## Bit fields and special registers (R200, R202) -/

theorem bfiRes_eq (d a : Word) (pos len : Nat) : bfiRes d a pos len =
    BitVec.ofNat 64 (d.toNat % 2 ^ pos + a.toNat % 2 ^ len * 2 ^ pos + d.toNat / 2 ^ (pos + len) * 2 ^ (pos + len)) := by
  rw [bfiRes, fld_low, fld_low]

end Machine

open Machine Laws

theorem specials_eq (t : State) : specials t = (List.range 6).map (fun k => (k, t.cur.loopIndex k)) ++
    [(8, t.cur.rot), (9, t.cur.flags.toNat), (10, t.curB), (11, t.curU), (12, t.chipId), (13, (t.unit t.curU).cycle), (14, t.cur.placed),
      (15, t.cur.taskId)] := by
  refine congrArg₂ (· ++ ·) (List.map_congr_left fun k _ => congrArg (Prod.mk k) ?_) ?_
  · rw [Ctx.loopIndex]
    cases t.cur.li[k]? <;> rfl
  · rw [Ctx.placed, List.countP_eq_length_filter]

/-- Under each number that is not reserved, the table of special registers has what MOVS reads. -/
theorem find_specials (t : State) : ∀ k ∈ [0, 1, 2, 3, 4, 5, 8, 9, 10, 11, 12, 13, 14, 15],
    (specials t).find? (fun e => e.1 == k) = some (k, t.special k) := by
  rw [specials_eq]
  simp only [List.forall_mem_cons, List.not_mem_nil, false_implies, implies_true, and_true]
  and_intros <;> rfl

/-! ## The rows -/

theorem scalarRows_hold (qp sd sa sb : Nat) : ∀ r ∈ scalarRows qp sd sa sb, r.Holds := by
  simp only [scalarRows, List.forall_mem_cons, List.not_mem_nil, false_implies, implies_true, and_true]
  and_intros <;> refine scalarRow_holds rfl rfl fun t => ?_
  iterate 20 (· rfl)
  · exact divRes_eq _ _
  · exact remRes_eq _ _
  · exact divnRes_eq _ _
  · exact remnRes_eq _ _

theorem immediateRows_hold (qp sd sa imm11 imm16 ext : Nat) : ∀ r ∈ immediateRows qp sd sa imm11 imm16 ext, r.Holds := by
  simp only [immediateRows, List.forall_mem_cons, List.not_mem_nil, false_implies, implies_true, and_true]
  and_intros <;> exact scalarRow_holds rfl rfl fun _ => rfl

theorem fieldRows_hold (qp sd sa sb qs pos lenm1 shift : Nat) : ∀ r ∈ fieldRows qp sd sa sb qs pos lenm1 shift, r.Holds := by
  simp only [fieldRows, List.forall_mem_cons, List.not_mem_nil, false_implies, implies_true, and_true]
  and_intros <;> refine scalarRow_holds rfl rfl fun t => ?_
  iterate 3 (· rfl)
  · exact congrArg (·, 0) (bfiRes_eq _ _ _ _)
  · rfl

theorem specialRows_hold (qp sd : Nat) : ∀ r ∈ specialRows qp sd, r.Holds := by
  refine List.forall_mem_map.2 fun k named => writeRow_holds rfl rfl fun t => ?_
  rw [find_specials t k named]
  rfl

/-- Settles O1: each operation is one result of `alu`; its value is the model's by definition, but for division, BFI and MOVS, whose values
are put in the statement's form. -/
theorem scalarResults : Obligations.ScalarResults :=
  ⟨scalarRows_hold, immediateRows_hold, fun qp sd sa sb qs pos lenm1 shift =>
    List.forall_mem_append.2 ⟨fieldRows_hold qp sd sa sb qs pos lenm1 shift, specialRows_hold qp sd⟩⟩

end Sys2Proof
end

section
/-!
PROOFS. O2: the predicates that CMP, CMPI and PLOG write, and the eight conditions.
-/
namespace Sys2Proof

open Machine

/-- The functions of PLOG are those of the table (R210). -/
theorem plogVal_eq_logicTable (a b : Bool) : ∀ fn ∈ List.range 8, plogVal fn a b = (logicTable a b).getD fn false := by
  decide +revert

theorem predicateRows_hold (qp qt qf sa sb imm5 k ext qa qb : Nat) :
    ∀ r ∈ predicateRows qp qt qf sa sb imm5 k ext qa qb, r.Holds := by
  refine List.forall_mem_append.2 ⟨?_, List.forall_mem_map.2 fun fn named => writeRow_holds rfl rfl fun t => ?_⟩
  · simp only [List.forall_mem_cons, List.not_mem_nil, false_implies, implies_true, and_true]
    and_intros <;> exact writeRow_holds rfl rfl fun _ => rfl
  · rw [← plogVal_eq_logicTable _ _ fn named]
    rfl

/-- Settles O2: a compare is two writes, PLOG one, and each condition is read off its case in `cond`. -/
theorem predicateResults : Obligations.PredicateResults := by
  refine ⟨predicateRows_hold, fun a b => ?_⟩
  exact ⟨beq_iff_eq, bne_iff_ne, decide_eq_true_iff, decide_eq_true_iff, decide_eq_true_iff, decide_eq_true_iff, bne_iff_ne, beq_iff_eq⟩

end Sys2Proof
end

section
/-!
PROOFS. O4: registers read back, and rotation (R190-R192).
-/
namespace Sys2Proof.Machine

theorem Ctx.setReg_zero (c : Ctx) (v : Nat) : c.setReg (.s 0) v = c ∧ c.setReg (.q 0) v = c ∧ c.setReg (.h 0) v = c := ⟨rfl, rfl, rfl⟩

section
variable {c : Ctx} {n m v : Nat} (named : 1 ≤ n)
include named

theorem Ctx.ps_setReg_same : (c.setReg (.s n) v).ps n = BitVec.ofNat 64 v := by
  simp only [Ctx.setReg, Ctx.ps, if_neg (Nat.ne_of_gt named), Map.look_put_same]

theorem Ctx.ps_setReg_other (other : m ≠ n) : (c.setReg (.s n) v).ps m = c.ps m := by
  simp only [Ctx.setReg, Ctx.ps, if_neg (Nat.ne_of_gt named), Map.look_put_other _ _ _ _ _ other]

theorem Ctx.pq_setReg_same : (c.setReg (.q n) v).pq n = (v % 2 == 1) := by
  simp only [Ctx.setReg, Ctx.pq, if_neg (Nat.ne_of_gt named), Map.look_put_same]

theorem Ctx.pq_setReg_other (other : m ≠ n) : (c.setReg (.q n) v).pq m = c.pq m := by
  simp only [Ctx.setReg, Ctx.pq, if_neg (Nat.ne_of_gt named), Map.look_put_other _ _ _ _ _ other]

theorem Ctx.ph_setReg_same : (c.setReg (.h n) v).ph n = BitVec.ofNat 32 v := by
  simp only [Ctx.setReg, Ctx.ph, if_neg (Nat.ne_of_gt named), Map.look_put_same]

theorem Ctx.ph_setReg_other (other : m ≠ n) : (c.setReg (.h n) v).ph m = c.ph m := by
  simp only [Ctx.setReg, Ctx.ph, if_neg (Nat.ne_of_gt named), Map.look_put_other _ _ _ _ _ other]

end

theorem physS_fixed {rot n : Nat} (low : n < 24) : physS rot n = n := if_pos low

theorem physS_rotating {rot n : Nat} (high : 24 ≤ n) : physS rot n = 24 + (n - 24 + rot) % 8 := if_neg (Nat.not_lt.2 high)

theorem physQ_fixed {rot n : Nat} (low : n < 8) : physQ rot n = n := if_pos low

theorem physQ_rotating {rot n : Nat} (high : 8 ≤ n) : physQ rot n = 8 + (n - 8 + rot) % 8 := if_neg (Nat.not_lt.2 high)

/-- Two encoded numbers of one range fall together only where they are the same modulo 8; the ranges do not meet. -/
theorem physS_inj {rot n m : Nat} (hn : n < 32) (hm : m < 32) (same : physS rot n = physS rot m) : n = m := by
  unfold physS at same
  split at same <;> split at same <;> omega

theorem physQ_inj {rot n m : Nat} (hn : n < 16) (hm : m < 16) (same : physQ rot n = physQ rot m) : n = m := by
  unfold physQ at same
  split at same <;> split at same <;> omega

end Sys2Proof.Machine

namespace Sys2Proof

open Machine

/-- Settles O4: the constants by definition, a register by its entry in its map, rotation by its two ranges. -/
theorem registersAndRotation : Obligations.RegistersAndRotation := by
  refine ⟨fun c => ⟨rfl, rfl, rfl, Ctx.setReg_zero c, ?_, ?_, ?_⟩, fun rot n m => ?_⟩
  · exact fun n v named => ⟨Ctx.ps_setReg_same named, fun m => Ctx.ps_setReg_other named⟩
  · exact fun n v named => ⟨Ctx.pq_setReg_same named, fun m => Ctx.pq_setReg_other named⟩
  · exact fun n v named => ⟨Ctx.ph_setReg_same named, fun m => Ctx.ph_setReg_other named⟩
  · exact ⟨physS_fixed, fun high _ => physS_rotating high, physQ_fixed, fun high _ => physQ_rotating high, physS_inj, physQ_inj⟩

end Sys2Proof
end

section
/-!
PROOFS. What the landing of vector results leaves alone: every context but for its registers, flags, results in flight and leaves, and
the queues of every die (R65, R284, R370).
-/
namespace Sys2Proof.Machine

/-- `d` is `c` but for what a landing may write and the leaves that may enter with it. -/
def Ctx.LandsLeaf (c d : Ctx) : Prop :=
  d = { c with s := d.s, q := d.q, h := d.h, flags := d.flags, pend := d.pend, fly := d.fly, leaves := d.leaves }

theorem Ctx.LandsTo.landsLeaf {c d : Ctx} (h : c.LandsTo d) : c.LandsLeaf d := by
  unfold Ctx.LandsTo at h
  unfold Ctx.LandsLeaf
  rw [h]

theorem Ctx.LandsLeaf.refl (c : Ctx) : c.LandsLeaf c := rfl

theorem Ctx.LandsLeaf.trans {c d e : Ctx} (h : c.LandsLeaf d) (k : d.LandsLeaf e) : c.LandsLeaf e := by
  unfold Ctx.LandsLeaf at *
  rw [k, h]

/-- In `t` every context is as in `s` but for a landing, the queues are as in `s`, and the same context is issuing. -/
structure State.LandsTo (s t : State) : Prop where
  unit : t.curU = s.curU
  bank : t.curB = s.curB
  ctx : ∀ u b, (s.ctxAt u b).LandsLeaf (t.ctxAt u b)
  queues : ∀ d, (t.die d).queues = (s.die d).queues

variable {s t w : State}

theorem State.LandsTo.refl (s : State) : s.LandsTo s := ⟨rfl, rfl, fun _ _ => .refl _, fun _ => rfl⟩

theorem State.LandsTo.trans (h : s.LandsTo t) (k : t.LandsTo w) : s.LandsTo w :=
  ⟨k.unit.trans h.unit, k.bank.trans h.bank, fun u b => (h.ctx u b).trans (k.ctx u b), fun d => (k.queues d).trans (h.queues d)⟩

theorem State.LandsTo.cur (h : s.LandsTo t) : s.cur.LandsLeaf t.cur := by
  unfold State.cur
  rw [h.unit, h.bank]
  exact h.ctx _ _

theorem State.LandsTo.queue (h : s.LandsTo t) (d q : Nat) : t.queue d q = s.queue d q := by rw [State.queue, h.queues, State.queue]

theorem State.landsTo_foldl {α : Type} {f : State → α → State} (each : ∀ (s : State) (a : α), s.LandsTo (f s a)) (l : List α) :
    ∀ s : State, s.LandsTo (l.foldl f s) := by
  induction l with
  | nil => exact State.LandsTo.refl
  | cons a l ih => exact fun s => (each s a).trans (ih _)

theorem State.landsTo_updUnit (s : State) (u : Nat) {f : UnitSt → UnitSt} (same : ∀ x, (f x).ctxs = x.ctxs) : s.LandsTo (s.updUnit u f) := by
  refine ⟨rfl, rfl, fun v b => ?_, fun d => rfl⟩
  rw [show (s.updUnit u f).ctxAt v b = s.ctxAt v b from ?_]
  · exact .refl _
  · unfold State.ctxAt
    by_cases h : v = u
    · rw [h, State.unit_updUnit, same]
    · rw [State.unit_updUnit_other _ _ _ _ h]

theorem State.landsTo_updCid (s : State) (u cid : Nat) {f : Ctx → Ctx} (lands : ∀ c : Ctx, c.LandsLeaf (f c)) :
    s.LandsTo (s.updCid u cid f) := by
  unfold State.updCid
  split
  · next v b _ =>
    refine ⟨rfl, rfl, fun u' b' => ?_, fun _ => rfl⟩
    by_cases hu : u' = v
    · by_cases hb : b' = b
      · subst hu hb
        rw [State.ctxAt_setCtx]
        exact lands _
      · subst hu
        rw [State.ctxAt_setCtx_bank _ _ _ _ _ hb]
        exact .refl _
    · rw [State.ctxAt_setCtx_unit _ _ _ _ _ _ hu]
      exact .refl _
  · refine ⟨rfl, rfl, fun _ _ => .refl _, fun d => ?_⟩
    by_cases hd : d = u / 128
    · rw [hd, State.die_updDie]
    · rw [State.die_updDie_other _ _ _ _ hd]

theorem State.landsTo_noteChunks (s : State) (r : TileRef) (ks : List Nat) : s.LandsTo (s.noteChunks r ks) := by
  refine ⟨rfl, rfl, fun u b => ?_, fun _ => rfl⟩
  rw [show (s.noteChunks r ks).ctxAt u b = s.ctxAt u b from ?_]
  · exact .refl _
  · simp only [State.ctxAt, State.unit, State.noteChunks, Map.look, Map.entry_mapv]
    cases Map.entry? s.units u <;> rfl

theorem State.landsTo_landChunks (s : State) (u : Nat) (j : Job) (r : TileRef) : s.LandsTo (s.landChunks u j r) :=
  .trans (t := s.updSlot r _) ⟨rfl, rfl, fun _ _ => .refl _, fun _ => rfl⟩ (State.landsTo_noteChunks _ _ _)

theorem State.landsTo_placeOrWait (s : State) (u : Nat) (j : Job) : s.LandsTo (s.placeOrWait u j) := by
  unfold State.placeOrWait State.jobLeaf
  dsimp only
  split
  · split
    · exact s.landsTo_updCid _ _ fun _ => rfl
    · exact .refl s
  · exact s.landsTo_updUnit _ fun _ => rfl

/-- A vector operation lands (R284). -/
theorem State.landsTo_landVec (s : State) (u : Nat) (j : Job) : s.LandsTo (s.landVec u j) := by
  unfold State.landVec
  refine .trans (State.landsTo_foldl (f := fun s r => s.landChunks u j r) (fun s r => s.landsTo_landChunks u j r)
    (j.dst.toList ++ j.tilesA) s) ?_
  refine .trans ?_ ((State.landsTo_placeOrWait _ _ _).trans (State.landsTo_updUnit _ _ fun _ => rfl))
  split
  · exact State.landsTo_updCid _ _ _ fun c => (c.landsTo_landWhere _).landsLeaf
  · split
    · exact .refl _
    · exact State.landsTo_updCid _ _ _ fun c => rfl

theorem State.landsTo_landVecs (s : State) (u cid : Nat) (p : Job → Bool) : s.LandsTo (s.landVecs u cid p) :=
  State.landsTo_foldl (fun s j => s.landsTo_landVec u j) _ s

/-- The landings before a bundle is presented leave the queues (R65, R284). -/
theorem State.queue_begin (s : State) (d q : Nat) : s.begin.queue d q = s.queue d q := by
  unfold State.begin
  dsimp only
  split
  · rfl
  · exact (s.landsTo_landVecs _ _ _).queue d q

end Sys2Proof.Machine
end

section
/-!
PROOFS. The iteration boundary, and the sequencer's part of a bundle that transfers, starts or leaves a loop, or ends its task
(R61, R204-R209, R219).
-/
namespace Sys2Proof.Machine

/-- A rotating loop turns ROT back by one at its boundary and writes the stage predicate for iteration `i`; another loop does nothing
(R208, R191). -/
def Ctx.turned (c : Ctx) (l : Loop) (i : Nat) : Ctx :=
  if l.rot then
    let r := { c with rot := (c.rot + 7) % 8 }
    r.write (r.dq 8) (if i < l.kern then 1 else 0) 0
  else c

section

variable {addr nx : Nat} {l : Loop} {ls : List Loop}

@[simp] theorem boundary_nil (addr : Nat) (c : Ctx) (nx : Nat) : boundary addr c nx [] = ({ c with li := [] }, nx, false) := rfl

theorem boundary_elsewhere (c : Ctx) (h : ¬(l.start ≤ addr ∧ addr < l.stop ∧ nx = l.stop)) :
    boundary addr c nx (l :: ls) = ({ c with li := l :: ls }, nx, false) := if_neg h

theorem boundary_repeats (c : Ctx) (h : l.start ≤ addr ∧ addr < l.stop ∧ nx = l.stop) (more : l.index + 1 < l.total) :
    boundary addr c nx (l :: ls) =
      ({ c.turned l (l.index + 1) with li := { l with index := l.index + 1 } :: ls }, l.start, true) :=
  (if_pos h).trans (if_pos more)

theorem boundary_leaves (c : Ctx) (h : l.start ≤ addr ∧ addr < l.stop ∧ nx = l.stop) (done : l.total ≤ l.index + 1) :
    boundary addr c nx (l :: ls) =
      ((boundary addr (c.turned l (l.index + 1)) nx ls).1, (boundary addr (c.turned l (l.index + 1)) nx ls).2.1, true) :=
  (if_pos h).trans (if_neg (Nat.not_lt.2 done))

end

/-- `d` is `c` but for the loop entries, ROT and the results in flight with their tickets. -/
def Ctx.TurnsTo (c d : Ctx) : Prop :=
  d = { c with li := d.li, rot := d.rot, fly := d.fly, ticket := d.ticket, tickets := d.tickets }

theorem Ctx.TurnsTo.trans {c d e : Ctx} (h : c.TurnsTo d) (k : d.TurnsTo e) : c.TurnsTo e := by
  unfold Ctx.TurnsTo at *
  rw [k, h]

theorem Ctx.turnsTo_turned (c : Ctx) (l : Loop) (i : Nat) : c.TurnsTo (c.turned l i) := by
  unfold Ctx.turned
  split <;> rfl

/-- The boundary test changes the loop entries, ROT and what is in flight, and nothing else (R208). -/
theorem Ctx.turnsTo_boundary (addr nx : Nat) (ls : List Loop) : ∀ c : Ctx, c.TurnsTo (boundary addr c nx ls).1 := by
  induction ls with
  | nil => exact fun _ => rfl
  | cons l ls ih =>
    intro c
    by_cases h : l.start ≤ addr ∧ addr < l.stop ∧ nx = l.stop
    · by_cases more : l.index + 1 < l.total
      · rw [boundary_repeats c h more]
        exact (c.turnsTo_turned _ _).trans rfl
      · rw [boundary_leaves c h (Nat.not_lt.1 more)]
        exact (c.turnsTo_turned _ _).trans (ih _)
    · rw [boundary_elsewhere c h]
      rfl

/-- What the boundary test reads of a context. -/
structure Ctx.TurnsAlike (c d : Ctx) : Prop where
  rot : c.rot = d.rot
  bundleNo : c.bundleNo = d.bundleNo
  fly : c.fly = d.fly

theorem Ctx.TurnsAlike.turned {c d : Ctx} (h : c.TurnsAlike d) (l : Loop) (i : Nat) : (c.turned l i).TurnsAlike (d.turned l i) := by
  obtain ⟨rot, number, fly⟩ := h
  unfold Ctx.turned
  split
  · exact ⟨by simp [Ctx.write, Ctx.claim, rot], number, by simp [Ctx.write, Ctx.dq, rot, number, fly]⟩
  · exact ⟨rot, number, fly⟩

/-- Two outcomes of the boundary test agree in the loops, ROT, the results in flight, the next address, and in whether a boundary was met. -/
structure TurnsSame (r r' : Ctx × Nat × Bool) : Prop where
  li : r.1.li = r'.1.li
  rot : r.1.rot = r'.1.rot
  fly : r.1.fly = r'.1.fly
  next : r.2.1 = r'.2.1
  met : r.2.2 = r'.2.2

/-- The boundary test depends on what it reads alone (R208). -/
theorem Ctx.TurnsAlike.boundary (addr nx : Nat) (ls : List Loop) :
    ∀ {c d : Ctx}, c.TurnsAlike d → TurnsSame (boundary addr c nx ls) (boundary addr d nx ls) := by
  induction ls with
  | nil => exact fun h => ⟨rfl, h.rot, h.fly, rfl, rfl⟩
  | cons l ls ih =>
    intro c d h
    by_cases here : l.start ≤ addr ∧ addr < l.stop ∧ nx = l.stop
    · by_cases more : l.index + 1 < l.total
      · rw [boundary_repeats c here more, boundary_repeats d here more]
        exact ⟨rfl, (h.turned _ _).rot, (h.turned _ _).fly, rfl, rfl⟩
      · rw [boundary_leaves c here (Nat.not_lt.1 more), boundary_leaves d here (Nat.not_lt.1 more)]
        obtain ⟨li, rot, fly, next, -⟩ := ih (h.turned l (l.index + 1))
        exact ⟨li, rot, fly, next, rfl⟩
    · rw [boundary_elsewhere c here, boundary_elsewhere d here]
      exact ⟨rfl, h.rot, h.fly, rfl, rfl⟩

/-- A test that meets no boundary changes nothing (R208). -/
theorem boundary_of_not_met {addr nx : Nat} {c : Ctx} {ls : List Loop} (quiet : (boundary addr c nx ls).2.2 = false) :
    boundary addr c nx ls = ({ c with li := ls }, nx, false) := by
  cases ls with
  | nil => rfl
  | cons l ls =>
    by_cases here : l.start ≤ addr ∧ addr < l.stop ∧ nx = l.stop
    · by_cases more : l.index + 1 < l.total
      · simp [boundary_repeats c here more] at quiet
      · simp [boundary_leaves c here (Nat.not_lt.1 more)] at quiet
    · exact boundary_elsewhere c here

/-! ## The sequencer's part -/

/-- A context as its bundle is counted, with loop entries `ls`: nothing is under presentation or asked any more. -/
def Ctx.counted (c : Ctx) (ls : List Loop) : Ctx :=
  { c with bundleNo := c.bundleNo + 1, pres := none, after := .none, last := .issued, stall := 0, brkSkip := none, li := ls }

theorem Ctx.turnsAlike_counted {c d : Ctx} {ls : List Loop} (rot : c.rot = d.rot) (number : c.bundleNo + 1 = d.bundleNo) (fly : c.fly = d.fly) :
    (c.counted ls).TurnsAlike d := ⟨rot, number, fly⟩

/-- Where a bundle goes on, before pads and the boundary test, and the loop entries then: as it has asked (R205, R207, R209). -/
def Ctx.heading (c : Ctx) (p : Pres) : Nat × List Loop :=
  match c.after with
  | .jump a => (a, c.li)
  | .pushLoop l => (p.addr + p.len, l :: c.li)
  | .lbreak => ((c.li.head?.map (·.stop)).getD (p.addr + p.len), c.li.tail)
  | _ => (p.addr + p.len, c.li)

theorem Ctx.heading_jump {c : Ctx} {a : Nat} (asks : c.after = .jump a) (p : Pres) : c.heading p = (a, c.li) := by rw [Ctx.heading, asks]

theorem Ctx.heading_pushLoop {c : Ctx} {l : Loop} (asks : c.after = .pushLoop l) (p : Pres) : c.heading p = (p.addr + p.len, l :: c.li) := by
  rw [Ctx.heading, asks]

theorem Ctx.heading_lbreak {c : Ctx} (asks : c.after = .lbreak) (p : Pres) :
    c.heading p = ((c.li.head?.map (·.stop)).getD (p.addr + p.len), c.li.tail) := by rw [Ctx.heading, asks]

theorem Ctx.heading_taskend {c : Ctx} (asks : c.after = .taskend) (p : Pres) : c.heading p = (p.addr + p.len, c.li) := by
  rw [Ctx.heading, asks]

/-- The outcome of the boundary test after a bundle, at the address past line pads (R56, R208). -/
def State.tested (t : State) (p : Pres) : Ctx × Nat × Bool :=
  boundary p.addr (t.cur.counted (t.cur.heading p).2)
    (skipPads (t.codeByte t.curU t.cur) 65536 (t.cur.heading p).1).1 (t.cur.heading p).2

/-- The current context after a bundle that ends its group: at the address the test gives, or at the bundle while a fence stalls it. -/
def State.moved (t : State) (p : Pres) : Ctx :=
  { (t.tested p).1 with
    grp := [], grpFrom := none, inRun := false
    pc := if (t.tested p).1.fencing.isSome then p.addr else (t.tested p).2.1
    fencing := (t.tested p).1.fencing.map fun f => { f with next := (t.tested p).2.1 }
    lbuf := if (t.tested p).1.li.length = t.cur.li.length then (t.tested p).1.lbuf else [] }

variable {t : State} {p : Pres}

theorem State.turnsTo_tested (t : State) (p : Pres) : (t.cur.counted (t.cur.heading p).2).TurnsTo (t.tested p).1 :=
  Ctx.turnsTo_boundary _ _ _ _

theorem State.fencing_tested (t : State) (p : Pres) : (t.tested p).1.fencing = t.cur.fencing := by
  rw [t.turnsTo_tested p]
  rfl

theorem State.pc_moved (runs : t.cur.fencing = none) : (t.moved p).pc = (t.tested p).2.1 :=
  if_neg (by rw [State.fencing_tested, runs]; simp)

@[simp] theorem State.li_moved (t : State) (p : Pres) : (t.moved p).li = (t.tested p).1.li := rfl

@[simp] theorem State.fly_moved (t : State) (p : Pres) : (t.moved p).fly = (t.tested p).1.fly := rfl

@[simp] theorem State.grp_moved (t : State) (p : Pres) : (t.moved p).grp = [] := rfl

/-- The sequencer moves a context on with nothing of it changed but what sequences bundles, the loops and ROT. -/
theorem State.ctxFrame_moved (runs : t.cur.fencing = none) :
    CtxFrame { t.cur with li := (t.moved p).li, rot := (t.moved p).rot, lbuf := (t.moved p).lbuf } (t.moved p) := by
  have frame := t.turnsTo_tested p
  unfold Ctx.TurnsTo Ctx.counted at frame
  unfold CtxFrame State.moved
  rw [frame]
  simp [runs]

theorem State.die_moved (t : State) (p : Pres) : (t.moved p).die = t.cur.die := by
  change (t.tested p).1.die = _
  rw [t.turnsTo_tested p]
  rfl

theorem State.preempt_moved (t : State) (p : Pres) : (t.moved p).preempt = t.cur.preempt := by
  change (t.tested p).1.preempt = _
  rw [t.turnsTo_tested p]
  rfl

theorem State.bundleNo_moved (t : State) (p : Pres) : (t.moved p).bundleNo = t.cur.bundleNo + 1 := by
  change (t.tested p).1.bundleNo = _
  rw [t.turnsTo_tested p]
  rfl

theorem State.q_moved (t : State) (p : Pres) : (t.moved p).q = t.cur.q := by
  change (t.tested p).1.q = _
  rw [t.turnsTo_tested p]
  rfl

theorem State.shadow_moved (t : State) (p : Pres) : (t.moved p).shadow = t.cur.shadow := by
  change (t.tested p).1.shadow = _
  rw [t.turnsTo_tested p]
  rfl

/-- The machine after a transfer: the context has moved, and the debug rings note it (R245). -/
def State.transferred (t : State) (p : Pres) : State :=
  (t.setCur (t.moved p)).trace t.curU t.curB (t.moved p) 4 p.addr (t.tested p).2.1

@[simp] theorem State.cur_transferred (t : State) (p : Pres) : (t.transferred p).cur = t.moved p := by simp [State.transferred]

/-- The boundary test of the sequencer is made where the bundle heads. -/
theorem State.tested_of_heading {a : Nat} {ls : List Loop} (head : t.cur.heading p = (a, ls)) :
    boundary p.addr (t.cur.counted ls) (skipPads (t.codeByte t.curU (t.cur.counted ls)) 65536 a).1 ls =
      t.tested p := by
  rw [State.tested, head]
  rfl

variable {ops : List Instr}

/-- A bundle that asks for a transfer takes it; at a boundary a pending pre-emption lands, and then a stall swap that is due
(R133, R205, R208). -/
theorem State.finishBundle_jump (stop : p.stop = true) {a : Nat} (asks : t.cur.after = .jump a) : t.finishBundle p ops =
    if (t.tested p).2.2 then (t.transferred p).preemptLands.stallLands else (t.transferred p).stallLands := by
  have test := State.tested_of_heading (Ctx.heading_jump asks p)
  unfold Ctx.counted at test
  unfold State.finishBundle
  simp only [asks, stop, test]
  simp [State.transferred, State.moved]

/-- A bundle that starts a loop goes on in it, its entry pushed (R207). -/
theorem State.finishBundle_pushLoop (stop : p.stop = true) {l : Loop} (asks : t.cur.after = .pushLoop l) : t.finishBundle p ops =
    if (t.tested p).2.2 then (t.setCur (t.moved p)).preemptLands.stallLands else (t.setCur (t.moved p)).stallLands := by
  have test := State.tested_of_heading (Ctx.heading_pushLoop asks p)
  unfold Ctx.counted at test
  unfold State.finishBundle
  simp only [asks, stop, test]
  simp [State.moved]

/-- A bundle that leaves the innermost loop goes on at its end: a point at which a pending pre-emption lands (R138, R209). -/
theorem State.finishBundle_lbreak (stop : p.stop = true) (asks : t.cur.after = .lbreak) :
    t.finishBundle p ops = (t.transferred p).preemptLands.stallLands := by
  have test := State.tested_of_heading (Ctx.heading_lbreak asks p)
  unfold Ctx.counted at test
  unfold State.finishBundle
  simp only [asks, stop, test]
  simp [State.transferred, State.moved]

/-- The context that a TASKEND with syllable `w` leaves: at its bundle, at the first step of its end (R219). -/
def State.ended (t : State) (p : Pres) (w : Nat) : Ctx := { t.moved p with pc := p.addr, status := .ending, endPhase := 1, endW := w }

theorem State.preempt_ended (t : State) (p : Pres) (w : Nat) : (t.ended p w).preempt = t.cur.preempt := State.preempt_moved t p

theorem State.bundleNo_ended (t : State) (p : Pres) (w : Nat) : (t.ended p w).bundleNo = t.cur.bundleNo + 1 := State.bundleNo_moved t p

/-- The machine after a TASKEND: its context is ending, and the debug rings note it (R219, R245). -/
def State.taskEnded (t : State) (p : Pres) (w : Nat) : State :=
  (t.setCur (t.ended p w)).trace t.curU t.curB (t.moved p) 3 p.addr p.addr

@[simp] theorem State.cur_taskEnded (t : State) (p : Pres) (w : Nat) : (t.taskEnded p w).cur = t.ended p w := by simp [State.taskEnded]

/-- A bundle that ends its task leaves the context at it, ending (R219). -/
theorem State.finishBundle_taskend (stop : p.stop = true) (asks : t.cur.after = .taskend) :
    ∃ w, t.finishBundle p ops = (t.taskEnded p w).preemptLands.stallLands := by
  have test := State.tested_of_heading (Ctx.heading_taskend asks p)
  unfold Ctx.counted at test
  unfold State.finishBundle
  simp only [asks, stop, test]
  exact ⟨_, by simp [State.taskEnded, State.ended, State.moved]; rfl⟩

end Sys2Proof.Machine
end

section
/-!
PROOFS. The effects of the operations that steer the sequencer: transfers, loop starts and LBREAK (R205, R207, R209).
-/
namespace Sys2Proof.Machine

/-- The context as its bundle asks the sequencer for `a`. -/
def Ctx.asking (c : Ctx) (a : After) : Ctx := { c with after := a }

/-- `d` is `c` but for what it asks of the sequencer, its place in the dependence group, and results in flight with their tickets. -/
def Ctx.AsksFrom (c d : Ctx) : Prop :=
  d = { c with fly := d.fly, ticket := d.ticket, tickets := d.tickets, after := d.after, pres := d.pres, grpFrom := d.grpFrom }

theorem Ctx.AsksFrom.trans {c d e : Ctx} (h : c.AsksFrom d) (k : d.AsksFrom e) : c.AsksFrom e := by
  unfold Ctx.AsksFrom at *
  rw [k, h]

@[simp] theorem Ctx.li_asking (c : Ctx) (a : After) : (c.asking a).li = c.li := rfl

@[simp] theorem Ctx.q_asking (c : Ctx) (a : After) : (c.asking a).q = c.q := rfl

@[simp] theorem Ctx.rot_asking (c : Ctx) (a : After) : (c.asking a).rot = c.rot := rfl

@[simp] theorem Ctx.bundleNo_asking (c : Ctx) (a : After) : (c.asking a).bundleNo = c.bundleNo := rfl

@[simp] theorem Ctx.fencing_asking (c : Ctx) (a : After) : (c.asking a).fencing = c.fencing := rfl

@[simp] theorem Ctx.preempt_asking (c : Ctx) (a : After) : (c.asking a).preempt = c.preempt := rfl

@[simp] theorem Ctx.fly_asking (c : Ctx) (a : After) : (c.asking a).fly = c.fly := rfl

theorem Ctx.asksFrom_asking (c : Ctx) (a : After) : c.AsksFrom (c.asking a) := rfl

theorem Ctx.AsksFrom.codeByte {r : State} {c : Ctx} (h : r.cur.AsksFrom c) : r.codeByte r.curU c = r.codeByte r.curU r.cur := by
  unfold Ctx.AsksFrom at h
  rw [h]
  rfl

/-- The context after the link of a call (R205). -/
def Ctx.linked (c : Ctx) (lnk : Bool) (n : Nat) : Ctx := if lnk then c.write (.s 23) n 1 else c

theorem Ctx.fly_linked (c : Ctx) (lnk : Bool) (n : Nat) :
    (c.linked lnk n).fly = c.fly ++ if lnk then [⟨c.bundleNo, c.bundleNo + 1, .s 23, n, 0⟩] else [] := by
  cases lnk
  · exact (List.append_nil _).symm
  · rfl

theorem Ctx.asksFrom_linked (c : Ctx) (lnk : Bool) (n : Nat) : c.AsksFrom (c.linked lnk n) := by cases lnk <;> rfl

/-- The context after the stage predicate that a LOOPR writes (R208). -/
def Ctx.staged (c : Ctx) (rot : Bool) (k : Nat) : Ctx := if rot then c.write (c.dq 8) (if 0 < k then 1 else 0) 1 else c

theorem Ctx.fly_staged (c : Ctx) (rot : Bool) (k : Nat) : (c.staged rot k).fly = c.fly ++ if rot then
    [⟨c.bundleNo, c.bundleNo + 1, .q (physQ c.rot 8), if 0 < k then 1 else 0, 0⟩] else [] := by
  cases rot
  · exact (List.append_nil _).symm
  · rfl

theorem Ctx.asksFrom_staged (c : Ctx) (rot : Bool) (k : Nat) : c.AsksFrom (c.staged rot k) := by cases rot <;> rfl

end Sys2Proof.Machine

namespace Sys2Proof

open Machine Laws

/-- The address after the bundle of `i`. -/
def behind (s : State) (i : Instr) : Nat := s.begin.cur.pc + 1 + i.syl.bytes.length

section Shown

variable (s : State) (i : Instr)

@[simp] theorem issAddr_shown : (shown s i).issAddr = s.begin.cur.pc := by simp [State.issAddr, presOf]

@[simp] theorem issNext_shown : (shown s i).issNext = behind s i := by
  simp [State.issNext, presOf, behind, Nat.add_assoc]

@[simp] theorem li_shown : (shown s i).cur.li = s.begin.cur.li := by rw [shown_cur]

@[simp] theorem rot_shown : (shown s i).cur.rot = s.begin.cur.rot := by rw [shown_cur]

@[simp] theorem preempt_shown : (shown s i).cur.preempt = s.begin.cur.preempt := by rw [shown_cur]

@[simp] theorem q_shown : (shown s i).cur.q = s.begin.cur.q := by rw [shown_cur]

@[simp] theorem fly_shown : (shown s i).cur.fly = s.begin.cur.fly := by rw [shown_cur]

@[simp] theorem rs_shown (n : Nat) : (shown s i).cur.rs n = s.begin.cur.rs n := by rw [shown_cur]; rfl

/-- The bundle asks the sequencer after an effect on its context alone. -/
theorem ask_updCur_shown (f : Ctx → Ctx) (a : After) :
    ((shown s i).updCur f).ask a = s.begin.setCur ((f (shown s i).cur).asking a) := by
  simp [State.ask, State.updCur, Ctx.asking]

end Shown

/-- Setting the context that issues to one that fetches its code alike leaves the bytes of the code (R168). -/
theorem tested_setCur {r : State} {c : Ctx} (code : r.codeByte r.curU c = r.codeByte r.curU r.cur) (p : Pres) :
    (r.setCur c).tested p = boundary p.addr (c.counted (c.heading p).2)
      (skipPads (r.codeByte r.curU r.cur) 65536 (c.heading p).1).1 (c.heading p).2 := by
  unfold State.tested
  rw [State.cur_setCur, State.setCur_curU, codeByte_setCur, code]

theorem asksFrom_shown (s : State) (i : Instr) : s.begin.cur.AsksFrom (shown s i).cur := by
  rw [shown_cur]
  rfl

/-- What a bundle asks for that steers the sequencer. -/
inductive Steers : After → Prop where
  | jump (a : Nat) : Steers (.jump a)
  | pushLoop (l : Loop) : Steers (.pushLoop l)
  | lbreak : Steers .lbreak

/-- A slot whose effect is on the issuing context alone: it puts results in flight and steers the sequencer. -/
def Steered (s : State) (o : SlotSem) : Prop :=
  ∃ c, effect s o = s.begin.setCur c ∧ s.begin.cur.AsksFrom c ∧ Steers c.after

variable {s : State} {i : Instr} {q : Nat}

/-- No fence stalls a context whose bundle is ready. -/
theorem runs_of_ready (ready : Ready s i q) : s.begin.cur.fencing = none := by
  obtain ⟨-, -, -, runs, -⟩ := ready
  exact runs

/-! ## Transfers -/

section Transfer

variable {lnk : Bool} {tgt : State → Nat}

/-- The context that a transfer leaves to the sequencer. -/
def leaving (s : State) (i : Instr) (lnk : Bool) (target : Nat) : Ctx :=
  ((shown s i).cur.linked lnk (behind s i)).asking (.jump target)

theorem effect_transfer : effect s (transfer i q lnk tgt) = s.begin.setCur (leaving s i lnk (tgt (shown s i))) := by
  unfold leaving
  rw [← issNext_shown s i]
  cases lnk
  · exact shown_setCur _ _ _
  · exact ask_updCur_shown s i (fun c => c.write (.s 23) (shown s i).issNext 1) _

theorem asksFrom_leaving (s : State) (i : Instr) (lnk : Bool) (target : Nat) : s.begin.cur.AsksFrom (leaving s i lnk target) :=
  ((asksFrom_shown s i).trans (Ctx.asksFrom_linked _ _ _)).trans (Ctx.asksFrom_asking _ _)

theorem fly_leaving (s : State) (i : Instr) (lnk : Bool) (target : Nat) : (leaving s i lnk target).fly = s.begin.cur.fly ++ if lnk then
    [⟨s.begin.cur.bundleNo, s.begin.cur.bundleNo + 1, .s 23, behind s i, 0⟩] else [] := by
  rw [leaving, Ctx.fly_asking, Ctx.fly_linked, fly_shown, bundleNo_shown]

theorem steered_transfer : Steered s (transfer i q lnk tgt) := ⟨_, effect_transfer, asksFrom_leaving _ _ _ _, .jump _⟩

theorem issuable_transfer (ready : Ready s i q) : Issuable s (transfer i q lnk tgt) :=
  ⟨ready, faultOf_nil _ _, rfl, rfl, rfl, rfl, .inl rfl⟩

end Transfer

/-! ## Loop starts -/

section LoopStart

variable {len epi : Nat} {rot : Bool} {count : State → Nat}

/-- The context that a loop start with `k` iterations leaves to the sequencer, which is asked for `a`. -/
def starting (s : State) (i : Instr) (rot : Bool) (k : Nat) (a : After) : Ctx := ((shown s i).cur.staged rot k).asking a

theorem asksFrom_starting (s : State) (i : Instr) (rot : Bool) (k : Nat) (a : After) : s.begin.cur.AsksFrom (starting s i rot k a) :=
  ((asksFrom_shown s i).trans (Ctx.asksFrom_staged _ _ _)).trans (Ctx.asksFrom_asking _ _)

/-- The stage predicate that a LOOPR with `k` iterations has in flight, through ROT (R208). -/
def stageFly (s : State) (rot : Bool) (k : Nat) : List Fly :=
  if rot then [⟨s.begin.cur.bundleNo, s.begin.cur.bundleNo + 1, .q (physQ s.begin.cur.rot 8), if 0 < k then 1 else 0, 0⟩] else []

theorem fly_starting (s : State) (i : Instr) (rot : Bool) (k : Nat) (a : After) :
    (starting s i rot k a).fly = s.begin.cur.fly ++ stageFly s rot k := by
  rw [starting, Ctx.fly_asking, Ctx.fly_staged, fly_shown, bundleNo_shown, rot_shown, stageFly]

theorem kept_starting (s : State) (i : Instr) (rot : Bool) (k : Nat) (a : After) :
    (starting s i rot k a).li = s.begin.cur.li ∧ (starting s i rot k a).rot = s.begin.cur.rot ∧
      (starting s i rot k a).bundleNo = s.begin.cur.bundleNo ∧ (starting s i rot k a).fencing = s.begin.cur.fencing := by
  have asks := asksFrom_starting s i rot k a
  unfold Ctx.AsksFrom at asks
  rw [asks]
  exact ⟨rfl, rfl, rfl, rfl⟩

/-- What a loop start with `k` iterations and `epi` more asks for (R207). -/
def loopAsk (n len k epi : Nat) (rot : Bool) : After :=
  if k + epi = 0 then .jump (n + len) else .pushLoop ⟨n, n + len, k + epi, k, 0, rot⟩

theorem loopAsk_skips {n len k epi : Nat} {rot : Bool} (h : k + epi = 0) : loopAsk n len k epi rot = .jump (n + len) := if_pos h

theorem loopAsk_runs {n len k epi : Nat} {rot : Bool} (h : 0 < k + epi) :
    loopAsk n len k epi rot = .pushLoop ⟨n, n + len, k + epi, k, 0, rot⟩ := if_neg (by omega)

theorem effect_loopStart : effect s (loopStart i q len epi rot count) = s.begin.setCur (starting s i rot (count (shown s i))
    (loopAsk (behind s i) len (count (shown s i)) epi rot)) := by
  have asked (a : After) : (if rot then (shown s i).updCur fun c => c.write (c.dq 8) (if 0 < count (shown s i) then 1 else 0) 1
      else shown s i).ask a = s.begin.setCur (starting s i rot (count (shown s i)) a) := by
    cases rot
    · exact shown_setCur _ _ _
    · exact ask_updCur_shown s i (fun c => c.write (c.dq 8) (if 0 < count (shown s i) then 1 else 0) 1) _
  rw [← issNext_shown s i, ← asked, loopAsk]
  exact (apply_ite _ _ _ _).symm

theorem steered_loopStart : Steered s (loopStart i q len epi rot count) := by
  refine ⟨_, effect_loopStart, asksFrom_starting _ _ _ _ _, ?_⟩
  change Steers (loopAsk _ _ _ _ _)
  unfold loopAsk
  split
  · exact .jump _
  · exact .pushLoop _

end LoopStart

/-! ## LBREAK -/

theorem effect_lbreak : effect s (semLbreak q) = s.begin.setCur ((shown s (.lbreak q)).cur.asking .lbreak) :=
  shown_setCur _ _ _

theorem steered_lbreak : Steered s (semLbreak q) := ⟨_, effect_lbreak, (asksFrom_shown _ _).trans (Ctx.asksFrom_asking _ _), .lbreak⟩

end Sys2Proof
end

section
/-!
PROOFS. O22, O19, O20: the boundary test, transfers, and what the operations that steer the sequencer leave alone.
-/
namespace Sys2Proof

open Machine Laws

/-- Settles O22: the three branches of the boundary test. -/
theorem loopBoundary : Obligations.LoopBoundary := by
  intro addr nx c l ls
  refine ⟨boundary_elsewhere c, boundary_repeats c, fun here done => ?_⟩
  rw [boundary_leaves c here done]
  exact ⟨rfl, rfl, rfl⟩

section Quiet

variable {t : State} {p : Pres} {ops : List Instr}

/-- With no debug ring on a trace record goes nowhere (R245). -/
theorem ringRecord_off {d q : Nat} (off : (t.queue d q).dbg = 0) (rec : Bytes) : t.ringRecord d q rec = t := by
  unfold State.ringRecord
  simp [off, fld]

theorem trace_off {c : Ctx} (off : ∀ q, (t.queue c.die q).dbg = 0) (u b k x y : Nat) : t.trace u b c k x y = t := by
  unfold State.trace State.debugRecord
  generalize (t.die c.die).holders c.queue 2 = l
  induction l with
  | nil => rfl
  | cons h l ih => rw [List.foldl_cons, ringRecord_off (off h), ih]

theorem preemptLands_of_calm (calm : t.cur.preempt = false) : t.preemptLands = t := by
  unfold State.preemptLands
  rw [calm]
  rfl

theorem transferred_off (off : ∀ q, (t.queue t.cur.die q).dbg = 0) : t.transferred p = t.setCur (t.moved p) :=
  trace_off (by rw [State.die_moved]; exact off) _ _ _ _ _

/-- With no debug ring on and no pre-emption pending the sequencer's part of a bundle that steers it moves the context on, and a stall swap
that is due lands (R61, R133). -/
theorem finishBundle_steers (steers : Steers t.cur.after) (stop : p.stop = true) (off : ∀ q, (t.queue t.cur.die q).dbg = 0)
    (calm : t.cur.preempt = false) : t.finishBundle p ops = (t.setCur (t.moved p)).stallLands := by
  have still : (t.setCur (t.moved p)).preemptLands = t.setCur (t.moved p) :=
    preemptLands_of_calm (by rw [State.cur_setCur, State.preempt_moved, calm])
  generalize asks : t.cur.after = a at steers
  cases steers with
  | jump a => rw [State.finishBundle_jump stop asks, transferred_off off, still, ite_self]
  | pushLoop l => rw [State.finishBundle_pushLoop stop asks, still, ite_self]
  | lbreak => rw [State.finishBundle_lbreak stop asks, transferred_off off, still]

end Quiet

/-- The sequencer's part of a bundle that asks it leaves everything but the loops, ROT and what sequences bundles. -/
theorem frame_of_asksFrom {c : Ctx} {t : State} {p : Pres} (asks : c.AsksFrom t.cur) (runs : c.fencing = none) :
    CtxFrame { c with li := (t.moved p).li, rot := (t.moved p).rot, lbuf := (t.moved p).lbuf } (t.moved p) ∧
      (t.moved p).shadow = c.shadow := by
  unfold Ctx.AsksFrom at asks
  have frame := t.ctxFrame_moved (p := p) (by rw [asks]; exact runs)
  unfold CtxFrame at frame ⊢
  rw [asks] at frame
  exact ⟨frame, by rw [State.shadow_moved, asks]⟩

theorem steered_of_slot {s : State} {i : Instr} {o w : SlotSem} (steered : Steered s o) (own : semOf i = some o) (slot : semOf i = some w) :
    Steered s w := Option.some.inj (own.symm.trans slot) ▸ steered

/-- Every operation that transfers, starts a loop or leaves one acts on the issuing context alone, and steers the sequencer. -/
theorem steered_of_mem {qp disp21 ext sa len cnt10 epi : Nat} (s : State) :
    ∀ i ∈ [Instr.br qp disp21, .brExt qp disp21 ext, .call qp disp21, .callExt qp disp21 ext, .brs qp sa, .calls qp sa, .loop qp sa len,
      .loopi qp cnt10 len, .loopiExt qp cnt10 len ext, .loopr qp sa epi len, .lbreak qp], ∀ o, semOf i = some o → Steered s o := by
  simp only [List.forall_mem_cons, List.not_mem_nil, false_implies, implies_true, and_true]
  have transfers {i : Instr} {lnk : Bool} {tgt : State → Nat} (own : semOf i = some (transfer i qp lnk tgt)) :
      ∀ o, semOf i = some o → Steered s o := fun o => steered_of_slot steered_transfer own
  have starts {i : Instr} {e : Nat} {rot : Bool} {count : State → Nat} (own : semOf i = some (loopStart i qp len e rot count)) :
      ∀ o, semOf i = some o → Steered s o := fun o => steered_of_slot steered_loopStart own
  exact ⟨transfers rfl, transfers rfl, transfers rfl, transfers rfl, transfers rfl, transfers rfl, starts rfl, starts rfl, starts rfl,
    starts rfl, fun o => steered_of_slot steered_lbreak rfl⟩

/-- Settles O20: the effect is on the context alone, and so is the sequencer's part. -/
theorem controlOperationsFrame : Obligations.ControlOperationsFrame := by
  intro qp disp21 ext sa len cnt10 epi s i mem o slot ok calm off
  obtain ⟨c, eff, asks, steers⟩ := steered_of_mem s i mem o slot
  obtain ⟨-, -, -, runs, -⟩ := ok.1
  have left : (effect s o).cur = c := by rw [eff, State.cur_setCur]
  have kept : c.die = s.begin.cur.die ∧ c.preempt = s.begin.cur.preempt := by
    unfold Ctx.AsksFrom at asks
    rw [asks]
    exact ⟨rfl, rfl⟩
  have off' : ∀ q, ((effect s o).queue (effect s o).cur.die q).dbg = 0 := by
    intro q
    rw [left, kept.1, eff]
    exact (congrArg QueueSt.dbg (State.queue_begin s _ q)).trans (off q)
  refine ⟨(effect s o).moved (presOf s o.i), ?_, frame_of_asksFrom (left ▸ asks) runs⟩
  rw [issues_of_all_task rfl i mem o slot s ok (by simp), issued,
    finishBundle_steers (left ▸ steers) rfl off' (by rw [left, kept.2, calm]), eff, State.setCur_setCur]

/-- A transfer outside loops that is ready goes to its target (R205). -/
theorem exec_transfer {s : State} {i : Instr} {q : Nat} {lnk : Bool} {tgt : State → Nat} {target : Nat}
    (issues : exec i s = s.issue1 (transfer i q lnk tgt)) (goes : tgt (shown s i) = target) (ready : Ready s i q)
    (outside : s.begin.cur.li = []) :
    ∃ t : State, exec i s = .next t.stallLands ∧ t.cur.pc = (skipPads (s.begin.codeByte s.begin.curU s.begin.cur) 65536 target).1 ∧
      t.cur.grp = [] ∧ t.cur.fly = s.begin.cur.fly ++ if lnk then
        [⟨s.begin.cur.bundleNo, s.begin.cur.bundleNo + 1, .s 23, behind s i, 0⟩] else [] := by
  let e := effect s (transfer i q lnk tgt)
  have eff : e = s.begin.setCur (leaving s i lnk target) := by rw [← goes]; exact effect_transfer
  have left : e.cur = leaving s i lnk target := by rw [eff, State.cur_setCur]
  have asks := asksFrom_leaving s i lnk target
  have kept : (leaving s i lnk target).li = [] ∧ e.cur.fencing = none := by
    unfold Ctx.AsksFrom at asks
    rw [left, asks]
    exact ⟨outside, runs_of_ready ready⟩
  have heads : (leaving s i lnk target).heading (presOf s i) = (target, []) := by rw [← kept.1]; rfl
  have test : e.tested (presOf s i) = boundary (presOf s i).addr ((leaving s i lnk target).counted [])
      (skipPads (s.begin.codeByte s.begin.curU s.begin.cur) 65536 target).1 [] := by
    rw [eff, tested_setCur asks.codeByte, heads]
  have done : issued s (transfer i q lnk tgt) = if (e.tested (presOf s i)).2.2 then (e.transferred (presOf s i)).preemptLands.stallLands
      else (e.transferred (presOf s i)).stallLands := State.finishBundle_jump rfl (congrArg Ctx.after left)
  refine ⟨e.transferred (presOf s i), ?_, ?_, congrArg Ctx.grp (State.cur_transferred _ _), ?_⟩
  · rw [issues, issue1_issuable (issuable_transfer ready), done, test]
    rfl
  · rw [State.cur_transferred, State.pc_moved kept.2, test]
    rfl
  · rw [State.cur_transferred, State.fly_moved, test]
    exact fly_leaving s i lnk target

/-- Settles O19: the six transfers are `transfer`, with or without the link. -/
theorem transfersGoToTheirTarget : Obligations.TransfersGoToTheirTarget := by
  intro qp disp21 ext sa s pc rel reg
  simp only [List.forall_mem_cons, List.not_mem_nil, false_implies, implies_true, and_true]
  have target (i : Instr) (d : Int) : (shown s i).target d = rel d := by rw [State.target, issAddr_shown]
  have register (i : Instr) : ((shown s i).cur.rs sa).toNat = reg := by rw [rs_shown]
  exact ⟨exec_transfer (lnk := false) rfl (target _ _), exec_transfer (lnk := false) rfl (target _ _),
    exec_transfer (lnk := true) rfl (target _ _), exec_transfer (lnk := true) rfl (target _ _),
    exec_transfer (lnk := false) rfl (register _), exec_transfer (lnk := true) rfl (register _)⟩

end Sys2Proof
end

section
/-!
PROOFS. O21, O23: loop starts and LBREAK.
-/
namespace Sys2Proof

open Machine Laws

/-- A failed check of an operation that needs no level is raised as its bundle is presented (R424). -/
theorem exec_of_failed_check {s : State} {i : Instr} {o : SlotSem} {t : Trap} (slot : semOf i = some o) (free : supervisorOp i = false)
    (ready : Ready s i o.q) (quiet : o.obs = fun _ => []) (failed : o.check (shown s i) = some t) (own : t.engine = false) :
    exec i s = .next (raised s i (slotTrap s i t)) :=
  faultsAreRaisedBeforeIssue.2 i o s t slot (by simp [free]) ready (by rw [quiet]; exact faultOf_nil _ _) failed own

/-- What the sequencer leaves of a context that no fence stalls, where the outcome of the boundary test agrees with `b`. -/
theorem moved_of_turnsSame {t : State} {p : Pres} {b : Ctx × Nat × Bool} (same : TurnsSame (t.tested p) b) (runs : t.cur.fencing = none) :
    (t.moved p).li = b.1.li ∧ (t.moved p).pc = b.2.1 ∧ (t.moved p).rot = b.1.rot ∧ (t.moved p).fly = b.1.fly :=
  ⟨same.li, (State.pc_moved runs).trans same.next, same.rot, same.fly⟩

/-! ## LBREAK -/

/-- With a loop active a LBREAK that is ready pops it, and the boundary test is made at its end for the loop around it (R209). -/
theorem exec_lbreak {s : State} {q : Nat} {l : Loop} {ls : List Loop} (ready : Ready s (.lbreak q) q) (loop : s.begin.cur.li = l :: ls) :
    let p := presOf s (.lbreak q)
    let e := effect s (semLbreak q)
    exec (.lbreak q) s = .next (e.transferred p).preemptLands.stallLands ∧ e.cur.fencing = none ∧ (e.moved p).q = s.begin.cur.q ∧
      TurnsSame (e.tested p) (boundary s.begin.cur.pc { s.begin.cur with bundleNo := s.begin.cur.bundleNo + 1, li := ls }
        (skipPads (s.begin.codeByte s.begin.curU s.begin.cur) 65536 l.stop).1 ls) := by
  intro p e
  have left : e.cur = (shown s (.lbreak q)).cur.asking .lbreak := by rw [show e = _ from effect_lbreak, State.cur_setCur]
  have asks := (asksFrom_shown s (.lbreak q)).trans (Ctx.asksFrom_asking _ .lbreak)
  have heads : ((shown s (.lbreak q)).cur.asking .lbreak).heading p = (l.stop, ls) := by
    rw [Ctx.heading_lbreak rfl, Ctx.li_asking, li_shown, loop]
    rfl
  refine ⟨?_, ?_, ?_, ?_⟩
  · have active : (semLbreak q).check (shown s (.lbreak q)) = none := if_neg (by rw [li_shown, loop]; simp)
    have ok : Issuable s (semLbreak q) := ⟨ready, faultOf_nil _ _, active, rfl, rfl, rfl, .inl rfl⟩
    have done : issued s (semLbreak q) = (e.transferred p).preemptLands.stallLands :=
      State.finishBundle_lbreak rfl (congrArg Ctx.after left)
    exact (issue1_issuable ok).trans (congrArg _ done)
  · rw [left, Ctx.fencing_asking, fencing_shown, runs_of_ready ready]
  · rw [State.q_moved, left, Ctx.q_asking, q_shown]
  · rw [show e = _ from effect_lbreak, tested_setCur asks.codeByte, heads]
    exact (Ctx.turnsAlike_counted (by simp) (by simp) (by simp)).boundary _ _ _

/-- Settles O23: with no loop active the check fails; else the sequencer pops the innermost entry. -/
theorem lbreakPopsTheLoop : Obligations.LbreakPopsTheLoop := by
  refine fun qp s ready => ⟨fun idle => ?_, fun l ls loop => ?_⟩
  · exact exec_of_failed_check rfl rfl ready rfl (if_pos (by rw [li_shown, idle]; rfl)) rfl
  · intro nx b
    obtain ⟨issues, runs, preds, same⟩ := exec_lbreak ready loop
    obtain ⟨li, pc, rot, fly⟩ := moved_of_turnsSame same runs
    refine ⟨_, issues, ?_⟩
    rw [State.cur_transferred]
    refine ⟨li, pc, rot, fly, preds, fun quiet => ?_⟩
    rw [li, pc, rot, fly, boundary_of_not_met quiet]
    exact ⟨rfl, rfl, rfl, rfl⟩

/-! ## Loop starts -/

section LoopStart

variable {s : State} {i : Instr} {q len epi k : Nat} {rot : Bool} {count : State → Nat}

theorem loopCheck_shown (s : State) (i : Instr) (len : Nat) : loopCheck (shown s i).cur len = loopCheck s.begin.cur len := by
  simp only [loopCheck, li_shown]

theorem loopCheck_passes {c : Ctx} (some_bytes : 1 ≤ len) (fits : len ≤ 1024) (room : c.li.length < 6) : loopCheck c len = none := by
  rw [loopCheck, if_neg (by omega), if_neg (by omega), if_neg (by omega)]

theorem issuable_loopStart (ready : Ready s i q) (passes : loopCheck s.begin.cur len = none) :
    Issuable s (loopStart i q len epi rot count) :=
  ⟨ready, faultOf_nil _ _, (loopCheck_shown s i len).trans passes, rfl, rfl, rfl, .inl rfl⟩

theorem addr_add_len_presOf (s : State) (i : Instr) : (presOf s i).addr + (presOf s i).len = behind s i := (Nat.add_assoc _ _ _).symm

theorem afterBundle_shown (s : State) (i : Instr) : afterBundle (shown s i) (presOf s i) =
    (skipPads (s.begin.codeByte s.begin.curU s.begin.cur) 65536 (behind s i)).1 := by
  have code : (shown s i).codeByte (shown s i).curU (shown s i).cur = s.begin.codeByte s.begin.curU s.begin.cur :=
    (codeByte_setCur _ _ _).trans (asksFrom_shown s i).codeByte
  rw [afterBundle, code, addr_add_len_presOf]

/-- A loop start that is ready and has an iteration to run goes on in its body, its entry pushed (R207). -/
theorem exec_loopStart_runs (issues : exec i s = s.issue1 (loopStart i q len epi rot count)) (counts : count (shown s i) = k)
    (ready : Ready s i q) (passes : loopCheck s.begin.cur len = none) (some_left : 0 < k + epi) :
    ∃ t : State, exec i s = .next t.stallLands ∧
      t.cur.li = ⟨behind s i, behind s i + len, k + epi, k, 0, rot⟩ :: s.begin.cur.li ∧ t.cur.grp = [] ∧
      t.cur.pc = afterBundle (shown s i) (presOf s i) ∧ t.cur.fly = s.begin.cur.fly ++ stageFly s rot k := by
  let e := effect s (loopStart i q len epi rot count)
  let entry : Loop := ⟨behind s i, behind s i + len, k + epi, k, 0, rot⟩
  let c := starting s i rot k (.pushLoop entry)
  obtain ⟨li, -, -, fencing⟩ := kept_starting s i rot k (.pushLoop entry)
  have eff : e = s.begin.setCur c := by
    rw [show e = _ from effect_loopStart, counts, loopAsk_runs some_left]
  have left : e.cur = c := by rw [eff, State.cur_setCur]
  have heads : c.heading (presOf s i) = (behind s i, entry :: s.begin.cur.li) := by
    rw [Ctx.heading_pushLoop rfl, li, addr_add_len_presOf]
  have before : ¬entry.start ≤ (presOf s i).addr := Nat.not_le.2 (by simp only [entry, behind, presOf]; omega)
  have test : e.tested (presOf s i) = (c.counted (entry :: s.begin.cur.li), afterBundle (shown s i) (presOf s i), false) := by
    rw [eff, tested_setCur (asksFrom_starting s i rot k _).codeByte, heads, boundary_elsewhere _ fun here => before here.1,
      afterBundle_shown]
    rfl
  have done : issued s (loopStart i q len epi rot count) = if (e.tested (presOf s i)).2.2
      then (e.setCur (e.moved (presOf s i))).preemptLands.stallLands else (e.setCur (e.moved (presOf s i))).stallLands :=
    State.finishBundle_pushLoop rfl (congrArg Ctx.after left)
  refine ⟨e.setCur (e.moved (presOf s i)), ?_, ?_⟩
  · rw [issues, issue1_issuable (issuable_loopStart ready passes), done, test]
    rfl
  · rw [State.cur_setCur, State.li_moved, State.fly_moved, State.grp_moved,
      State.pc_moved (by rw [left, fencing, runs_of_ready ready]), test]
    exact ⟨rfl, rfl, rfl, fly_starting s i rot k (.pushLoop entry)⟩

/-- A loop start that is ready and has no iteration to run goes to the end of its body, where the boundary test is made for the loop around
it (R207, R208). -/
theorem exec_loopStart_skips (issues : exec i s = s.issue1 (loopStart i q len epi rot count)) (counts : count (shown s i) = k)
    (ready : Ready s i q) (passes : loopCheck s.begin.cur len = none) (none_left : k + epi = 0) :
    let stop := (skipPads (s.begin.codeByte s.begin.curU s.begin.cur) 65536 (behind s i + len)).1
    let b := boundary s.begin.cur.pc { s.begin.cur with bundleNo := s.begin.cur.bundleNo + 1, fly := s.begin.cur.fly ++ stageFly s rot k } stop
      s.begin.cur.li
    ∃ t : State, exec i s = .next (if b.2.2 then t.preemptLands.stallLands else t.stallLands) ∧
      t.cur.li = b.1.li ∧ t.cur.pc = b.2.1 ∧ t.cur.rot = b.1.rot ∧ t.cur.fly = b.1.fly ∧
      (s.begin.cur.li = [] → t.cur.li = [] ∧ t.cur.pc = stop ∧ t.cur.fly = s.begin.cur.fly ++ stageFly s rot k) := by
  intro stop b
  let e := effect s (loopStart i q len epi rot count)
  let c := starting s i rot k (.jump (behind s i + len))
  obtain ⟨li', rot', number, fencing⟩ := kept_starting s i rot k (.jump (behind s i + len))
  have eff : e = s.begin.setCur c := by
    rw [show e = _ from effect_loopStart, counts, loopAsk_skips none_left]
  have left : e.cur = c := by rw [eff, State.cur_setCur]
  have heads : c.heading (presOf s i) = (behind s i + len, s.begin.cur.li) := by rw [Ctx.heading_jump rfl, li']
  have same : TurnsSame (e.tested (presOf s i)) b := by
    rw [eff, tested_setCur (asksFrom_starting s i rot k _).codeByte, heads]
    refine (Ctx.turnsAlike_counted ?_ ?_ ?_).boundary _ _ _
    · exact rot'
    · exact congrArg (· + 1) number
    · exact fly_starting s i rot k _
  have done : issued s (loopStart i q len epi rot count) = if (e.tested (presOf s i)).2.2
      then (e.transferred (presOf s i)).preemptLands.stallLands else (e.transferred (presOf s i)).stallLands :=
    State.finishBundle_jump rfl (congrArg Ctx.after left)
  obtain ⟨li, pc, rot, fly⟩ := moved_of_turnsSame same (by rw [left, fencing, runs_of_ready ready])
  refine ⟨e.transferred (presOf s i), ?_, ?_⟩
  · rw [issues, issue1_issuable (issuable_loopStart ready passes), done, same.met]
  · rw [State.cur_transferred]
    refine ⟨li, pc, rot, fly, fun outside => ?_⟩
    rw [li, pc, fly]
    simp only [b, outside, boundary_nil, and_self]

/-- The three faults of a loop start, in their order: no body, a body above 1,024 bytes, a seventh loop (R207). -/
theorem loopStart_faults (slot : semOf i = some (loopStart i q len epi rot count)) (free : supervisorOp i = false) (ready : Ready s i q) :
    (len = 0 → exec i s = .next (raised s i (slotTrap s i { cause := 3, reason := 4 }))) ∧
    (1024 < len → exec i s = .next (raised s i (slotTrap s i { cause := 7 }))) ∧
    (1 ≤ len → len ≤ 1024 → 6 ≤ s.begin.cur.li.length → exec i s = .next (raised s i (slotTrap s i { cause := 6 }))) := by
  have fails {t : Trap} (own : t.engine = false) (failed : loopCheck s.begin.cur len = some t) :
      exec i s = .next (raised s i (slotTrap s i t)) :=
    exec_of_failed_check slot free ready rfl ((loopCheck_shown s i len).trans failed) own
  refine ⟨fun empty => fails rfl (if_pos empty), fun long => fails rfl ?_, fun some_bytes fits full => fails rfl ?_⟩
  · rw [loopCheck, if_neg (by omega), if_pos long]
    rfl
  · rw [loopCheck, if_neg (by omega), if_neg (by omega), if_pos full]
    rfl

end LoopStart

/-- Settles O21: the four loop starts are `loopStart`, which pushes an entry, skips its body or fails its check. -/
theorem loopStarts : Obligations.LoopStarts := by
  refine ⟨fun qp sa len cnt10 ext epi s => ?_, fun qp sa len cnt10 ext epi s => ?_⟩
  · intro reg
    have register (i : Instr) : ((shown s i).cur.rs sa).toNat = reg := by rw [rs_shown]
    have starts {i : Instr} {k e : Nat} {rot : Bool} {count : State → Nat} (issues : exec i s = s.issue1 (loopStart i qp len e rot count))
        (counts : count (shown s i) = k) (ready : Ready s i qp) (some_bytes : 1 ≤ len) (fits : len ≤ 1024)
        (room : s.begin.cur.li.length < 6) :=
      And.intro (exec_loopStart_runs issues counts ready (loopCheck_passes some_bytes fits room))
        (exec_loopStart_skips issues counts ready (loopCheck_passes some_bytes fits room))
    intro x mem
    simp only [List.mem_cons, List.not_mem_nil, or_false] at mem
    obtain rfl | rfl | rfl | rfl := mem
    · exact starts rfl (register _)
    · exact starts rfl rfl
    · exact starts rfl rfl
    · exact starts rfl (register _)
  · simp only [List.forall_mem_cons, List.not_mem_nil, false_implies, implies_true, and_true]
    exact ⟨loopStart_faults rfl rfl, loopStart_faults rfl rfl, loopStart_faults rfl rfl, loopStart_faults rfl rfl⟩

end Sys2Proof
end

section
/-!
PROOFS. O24: SEMSIG and SEMWAIT.
-/
namespace Sys2Proof.Machine

/-- The context with its semaphores at the values `V`. -/
def Ctx.withSems (c : Ctx) (V : Map Nat) : Ctx := { c with semV := V }

@[simp] theorem Ctx.after_withSems (c : Ctx) (V : Map Nat) : (c.withSems V).after = c.after := rfl

@[simp] theorem Ctx.fencing_withSems (c : Ctx) (V : Map Nat) : (c.withSems V).fencing = c.fencing := rfl

@[simp] theorem Ctx.li_withSems (c : Ctx) (V : Map Nat) : (c.withSems V).li = c.li := rfl

theorem State.codeByte_withSems (t : State) (u : Nat) (c : Ctx) (V : Map Nat) : t.codeByte u (c.withSems V) = t.codeByte u c := rfl

/-- The note of a hold in a tile's stamp leaves the context that issues (R245). -/
@[simp] theorem State.cur_noteHold (s : State) (u : Nat) (c : Ctx) (r : TileRef) : (s.noteHold u c r).cur = s.cur := by
  unfold State.noteHold
  dsimp only
  split <;> rfl

/-- The notes of a hold in the stamps of tiles that have not arrived leave the context that issues (R245). -/
theorem State.cur_noteHolds (l : List TileRef) (s : State) :
    (l.foldl (fun s r => if (s.slot r).whole then s else s.noteHold s.curU s.cur r) s).cur = s.cur := by
  induction l generalizing s with
  | nil => rfl
  | cons r l ih =>
    rw [List.foldl_cons, ih]
    split
    · rfl
    · exact s.cur_noteHold _ _ _

end Sys2Proof.Machine

namespace Sys2Proof

open Machine Laws

variable {s : State} {o : SlotSem}

@[simp] theorem semV_shown (s : State) (i : Instr) : (shown s i).cur.semV = s.begin.cur.semV := by rw [shown_cur]

/-- A bundle that sets the semaphores of its context alone and does not end an iteration: the context goes on, changed in nothing else but
what sequences bundles (R213). -/
theorem exec_withSems {i : Instr} {V : Map Nat} (slot : semOf i = some o) (free : supervisorOp i = false) (ok : Issuable s o)
    (inside : atLoopEnd (shown s i) (presOf s i) = false) (eff : effect s o = s.begin.setCur ((shown s i).cur.withSems V)) :
    ∃ c, exec i s = .next (s.begin.setCur c).stallLands ∧ CtxFrame { s.begin.cur with semV := c.semV } c ∧
      c.semV = V ∧ c.fly = s.begin.cur.fly ∧ c.shadow = s.begin.cur.shadow ∧ c.ticket = s.begin.cur.ticket ∧
      c.tickets = s.begin.cur.tickets := by
  obtain rfl := semOf_i slot
  obtain ⟨-, -, plain, runs, -⟩ := ok.1
  have left : (effect s o).cur = (shown s o.i).cur.withSems V := by rw [eff, State.cur_setCur]
  have inside' : atLoopEnd (effect s o) (presOf s o.i) = false := by
    rw [eff, ← shown_setCur s o.i, atLoopEnd_setCur _ _ _ (State.codeByte_withSems _ _ _ V) (Ctx.li_withSems _ V), inside]
  refine ⟨goOn (effect s o) (presOf s o.i), ?_, ?_⟩
  · rw [exec_issue slot s (by simp [free]), issue1_issuable ok, issued,
      finishBundle_plain _ _ _ (by rw [left, Ctx.after_withSems, after_shown, plain]) rfl inside', eff, State.setCur_setCur]
  · unfold CtxFrame goOn
    rw [left, Ctx.fencing_withSems, fencing_shown, runs, Ctx.withSems, shown_cur]
    simp

/-- SEMWAIT waits just while VALUE is below what it takes: the note of its wait changes no semaphore (R214, R245). -/
theorem hold_semwait {qp e n : Nat} :
    (semSemwait qp e n).hold (hooked s (semSemwait qp e n)) = decide (s.begin.cur.semV.look e 0 < n) := by
  have same : (hooked s (semSemwait qp e n)).cur = (shown s (.semwait qp e n)).cur := by
    change (ite _ _ _ : State).cur = _
    split
    · rfl
    · exact State.cur_noteHolds _ _
  change decide ((hooked s (semSemwait qp e n)).cur.semV.look e 0 < n) = _
  rw [same, semV_shown]

theorem effect_semsig {qp e n : Nat} : effect s (semSemsig qp e n) =
    s.begin.setCur ((shown s (.semsig qp e n)).cur.withSems (s.begin.cur.semV.put e (s.begin.cur.semV.look e 0 + n))) := by
  rw [← shown_setCur s (.semsig qp e n), ← semV_shown s (.semsig qp e n)]
  rfl

/-- A SEMWAIT that finds enough notes no wait and takes what it asks for (R214). -/
theorem effect_semwait {qp e n : Nat} (enough : n ≤ s.begin.cur.semV.look e 0) : effect s (semSemwait qp e n) =
    s.begin.setCur ((shown s (.semwait qp e n)).cur.withSems (s.begin.cur.semV.put e (s.begin.cur.semV.look e 0 - n))) := by
  have calm : hooked s (semSemwait qp e n) = shown s (.semwait qp e n) := if_pos (by rw [semV_shown]; exact enough)
  rw [← shown_setCur s (.semwait qp e n), ← semV_shown s (.semwait qp e n), effect, calm]
  rfl

/-- Settles O24: the effects are on the semaphores alone, and SEMWAIT holds while VALUE is too low. -/
theorem semaphoreCounts : Obligations.SemaphoreCounts := by
  refine fun qp e n s real => ⟨fun ok inside => exec_withSems rfl rfl ok inside effect_semsig, fun ok inside => ?_, fun ready quiet low => ?_⟩
  · have enough : n ≤ s.begin.cur.semV.look e 0 := by
      obtain ⟨-, -, -, -, free, -⟩ := ok
      rw [hold_semwait] at free
      exact Nat.not_lt.1 (of_decide_eq_false free)
    exact ⟨enough, exec_withSems rfl rfl ok inside (effect_semwait enough)⟩
  · exact heldBundlesWait _ _ s rfl (by simp [supervisorOp]) ready quiet rfl rfl (.inl (by rw [hold_semwait]; exact decide_eq_true low))

end Sys2Proof
end

section
/-!
PROOFS. O26: TASKEND and STATPOP.
-/
namespace Sys2Proof.Machine

/-- `d` is at the bundle and at the step of its task's end where `c` is. -/
structure Ctx.SamePlace (c d : Ctx) : Prop where
  status : d.status = c.status
  endPhase : d.endPhase = c.endPhase
  pc : d.pc = c.pc
  bundleNo : d.bundleNo = c.bundleNo

theorem Ctx.SamePlace.trans {c d e : Ctx} (h : c.SamePlace d) (k : d.SamePlace e) : c.SamePlace e :=
  ⟨k.status.trans h.status, k.endPhase.trans h.endPhase, k.pc.trans h.pc, k.bundleNo.trans h.bundleNo⟩

theorem Ctx.LandsLeaf.samePlace {c d : Ctx} (h : c.LandsLeaf d) : c.SamePlace d := by
  unfold Ctx.LandsLeaf at h
  rw [h]
  exact ⟨rfl, rfl, rfl, rfl⟩

theorem Ctx.samePlace_apply1 (c : Ctx) (w : ShadowW) : c.SamePlace (c.apply1 w) := by cases w <;> exact ⟨rfl, rfl, rfl, rfl⟩

theorem Ctx.samePlace_applied (l : List Shadow) : ∀ c : Ctx, c.SamePlace (l.foldl (fun c x => c.apply1 x.w) c) := by
  induction l with
  | nil => exact fun _ => ⟨rfl, rfl, rfl, rfl⟩
  | cons x l ih => exact fun c => (c.samePlace_apply1 x.w).trans (ih _)

theorem Ctx.samePlace_settle (c : Ctx) : c.SamePlace c.settle := (Ctx.samePlace_applied _ c).trans ⟨rfl, rfl, rfl, rfl⟩

/-- The context as it leaves its live bank (R133). -/
def Ctx.vacating (c : Ctx) : Ctx := { c.quiesce with preempt := false, swapDue := false, stall := 0 }

/-- A context that leaves its bank keeps its place: its results and its due descriptor writes land (R65, R66). -/
theorem Ctx.samePlace_vacating (c : Ctx) : c.SamePlace c.vacating := by
  have landed : c.SamePlace c.landAll := (Ctx.LandsTo.trans (e := c.landAll) (Ctx.landsTo_foldl_land1 c.fly c) rfl).landsLeaf.samePlace
  exact (landed.trans c.landAll.samePlace_settle).trans ⟨rfl, rfl, rfl, rfl⟩

/-- A context that leaves its live bank keeps its place (R133). -/
theorem State.samePlace_leave (s : State) : s.cur.SamePlace s.leave.cur := by
  have landed : s.cur.SamePlace (s.landAllVecs s.curU s.cur.cid).cur := (s.landsTo_landVecs _ _ _).cur.samePlace
  unfold State.leave State.swapIn
  dsimp only
  rw [State.cur_updUnit, State.cur_trace, State.cur_updCur]
  · exact landed.trans (Ctx.samePlace_vacating _)
  · exact fun _ => rfl

/-- A stall swap that lands keeps the place of the context that leaves (R133). -/
theorem State.samePlace_stallLands (s : State) : s.cur.SamePlace s.stallLands.cur := by
  unfold State.stallLands
  split
  · exact s.samePlace_leave
  · exact ⟨rfl, rfl, rfl, rfl⟩

end Sys2Proof.Machine

namespace Sys2Proof

open Machine Laws

variable {s : State} {qp sd sd2 : Nat}

theorem effect_taskend : effect s (semTaskend qp) = s.begin.setCur ((shown s (.taskend qp)).cur.asking .taskend) := shown_setCur _ _ _

/-- A TASKEND that is ready, with no pre-emption pending, leaves its context ending at its bundle (R219). -/
theorem exec_taskend (ready : Ready s (.taskend qp) qp) (calm : s.begin.cur.preempt = false) :
    ∃ t, exec (.taskend qp) s = .next t ∧ t.cur.status = .ending ∧ t.cur.endPhase = 1 ∧ t.cur.pc = s.begin.cur.pc ∧
      t.cur.bundleNo = s.begin.cur.bundleNo + 1 := by
  let e := effect s (semTaskend qp)
  let p := presOf s (.taskend qp)
  have left : e.cur = (shown s (.taskend qp)).cur.asking .taskend := by rw [show e = _ from effect_taskend, State.cur_setCur]
  obtain ⟨w, done⟩ := State.finishBundle_taskend (t := e) (p := p) (ops := [.taskend qp]) rfl (congrArg Ctx.after left)
  have still : (e.taskEnded p w).preemptLands = e.taskEnded p w := by
    refine preemptLands_of_calm ?_
    rw [State.cur_taskEnded, State.preempt_ended, left, Ctx.preempt_asking, preempt_shown, calm]
  have number : (e.ended p w).bundleNo = s.begin.cur.bundleNo + 1 := by
    rw [State.bundleNo_ended, left, Ctx.bundleNo_asking, bundleNo_shown]
  have ok : Issuable s (semTaskend qp) := ⟨ready, faultOf_nil _ _, rfl, rfl, rfl, rfl, .inl rfl⟩
  have ends : issued s (semTaskend qp) = (e.taskEnded p w).stallLands := done.trans (congrArg State.stallLands still)
  have place := (e.taskEnded p w).samePlace_stallLands
  rw [State.cur_taskEnded] at place
  exact ⟨_, (issue1_issuable ok).trans (congrArg _ ends), place.status, place.endPhase, place.pc, place.bundleNo.trans number⟩

/-- The record that a STATPOP takes: the oldest of its task (R222). -/
def oldestRecord (t : State) : Option StatRec := (t.unit t.curU).stats.find? fun r => r.taskId == t.cur.taskId

/-- The machine with that record taken from the unit's queue (R222). -/
def popRecord (t : State) : State :=
  match oldestRecord t with
  | some r => t.updUnit t.curU fun x => { x with stats := x.stats.erase r }
  | none => t

theorem popRecord_some {t : State} {r : StatRec} (oldest : oldestRecord t = some r) :
    popRecord t = t.updUnit t.curU fun x => { x with stats := x.stats.erase r } := by rw [popRecord, oldest]

theorem popRecord_none {t : State} (idle : oldestRecord t = none) : popRecord t = t := by rw [popRecord, idle]

theorem cur_popRecord (t : State) : (popRecord t).cur = t.cur ∧ (popRecord t).curU = t.curU := by
  cases h : oldestRecord t with
  | some r => rw [popRecord_some h]; exact ⟨t.cur_updUnit _ _ fun _ => rfl, rfl⟩
  | none => rw [popRecord_none h]; exact ⟨rfl, rfl⟩

theorem stats_updCur (t : State) (f : Ctx → Ctx) : ((t.updCur f).unit t.curU).stats = (t.unit t.curU).stats := by
  simp [State.updCur, State.setCur, State.setCtx]

theorem fly_write_write (c : Ctx) (d d' : Dest) (v v' l l' : Nat) : ((c.write d v l).write d' v' l').fly =
    c.fly ++ [⟨c.bundleNo, c.bundleNo + l, d, v, 0⟩, ⟨c.bundleNo, c.bundleNo + l', d', v', 0⟩] := by
  simp [Ctx.write, Ctx.claim]

/-- The two words that a STATPOP writes: those of its record, or zeros (R222). -/
def poppedWords (t : State) : Nat × Nat := ((oldestRecord t).map StatRec.words).getD (0, 0)

theorem effect_statpop : effect s (semStatpop qp sd sd2) = (popRecord (shown s (.statpop qp sd sd2))).updCur fun c =>
    (c.write (c.ds sd) (poppedWords (shown s (.statpop qp sd sd2))).1 1).write (c.ds sd2) (poppedWords (shown s (.statpop qp sd sd2))).2 1 := rfl

/-- Settles O26: the sequencer's part of TASKEND, and the effect of STATPOP. -/
theorem taskendAndStatpop : Obligations.TaskendAndStatpop := by
  refine ⟨fun qp s => exec_taskend, fun qp sd sd2 s ready => ?_⟩
  intro t r w
  obtain ⟨cur, unit⟩ := cur_popRecord t
  refine ⟨issue1_issuable ⟨ready, faultOf_nil _ _, rfl, rfl, rfl, rfl, .inl rfl⟩, ?_, ?_⟩
  · rw [effect_statpop, ← unit, stats_updCur, unit]
    change ((popRecord t).unit t.curU).stats = match oldestRecord t with
      | some r => (t.unit t.curU).stats.erase r
      | none => (t.unit t.curU).stats
    cases h : oldestRecord t with
    | some r => rw [popRecord_some h, State.unit_updUnit]
    | none => rw [popRecord_none h]
  · rw [effect_statpop, State.cur_updCur, fly_write_write, cur]
    rfl

end Sys2Proof
end

section
/-!
PROOFS. Records laid out in rising order: each field is read back where it was laid, and what lies between fields is zero (R1).
-/
namespace Sys2Proof.Machine

theorem leVal_leBytes_mod (n v : Nat) : leVal (leBytes n v) = v % 256 ^ n := by
  induction n generalizing v with
  | zero => simp [leBytes, leVal, Nat.mod_one]
  | succ n ih => simp [leBytes, leVal, ih, Nat.pow_succ', Nat.mod_mul]

theorem leVal_zeros (n : Nat) : leVal (zeros n) = 0 := by
  induction n with
  | zero => rfl
  | succ n ih => simpa [zeros, List.replicate_succ, leVal] using ih

/-! ## Reading a part of a string -/

/-- A slice byte by byte. -/
theorem slice_eq_map (a : Bytes) (off n : Nat) : slice a off n = (List.range n).map fun i => a.getD (off + i) 0 := by
  refine List.ext_getElem (by simp [slice, padTo, zeros]) fun i _ hi => ?_
  have inside : i < n := by simpa using hi
  by_cases h : off + i < a.length
  · have left : i < a.length - off := by omega
    simp [slice, padTo, zeros, h, inside, left]
  · have gone : ¬i < a.length - off := by omega
    have beyond : a.getD (off + i) 0 = 0 := List.getD_eq_default _ _ (Nat.not_lt.1 h)
    simpa [slice, padTo, zeros, List.getElem_append, gone] using beyond.symm

theorem leAt_congr {a b : Bytes} {off off' n : Nat} (same : ∀ i < n, a.getD (off + i) 0 = b.getD (off' + i) 0) : leAt a off n = leAt b off' n := by
  rw [leAt, leAt, slice_eq_map, slice_eq_map, List.map_congr_left fun i hi => same i (List.mem_range.1 hi)]

theorem leAt_append_within {off n : Nat} {a : Bytes} (h : off + n ≤ a.length) (b : Bytes) : leAt (a ++ b) off n = leAt a off n :=
  leAt_congr fun i hi => List.getD_append _ _ _ _ (by omega)

theorem leAt_append_beyond {off : Nat} {a : Bytes} (h : a.length ≤ off) (b : Bytes) (n : Nat) :
    leAt (a ++ b) off n = leAt b (off - a.length) n := by
  rw [leAt, slice_append_beyond h, leAt]

theorem leAt_zeros (m off n : Nat) : leAt (zeros m) off n = 0 := by
  have zero : slice (zeros m) off n = zeros n := by simp [slice, padTo, zeros]
  rw [leAt, zero, leVal_zeros]

theorem leAt_leBytes (n v : Nat) : leAt (leBytes n v) 0 n = v % 256 ^ n := by
  have whole := slice_append_self (length_leBytes n v) []
  rw [List.append_nil] at whole
  rw [leAt, whole, leVal_leBytes_mod]

/-- A string cut or filled to a length reads as before within it. -/
theorem leAt_padTo {m off n : Nat} (h : off + n ≤ m) (a : Bytes) : leAt (padTo m a) off n = leAt a off n := by
  refine leAt_congr fun i hi => ?_
  have inside : off + i < m := by omega
  by_cases h : off + i < a.length
  · rw [padTo, List.getD_append _ _ _ _ (by simp [h, inside])]
    simp [List.getD_eq_getElem?_getD, inside]
  · have beyond : a.getD (off + i) 0 = 0 := List.getD_eq_default _ _ (Nat.not_lt.1 h)
    rw [padTo, List.getD_append_right _ _ _ _ (by simp; omega), beyond]
    simp [zeros]

theorem length_padTo (m : Nat) (a : Bytes) : (padTo m a).length = m := by simp [padTo, zeros]; omega

/-- Values of 8 bytes one after the other: the `k`-th, and zero beyond the last. -/
theorem leAt_flatten_words (vs : List Word) (k : Nat) : leAt ((vs.map fun v => leBytes 8 v.toNat).flatten) (8 * k) 8 = (vs.getD k 0).toNat := by
  induction vs generalizing k with
  | nil => exact leAt_zeros 0 (8 * k) 8
  | cons v vs ih =>
    rw [List.map_cons, List.flatten_cons]
    cases k with
    | zero => simpa [leVal_leBytes_mod] using leAt_leBytes_append v.isLt _
    | succ k => rw [leAt_leBytes_append_beyond (by omega)]; exact ih k

/-! ## Laid out in rising order -/

/-- The fields lie one behind the other from `at0` on. -/
def Rising : Nat → List (Nat × Bytes) → Prop
  | _, [] => True
  | at0, f :: fs => at0 ≤ f.1 ∧ Rising (f.1 + f.2.length) fs

theorem layoutAt_cons {at0 : Nat} {f : Nat × Bytes} (le : at0 ≤ f.1) (fs : List (Nat × Bytes)) :
    layoutAt at0 (f :: fs) = (zeros (f.1 - at0) ++ f.2) ++ layoutAt (f.1 + f.2.length) fs := by
  rw [layoutAt, Nat.max_eq_right le]

theorem length_lead {at0 : Nat} {f : Nat × Bytes} : (zeros (f.1 - at0) ++ f.2).length = f.1 - at0 + f.2.length := by simp [zeros]

/-- From a field on, what is laid out is the field and what comes behind it. -/
theorem leAt_layoutAt_field (f : Nat × Bytes) (post : List (Nat × Bytes)) (r n : Nat) : ∀ (pre : List (Nat × Bytes)) (at0 : Nat),
    Rising at0 (pre ++ f :: post) → at0 ≤ f.1 ∧
      leAt (layoutAt at0 (pre ++ f :: post)) (f.1 + r - at0) n = leAt (f.2 ++ layoutAt (f.1 + f.2.length) post) r n
  | [], at0, rising => by
    obtain ⟨le, -⟩ := rising
    refine ⟨le, ?_⟩
    rw [List.nil_append, layoutAt_cons le, List.append_assoc, leAt_append_beyond (by simp [zeros]; omega)]
    congr 1
    simp [zeros]; omega
  | g :: pre, at0, rising => by
    obtain ⟨le, rising⟩ := rising
    obtain ⟨le', reads⟩ := leAt_layoutAt_field f post r n pre _ rising
    refine ⟨by omega, ?_⟩
    rw [List.cons_append, layoutAt_cons le, leAt_append_beyond (by rw [length_lead]; omega), ← reads, length_lead]
    congr 1
    omega

/-- Where no field lies, zeros lie. -/
theorem leAt_layoutAt_gap (o n : Nat) : ∀ (fs : List (Nat × Bytes)) (at0 : Nat), Rising at0 fs → at0 ≤ o →
    (∀ f ∈ fs, o + n ≤ f.1 ∨ f.1 + f.2.length ≤ o) → leAt (layoutAt at0 fs) (o - at0) n = 0
  | [], _, _, _, _ => leAt_zeros 0 _ n
  | f :: fs, at0, rising, from0, clear => by
    obtain ⟨le, rising⟩ := rising
    rw [layoutAt_cons le]
    rcases clear f List.mem_cons_self with before | behind
    · rw [List.append_assoc, leAt_append_within (by simp [zeros]; omega), leAt_zeros]
    · rw [leAt_append_beyond (by rw [length_lead]; omega), length_lead,
        ← leAt_layoutAt_gap o n fs _ rising behind fun g hg => clear g (List.mem_cons_of_mem _ hg)]
      congr 1
      omega

variable {fs : List (Nat × Bytes)} {m : Nat}

theorem leAt_layout_of_mem {off n v : Nat} (rising : Rising 0 fs) (mem : (off, leBytes n v) ∈ fs) (fits : off + n ≤ m) :
    leAt (layout m fs) off n = v % 256 ^ n := by
  obtain ⟨pre, post, rfl⟩ := List.append_of_mem mem
  obtain ⟨-, reads⟩ := leAt_layoutAt_field _ post 0 n pre 0 rising
  rw [layout, leAt_padTo fits]
  exact reads.trans ((leAt_append_within (by simp) _).trans (leAt_leBytes n v))

theorem leAt_layout_last {pre : List (Nat × Bytes)} {f : Nat × Bytes} {r n : Nat} (rising : Rising 0 (pre ++ [f])) (fits : f.1 + r + n ≤ m) :
    leAt (layout m (pre ++ [f])) (f.1 + r) n = leAt f.2 r n := by
  obtain ⟨-, reads⟩ := leAt_layoutAt_field f [] r n pre 0 rising
  rw [layout, leAt_padTo fits]
  simpa [layoutAt] using reads

theorem leAt_layout_gap {o n : Nat} (rising : Rising 0 fs) (clear : ∀ f ∈ fs, o + n ≤ f.1 ∨ f.1 + f.2.length ≤ o) (fits : o + n ≤ m) :
    leAt (layout m fs) o n = 0 := by
  rw [layout, leAt_padTo fits]
  exact leAt_layoutAt_gap o n fs 0 rising o.zero_le clear

end Sys2Proof.Machine
end

section
/-!
PROOFS. O28: the fields of the trap record (R228).
-/
namespace Sys2Proof.Machine

/-- Byte 5 of a trap record. -/
def trapFlags (c : Ctx) (t : Trap) (noctx nested : Bool) : Nat :=
  (if resumable t.cause && !noctx then 1 else 0) + (if t.engine then 2 else 0) + (if noctx then 4 else 0) + (if nested then 8 else 0) +
    (if c.touchSeal then 16 else 0)

/-- The fields of a trap record of fixed places, in the order of their places. -/
def trapFields (u b : Nat) (c : Ctx) (t : Trap) (obs grp : Nat) (noctx nested : Bool) : List (Nat × Bytes) :=
  [(0, leBytes 1 t.cause), (1, leBytes 1 t.reason), (2, leBytes 1 t.dreason), (3, leBytes 1 t.mask),
    (4, leBytes 1 t.slot), (5, leBytes 1 (trapFlags c t noctx nested)), (6, leBytes 1 c.level), (7, leBytes 1 b), (8, leBytes 8 obs),
    (16, leBytes 8 (if t.engine then t.iss else obs)), (24, leBytes 10 t.vaddr), (40, leBytes 2 t.row), (42, leBytes 2 t.col),
    (44, leBytes 4 t.jobId), (48, leBytes 4 c.taskId), (52, leBytes 2 c.queue), (54, leBytes 2 u),
    (56, leBytes 8 (t.data + (if t.cause = 5 ∨ t.cause = 0x30 then grp % 2 ^ 32 else 0) + t.kdone * 2 ^ 32)),
    (64, leBytes 4 t.w), (68, leBytes 4 t.ext)]

/-- The values of the sources that a trap record shows. -/
def trapSources (c : Ctx) (t : Trap) : Bytes := if c.touchSeal then [] else ((t.snap.take 7).map fun v => leBytes 8 v.toNat).flatten

variable {u b obs grp : Nat} {c : Ctx} {t : Trap} {noctx nested : Bool}

theorem trapRecord_eq : trapRecord u b c t obs grp noctx nested =
    layout 128 (trapFields u b c t obs grp noctx nested ++ [(72, trapSources c t)]) := rfl

theorem length_trapRecord : (trapRecord u b c t obs grp noctx nested).length = 128 := length_padTo _ _

theorem rising_trapRecord : Rising 0 (trapFields u b c t obs grp noctx nested ++ [(72, trapSources c t)]) := by
  simp [trapFields, Rising]

theorem leAt_trapRecord {off n v : Nat} (mem : (off, leBytes n v) ∈ trapFields u b c t obs grp noctx nested) (fits : off + n ≤ 128) :
    leAt (trapRecord u b c t obs grp noctx nested) off n = v % 256 ^ n :=
  leAt_layout_of_mem rising_trapRecord (List.mem_append_left _ mem) fits

theorem leAt_trapRecord_gap : leAt (trapRecord u b c t obs grp noctx nested) 34 6 = 0 :=
  leAt_layout_gap rising_trapRecord (by simp) (by decide)

theorem leAt_trapRecord_source {k : Nat} (lt : k < 7) : leAt (trapRecord u b c t obs grp noctx nested) (72 + 8 * k) 8 =
    if c.touchSeal = true then 0 else (t.snap.getD k 0).toNat := by
  rw [trapRecord_eq, leAt_layout_last rising_trapRecord (by dsimp only; omega), trapSources]
  split
  · exact leAt_zeros 0 _ 8
  · rw [leAt_flatten_words]
    simp [List.getD_eq_getElem?_getD, lt]

theorem trapFlags_lt : trapFlags c t noctx nested < 256 := by
  unfold trapFlags
  split_ifs <;> decide

theorem leAt_trapRecord_flags : leAt (trapRecord u b c t obs grp noctx nested) 5 1 =
    (if t.cause ≠ 0x30 ∧ t.cause ≠ 0x32 ∧ noctx = false then 1 else 0) + (if t.engine = true then 2 else 0) +
      (if noctx = true then 4 else 0) + (if nested = true then 8 else 0) + (if c.touchSeal = true then 16 else 0) := by
  have byte := leAt_trapRecord (u := u) (b := b) (obs := obs) (grp := grp) (v := trapFlags c t noctx nested)
    (List.mem_of_getElem? (i := 5) rfl) (by decide)
  rw [byte, Nat.pow_one, Nat.mod_eq_of_lt trapFlags_lt]
  simp [trapFlags, resumable, and_assoc]

end Sys2Proof.Machine

namespace Sys2Proof

open Machine

/-- Settles O28: each field stands in the record at its place, the gap before the row is zero, the sources come last. -/
theorem trapRecordFields : Obligations.TrapRecordFields := by
  intro u b obs grp c t noctx nested
  dsimp only
  refine ⟨length_trapRecord, ?_, ?_, ?_, ?_, ?_, leAt_trapRecord_flags, ?_, ?_, ?_, ?_, ?_, leAt_trapRecord_gap, ?_, ?_, ?_, ?_, ?_, ?_, ?_, ?_, ?_,
    fun k lt => leAt_trapRecord_source lt⟩
  all_goals exact leAt_trapRecord (by simp [trapFields]) (by decide)

end Sys2Proof
end

section
/-!
PROOFS. What the landing of a unit's vector results leaves of its jobs and banks: no job joins or changes what it is, no bank is given up (R284).
-/
namespace Sys2Proof.Machine

/-- Every context of a bank of `s` is still there in `t`, and every job of a unit of `t` is one of `s`, by name, context and kind. -/
structure State.Thins (s t : State) : Prop where
  bank : ∀ v b, (s.ctx? v b).isSome → (t.ctx? v b).isSome
  job : ∀ v, ∀ j ∈ (t.unit v).jobs, ∃ i ∈ (s.unit v).jobs, i.jid = j.jid ∧ i.cid = j.cid ∧ i.kind = j.kind

variable {s t w : State}

theorem State.Thins.refl (s : State) : s.Thins s := ⟨fun _ _ => id, fun _ j mem => ⟨j, mem, rfl, rfl, rfl⟩⟩

theorem State.Thins.trans (h : s.Thins t) (k : t.Thins w) : s.Thins w := by
  refine ⟨fun v b here => k.bank v b (h.bank v b here), fun v j mem => ?_⟩
  obtain ⟨i, mem', jid, cid, kind⟩ := k.job v j mem
  obtain ⟨i', mem'', jid', cid', kind'⟩ := h.job v i mem'
  exact ⟨i', mem'', jid'.trans jid, cid'.trans cid, kind'.trans kind⟩

theorem State.thins_foldl {α : Type} {f : State → α → State} (each : ∀ (s : State) (a : α), s.Thins (f s a)) (l : List α) :
    ∀ s : State, s.Thins (l.foldl f s) := by
  induction l with
  | nil => exact State.Thins.refl
  | cons a l ih => exact fun s => (each s a).trans (ih _)

/-- A change of one unit that keeps its banks and adds no job. -/
theorem State.thins_updUnit (s : State) (u : Nat) {f : UnitSt → UnitSt}
    (bank : ∀ b, ((s.unit u).ctxs.entry? b).isSome → ((f (s.unit u)).ctxs.entry? b).isSome)
    (job : ∀ j ∈ (f (s.unit u)).jobs, j ∈ (s.unit u).jobs) : s.Thins (s.updUnit u f) := by
  refine ⟨fun v b here => ?_, fun v j mem => ?_⟩
  · unfold State.ctx? at *
    by_cases h : v = u
    · subst h; rw [State.unit_updUnit]; exact bank b here
    · rwa [State.unit_updUnit_other _ _ _ _ h]
  · by_cases h : v = u
    · subst h; rw [State.unit_updUnit] at mem; exact ⟨j, job j mem, rfl, rfl, rfl⟩
    · rw [State.unit_updUnit_other _ _ _ _ h] at mem; exact ⟨j, mem, rfl, rfl, rfl⟩

theorem State.thins_setCtx (s : State) (u b : Nat) (c : Ctx) : s.Thins (s.setCtx u b c) := by
  refine s.thins_updUnit u (fun d here => ?_) fun _ => id
  by_cases h : d = b
  · rw [h, Map.entry_put_same]; rfl
  · rwa [Map.entry_put_other _ _ _ _ h]

theorem State.thins_updCid (s : State) (u cid : Nat) (f : Ctx → Ctx) : s.Thins (s.updCid u cid f) := by
  unfold State.updCid
  split
  · exact s.thins_setCtx _ _ _
  · exact ⟨fun _ _ => id, fun _ j mem => ⟨j, mem, rfl, rfl, rfl⟩⟩

theorem State.unit_mapv (s : State) (f : UnitSt → UnitSt) (blank : f {} = {}) (v : Nat) :
    ({ s with units := s.units.mapv f } : State).unit v = f (s.unit v) := by
  simp only [State.unit, Map.look, Map.entry_mapv]
  cases Map.entry? s.units v with
  | none => exact blank.symm
  | some x => rfl

theorem State.thins_noteChunks (s : State) (r : TileRef) (ks : List Nat) : s.Thins (s.noteChunks r ks) := by
  unfold State.noteChunks
  refine ⟨fun v b here => ?_, fun v j mem => ?_⟩
  · rw [State.ctx?, State.unit_mapv _ _ rfl]; exact here
  · rw [State.unit_mapv _ _ rfl] at mem
    obtain ⟨i, mem', rfl⟩ := List.mem_map.1 mem
    refine ⟨i, mem', ?_⟩
    split <;> exact ⟨rfl, rfl, rfl⟩

theorem State.thins_landChunks (s : State) (u : Nat) (j : Job) (r : TileRef) : s.Thins (s.landChunks u j r) :=
  .trans (t := s.updSlot r _) ⟨fun _ _ => id, fun _ j mem => ⟨j, mem, rfl, rfl, rfl⟩⟩ (State.thins_noteChunks _ _ _)

theorem State.thins_placeOrWait (s : State) (u : Nat) (j : Job) : s.Thins (s.placeOrWait u j) := by
  unfold State.placeOrWait State.jobLeaf
  dsimp only
  split
  · split
    · exact s.thins_updCid _ _ _
    · exact .refl s
  · exact s.thins_updUnit _ (fun _ => id) fun _ => id

theorem State.thins_dropJob (s : State) (u jid : Nat) : s.Thins (s.dropJob u jid) :=
  s.thins_updUnit _ (fun _ => id) fun _ mem => (List.mem_filter.1 mem).1

/-- A vector operation that lands is gone from its unit, and adds nothing (R284). -/
theorem State.landVec_eq_dropJob (s : State) (u : Nat) (j : Job) : ∃ t, s.Thins t ∧ s.landVec u j = t.dropJob u j.jid := by
  refine ⟨_, ?_, rfl⟩
  refine .trans (State.thins_foldl (f := fun s r => s.landChunks u j r) (fun s r => s.thins_landChunks u j r)
    (j.dst.toList ++ j.tilesA) s) ?_
  refine .trans ?_ (State.thins_placeOrWait _ _ _)
  split
  · exact State.thins_updCid _ _ _ _
  · split
    · exact .refl _
    · exact State.thins_updCid _ _ _ _

theorem State.thins_landVec (s : State) (u : Nat) (j : Job) : s.Thins (s.landVec u j) := by
  obtain ⟨t, thins, gone⟩ := s.landVec_eq_dropJob u j
  rw [gone]
  exact thins.trans (t.thins_dropJob u j.jid)

theorem State.thins_landVecs (s : State) (u cid : Nat) (p : Job → Bool) : s.Thins (s.landVecs u cid p) :=
  State.thins_foldl (fun s j => s.thins_landVec u j) _ s

/-- Vector operations that have landed are gone. -/
theorem State.jid_not_mem_landed (u : Nat) {k : Job} (l : List Job) (mem : k ∈ l) :
    ∀ s : State, ∀ j ∈ ((l.foldl (fun s j => s.landVec u j) s).unit u).jobs, j.jid ≠ k.jid := by
  induction l with
  | nil => cases mem
  | cons a l ih =>
    intro s j here
    rcases List.mem_cons.1 mem with rfl | mem
    · obtain ⟨i, here', jid, -⟩ := (State.thins_foldl (fun s j => s.thins_landVec u j) l (s.landVec u k)).job u j here
      obtain ⟨t, -, gone⟩ := s.landVec_eq_dropJob u k
      rw [gone, State.jobs_dropJob] at here'
      rw [← jid]
      simpa using (List.mem_filter.1 here').2
    · exact ih mem _ j here

theorem le_foldl_max {n : Nat} (l : List Nat) : ∀ a, n ≤ a ∨ n ∈ l → n ≤ l.foldl max a := by
  induction l with
  | nil => exact fun a h => h.resolve_right List.not_mem_nil
  | cons k l ih =>
    intro a h
    refine ih _ ?_
    rcases h with le | mem
    · exact .inl (le_max_of_le_left le)
    · rcases List.mem_cons.1 mem with rfl | mem
      · exact .inl (le_max_right a n)
      · exact .inr mem

/-- No vector operation of a context is under way once all of them have landed (R65, R289). -/
theorem State.kind_ne_vec_landAllVecs (s : State) (u cid : Nat) : ∀ j ∈ ((s.landAllVecs u cid).unit u).jobs, j.cid = cid → j.kind ≠ .vec := by
  intro j here own vec
  obtain ⟨i, here', jid, cid', kind⟩ := (s.thins_landVecs u cid fun _ => true).job u j here
  have isVec : i ∈ (s.unit u).jobs.filter fun j => j.kind == JobKind.vec := List.mem_filter.2 ⟨here', by simp [kind, vec]⟩
  have oldest : i.jid ≤ ((((s.unit u).jobs.filter fun j => j.kind == JobKind.vec).filter fun j => j.cid == cid && true).map (·.jid)).foldl
      max 0 :=
    le_foldl_max _ 0 (.inr (List.mem_map.2 ⟨i, List.mem_filter.2 ⟨isVec, by simp [cid', own]⟩, rfl⟩))
  exact State.jid_not_mem_landed u _ (List.mem_filter.2 ⟨isVec, decide_eq_true oldest⟩) s j here jid.symm

end Sys2Proof.Machine
end

section
/-!
PROOFS. O27: taking an exception parks the context (R224, R225).
-/
namespace Sys2Proof.Machine

/-! ## The context that parks -/

/-- `d` is `c` but for descriptor writes that have left their shadow. -/
def Ctx.SettlesTo (c d : Ctx) : Prop := d = { c with sh := d.sh, mp := d.mp, vsh := d.vsh, fp := d.fp, fmt := d.fmt, shadow := d.shadow }

theorem Ctx.SettlesTo.trans {c d e : Ctx} (h : c.SettlesTo d) (k : d.SettlesTo e) : c.SettlesTo e := by
  unfold Ctx.SettlesTo at *
  rw [k, h]

theorem Ctx.settlesTo_apply1 (c : Ctx) (w : ShadowW) : c.SettlesTo (c.apply1 w) := by cases w <;> rfl

theorem Ctx.settlesTo_applied (l : List Shadow) : ∀ c : Ctx, c.SettlesTo (l.foldl (fun c x => c.apply1 x.w) c) := by
  induction l with
  | nil => exact fun _ => rfl
  | cons x l ih => exact fun c => (c.settlesTo_apply1 x.w).trans (ih _)

theorem Ctx.settlesTo_settleWhere (c : Ctx) (p : Shadow → Bool) : c.SettlesTo (c.settleWhere p) :=
  (Ctx.settlesTo_applied _ c).trans rfl

theorem Ctx.landsTo_landAll (c : Ctx) : c.LandsTo c.landAll := (Ctx.landsTo_foldl_land1 c.fly c).trans rfl

/-- `d` is the context that `c` is, at the same bundle and level, in the same loops, with the same pre-emption pending. -/
structure Ctx.StaysAt (c d : Ctx) : Prop where
  cid : d.cid = c.cid
  pc : d.pc = c.pc
  level : d.level = c.level
  li : d.li = c.li
  preempt : d.preempt = c.preempt

theorem Ctx.StaysAt.trans {c d e : Ctx} (h : c.StaysAt d) (k : d.StaysAt e) : c.StaysAt e :=
  ⟨k.cid.trans h.cid, k.pc.trans h.pc, k.level.trans h.level, k.li.trans h.li, k.preempt.trans h.preempt⟩

theorem Ctx.LandsLeaf.staysAt {c d : Ctx} (h : c.LandsLeaf d) : c.StaysAt d := by
  unfold Ctx.LandsLeaf at h
  rw [h]
  exact ⟨rfl, rfl, rfl, rfl, rfl⟩

theorem Ctx.SettlesTo.staysAt {c d : Ctx} (h : c.SettlesTo d) : c.StaysAt d := by
  unfold Ctx.SettlesTo at h
  rw [h]
  exact ⟨rfl, rfl, rfl, rfl, rfl⟩

theorem Ctx.SettlesTo.registers {c d : Ctx} (h : c.SettlesTo d) : d.s = c.s ∧ d.q = c.q ∧ d.h = c.h ∧ d.flags = c.flags ∧ d.fly = c.fly := by
  unfold Ctx.SettlesTo at h
  rw [h]
  exact ⟨rfl, rfl, rfl, rfl, rfl⟩

theorem Ctx.staysAt_landAll (c : Ctx) : c.StaysAt c.landAll := c.landsTo_landAll.landsLeaf.staysAt

/-- `p` is `c` parked: all its results and shadowed writes have landed, and nothing of it is under presentation. -/
structure Ctx.ParksAs (c p : Ctx) : Prop extends Ctx.StaysAt c p where
  fly : p.fly = []
  shadow : p.shadow = []
  pres : p.pres = none
  s : p.s = c.landAll.s
  q : p.q = c.landAll.q
  h : p.h = c.landAll.h
  flags : p.flags = c.landAll.flags

theorem Ctx.parksAs_quiesceTrap (c : Ctx) : c.ParksAs c.quiesceTrap := by
  have settled : c.landAll.SettlesTo c.landAll.settleAll := Ctx.settlesTo_settleWhere _ _
  obtain ⟨cid, pc, level, li, preempt⟩ := c.staysAt_landAll.trans settled.staysAt
  obtain ⟨s, q, h, flags, fly⟩ := settled.registers
  have shadow : c.landAll.settleAll.shadow = [] := by simp [Ctx.settleAll, Ctx.settleWhere]
  exact ⟨⟨cid, pc, level, li, preempt⟩, fly, shadow, rfl, s, q, h, flags⟩

variable {s : State} {u b : Nat}

/-! ## Taking the exception -/

/-- The context that an exception in bank `b` finds: its vector operations under way have landed (R65, R289). -/
def State.trapped (s : State) (u b : Nat) : Ctx := (s.landAllVecs u (s.ctxAt u b).cid).ctxAt u b

/-- The last part of an exception: the context is put into its bank, parked with its record, in the machine `w` where the record has been
written or could not be (R224-R226). -/
def State.parkIn (w : State) (u b : Nat) (t : Trap) (c : Ctx) (r : Bytes) (nested written : Bool) (mb : Nat) : State :=
  let c := w.heard u c
  let park (handled : Bool) : Ctx :=
    { c with status := .parked r (resumable t.cause) (t.cause == 0x21 && t.reason == 1) handled, last := .trapped t
             parkedAt := (w.unit u).cycle }
  if nested then
    let w := if written then w.fenceUnit u 3 else w.toSecurity u r
    (w.setCtx u b (park true)).post { die := u / 128, mb := mb, bytes := r.take 64, sup := true, cid := none, job := none }
  else if written then w.setCtx u b (park false)
  else (w.toSecurity u r).setCtx u b (park true)

theorem State.ctx?_parkIn (w : State) (u b : Nat) (t : Trap) (c : Ctx) (r : Bytes) (nested written : Bool) (mb : Nat) :
    ∃ handled rlx cycle, (w.parkIn u b t c r nested written mb).ctx? u b = some { c with
      rlx := rlx, status := .parked r (resumable t.cause) (t.cause == 0x21 && t.reason == 1) handled, last := .trapped t, parkedAt := cycle } := by
  cases nested with
  | true => exact ⟨true, _, _, State.ctx?_setCtx _ u b _⟩
  | false =>
    cases written with
    | true => exact ⟨false, _, _, State.ctx?_setCtx _ u b _⟩
    | false => exact ⟨true, _, _, State.ctx?_setCtx _ u b _⟩

/-- An exception parks the context that it finds, with its record (R224, R228). -/
theorem State.enterTrap_eq_parkIn (s : State) (u b : Nat) (t : Trap) (obs : Nat) : ∃ w grp nested written mb,
    s.enterTrap u b t obs = State.parkIn w u b t (s.trapped u b).quiesceTrap
      (trapRecord u b (s.trapped u b).quiesceTrap t obs grp false nested) nested written mb := by
  unfold State.enterTrap State.trapped
  exact ⟨_, _, _, _, _, rfl⟩

theorem State.ctxAt_of_ctx? {c : Ctx} (here : s.ctx? u b = some c) : s.ctxAt u b = c := by rw [State.ctxAt, Map.look, ← State.ctx?, here]; rfl

end Sys2Proof.Machine

namespace Sys2Proof

open Machine

/-- Settles O27: the exception parks the context as it stands once its vector operations have landed, and with it its results. -/
theorem exceptionsParkTheContext : Obligations.ExceptionsParkTheContext := by
  intro s u b obs t c here w
  have own := State.ctxAt_of_ctx? here
  obtain ⟨d, there⟩ := Option.isSome_iff_exists.1 ((s.thins_landVecs u c.cid fun _ => true).bank u b (by rw [here]; rfl))
  have found : s.trapped u b = d := by rw [State.trapped, own]; exact State.ctxAt_of_ctx? there
  have stays : c.StaysAt d := by
    have lands := (s.landsTo_landVecs u c.cid fun _ => true).ctx u b
    rw [own, State.ctxAt_of_ctx? there] at lands
    exact lands.staysAt
  obtain ⟨v, grp, nested, written, mb, enters⟩ := s.enterTrap_eq_parkIn u b t obs
  obtain ⟨handled, rlx, cycle, parked⟩ := v.ctx?_parkIn u b t d.quiesceTrap (trapRecord u b d.quiesceTrap t obs grp false nested)
    nested written mb
  rw [← found, ← enters, found] at parked
  have parks := d.parksAs_quiesceTrap
  obtain ⟨-, pc, level, li, preempt⟩ := stays.trans parks.toStaysAt
  exact ⟨s.kind_ne_vec_landAllVecs u c.cid, s.landVecs_none u c.cid _, d, _, _, handled, there, parked, length_trapRecord, rfl,
    parks.fly, parks.shadow, parks.pres, pc, level, li, parks.s, parks.q, parks.h, parks.flags, preempt⟩

end Sys2Proof
end

section
/-!
PROOFS. O29: ERET in a handler (R227, R229).
-/
namespace Sys2Proof.Machine

theorem Map.find?_put {α : Type} {p : Nat × α → Bool} {k : Nat} {v : α} (new : p (k, v) = false) (m : Map α)
    (old : ∀ x, Map.entry? m k = some x → p (k, x) = false) : (Map.put m k v).find? p = m.find? p := by
  induction m with
  | nil => simp [Map.put, new]
  | cons e m ih =>
    unfold Map.put
    split
    · rw [List.find?_cons_of_neg (by simp [new])]
    · split
      · next same =>
        subst same
        rw [List.find?_cons_of_neg (by simp [new]), List.find?_cons_of_neg (by simp [old e.2 (by simp [Map.entry?])])]
      · next other =>
        have rest := ih fun x here => old x (by simpa [Map.entry?, other] using here)
        rw [List.find?_cons, List.find?_cons, rest]

variable {w : State} {u b cid : Nat} {e p : Ctx}

/-- Another context's name is found where it was once the current context has changed. -/
theorem State.bankOf_setCur (mine : w.cur.cid ≠ cid) (stays : e.cid = w.cur.cid) :
    ((w.setCur e).unit w.curU).bankOf cid = (w.unit w.curU).bankOf cid := by
  rw [State.setCur, State.setCtx, State.unit_updUnit]
  refine congrArg (Option.map (·.1)) (Map.find?_put (p := fun x : Nat × Ctx => x.2.cid == cid) (v := e) (by simpa [stays] using mine) _
    fun x here => ?_)
  have cur : w.cur = x := State.ctxAt_of_ctx? here
  simpa [← cur] using mine

theorem State.ctx?_setCur_other (other : b ≠ w.curB) : (w.setCur e).ctx? w.curU b = w.ctx? w.curU b := by
  rw [State.setCur, State.setCtx, State.ctx?, State.unit_updUnit, State.ctx?, Map.entry_put_other _ _ _ _ other]

theorem State.homeOf_of_bankOf (found : (w.unit u).bankOf cid = some b) : w.homeOf u cid = some (u, b) := by rw [State.homeOf, found]

/-- A context of a bank changed by its name. -/
theorem State.updCid_of_bankOf (found : (w.unit u).bankOf cid = some b) (f : Ctx → Ctx) :
    w.updCid u cid f = w.setCtx u b (f (w.ctxAt u b)) := by
  rw [State.updCid, State.homeOf_of_bankOf found]

/-- The handler as ERET ends it (R229). -/
def Ctx.returning (c : Ctx) : Ctx := { c.quiesce with status := .ending, quiet := true, endPhase := 1 }

theorem Ctx.cid_quiesce (c : Ctx) : c.quiesce.cid = c.cid := by
  have settled : c.landAll.SettlesTo c.landAll.settle := Ctx.settlesTo_settleWhere _ _
  exact (c.staysAt_landAll.trans settled.staysAt).cid

theorem Ctx.cid_returning (c : Ctx) : c.returning.cid = c.cid := c.cid_quiesce

/-- The context that a handler handles takes its bank, where it can resume; the handler begins its end (R227, R229). -/
theorem State.returnTrap_eq (idle : (w.unit w.curU).jobs = []) (handles : w.cur.handles = some (some cid)) (mine : w.cur.cid ≠ cid)
    (found : (w.unit w.curU).bankOf cid = some b) (here : w.ctx? w.curU b = some p) (other : b ≠ w.curB)
    {r : Bytes} {brk h : Bool} (parked : p.status = .parked r true brk h) :
    w.returnTrap = (((w.setCur w.cur.returning).setCtx w.curU b (p.resume brk)).trace w.curU w.curB w.cur 6 w.cur.pc p.pc).swapIn
      w.curU b w.curB := by
  have nothing : w.landAllVecs w.curU w.cur.cid = w := w.landVecs_none _ _ _ (by simp [idle])
  have found' : ((w.setCur w.cur.returning).unit w.curU).bankOf cid = some b := by rw [State.bankOf_setCur mine w.cur.cid_returning, found]
  have at' : (w.setCur w.cur.returning).ctxAt w.curU b = p := State.ctxAt_of_ctx? ((State.ctx?_setCur_other other).trans here)
  have by' : (w.setCur w.cur.returning).byCid? w.curU cid = some p := by rw [State.byCid?, State.homeOf_of_bankOf found', ← at']
  have ends : (w.updCur fun c => { c.quiesce with status := .ending, quiet := true, endPhase := 1 }) = w.setCur w.cur.returning := rfl
  unfold State.returnTrap
  simp only [nothing, handles, ends, by', found', parked, if_true, State.updCid_of_bankOf found', at']
  rfl

/-- What a swap of a context into bank `b` of the unit leaves of the context that issues and of the one that comes (R133). -/
theorem State.swappedIn (other : b ≠ w.curB) (k x y : Nat) (c : Ctx) :
    let t := ((w.setCtx w.curU b e).trace w.curU w.curB c k x y).swapIn w.curU b w.curB
    t.cur = w.cur ∧ t.ctx? w.curU b = some e ∧ (t.unit w.curU).swap = some ⟨b, 24⟩ := by
  dsimp only [State.swapIn]
  refine ⟨?_, ?_, ?_⟩
  · rw [State.cur_updUnit, State.cur_trace]
    · exact w.ctxAt_setCtx_bank w.curU b w.curB e other.symm
    · exact fun _ => rfl
  · rw [State.ctx?, State.unit_updUnit, State.unit_trace]
    exact w.ctx?_setCtx w.curU b e
  · rw [State.unit_updUnit]

variable {t : State} {n : Pres} {ops : List Instr}

theorem Ctx.heading_eret {c : Ctx} (asks : c.after = .eret) (n : Pres) : c.heading n = (n.addr + n.len, c.li) := by rw [Ctx.heading, asks]

/-- A bundle that returns from an exception counts and moves its context on, which then gives way (R229). -/
theorem State.finishBundle_eret (stop : n.stop = true) (asks : t.cur.after = .eret) :
    t.finishBundle n ops = (t.setCur (t.moved n)).returnTrap := by
  have test := State.tested_of_heading (Ctx.heading_eret asks n)
  unfold Ctx.counted at test
  unfold State.finishBundle
  simp only [asks, stop, test]
  simp [State.moved]

theorem State.cid_moved (t : State) (n : Pres) : (t.moved n).cid = t.cur.cid := by
  change (t.tested n).1.cid = _
  rw [t.turnsTo_tested n]
  rfl

theorem State.handles_moved (t : State) (n : Pres) : (t.moved n).handles = t.cur.handles := by
  change (t.tested n).1.handles = _
  rw [t.turnsTo_tested n]
  rfl

/-- A context whose task had not begun its end is live again, at the PC of its record (R227). -/
theorem Ctx.resume_running (running : p.endPhase = 0) (brk : Bool) :
    (p.resume brk).status = .live ∧ (p.resume brk).pc = p.pc ∧ (p.resume brk).pres = none := ⟨if_pos running, rfl, rfl⟩

end Sys2Proof.Machine

namespace Sys2Proof

open Machine Laws

variable {s : State} {qp : Nat}

theorem effect_eret : effect s (semEret qp) = s.begin.setCur ((shown s (.eret qp)).cur.asking .eret) := shown_setCur _ _ _

theorem jobs_setCur (w : State) (e : Ctx) : ((w.setCur e).unit w.curU).jobs = (w.unit w.curU).jobs := by simp [State.setCur, State.setCtx]

/-- Settles O29: the sequencer gives the bank of the handler to the context parked for it. -/
theorem eretResumesTheContext : Obligations.EretResumesTheContext := by
  intro qp cid b s p r brk h ok level _ idle mine handles _ found here other parked running
  have asked : (effect s (semEret qp)).cur = (shown s (.eret qp)).cur.asking .eret := by rw [effect_eret, State.cur_setCur]
  have left : (effect s (semEret qp)).setCur ((effect s (semEret qp)).moved (presOf s (semEret qp).i)) =
      s.begin.setCur ((effect s (semEret qp)).moved (presOf s (semEret qp).i)) := by rw [effect_eret, State.setCur_setCur]
  generalize moved : (effect s (semEret qp)).moved (presOf s (semEret qp).i) = m at left
  have cid_m : m.cid = s.begin.cur.cid := by rw [← moved, State.cid_moved, asked, Ctx.asking, shown_cur]
  have handles_m : m.handles = some (some cid) := by
    rw [← moved, State.handles_moved, asked, Ctx.asking, shown_cur]
    exact handles
  have issues : exec (.eret qp) s = .next (s.begin.setCur m).returnTrap := by
    rw [exec_issue (o := semEret qp) rfl s fun _ => level, issue1_issuable ok, issued,
      State.finishBundle_eret rfl (by rw [asked]; rfl), moved, left]
  have returns := State.returnTrap_eq (w := s.begin.setCur m) (cid := cid) (b := b) (p := p) ((jobs_setCur _ _).trans idle)
    (by rw [State.cur_setCur, handles_m]) (by rw [State.cur_setCur, cid_m]; exact mine) ((State.bankOf_setCur mine cid_m).trans found)
    ((State.ctx?_setCur_other other).trans here) other parked
  obtain ⟨cur, comes, swap⟩ := State.swappedIn (w := (s.begin.setCur m).setCur (s.begin.setCur m).cur.returning) (b := b) (e := p.resume brk)
    other 6 (s.begin.setCur m).cur.pc p.pc (s.begin.setCur m).cur
  rw [returns] at issues
  obtain ⟨live, pc, pres⟩ := Ctx.resume_running running brk
  refine ⟨_, issues, ?_, ?_, ⟨p.resume brk, comes, live, pc, pres⟩, swap⟩
  · exact (congrArg Ctx.status cur).trans (by rw [State.cur_setCur]; rfl)
  · exact (congrArg Ctx.quiet cur).trans (by rw [State.cur_setCur]; rfl)

end Sys2Proof
end

section
/-!
PROOFS. O31: CAPOP DERIVE.
-/
namespace Sys2Proof.Machine

/-- A free entry is a derived one: the roots are valid. -/
theorem DieSt.le_of_freeCap {d : DieSt} {i : Nat} (free : d.freeCap = some i) : 4096 ≤ i := by
  obtain ⟨k, -, rfl⟩ := List.mem_map.1 (List.mem_of_find?_eq_some free)
  exact Nat.le_add_right _ _

theorem DieSt.cap_derived {d : DieSt} {i : Nat} (derived : 4096 ≤ i) : d.cap i = d.caps.look i ⟨false, 0, 0, 0, 0, 0⟩ :=
  if_neg (Nat.not_lt.2 derived)

end Sys2Proof.Machine

namespace Sys2Proof

open Machine Laws

variable {s t : State} {qp sd sa sb rights i : Nat}

/-- The entry that a CAPOP DERIVE makes (R242). -/
def derivedCap (t : State) (sa sb rights i : Nat) : Cap :=
  let d := t.die t.cur.die
  let p := fld (t.cur.rs sa).toNat 0 13
  ⟨true, (d.cap p).target, fld (t.cur.rs sb).toNat 0 12, rights &&& (d.cap p).rights, p, (d.cap i).gen⟩

/-- The effect of a slot that starts nothing, notes no wait and observes no landing. -/
theorem effect_plain {o : SlotSem} (hook : o.hook = fun s => s) (start : o.start = none) (sees : o.sees = fun _ => []) :
    effect s o = o.eff (shown s o.i) := by
  rw [effect, hooked, sees, hook, start, observeAll_nil, Option.getD_none, id]

/-- CAPOP DERIVE with a free entry writes its number to the register and fills it (R242). -/
theorem effect_capopDerive (finds : shown s (.capopDerive qp sd sa sb rights) = t) (free : (t.die t.cur.die).freeCap = some i) :
    effect s (semCapopDerive qp sd sa sb rights) = (t.updCur fun c => c.write (c.ds sd) i 1).updDie t.cur.die fun x =>
      { x with caps := x.caps.put i (derivedCap t sa sb rights i) } := by
  subst finds
  rw [effect_plain rfl rfl rfl]
  simp only [semCapopDerive, free, Option.getD_some]
  rfl

/-- Settles O31: the bundle issues, and the entry is read back from the table. -/
theorem derivedRightsNeverGrow : Obligations.DerivedRightsNeverGrow := by
  intro qp sd sa sb rights i s level ok t free
  refine ⟨(exec_issue rfl s fun _ => level).trans (issue1_issuable ok), ?_⟩
  intro parent c
  have entry : c = derivedCap t sa sb rights i := by
    change ((effect s (semCapopDerive qp sd sa sb rights)).die t.cur.die).cap i = _
    rw [effect_capopDerive rfl free, State.die_updDie, DieSt.cap_derived (DieSt.le_of_freeCap free), Map.look_put_same]
  rw [entry]
  exact ⟨rfl, rfl, rfl, rfl, rfl⟩

end Sys2Proof
end

section
/-!
PROOFS. O30, O60: what the control and status registers read after a write and after reset (R238).
-/
namespace Sys2Proof

open Machine

/-- The first two watchdog limits of a queue as QWD12 reads them (R238). -/
def limitsWord (q : QueueSt) : Nat := q.w1 + q.w2 * 2 ^ 32

theorem csr_limits (s : State) (d level idx : Nat) : s.csr d level 0x12 idx = limitsWord (s.queue d idx) := rfl

/-- Settles O30: each register reads the field that its write set; the two fields of QWD12 are the halves of the value. -/
theorem writtenRegistersReadBack : Obligations.WrittenRegistersReadBack := by
  intro s d level n idx val known _ _
  simp only [List.mem_cons, List.not_mem_nil, or_false] at known
  rcases known with rfl | rfl | rfl | rfl | rfl | rfl | rfl | rfl | rfl | rfl
  · exact congrArg DieSt.trapH (s.die_updDie d _)
  · exact congrArg DieSt.trapVA (s.die_updDie d _)
  · exact congrArg DieSt.trapQ (s.die_updDie d _)
  · exact congrArg DieSt.faultMB (s.die_updDie d _)
  · rw [csr_limits]
    exact (congrArg limitsWord (s.queue_updQueue d idx _)).trans (Nat.mod_add_div' val _)
  · exact congrArg QueueSt.w3 (s.queue_updQueue d idx _)
  · exact congrArg QueueSt.dbg (s.queue_updQueue d idx _)
  · exact congrArg QueueSt.notify (s.queue_updQueue d idx _)
  · exact congrArg DieSt.savePA (s.die_updDie d _)
  · exact congrArg DieSt.saveN (s.die_updDie d _)

theorem die_reset (d : Nat) : State.reset.die d = {} := rfl

theorem unit_reset (u : Nat) : State.reset.unit u = {} := rfl

theorem queue_reset (d q : Nat) : State.reset.queue d q = {} := rfl

theorem pad_reset (p : Nat) : State.reset.pad p = {} := rfl

/-- What each register of R238 reads after reset. -/
theorem csr_reset (d level n idx : Nat) : State.reset.csr d level n idx =
    if n = 0x000 then level else if n = 0x033 then 2 ^ 37 else if n = 0x034 then 96 * 2 ^ 30 else if n = 0x035 then 0xB
    else if n = 0x042 then 128 else 0 := by
  unfold State.csr
  simp only [die_reset, unit_reset, queue_reset, pad_reset]
  split
  -- POOLCFG: an index that names a pad finds no pool in it
  case h_13 => split <;> rfl
  all_goals simp_all [Config.hbmCap, Config.lp6Cap, UnitSt.fenceWord]

/-- Settles O60: after reset every part of the machine reads as its default, and no byte of memory is listed. -/
theorem resetState : Obligations.ResetState :=
  ⟨⟨rfl, rfl, fun u => by simp [unit_reset], fun _ => rfl, fun d q => by simp [die_reset, queue_reset], csr_reset⟩,
    State.reset_mem_wf, fun _ => rfl⟩

end Sys2Proof
end

section
/-!
PROOFS. O6: the descriptor operations and the operations that read the machine into a register.
-/
namespace Sys2Proof

namespace Machine

/-- The record of FPNARROW (R256): the part of its source that it asks for, where that lies inside the source and its mode gives no more
rights; else the empty one that log 122 chooses. -/
theorem narrow_eq (src : FpRec) (mode off len : Nat) : narrow src mode off len =
    if src.len ≠ 0 ∧ len ≠ 0 ∧ off + len ≤ src.len ∧ (mode = src.mode ∨ (src.mode = 2 ∧ mode ≤ 1))
    then ⟨src.base + off, len, mode⟩ else {} := by
  simp only [narrow]
  rw [← ite_not]
  exact if_congr (by omega) rfl rfl

variable {d n idx : Nat}

/-- CSRR reads without acting under an index in range of every register but XINV and NODECTL, which are write only, and STATRD (R238). -/
theorem csrReadable_iff : (csrIdxOk d n idx && !decide (n ∈ [0x40, 0x50, 0x51])) = true ↔
    csrIdxOk d n idx = true ∧ n ≠ 0x40 ∧ n ≠ 0x50 ∧ n ≠ 0x51 := by
  simp

/-- CSRR passes its checks at every register that it reads without acting. -/
theorem State.csrrTrap_none (t : State) (readable : (csrIdxOk d n idx && !decide (n ∈ [0x40, 0x50, 0x51])) = true) :
    t.csrrTrap d n idx = none := by
  obtain ⟨idxOk, not40, not50, not51⟩ := csrReadable_iff.1 readable
  simp [csrrTrap, idxOk, not40, not50, not51]

end Machine

open Machine Laws

section

variable {i : Instr} {q : Nat} {sup : Bool} {pre : State → Bool} {check : State → Option Trap} {eff : State → State}
  {writes : State → List RegWrite} {descs : State → List ShadowW}

/-- An operation whose slot waits for nothing, passes its check under `pre` and then only writes registers and descriptors has the row of
these writes, at the level that it needs. -/
theorem checkedRow_holds (slot : semOf i = some { i := i, q := q, check := check, eff := eff }) (level : supervisorOp i = sup)
    (passes : ∀ t, pre t = true → check t = none)
    (acts : ∀ t, pre t = true → eff t = t.setCur ((descs t).foldl Ctx.shadowed
      ((writes t).foldl (fun c x => c.write x.dest x.val x.bound x.flags) t.cur))) :
    RegRow.Holds { i := i, q := q, pre := pre, writes := writes, descs := descs, sup := sup } :=
  regRow_holds _ { i := i, q := q, check := check, eff := eff } rfl rfl
    (fun s allowed => exec_issue slot s fun high => allowed.resolve_left (by simp [← level, high]))
    passes rfl rfl rfl rfl rfl rfl rfl rfl acts

/-- A D operation has the row of its descriptor writes (R249). -/
theorem descrRow_holds {f : State → Ctx → List ShadowW} (slot : semOf i = some (descr i q f)) (task : supervisorOp i = false)
    (computes : ∀ t, f t t.cur.dView = descs t) : RegRow.Holds { i := i, q := q, descs := descs } :=
  checkedRow_holds slot task (fun _ _ => rfl) fun t _ => by
    rw [← computes]
    rfl

/-- A write of FMT has its row where the value is one that FMT may hold (R28). -/
theorem fmtRow_holds {v : State → Nat} (slot : semOf i = some (fmtWrite i q v)) (task : supervisorOp i = false) :
    RegRow.Holds { i := i, q := q, pre := fun t => fmtOk (v t), descs := fun t => [.fmt (BitVec.ofNat 32 (v t))] } :=
  checkedRow_holds slot task (fun _ ok => if_pos ok) fun _ _ => rfl

end

/-! ## The descriptor operations -/

theorem fpnarrow_writes (fd mode off len : Nat) (src : FpRec) :
    (if fd = 0 then [] else [ShadowW.fp fd (narrow src mode off len)]) =
      if fd = 0 then []
      else if src.len ≠ 0 ∧ len ≠ 0 ∧ off + len ≤ src.len ∧ (mode = src.mode ∨ (src.mode = 2 ∧ mode ≤ 1))
      then [.fp fd ⟨src.base + off, len, mode⟩] else [.fp fd {}] := by
  rw [narrow_eq, apply_ite (fun r => [ShadowW.fp fd r])]

theorem descriptorRows_hold (qp sh shs field dim mp half word rowsm1 colsm1 fd fs mode sa sb imm : Nat) :
    ∀ r ∈ descriptorRows qp sh shs field dim mp half word rowsm1 colsm1 fd fs mode sa sb imm, r.Holds := by
  simp only [descriptorRows, List.forall_mem_cons, List.not_mem_nil, false_implies, implies_true, and_true]
  and_intros
  -- SHSET, SHSETI, SHCOPY, SHSTEP, MPSET, MPSETI, VSHAPE
  iterate 7 (· exact descrRow_holds rfl rfl fun _ => rfl)
  · exact descrRow_holds rfl rfl fun _ => fpnarrow_writes _ _ _ _ _
  -- FMTSET, FMTSETI
  iterate 2 (· exact fmtRow_holds rfl rfl)

/-! ## The operations that read -/

theorem readRows_hold (qp sd hd kind reg sl hs ring ch sa sb csr : Nat) :
    ∀ r ∈ readRows qp sd hd kind reg sl hs ring ch sa sb csr, r.Holds := by
  simp only [readRows, List.forall_mem_cons, List.not_mem_nil, false_implies, implies_true, and_true]
  and_intros
  · -- SHRD
    exact writeRow_holds rfl rfl fun _ => rfl
  · -- TINFO
    exact checkedRow_holds rfl rfl (fun _ => Option.isNone_iff_eq_none.1) fun _ _ => rfl
  · -- LANDH: the channel's end is the one that the check finds
    refine checkedRow_holds rfl rfl (fun t bound => ?_) fun t bound => ?_
    all_goals obtain ⟨e, found⟩ := Option.isSome_iff_exists.1 bound
    · simp [found]
    · simp only [found]
      rfl
  · -- RINGINFO
    exact writeRow_holds rfl rfl fun _ => rfl
  · -- CAPOP INFO
    exact checkedRow_holds rfl rfl (fun _ inTable => if_pos (of_decide_eq_true inTable)) fun _ _ => rfl
  · -- CSRR: no record of an ended task is popped
    refine checkedRow_holds rfl rfl (fun t readable => t.csrrTrap_none readable) fun t readable => ?_
    obtain ⟨-, -, -, noPop⟩ := csrReadable_iff.1 readable
    simp only [if_neg noPop]
    rfl

/-- Settles O6: each operation is one slot that writes the row's values; FPNARROW's record is put in the statement's form, and the checks pass under
the row's condition. -/
theorem descriptorsAndRegisterReads : Obligations.DescriptorsAndRegisterReads :=
  ⟨descriptorRows_hold, readRows_hold⟩

end Sys2Proof
end

section
/-!
PROOFS. O32: LDT and LDTR. Marking the landings that a bundle observes leaves alone what its slot reads, and the code of its context.
-/
namespace Sys2Proof.Machine

/-- `d` is `c` but for its leaves. -/
def Ctx.LeavesOnly (c d : Ctx) : Prop := d = { c with leafNext := d.leafNext, leaves := d.leaves }

theorem Ctx.LeavesOnly.trans {c d e : Ctx} (h : c.LeavesOnly d) (k : d.LeavesOnly e) : c.LeavesOnly e := by
  unfold Ctx.LeavesOnly at *
  rw [k, h]

/-- Whose an endpoint is, and which channels are bound to it (R343, R344). -/
def Endpoint.binding (e : Endpoint) : Nat × Nat × (Nat → Bool) := (e.die, e.queue, fun ch => (e.ends.entry? ch).isSome)

/-- A channel's end that is changed stays bound (R344). -/
theorem Endpoint.binding_put {e : Endpoint} {ch : Nat} {x : ChanEnd} (bound : e.ends.entry? ch = some x) (y : ChanEnd) :
    ({ e with ends := e.ends.put ch y } : Endpoint).binding = e.binding := by
  simp only [Endpoint.binding, Prod.mk.injEq, true_and]
  funext k
  by_cases here : k = ch
  · rw [here, Map.entry_put_same, bound]
    rfl
  · rw [Map.entry_put_other _ _ _ _ here]

/-- `y` is the unit `x` with landings observed: its contexts are as they were but for their leaves, and so are its filled lines and the
bindings of its channels (R371). -/
structure UnitSt.Observed (x y : UnitSt) : Prop where
  ctx : ∀ b, (x.ctxs.look b { cid := 0 }).LeavesOnly (y.ctxs.look b { cid := 0 })
  filled : y.filled = x.filled
  binding : y.endpoint.map Endpoint.binding = x.endpoint.map Endpoint.binding

/-- `t` is `s` with landings observed: memory, tiles and code are as they were, and the units but for what `UnitSt.Observed` allows (R371). -/
structure State.Observed (s t : State) : Prop where
  curU : t.curU = s.curU
  curB : t.curB = s.curB
  mem : t.mem = s.mem
  pads : t.pads = s.pads
  gpoison : t.gpoison = s.gpoison
  unit : ∀ u, (s.unit u).Observed (t.unit u)
  objs : ∀ d, (t.die d).objs = (s.die d).objs

theorem UnitSt.Observed.refl (x : UnitSt) : x.Observed x := ⟨fun _ => rfl, rfl, rfl⟩

variable {s t w : State}

namespace State.Observed

theorem refl (s : State) : s.Observed s := ⟨rfl, rfl, rfl, rfl, rfl, fun _ => .refl _, fun _ => rfl⟩

theorem trans (h : s.Observed t) (k : t.Observed w) : s.Observed w where
  curU := k.curU.trans h.curU
  curB := k.curB.trans h.curB
  mem := k.mem.trans h.mem
  pads := k.pads.trans h.pads
  gpoison := k.gpoison.trans h.gpoison
  unit u := ⟨fun b => ((h.unit u).ctx b).trans ((k.unit u).ctx b), (k.unit u).filled.trans (h.unit u).filled,
    (k.unit u).binding.trans (h.unit u).binding⟩
  objs d := (k.objs d).trans (h.objs d)

theorem foldl {α : Type} {f : State → α → State} (each : ∀ (s : State) (a : α), s.Observed (f s a)) (l : List α) :
    ∀ s : State, s.Observed (l.foldl f s) := by
  induction l with
  | nil => exact refl
  | cons a l ih => exact fun s => (each s a).trans (ih _)

theorem setUnit {u : Nat} {x : UnitSt} (h : (s.unit u).Observed x) : s.Observed (s.setUnit u x) := by
  refine ⟨rfl, rfl, rfl, rfl, rfl, fun v => ?_, fun _ => rfl⟩
  by_cases here : v = u
  · rw [here, State.unit_setUnit]
    exact h
  · rw [State.unit_setUnit_other _ _ _ _ here]
    exact .refl _

theorem updDie (s : State) (d : Nat) {f : DieSt → DieSt} (same : (f (s.die d)).objs = (s.die d).objs) : s.Observed (s.updDie d f) := by
  refine ⟨rfl, rfl, rfl, rfl, rfl, fun _ => .refl _, fun e => ?_⟩
  by_cases here : e = d
  · rw [here, State.die_updDie, same]
  · rw [State.die_updDie_other _ _ _ _ here]

theorem setCtx {u b : Nat} {c : Ctx} (leaves : (s.ctxAt u b).LeavesOnly c) : s.Observed (s.setCtx u b c) := by
  refine setUnit ⟨fun d => ?_, rfl, rfl⟩
  by_cases here : d = b
  · rw [here, Map.look_put_same]
    exact leaves
  · rw [Map.look_put_other _ _ _ _ _ here]
    rfl

theorem placeLeaf (s : State) (u cid idx : Nat) (l : LeafRec) : s.Observed (s.placeLeaf u cid idx l) := by
  unfold State.placeLeaf State.updCid
  split
  · exact setCtx rfl
  · exact updDie s _ rfl

theorem updEnd (s : State) (u ch : Nat) (f : ChanEnd → ChanEnd) : s.Observed (s.updEnd u ch f) := by
  refine setUnit ⟨fun _ => rfl, rfl, ?_⟩
  dsimp only
  rw [Option.map_map]
  congr 1
  funext e
  dsimp only [Function.comp]
  split
  · next bound => exact Endpoint.binding_put bound _
  · rfl

/-- A record that enters the statistics of a unit, or is dropped (R222). -/
theorem stat (s : State) (u : Nat) (c : Ctx) (kind slot data addr : Nat) : s.Observed (s.stat u c kind slot data addr) := by
  have records (st : List StatRec) (dr : Map Nat) : (s.unit u).Observed { s.unit u with stats := st, drops := dr } := ⟨fun _ => rfl, rfl, rfl⟩
  unfold State.stat
  dsimp only
  refine .trans (t := s.updDie (u / 128) fun d => { d with statNo := d.statNo + 1 }) (updDie s _ rfl) ?_
  split
  · exact setUnit (records _ _)
  · split
    · exact setUnit (records _ _)
    · exact setUnit (records _ _)

theorem landingStats (s : State) (u : Nat) (c : Ctx) (ch : Nat) (l : Landing) (slot addr : Nat) :
    s.Observed (s.landingStats u c ch l slot addr) := by
  have filled : s.Observed (if l.filled = 0 then s else s.stat u c 2 slot (ch + l.filled % 1024 * 256) addr) := by
    split
    · exact refl s
    · exact stat s _ _ _ _ _ _
  unfold State.landingStats
  dsimp only
  split
  · exact filled.trans (stat _ _ _ _ _ _ _)
  · exact filled

/-- One landing is observed (R371). -/
theorem observe1 (s : State) (slot w ext : Nat) (cn : Nat × Nat) : s.Observed (s.observe1 slot w ext cn) := by
  have leaf : s.Observed (s.setCur (s.cur.takeLeaf s.issAddr slot w ext).1) := setCtx (show s.cur.LeavesOnly _ from rfl)
  have marked (f : ChanEnd → ChanEnd) : s.Observed ((s.setCur (s.cur.takeLeaf s.issAddr slot w ext).1).updEnd s.curU cn.1 f) :=
    leaf.trans (updEnd _ _ _ _)
  unfold State.observe1
  dsimp only
  split
  · split
    · exact refl s
    · exact marked _
  · split
    · exact refl s
    · split
      · exact ((marked _).trans (placeLeaf _ _ _ _ _)).trans (landingStats _ _ _ _ _ _ _)
      · exact marked _

theorem cur (h : s.Observed t) : s.cur.LeavesOnly t.cur := by
  unfold State.cur
  rw [h.curU, h.curB]
  exact (h.unit _).ctx _

theorem pad (h : s.Observed t) (p : Nat) : t.pad p = s.pad p := by rw [State.pad, h.pads, State.pad]

theorem slot (h : s.Observed t) (r : TileRef) : t.slot r = s.slot r := by rw [State.slot, h.pad, State.slot]

theorem slotKey (h : s.Observed t) (r : TileRef) : t.slotKey r = s.slotKey r := by
  simp only [State.slotKey, State.poolOf, h.pad]

end State.Observed

/-- Whether a channel is bound to a context, by the binding of its unit's endpoint (R271). -/
theorem State.isSome_chanEnd? (s : State) (u : Nat) (c : Ctx) (ch : Nat) : (s.chanEnd? u c ch).isSome =
    ((s.unit u).endpoint.map Endpoint.binding).any fun b => decide (b.1 = c.die ∧ b.2.1 = c.queue) && b.2.2 ch := by
  unfold State.chanEnd? State.endpointOf
  cases (s.unit u).endpoint with
  | none => rfl
  | some e => by_cases mine : e.die = c.die ∧ e.queue = c.queue <;> simp [Endpoint.binding, mine]

namespace State.Observed

variable {c d : Ctx}

theorem isSome_chanEnd? (h : s.Observed t) (same : c.LeavesOnly d) (u ch : Nat) : (t.chanEnd? u d ch).isSome = (s.chanEnd? u c ch).isSome := by
  unfold Ctx.LeavesOnly at same
  rw [State.isSome_chanEnd?, State.isSome_chanEnd?, (h.unit u).binding, same]

/-- A handle names the tile that it named (R162). -/
theorem handle (h : s.Observed t) (same : c.LeavesOnly d) (u n : Nat) : t.handle u d n = s.handle u c n := by
  have bound := h.isSome_chanEnd? same
  unfold Ctx.LeavesOnly at same
  unfold State.handle State.owns State.handleNow
  simp only [h.pad, h.slot, bound]
  rw [same]

theorem dst (h : s.Observed t) (n : Nat) : t.dst n = s.dst n := by
  have same := h.cur
  unfold State.dst State.tile?
  rw [h.handle same, h.curU]
  unfold Ctx.LeavesOnly at same
  rw [same]
  rfl

end State.Observed

/-- `d` fetches from its instruction space as `c` does. -/
structure Ctx.FetchesAs (c d : Ctx) : Prop where
  startup : d.startup = c.startup
  die : d.die = c.die
  obj : d.obj = c.obj
  lbuf : d.lbuf = c.lbuf
  fq : d.fq = c.fq

theorem State.Observed.fetchTrap (h : s.Observed t) {c d : Ctx} (same : c.FetchesAs d) (u a : Nat) :
    t.fetchTrap u d a = s.fetchTrap u c a := by
  unfold State.fetchTrap
  rw [same.startup, same.die, same.obj, (h.unit u).filled, h.objs, h.gpoison]

/-- A byte of code is as before an observation (R168, R371). -/
theorem State.Observed.codeByte (h : s.Observed t) {c d : Ctx} (same : c.FetchesAs d) (u : Nat) : t.codeByte u d = s.codeByte u c := by
  funext a
  unfold State.codeByte Ctx.line? codeKey
  rw [h.fetchTrap same, h.mem, same.startup, same.lbuf, same.fq]

/-- The machine with its tiles' metadata replaced. -/
def State.withPads (s : State) (p : Map PadSt) : State := { s with pads := p }

@[simp] theorem State.cur_withPads (s : State) (p : Map PadSt) : (s.withPads p).cur = s.cur := rfl

@[simp] theorem State.mem_withPads (s : State) (p : Map PadSt) : (s.withPads p).mem = s.mem := rfl

@[simp] theorem State.curU_withPads (s : State) (p : Map PadSt) : (s.withPads p).curU = s.curU := rfl

@[simp] theorem State.codeByte_withPads (s : State) (p : Map PadSt) : (s.withPads p).codeByte = s.codeByte := rfl

/-- The note of a tile's read touches the tiles' stamps alone (R245). -/
theorem State.noteTileRead_eq (s : State) (u cid : Nat) (r : TileRef) : ∃ p, s.noteTileRead u cid r = s.withPads p := by
  unfold State.noteTileRead
  split <;> exact ⟨_, rfl⟩

/-- The context once a load has read a value: it is in flight, and a sealed tile marks the context (R266). -/
def Ctx.loaded (c : Ctx) (sd v bound : Nat) (sl : Bool) : Ctx :=
  { c.write (c.ds sd) v bound with touchSeal := c.touchSeal || sl }

theorem Ctx.LeavesOnly.loaded {c d : Ctx} (h : c.LeavesOnly d) (sd v bound : Nat) (sl : Bool) :
    (c.loaded sd v bound sl).LeavesOnly (d.loaded sd v bound sl) := by
  unfold Ctx.LeavesOnly at *
  rw [h]
  rfl

/-- What a load leaves of a context, whatever leaves of landings it gains besides: what the sequencer reads, and what a load changes and keeps. -/
structure Ctx.LoadsTo (c d : Ctx) (sd v bound : Nat) (sl : Bool) : Prop where
  li : d.li = c.li
  after : d.after = c.after
  fetches : c.FetchesAs d
  fly : d.fly = c.fly ++ [⟨c.bundleNo, c.bundleNo + bound, c.ds sd, v, 0⟩]
  touchSeal : d.touchSeal = (c.touchSeal || sl)
  registers : d.s = c.s ∧ d.q = c.q ∧ d.h = c.h ∧ d.flags = c.flags ∧ d.pend = c.pend

theorem Ctx.LeavesOnly.loadsTo {c d : Ctx} {sd v bound : Nat} {sl : Bool} (h : (c.loaded sd v bound sl).LeavesOnly d) :
    c.LoadsTo d sd v bound sl := by
  unfold Ctx.LeavesOnly at h
  rw [h]
  exact ⟨rfl, rfl, ⟨rfl, rfl, rfl, rfl, rfl⟩, rfl, rfl, rfl, rfl, rfl, rfl, rfl⟩

theorem State.eff_padLoad (w : State) (i : Instr) (q sd hs n sg : Nat) (off : State → Nat) :
    ∃ p, (padLoad i q sd hs n sg 0 off).eff w = (w.setCur (w.cur.loaded sd (loadVal n sg (w.mem.readN (w.slotKey (w.dst hs) + off w) n))
      (padBound (padLevel (w.dst hs).pad)) (w.slot (w.dst hs)).sealed)).withPads p :=
  State.noteTileRead_eq _ _ _ _

end Sys2Proof.Machine

namespace Sys2Proof

open Machine Laws

theorem observed_observeAll (i : Instr) (l : List (Nat × Nat)) (t : State) : t.Observed (observeAll i l t) :=
  State.Observed.foldl (fun s _ => State.Observed.observe1 s _ _ _ _) _ t

/-- A bundle ends an iteration by its context's loops and code alone. -/
theorem atLoopEnd_congr {t e : State} (loops : e.cur.li = t.cur.li) (code : e.codeByte e.curU e.cur = t.codeByte t.curU t.cur) (p : Pres) :
    atLoopEnd e p = atLoopEnd t p := by
  unfold atLoopEnd afterBundle
  rw [loops, code]

/-- What a slot that starts nothing and notes no wait finds, once the landings that it observes are marked. -/
theorem effect_observing {s : State} {o : SlotSem} (hook : o.hook = fun s => s) (start : o.start = none) :
    ∃ w, (shown s o.i).Observed w ∧ effect s o = o.eff w := by
  refine ⟨_, observed_observeAll o.i (o.sees (shown s o.i)) (shown s o.i), ?_⟩
  rw [effect, hooked, hook, start, Option.getD_none, id]

/-- The effect of a pad scalar load that consumes nothing: its context gains the value that the bytes of the tile have; besides leaves and landings
only stamps of tiles change (R245, R266, R371). -/
theorem effect_padLoad {s t : State} {i : Instr} {q sd hs n sg : Nat} {off : Ctx → Nat} (finds : shown s i = t)
    (same : ∀ c d : Ctx, c.LeavesOnly d → off d = off c) :
    let e := effect s (padLoad i q sd hs n sg 0 fun s => off s.cur)
    e.mem = t.mem ∧ e.codeByte e.curU e.cur = t.codeByte t.curU t.cur ∧ t.cur.LoadsTo e.cur sd
      (loadVal n sg (t.mem.readN (t.slotKey (t.dst hs) + off t.cur) n)) (padBound (padLevel (t.dst hs).pad)) (t.slot (t.dst hs)).sealed := by
  subst finds
  intro e
  obtain ⟨w, observed, eff⟩ := effect_observing (s := s) (o := padLoad i q sd hs n sg 0 fun s => off s.cur) rfl rfl
  replace observed : (shown s i).Observed w := observed
  obtain ⟨p, reads⟩ := w.eff_padLoad i q sd hs n sg fun s => off s.cur
  generalize shown s i = t at observed
  replace eff : e = _ := eff.trans reads
  rw [same _ _ observed.cur, observed.dst, observed.slotKey, observed.slot, observed.mem] at eff
  have loads : t.cur.LoadsTo e.cur sd (loadVal n sg (t.mem.readN (t.slotKey (t.dst hs) + off t.cur) n))
      (padBound (padLevel (t.dst hs).pad)) (t.slot (t.dst hs)).sealed := by
    rw [eff, State.cur_withPads, State.cur_setCur]
    exact (observed.cur.loaded _ _ _ _).loadsTo
  refine ⟨?_, ?_, loads⟩
  · rw [eff, State.mem_withPads, State.setCur_mem, observed.mem]
  · rw [← observed.codeByte loads.fetches, ← observed.curU, eff, State.codeByte_withPads, State.curU_withPads]
    exact codeByte_setCur w _ _

/-- What a load leaves of its context, once the sequencer has moved it on. -/
theorem onward_of_loadsTo {e t : State} {p : Pres} {x : Host.Outcome State Fault Refusal} {sd v bound : Nat} {sl : Bool}
    (issues : x = .next (e.setCur (goOn e p)).stallLands) (mem : e.mem = t.mem) (loads : t.cur.LoadsTo e.cur sd v bound sl) :
    ∃ e' c, x = .next (e'.setCur c).stallLands ∧ e' = e ∧
      c.fly = t.cur.fly ++ [⟨t.cur.bundleNo, t.cur.bundleNo + bound, t.cur.ds sd, v, 0⟩] ∧
      c.touchSeal = (t.cur.touchSeal || sl) ∧ (∀ a, (e'.setCur c).mem.read a = t.mem.read a) ∧
      c.s = t.cur.s ∧ c.q = t.cur.q ∧ c.h = t.cur.h ∧ c.flags = t.cur.flags ∧ c.pend = t.cur.pend :=
  ⟨e, goOn e p, issues, rfl, loads.fly, loads.touchSeal, fun a => by rw [State.setCur_mem, mem], loads.registers⟩

/-- A pad scalar load that issues and does not end an iteration, at an offset on which no leaf bears: the sequencer moves its context on. -/
theorem exec_padLoad {s : State} {i : Instr} {q sd hs n sg : Nat} {off : Ctx → Nat}
    (slot : semOf i = some (padLoad i q sd hs n sg 0 fun s => off s.cur)) (task : supervisorOp i = false)
    (same : ∀ c d : Ctx, c.LeavesOnly d → off d = off c) (ok : Issuable s (padLoad i q sd hs n sg 0 fun s => off s.cur))
    (inside : atLoopEnd (shown s i) (presOf s i) = false) :
    let e := effect s (padLoad i q sd hs n sg 0 fun s => off s.cur)
    exec i s = .next (e.setCur (goOn e (presOf s i))).stallLands := by
  intro e
  obtain ⟨-, code, loads⟩ := effect_padLoad (s := s) (q := q) (sd := sd) (hs := hs) (n := n) (sg := sg) rfl same
  have issues : exec i s = .next (e.finishBundle (presOf s i) [i]) := (exec_issue slot s (by simp [task])).trans (issue1_issuable ok)
  obtain ⟨-, -, idle, -⟩ := ok.1
  rw [issues, finishBundle_plain _ _ _ (loads.after.trans ((after_shown s i).trans idle)) rfl ((atLoopEnd_congr loads.li code _).trans inside)]

/-- Settles O32: both are pad scalar loads that consume nothing; `Ctx.LoadsTo` says what such a load leaves. -/
theorem padLoadsReadTheTile : Obligations.PadLoadsReadTheTile := by
  intro qp sd hs sz sg imm9 sb s x mem o slot ok inside
  simp only [padLoads, List.mem_cons, List.not_mem_nil, or_false] at mem
  rcases mem with rfl | rfl
  all_goals obtain rfl := Option.some.inj slot
  · have fixed : ∀ c d : Ctx, c.LeavesOnly d → imm9 * 2 ^ sz = imm9 * 2 ^ sz := fun _ _ _ => rfl
    obtain ⟨kept, -, loads⟩ := effect_padLoad (off := fun _ => imm9 * 2 ^ sz) rfl fixed
    exact onward_of_loadsTo (exec_padLoad (off := fun _ => imm9 * 2 ^ sz) rfl rfl fixed ok inside) kept loads
  · have fixed : ∀ c d : Ctx, c.LeavesOnly d → (d.rs sb).toNat = (c.rs sb).toNat := fun c d h => by rw [h]; rfl
    obtain ⟨kept, -, loads⟩ := effect_padLoad (off := fun c => (c.rs sb).toNat) rfl fixed
    exact onward_of_loadsTo (exec_padLoad (off := fun c => (c.rs sb).toNat) rfl rfl fixed ok inside) kept loads

end Sys2Proof
end

section
/-!
PROOFS. O34: the checks of the scalar accesses of pads and of global memory (R266-R268, R280-R282).
-/
namespace Sys2Proof.Machine

variable {t : State} {u h : Nat} {c : Ctx} {tile : TileRef}

theorem State.handleTrap_ok (names : t.handle u c h = .ok tile) : t.handleTrap u c h = none := by
  rw [State.handleTrap, names]

theorem State.operandLen_ok (names : t.handle u c h = .ok tile) : t.operandLen u c h = (t.slot tile).len := by
  rw [State.operandLen, names]

/-- The checks of an access of `n` bytes at offset `off` of a tile of `len` bytes, in order: what the handle answers, the alignment, the
tile's end, the chunks (R266, R280). -/
def padChecks (named : Option Trap) (n off len : Nat) (read : Option Trap) : List (Option Trap) :=
  [named, if off % n ≠ 0 then some (trapOf 0x13 0) else none, if len < off + n then some (trapOf 0x15 0) else none, read]

theorem firstTrap_misaligned {n off : Nat} (odd : off % n ≠ 0) (len : Nat) (read : Option Trap) :
    firstTrap (padChecks none n off len read) = some { cause := 0x13 } := by
  simp [padChecks, odd, firstTrap, trapOf]

theorem firstTrap_beyond {n off len : Nat} (even : off % n = 0) (beyond : len < off + n) (read : Option Trap) :
    firstTrap (padChecks none n off len read) = some { cause := 0x15 } := by
  simp [padChecks, even, beyond, firstTrap, trapOf]

/-- A global access that is not aligned raises SHAPEALIGN with its address (R268, R281). -/
theorem globalTrap_misaligned {f off n : Nat} (odd : ((fpOf c.fp f).base + off) % n ≠ 0) :
    globalTrap c f off n = some { cause := 0x13, vaddr := wrapN 80 ((fpOf c.fp f).base + off : Nat) } := if_pos odd

/-- An aligned global access through f0 or an empty record raises FOOTPRINT with its address (R268, R281). -/
theorem globalTrap_empty {f off n : Nat} (even : ((fpOf c.fp f).base + off) % n = 0) (empty : f = 0 ∨ (fpOf c.fp f).len = 0) :
    globalTrap c f off n = some { cause := 0x11, vaddr := wrapN 80 ((fpOf c.fp f).base + off : Nat) } :=
  (if_neg (not_not.2 even)).trans (if_pos empty)

end Sys2Proof.Machine

namespace Sys2Proof

open Machine Laws

variable {s : State} {i : Instr} {o : SlotSem} {hs n off : Nat} {tile : TileRef}

@[simp] theorem fp_shown (s : State) (i : Instr) : (shown s i).cur.fp = s.begin.cur.fp := by rw [shown_cur]

/-- An access whose handle passes its check raises SHAPEALIGN at an offset that is no multiple of its size, and else TILESIZE past the end of
its tile (R266, R280). -/
theorem padAccess_traps (slot : semOf i = some o) (task : supervisorOp i = false) (ready : Ready s i o.q)
    (quiet : (shown s i).faultOf (shown s i).curU (o.obs (shown s i)) = none)
    (form : ∃ read, o.check (shown s i) = firstTrap (padChecks none n off ((shown s i).slot tile).len read)) :
    (off % n ≠ 0 → exec i s = .next (raised s i (slotTrap s i { cause := 0x13 }))) ∧
      (off % n = 0 → ((shown s i).slot tile).len < off + n → exec i s = .next (raised s i (slotTrap s i { cause := 0x15 }))) := by
  obtain ⟨read, form⟩ := form
  have raises {t : Trap} (failed : o.check (shown s i) = some t) (own : t.engine = false) : exec i s = .next (raised s i (slotTrap s i t)) :=
    faultsAreRaisedBeforeIssue.2 i o s t slot (by simp [task]) ready quiet failed own
  exact ⟨fun odd => raises (form.trans (firstTrap_misaligned odd _ _)) rfl,
    fun even beyond => raises (form.trans (firstTrap_beyond even beyond _)) rfl⟩

/-- The check of a pad scalar load whose handle names `tile` (R266). -/
theorem check_padLoad {t : State} {q sd sg c : Nat} {offset : State → Nat} (at' : offset t = off)
    (names : t.handle t.curU t.cur (t.cur.rh hs) = .ok tile) :
    ∃ read, (padLoad i q sd hs n sg c offset).check t = firstTrap (padChecks none n off (t.slot tile).len read) := by
  subst at'
  refine ⟨t.readTrap t.curU t.cur (t.cur.rh hs) (chunkRange (offset t) n), ?_⟩
  rw [← State.operandLen_ok names, ← State.handleTrap_ok names]
  rfl

/-- The check of a pad scalar store whose handle names `tile`, which a task owns (R280). -/
theorem check_padStore {t : State} {q sa : Nat} {offset : State → Nat} (at' : offset t = off)
    (names : t.handle t.curU t.cur (t.cur.rh hs) = .ok tile) (owned : (t.slot tile).okind = 1) :
    ∃ read, (padStore i q sa hs n offset).check t = firstTrap (padChecks none n off (t.slot tile).len read) := by
  subst at'
  refine ⟨t.readTrap t.curU t.cur (t.cur.rh hs) (chunkRange (offset t) n), ?_⟩
  simp only [padStore, padChecks, names, owned, if_true, State.operandLen_ok names]

/-- A global scalar access that is not aligned, or whose record is empty, is raised as its bundle is presented (R268, R281, R282). -/
theorem globalAccess_traps {qp f sa : Nat} (slot : semOf i = some o) (task : supervisorOp i = false) (ready : Ready s i qp) (same : o.q = qp)
    (quiet : o.obs = fun _ => []) (form : ∀ t, o.check t = globalTrap t.cur f (t.cur.rs sa).toNat n) :
    let va := (fpOf s.begin.cur.fp f).base + (s.begin.cur.rs sa).toNat
    (va % n ≠ 0 → exec i s = .next (raised s i (slotTrap s i { cause := 0x13, vaddr := wrapN 80 va }))) ∧
      (va % n = 0 → (f = 0 ∨ (fpOf s.begin.cur.fp f).len = 0) →
        exec i s = .next (raised s i (slotTrap s i { cause := 0x11, vaddr := wrapN 80 va }))) := by
  subst same
  rw [← fp_shown s i, ← rs_shown s i]
  exact ⟨fun odd => exec_of_failed_check slot task ready quiet ((form _).trans (globalTrap_misaligned odd)) rfl,
    fun even empty => exec_of_failed_check slot task ready quiet ((form _).trans (globalTrap_empty even empty)) rfl⟩

/-- Settles O34: the accesses of pads fail the second or third of `padChecks`, those of global memory `globalTrap`. -/
theorem scalarAccessChecks : Obligations.ScalarAccessChecks := by
  refine ⟨fun qp sd sa hs sz sg c imm9 sb s => ?_, fun qp sd sb f sa sz sg e aop scope order size s => ?_⟩
  · simp only [List.forall_mem_cons, List.not_mem_nil, false_implies, implies_true, and_true]
    have register (i : Instr) : ((shown s i).cur.rs sb).toNat = (s.begin.cur.rs sb).toNat := by rw [rs_shown]
    and_intros
    all_goals intro o tile slot ready quiet names owned; obtain rfl := Option.some.inj slot
    · exact padAccess_traps slot rfl ready quiet (check_padLoad rfl names)
    · exact padAccess_traps slot rfl ready quiet (check_padLoad (register _) names)
    · exact padAccess_traps slot rfl ready quiet (check_padLoad (register _) names)
    · exact padAccess_traps slot rfl ready quiet (check_padStore rfl names owned)
    · exact padAccess_traps slot rfl ready quiet (check_padStore (register _) names owned)
  · simp only [List.forall_mem_cons, List.not_mem_nil, false_implies, implies_true, and_true]
    and_intros
    all_goals intro ready; exact globalAccess_traps rfl rfl ready rfl rfl fun _ => rfl

end Sys2Proof
end

section
/-!
PROOFS. O35: ALLOC, ALLOCR and ALLOCT (R259, R260).
-/
namespace Sys2Proof.Machine

variable {t : State} {hd pool : Nat} {tile : TileRef}

/-- The slot that an allocation takes is the lowest of its pool that is free, of no channel and with its storage returned (R260). -/
theorem State.lowest_of_allocReady {u : Nat} {p : PtEnt} (ready : t.allocReady u p = some tile) :
    let slot := fun i => (⟨padIdx u p.level, p.pool * 16384 + i⟩ : TileRef)
    let free := fun i => (t.slot (slot i)).okind = 0 ∧ (t.slot (slot i)).busy = false ∧ (t.slot (slot i)).chan = none
    ∃ i, tile = slot i ∧ i < ((t.pad (padIdx u p.level)).pools.look p.pool ⟨0, 0, 0⟩).count ∧ free i ∧ ∀ k, k < i → ¬free k := by
  unfold State.allocReady at ready
  split at ready
  · rw [State.freeSlots, List.head?_filter, List.find?_map, Option.map_eq_some_iff] at ready
    obtain ⟨i, found, rfl⟩ := ready
    obtain ⟨free, inPool, least⟩ := List.find?_range_eq_some.1 found
    refine ⟨i, rfl, List.mem_range.1 inPool, by simpa [and_assoc] using free, fun k below => ?_⟩
    simpa [or_assoc, imp_iff_not_or, Option.isSome_iff_ne_none] using least k below
  · cases ready

/-- The context once it has taken a slot: the handle is in flight, and the reservation counts the slot (R260). -/
def Ctx.taking (c : Ctx) (hd pool handle : Nat) : Ctx :=
  { c.write (c.dh hd) handle 2 with pt := c.pt.adj pool {} fun p => { p with inUse := p.inUse + 1 } }

theorem State.updCur_updCur (f g : Ctx → Ctx) : (t.updCur f).updCur g = t.updCur fun c => g (f c) := by
  simp [State.updCur]

/-- The machine with a slot taken for the issuing context, and that context changed by `g` (R259, R260). -/
def State.taken (t : State) (pool reads : Nat) (tile : TileRef) (g : Ctx → Ctx) : State :=
  (t.allocSlot t.curU t.cur pool reads t.issAddr tile).updCur g

theorem State.take_eq_taken (reads : Nat) : t.take hd pool reads tile =
    t.taken pool reads tile (Ctx.taking · hd pool (handleOf tile (t.slot tile).gen)) := rfl

theorem State.updCur_taken (reads : Nat) (f g : Ctx → Ctx) :
    (t.taken pool reads tile g).updCur f = t.taken pool reads tile fun c => f (g c) := State.updCur_updCur g f

/-- A taken slot is the task's, with its reads to come and nothing arrived or produced, at its generation (R259). -/
theorem State.slot_taken (reads : Nat) (g : Ctx → Ctx) : let x := (t.taken pool reads tile g).slot tile
    x.okind = 1 ∧ x.oid = t.cur.taskId ∧ x.reads = reads ∧ x.arrival = 0 ∧ x.produced = false ∧ x.gen = (t.slot tile).gen := by
  intro x
  rw [show x = _ from State.slot_updSlot t tile _]
  exact ⟨rfl, rfl, rfl, rfl, rfl, rfl⟩

theorem State.cur_taken (reads : Nat) (g : Ctx → Ctx) : (t.taken pool reads tile g).cur = g t.cur := State.cur_updCur _ g

/-- The context that an ALLOCT leaves which has taken a slot: the predicate tells so (R260). -/
def Ctx.takingTold (c : Ctx) (hd pool handle qs : Nat) : Ctx := (c.taking hd pool handle).write (c.dq qs) 1 2

theorem Ctx.fly_takingTold (c : Ctx) (hd pool handle qs : Nat) : (c.takingTold hd pool handle qs).fly =
    c.fly ++ [⟨c.bundleNo, c.bundleNo + 2, c.dh hd, handle, 0⟩, ⟨c.bundleNo, c.bundleNo + 2, c.dq qs, 1, 0⟩] :=
  List.append_assoc _ _ _

theorem Ctx.pt_takingTold (c : Ctx) (hd pool handle qs : Nat) : (c.takingTold hd pool handle qs).pt = (c.taking hd pool handle).pt := rfl

theorem Ctx.inUse_taking (c : Ctx) (handle : Nat) : ((c.taking hd pool handle).pt.look pool {}).inUse = (c.pt.look pool {}).inUse + 1 :=
  congrArg PtEnt.inUse (Map.look_put_same _ _ _ _)

end Sys2Proof.Machine

namespace Sys2Proof

open Machine Laws

@[simp] theorem dh_shown (s : State) (i : Instr) (n : Nat) : (shown s i).cur.dh n = s.begin.cur.dh n := by rw [shown_cur]; rfl

@[simp] theorem dq_shown (s : State) (i : Instr) (n : Nat) : (shown s i).cur.dq n = s.begin.cur.dq n := by rw [shown_cur]; rfl

variable {s t : State} {i : Instr} {o : SlotSem} {tile : TileRef}

/-- A row of an operation that needs no level is met where its bundle is ready, its condition holds and it does not end an iteration. -/
theorem RegRow.met_of_task {r : RegRow} (ready : Ready s r.i r.q) (holds : r.pre (shown s r.i) = true)
    (inside : atLoopEnd (shown s r.i) (presOf s r.i) = false) (task : r.sup = false) : r.met s = true := by
  rw [RegRow.met, decide_eq_true ready, holds, inside, task]
  rfl

/-- ALLOCT where the pool has no slot to take: it writes the null handle and a predicate of 0 (R260). -/
def alloctNone (qp hd pool reads qs : Nat) : RegRow :=
  { i := .alloct qp hd pool reads qs, q := qp
    pre := fun t => (t.ptOf pool).valid && (t.allocReady t.curU (t.ptOf pool)).isNone
    writes := fun t => [⟨t.cur.dh hd, 2, 0, 0⟩, ⟨t.cur.dq qs, 2, 0, 0⟩] }

theorem alloctNone_holds (qp hd pool reads qs : Nat) : (alloctNone qp hd pool reads qs).Holds := by
  refine checkedRow_holds rfl rfl (fun t full => ?_) fun t full => ?_
  all_goals obtain ⟨valid, noSlot⟩ := Bool.and_eq_true_iff.1 full
  · exact if_pos valid
  · simp only [Option.isNone_iff_eq_none.1 noSlot]
    rfl

theorem effect_allocSem {q hd pool : Nat} {reads : State → Nat} (finds : shown s i = t)
    (ready : t.allocReady t.curU (t.ptOf pool) = some tile) : effect s (allocSem i q hd pool reads) =
      t.taken pool (reads t) tile (Ctx.taking · hd pool (handleOf tile (t.slot tile).gen)) := by
  subst finds
  rw [effect_plain rfl rfl rfl, ← State.take_eq_taken]
  simp only [allocSem]
  rw [ready]

theorem effect_alloct_takes {qp hd pool reads qs : Nat} (finds : shown s (.alloct qp hd pool reads qs) = t)
    (ready : t.allocReady t.curU (t.ptOf pool) = some tile) : effect s (semAlloct qp hd pool reads qs) =
      t.taken pool reads tile (Ctx.takingTold · hd pool (handleOf tile (t.slot tile).gen) qs) := by
  subst finds
  rw [effect_plain rfl rfl rfl]
  simp only [semAlloct]
  rw [ready]
  exact State.updCur_taken _ _ _

/-- An operation that takes a slot when it issues: which slot, what becomes of it, of the reservation and of the handle (R259, R260). -/
theorem takes_of_effect {pool reads : Nat} {g : Ctx → Ctx} {fly : List Fly}
    (ready : (shown s i).allocReady (shown s i).curU ((shown s i).ptOf pool) = some tile)
    (eff : effect s o = (shown s i).taken pool reads tile g)
    (counts : ((g (shown s i).cur).pt.look pool {}).inUse = ((shown s i).ptOf pool).inUse + 1)
    (writes : (g (shown s i).cur).fly = (shown s i).cur.fly ++ fly) :
    let t := shown s i
    let e := effect s o
    let p := t.ptOf pool
    let slot := fun i => (⟨padIdx t.curU p.level, p.pool * 16384 + i⟩ : TileRef)
    let free := fun i => (t.slot (slot i)).okind = 0 ∧ (t.slot (slot i)).busy = false ∧ (t.slot (slot i)).chan = none
    (∃ i, tile = slot i ∧ i < ((t.pad (padIdx t.curU p.level)).pools.look p.pool ⟨0, 0, 0⟩).count ∧ free i ∧ ∀ k, k < i → ¬free k) ∧
      (e.slot tile).okind = 1 ∧ (e.slot tile).oid = t.cur.taskId ∧ (e.slot tile).reads = reads ∧ (e.slot tile).arrival = 0 ∧
      (e.slot tile).produced = false ∧ (e.slot tile).gen = (t.slot tile).gen ∧
      (e.ptOf pool).inUse = (t.ptOf pool).inUse + 1 ∧ (∀ a, e.mem.read a = t.mem.read a) ∧ e.cur.fly = t.cur.fly ++ fly := by
  intro t e p slot free
  have cur : e.cur = g t.cur := by rw [show e = _ from eff, State.cur_taken]
  obtain ⟨task, owner, toCome, arrival, produced, gen⟩ := t.slot_taken (pool := pool) (tile := tile) reads g
  refine ⟨State.lowest_of_allocReady ready, ?_⟩
  rw [State.ptOf, cur, show e = _ from eff]
  exact ⟨task, owner, toCome, arrival, produced, gen, counts, fun _ => rfl, writes⟩

/-- Settles O35: the three operations issue with the effect of `State.taken`; ALLOCT without a slot is a row of register writes. -/
theorem allocationTakesASlot : Obligations.AllocationTakesASlot := by
  refine ⟨fun qp hd pool reads sa qs s x mem o tile slot ok ready => ?_, fun qp hd pool reads qs s ready inside valid noSlot => ?_⟩
  · simp only [List.mem_cons, List.not_mem_nil, or_false] at mem
    rcases mem with rfl | rfl | rfl
    all_goals
      obtain rfl := Option.some.inj slot
      intro t e p slot free
      have issues := issue1_issuable ok
    · exact ⟨issues, takes_of_effect ready (effect_allocSem rfl ready) (Ctx.inUse_taking _ _) rfl⟩
    · exact ⟨issues, takes_of_effect ready (effect_allocSem rfl ready) (Ctx.inUse_taking _ _) rfl⟩
    · refine ⟨issues, takes_of_effect ready (effect_alloct_takes rfl ready) ?_ (Ctx.fly_takingTold _ _ _ _ _)⟩
      rw [Ctx.pt_takingTold]
      exact Ctx.inUse_taking _ _
  · obtain ⟨c, issues, frame, -, -, -, -, -, fly⟩ := alloctNone_holds qp hd pool reads qs s (RegRow.met_of_task ready
      (by simp [alloctNone, valid, noSlot]) inside rfl)
    refine ⟨c, issues, frame, fly.trans ?_⟩
    rw [← dh_shown s (.alloct qp hd pool reads qs), ← dq_shown s (.alloct qp hd pool reads qs)]
    rfl

end Sys2Proof
end

section
/-!
PROOFS. O36: operations whose work is a job's enter their job as they issue (R213, R231, R257, R258, R263, R272).
-/
namespace Sys2Proof.Machine

/-- `d` is `c` but for its leaves and the marks of registers that have a result to come. -/
def Ctx.Marks (c d : Ctx) : Prop :=
  d = { c with leafNext := d.leafNext, leaves := d.leaves, ticket := d.ticket, tickets := d.tickets }

/-- `w` is `t` as a job is about to enter it: of the units and their contexts only the leaves and marks of the issuing one may differ. -/
structure State.Prepares (t w : State) : Prop where
  mem : w.mem = t.mem
  curU : w.curU = t.curU
  marks : t.cur.Marks w.cur
  unit : ∀ v, w.unit v = { t.unit v with ctxs := (w.unit v).ctxs }
  others : ∀ v, v ≠ t.curU → (w.unit v).ctxs = (t.unit v).ctxs

/-- `u` is `t` with a job of operation `i` entered: of the units and their contexts only the filled lines may differ besides. -/
structure State.EntersJob (i : Instr) (t u : State) : Prop where
  mem : u.mem = t.mem
  last : ∃ j, (u.unit t.curU).jobs = (t.unit t.curU).jobs ++ [j] ∧ j.instr = i ∧ j.cid = t.cur.cid ∧ j.fault = none
  ctx : u.cur = { t.cur with
    leafNext := u.cur.leafNext, leaves := u.cur.leaves, ticket := u.cur.ticket, tickets := u.cur.tickets
    jobCount := u.cur.jobCount, semP := u.cur.semP }
  unit : ∀ v, u.unit v = { t.unit v with jobs := (u.unit v).jobs, ctxs := (u.unit v).ctxs, filled := (u.unit v).filled }
  others : ∀ v, v ≠ t.curU → (u.unit v).jobs = (t.unit v).jobs ∧ (u.unit v).ctxs = (t.unit v).ctxs

variable {t w u : State} {i : Instr} {j : Job}

theorem State.unit_setCur_other (c : Ctx) {v : Nat} (other : v ≠ t.curU) : (t.setCur c).unit v = t.unit v :=
  t.unit_updUnit_other _ _ _ other

theorem State.unit_setCur (c : Ctx) (v : Nat) : (t.setCur c).unit v = { t.unit v with ctxs := ((t.setCur c).unit v).ctxs } := by
  by_cases here : v = t.curU
  · subst here
    simp [State.setCur, State.setCtx]
  · rw [State.unit_setCur_other c here]

theorem State.unit_issueJob_other {v : Nat} (other : v ≠ w.curU) : (w.issueJob j).unit v = w.unit v :=
  (State.unit_updUnit_other _ _ _ _ other).trans (State.unit_updUnit_other _ _ _ _ other)

namespace State.Prepares

theorem refl (t : State) : t.Prepares t := ⟨rfl, rfl, rfl, fun _ => rfl, fun _ _ => rfl⟩

theorem setCur {c : Ctx} (marks : t.cur.Marks c) : t.Prepares (t.setCur c) :=
  ⟨rfl, rfl, by rwa [State.cur_setCur], t.unit_setCur c, fun v other => by rw [State.unit_setCur_other c other]⟩

theorem takeLeaf (t : State) (i : Instr) : t.Prepares (t.takeLeaf i).1 := setCur rfl

theorem claim (t : State) (d : Dest) : t.Prepares (t.updCur fun c => c.claim d) := setCur rfl

/-- The metadata of a tile is no part of a unit (R258). -/
theorem produceAs (h : t.Prepares w) (r : TileRef) (m : Map Word) : t.Prepares (w.produceAs r m) :=
  ⟨h.mem, h.curU, h.marks, h.unit, h.others⟩

theorem cid (h : t.Prepares w) : w.cur.cid = t.cur.cid := by
  have marks := h.marks
  unfold Ctx.Marks at marks
  rw [marks]

theorem jobs (h : t.Prepares w) (v : Nat) : (w.unit v).jobs = (t.unit v).jobs := by rw [h.unit]

theorem filled (h : t.Prepares w) (v : Nat) : (w.unit v).filled = (t.unit v).filled := by rw [h.unit]

/-- A job enters a machine that is prepared for it (R213, R231, R257). -/
theorem entersJob (h : t.Prepares w) (own : j.instr = i) (mine : j.cid = t.cur.cid) (fresh : j.fault = none) :
    t.EntersJob i (w.issueJob j) where
  mem := h.mem
  last := ⟨j, by rw [← h.curU, State.jobs_issueJob, h.jobs], own, mine, fresh⟩
  ctx := by
    have marks := h.marks
    unfold Ctx.Marks at marks
    rw [State.cur_issueJob, marks]
  unit v := by
    rw [State.filled_issueJob, h.filled]
    refine (w.unit_issueJob j v).trans ?_
    rw [h.unit]
  others v other := by
    rw [State.unit_issueJob_other (h.curU ▸ other)]
    exact ⟨h.jobs v, h.others v other⟩

end State.Prepares

/-- `u` is `t` with a job of operation `i` entered, and with every tile and every filled line as it was. -/
structure State.EntersAlone (i : Instr) (t u : State) : Prop extends State.EntersJob i t u where
  slot : ∀ r, u.slot r = t.slot r
  filled : ∀ v, (u.unit v).filled = (t.unit v).filled

/-- A job alone enters a machine that is prepared for it with its pads as they were. -/
theorem State.Prepares.entersAlone (h : t.Prepares w) (pads : w.pads = t.pads) (own : j.instr = i) (mine : j.cid = t.cur.cid)
    (fresh : j.fault = none) : t.EntersAlone i (w.issueJob j) where
  toEntersJob := h.entersJob own mine fresh
  slot r := by rw [State.slot_issueJob, State.slot, State.pad, pads]; rfl
  filled v := by rw [State.filled_issueJob, h.filled]

/-- Whether an operation whose work is a job's changes more than its context and its unit's jobs: GATHER gives its tile metadata, OVL clears
lines (R258, R272). -/
def preparesMore : Instr → Bool
  | .gather .. | .ovl .. => true
  | _ => false

/-- A job alone in the terms of both exceptions: neither is the operation's. -/
theorem State.EntersAlone.spelled (job : t.EntersAlone i u) (only : preparesMore i = false) (qp hd sh e f sa sb : Nat) (d : TileRef)
    (x : SlotSt) (cleared : Nat → Nat × Unit → Prop) :
    t.EntersJob i u ∧ (∀ r, u.slot r = if i = .gather qp hd sh e ∧ r = d then x else t.slot r) ∧
      ∀ v l, l ∈ (u.unit v).filled ↔ l ∈ (t.unit v).filled ∧ ¬(i = .ovl qp f sa sb e ∧ cleared v l) := by
  have noGather : i ≠ .gather qp hd sh e := by rintro rfl; cases only
  have noOvl : i ≠ .ovl qp f sa sb e := by rintro rfl; cases only
  exact ⟨job.toEntersJob, fun r => by rw [job.slot, if_neg fun h => noGather h.1], fun v l => by simp [job.filled, noOvl]⟩

/-- A job that has entered stays entered when filled lines of a unit change (R169). -/
theorem State.EntersJob.updFilled (h : t.EntersJob i u) (v : Nat) (f : UnitSt → Map Unit) :
    t.EntersJob i (u.updUnit v fun x => { x with filled := f x }) := by
  have kept (n : Nat) : (u.updUnit v fun x => { x with filled := f x }).unit n =
      { u.unit n with filled := ((u.updUnit v fun x => { x with filled := f x }).unit n).filled } := by
    by_cases here : n = v
    · rw [here, State.unit_updUnit]
    · rw [State.unit_updUnit_other _ _ _ _ here]
  have cur : (u.updUnit v fun x => { x with filled := f x }).cur = u.cur := u.cur_updUnit v _ fun _ => rfl
  refine ⟨h.mem, ?_, ?_, fun n => ?_, fun n other => ?_⟩
  · rw [kept]
    exact h.last
  · rw [cur]
    exact h.ctx
  · rw [kept, h.unit]
  · rw [kept]
    exact h.others n other

/-- The slot of a tile that a producer has given its metadata by a shape sample, and PRODUCED (R258). -/
def SlotSt.producedAs (x : SlotSt) (m : Map Word) : SlotSt :=
  { x with rows := shF m 16 - 1, cols := shF m 17 - 1, fmt := shF m 2, seq := shF m 18 % 2 ^ 32, produced := true }

theorem State.slot_produceAs (t : State) (d : TileRef) (m : Map Word) (r : TileRef) :
    (t.produceAs d m).slot r = if r = d then (t.slot d).producedAs m else t.slot r := by
  split
  · next same =>
    subst same
    exact State.slot_updSlot _ _ _
  · next other => exact State.slot_updSlot_other _ _ _ _ other

/-- The lines of a scratchpad that lie outside `n` lines from line `k` on. -/
def UnitSt.outside (x : UnitSt) (k n : Nat) : Map Unit := x.filled.filter fun l => decide (l.1 < k) || decide (k + n ≤ l.1)

theorem State.mem_filled_clear (u : State) (at' k n v : Nat) (l : Nat × Unit) :
    l ∈ ((u.updUnit at' fun x => { x with filled := x.outside k n }).unit v).filled ↔
      l ∈ (u.unit v).filled ∧ ¬(v = at' ∧ k ≤ l.1 ∧ l.1 < k + n) := by
  by_cases here : v = at'
  · subst here
    simp [UnitSt.outside, imp_iff_not_or]
  · rw [State.unit_updUnit_other _ _ _ _ here]
    simp [here]

end Sys2Proof.Machine

namespace Sys2Proof

open Machine Laws

variable {s t : State} {qp hd sh f sa sb e : Nat}

/-- GATHER takes a leaf index, gives its tile the metadata of its shape, and enters its job (R258, R263). -/
theorem effect_gather (finds : shown s (.gather qp hd sh e) = t) : ∃ j, effect s (semGather qp hd sh e) =
      ((t.takeLeaf (.gather qp hd sh e)).1.produceAs (t.dst hd) (t.cur.sample sh)).issueJob j ∧
    j.instr = .gather qp hd sh e ∧ j.cid = t.cur.cid ∧ j.fault = none := by
  subst finds
  exact ⟨_, effect_plain rfl rfl rfl, rfl, (State.Prepares.takeLeaf _ _).cid, rfl⟩

/-- OVL enters its job and clears the filled marks of the lines that it loads (R272). -/
theorem effect_ovl (finds : shown s (.ovl qp f sa sb e) = t) :
    let w := (t.cur.rs sb).toNat
    ∃ j, effect s (semOvl qp f sa sb e) = (t.issueJob j).updUnit (t.curU / 128 * 128 + fld w 32 7) (fun x =>
        { x with filled := x.outside (fld w 0 16 / 64) (fld w 16 16) }) ∧
      j.instr = .ovl qp f sa sb e ∧ j.cid = t.cur.cid ∧ j.fault = none := by
  subst finds
  exact ⟨_, effect_plain rfl rfl rfl, rfl, rfl, rfl⟩

/-- Settles O36: each effect is a job that enters a machine prepared for it; GATHER prepares its tile, OVL clears lines afterwards. -/
theorem jobsDoTheWorkLater : Obligations.JobsDoTheWorkLater := by
  intro qp hd sh e sd f sa sb sz sg aop scope order size acc ov index s x mem o slot ok level t u
  obtain ⟨task, enters, tiles, lines⟩ : supervisorOp x.1 = x.2 ∧ t.EntersJob x.1 u ∧
      (∀ r, u.slot r = if x.1 = .gather qp hd sh e ∧ r = t.dst hd then (t.slot (t.dst hd)).producedAs (t.cur.sample sh) else t.slot r) ∧
      ∀ v l, l ∈ (u.unit v).filled ↔ l ∈ (t.unit v).filled ∧
        ¬(x.1 = .ovl qp f sa sb e ∧ v = t.curU / 128 * 128 + fld (t.cur.rs sb).toNat 32 7 ∧
          fld (t.cur.rs sb).toNat 0 16 / 64 ≤ l.1 ∧ l.1 < fld (t.cur.rs sb).toNat 0 16 / 64 + fld (t.cur.rs sb).toNat 16 16) := by
    simp only [List.mem_cons, List.not_mem_nil, or_false] at mem
    have alone (job : t.EntersAlone x.1 u) (only : preparesMore x.1 = false) := job.spelled only qp hd sh e f sa sb
    rcases mem with rfl | rfl | rfl | rfl | rfl | rfl | rfl | rfl | rfl | rfl | rfl | rfl | rfl
    all_goals obtain rfl := Option.some.inj slot; refine ⟨rfl, ?_⟩
    · -- GATHER
      obtain ⟨j, eff, own, mine, fresh⟩ := effect_gather (t := t) rfl
      have prepared := (State.Prepares.takeLeaf t (.gather qp hd sh e)).produceAs (t.dst hd) (t.cur.sample sh)
      rw [show u = _ from eff]
      refine ⟨prepared.entersJob own mine fresh, fun r => ?_, fun v l => ?_⟩
      · rw [State.slot_issueJob, State.slot_produceAs]
        exact if_congr (by simp) rfl rfl
      · rw [State.filled_issueJob, prepared.filled]
        simp
    -- LDG, STG, ATOM, CAS, COPYACC, SPAWN in its two forms
    · exact alone ((State.Prepares.claim t _).entersAlone rfl rfl rfl rfl) rfl _ _ _
    · exact alone ((State.Prepares.refl t).entersAlone rfl rfl rfl rfl) rfl _ _ _
    · exact alone ((State.Prepares.claim t _).entersAlone rfl rfl rfl rfl) rfl _ _ _
    · exact alone ((State.Prepares.claim t _).entersAlone rfl rfl rfl rfl) rfl _ _ _
    · exact alone ((State.Prepares.takeLeaf t _).entersAlone rfl rfl (State.Prepares.takeLeaf t _).cid rfl) rfl _ _ _
    · exact alone ((State.Prepares.refl t).entersAlone rfl rfl rfl rfl) rfl _ _ _
    · exact alone ((State.Prepares.refl t).entersAlone rfl rfl rfl rfl) rfl _ _ _
    · -- OVL
      obtain ⟨j, eff, own, mine, fresh⟩ := effect_ovl (t := t) rfl
      have job := (State.Prepares.refl t).entersAlone rfl own mine fresh
      rw [show u = _ from eff]
      refine ⟨job.updFilled _ _, fun r => ?_, fun v l => ?_⟩
      · rw [if_neg (by simp)]
        exact job.slot r
      · rw [State.mem_filled_clear, job.filled]
        simp
    -- AUDBISECT, AUDREF, AUDREPLAY, MPROG with a semaphore
    · exact alone ((State.Prepares.claim t _).entersAlone rfl rfl rfl rfl) rfl _ _ _
    · exact alone ((State.Prepares.claim t _).entersAlone rfl rfl rfl rfl) rfl _ _ _
    · exact alone ((State.Prepares.claim t _).entersAlone rfl rfl rfl rfl) rfl _ _ _
    · exact alone ((State.Prepares.refl t).entersAlone rfl rfl rfl rfl) rfl _ _ _
  refine ⟨issues_of_level (fun high => task ▸ high) o slot s ok level, enters.mem, enters.last, enters.ctx, fun r other => ?_, fun gather => ?_,
    enters.unit, enters.others, lines⟩
  · rw [tiles, if_neg fun h => other h.1 h.2]
  · rw [tiles, if_pos ⟨gather, rfl⟩]
    rfl

end Sys2Proof
end

section
/-!
PROOFS. O37: an atomic's function on patterns is the operation of the bit vectors (R282, R283).
-/
namespace Sys2Proof

open Machine

theorem sext_toNat {w : Nat} (pos : 0 < w) (v : BitVec w) : sext w v.toNat = v.toInt := by
  rw [sext_eq_toInt pos v.isLt, BitVec.ofNat_toNat, BitVec.setWidth_eq]

theorem wrapN_toInt (n : Nat) {w : Nat} (v : BitVec w) : wrapN n v.toInt = (v.signExtend n).toNat := wrapN_eq_ofInt n _

section

variable (qp sd f sa sb scope order size e : Nat) {w : Nat} (old b cmp : BitVec w)

/-- CAS compares the patterns, whose width both values have (R283). -/
theorem atomResult_cas : atomResult (.cas qp sd f sa sb scope order size e) w old.toNat b.toNat cmp.toNat =
    (if old = cmp then some b.toNat else none, old.toNat) := by
  simp only [atomResult, Nat.mod_eq_of_lt b.isLt, Nat.mod_eq_of_lt cmp.isLt, BitVec.toNat_inj]

/-- The signed minimum and maximum compare the values as signed and return the old one sign-extended (R282). -/
theorem atomResult_signed (pos : 0 < w) (c : Nat) :
    atomResult (.atom qp sd f sa sb 4 scope order size e) w old.toNat b.toNat c =
      (some (if b.toInt < old.toInt then b.toNat else old.toNat), (old.signExtend 64).toNat) ∧
    atomResult (.atom qp sd f sa sb 5 scope order size e) w old.toNat b.toNat c =
      (some (if old.toInt < b.toInt then b.toNat else old.toNat), (old.signExtend 64).toNat) := by
  simp only [atomResult, Nat.mod_eq_of_lt b.isLt, sext_toNat pos, wrapN_toInt, and_self]

end

/-- Settles O37: the signed operations and CAS by their lemmas, the others by the operation on patterns that each is. -/
theorem atomicFunctions : Obligations.AtomicFunctions := by
  intro qp sd f sa sb scope order size e w old b cmp pos _
  obtain ⟨least, greatest⟩ := atomResult_signed qp sd f sa sb scope order size e old b pos cmp.toNat
  have operand : b.toNat % 2 ^ w = b.toNat := Nat.mod_eq_of_lt b.isLt
  dsimp only
  rw [least, greatest, atomResult_cas]
  simp only [atomResult, operand, BitVec.toNat_add, BitVec.toNat_and, BitVec.toNat_or, BitVec.toNat_xor, true_and]
  exact ⟨by rw [min_comm, min_def_lt], by rw [max_def_lt], fun same => by rw [if_pos same], fun other => by rw [if_neg other]⟩

end Sys2Proof
end

section
/-!
PROOFS. O33: a pad scalar store writes its bytes (R280); one that reaches the code region rewrites the byte behind its own bundle.
-/
namespace Sys2Proof.Machine

variable {w : State} {sa hs n : Nat}

/-! ## A stall swap that lands -/

theorem State.curU_leave (s : State) : s.leave.curU = s.curU := by
  unfold State.leave State.swapIn
  dsimp only
  rw [State.updUnit_curU, State.curU_trace, State.updCur_curU]
  exact (s.landsTo_landVecs _ _ _).unit

/-- A context that leaves its bank begins a swap of its unit (R133). -/
theorem State.swap_leave (s : State) : (s.leave.unit s.leave.curU).swap ≠ none := by
  rw [State.curU_leave]
  unfold State.leave State.swapIn
  dsimp only
  rw [State.unit_updUnit]
  exact Option.some_ne_none _

/-- With no swap under way, none has landed (R133). -/
theorem State.stallLands_of_swap_none {s : State} (still : (s.stallLands.unit s.stallLands.curU).swap = none) : s.stallLands = s := by
  unfold State.stallLands at still ⊢
  split
  · next due =>
    rw [if_pos due] at still
    exact absurd still s.swap_leave
  · rfl

/-! ## The bytes of the store -/

theorem getD_leBytes {n k : Nat} (inside : k < n) (v : Nat) : (leBytes n v).getD k 0 = BitVec.ofNat 8 (v / 2 ^ (8 * k)) := by
  induction n generalizing k v with
  | zero => cases inside
  | succ n ih =>
    cases k with
    | zero => simp [leBytes]
    | succ k =>
      rw [leBytes, List.getD_cons_succ, ih (Nat.lt_of_succ_lt_succ inside), Nat.div_div_eq_div_mul, Nat.mul_succ, Nat.pow_add, Nat.mul_comm]

/-- The low bytes of a value are those of the value. -/
theorem ofNat_low_byte {n k : Nat} (inside : k < n) (v : Nat) :
    BitVec.ofNat 8 (v % 2 ^ (8 * n) / 2 ^ (8 * k)) = BitVec.ofNat 8 (v / 2 ^ (8 * k)) := by
  have parts : 2 ^ (8 * n) = 2 ^ (8 * k) * 2 ^ (8 * (n - k)) := by rw [← Nat.pow_add]; congr 1; omega
  apply BitVec.eq_of_toNat_eq
  rw [BitVec.toNat_ofNat, BitVec.toNat_ofNat, parts, Nat.mod_mul_right_div_self, Nat.mod_mod_of_dvd]
  exact Nat.pow_dvd_pow 2 (by omega)

/-- A byte after the low `n` bytes of a value were written. -/
theorem Mem.read_writeN_low (m : Mem) (key n v a : Nat) : (m.writeN key (leBytes n (v % 2 ^ (8 * n)))).read a =
    if key ≤ a ∧ a < key + n then BitVec.ofNat 8 (v / 2 ^ (8 * (a - key))) else m.read a := by
  rw [Mem.read_writeN, length_leBytes]
  split
  · next within =>
    have inside : a - key < n := by omega
    rw [getD_leBytes inside, ofNat_low_byte inside]
  · rfl

/-- The machine with the bytes of the store written. -/
def State.storing (w : State) (sa hs n off : Nat) : State :=
  { w with mem := w.mem.writeN (w.slotKey (w.dst hs) + off) (leBytes n ((w.cur.rs sa).toNat % 2 ^ (8 * n))) }

/-- The store writes its bytes and changes the metadata of tiles; nothing else (R280). -/
theorem State.eff_padStore (w : State) (i : Instr) (q sa hs n : Nat) (off : State → Nat) :
    ∃ p, (padStore i q sa hs n off).eff w = (w.storing sa hs n (off w)).withPads p := ⟨_, rfl⟩

/-- A write below the first code region leaves every byte that a context fetches (R168). -/
theorem State.codeByte_storing {off : Nat} (below : w.slotKey (w.dst hs) + off + n ≤ memKey (regCode 0) 0) (u : Nat) (c : Ctx) :
    (w.storing sa hs n off).codeByte u c = w.codeByte u c := by
  funext a
  have beyond : memKey (regCode 0) 0 ≤ codeKey u c a := by
    unfold codeKey memKey regCode regScratch
    split <;> omega
  have kept : (w.storing sa hs n off).mem.read (codeKey u c a) = w.mem.read (codeKey u c a) := by
    rw [State.storing, Mem.read_writeN_low, if_neg (by omega)]
  unfold State.codeByte
  rw [kept]
  rfl

end Sys2Proof.Machine

namespace Sys2Proof

open Machine Laws

variable {s : State} {i : Instr} {q sa hs n : Nat} {off : Ctx → Nat}

theorem li_of_ctxFrame {c d : Ctx} (h : CtxFrame c d) : d.li = c.li := by
  unfold CtxFrame at h
  rw [h]

/-- What STT and STTR leave of the machine `t` that they find, where the store is `n` bytes at `key`: the memory and the context. -/
def StoresBytes (t : State) (sa n key : Nat) (x : Host.Outcome State Fault Refusal) : Prop :=
  ∃ (u : State) (c : Ctx), x = .next (u.setCur c).stallLands ∧ CtxFrame t.cur c ∧ c.fly = t.cur.fly ∧
    ∀ a, (u.setCur c).mem.read a =
      if key ≤ a ∧ a < key + n then BitVec.ofNat 8 ((t.cur.rs sa).toNat / 2 ^ (8 * (a - key))) else t.mem.read a

/-- A pad scalar store that issues, does not end an iteration, and lies below the code regions. -/
theorem exec_padStore (slot : semOf i = some (padStore i q sa hs n fun s => off s.cur)) (task : supervisorOp i = false)
    (ok : Issuable s (padStore i q sa hs n fun s => off s.cur)) (inside : atLoopEnd (shown s i) (presOf s i) = false) :
    let t := shown s i
    let key := t.slotKey (t.dst hs) + off t.cur
    key + n ≤ memKey (regCode 0) 0 → StoresBytes t sa n key (exec i s) := by
  intro t key below
  let e := effect s (padStore i q sa hs n fun s => off s.cur)
  obtain ⟨p, eff⟩ : ∃ p, e = (t.storing sa hs n (off t.cur)).withPads p := t.eff_padStore i q sa hs n fun s => off s.cur
  have same : e.cur = t.cur := by rw [eff]; rfl
  have code : e.codeByte e.curU e.cur = t.codeByte t.curU t.cur := by
    rw [same, eff, State.codeByte_withPads]
    exact State.codeByte_storing below _ _
  obtain ⟨-, -, idle, running, -⟩ := ok.1
  have issues : exec i s = .next (e.setCur (goOn e (presOf s i))).stallLands := by
    rw [exec_issue slot s (by simp [task]), issue1_issuable ok, ← finishBundle_plain e (presOf s i) [i] ?_ rfl ?_]
    · rfl
    · rw [same]; exact (after_shown s i).trans idle
    · rw [atLoopEnd_congr (congrArg Ctx.li same) code, inside]
  refine ⟨e, _, issues, ?_, ?_, fun a => ?_⟩
  · have moving : t.cur.fencing = none := (fencing_shown s i).trans running
    unfold CtxFrame goOn
    rw [same, moving]
    rfl
  · unfold goOn; rw [same]
  · rw [State.setCur_mem, eff, State.mem_withPads]
    exact Mem.read_writeN_low _ _ _ _ _

/-- STT and STTR write exactly their bytes where the store lies below the code regions (R280). -/
theorem padStores_writeTheirBytes_belowCode (qp sa hs sz imm9 sb : Nat) (s : State) :
    ∀ x ∈ padStores qp sa hs sz imm9 sb, ∀ o, semOf x.1 = some o → Issuable s o → atLoopEnd (shown s x.1) (presOf s x.1) = false →
      let t := shown s x.1
      let key := t.slotKey (t.dst hs) + x.2.2 t.cur
      key + x.2.1 ≤ memKey (regCode 0) 0 → StoresBytes t sa x.2.1 key (exec x.1 s) := by
  intro x mem o slot ok inside
  simp only [padStores, List.mem_cons, List.not_mem_nil, or_false] at mem
  rcases mem with rfl | rfl
  all_goals obtain rfl := Option.some.inj slot
  · exact exec_padStore (off := fun _ => imm9 * 2 ^ sz) rfl rfl ok inside
  · exact exec_padStore (off := fun c => (c.rs sb).toNat) rfl rfl ok inside

end Sys2Proof

namespace Sys2Proof.StoreIntoCode

open Machine Laws

/-- A pad whose only slot, with a tile of 512 bytes of task 5, begins at chunk `base` of its region. -/
def padAt (base : Nat) : PadSt :=
  { pools := [(0, ⟨9, 1, base⟩)]
    slots := [(0, { okind := 1, oid := 5, reads := 1, cols := 127, produced := true, arrival := 1, valid := [(0, 1)] })] }

/-- Code of one line, from address 0 on. -/
def oneLine : Obj :=
  { base := 0, len := 0x40, digest := [], key := none, tasks := [], fps := [], pools := [], chans := []
    mboxes := [], refs := [] }

/-- The context at address 0, in the first of two iterations of a loop that ends behind its bundle, at 5. -/
def looping : Ctx :=
  { cid := 1, taskId := 5, obj := 1, s := [(9, 0x55)], h := [(1, BitVec.ofNat 32 (handleOf ⟨0, 0⟩ 1))]
    li := [⟨0, 5, 2, 2, 0, false⟩] }

/-- The machine with its slot there, which issues from that context. The byte behind the bundle is 0, a line pad, so that
the sequence goes on at the next line and the bundle ends no iteration. -/
def machine (base : Nat) : State :=
  { power := .on, units := [(0, { fence := 0, ctxs := [(0, looping)] })], pads := [(0, padAt base)], dies := [(0, { objs := [(1, oneLine)] })] }

/-- The slot begins where the first code region does. -/
def overlap : State := machine (568 * 2 ^ 43)

/-- The store of 0x55 at offset 5 of the tile. -/
abbrev store : Instr := .stt 0 9 1 0 5

theorem issuable_inPad : Issuable (machine 0) (semStt 0 9 1 0 5) := by decide +kernel

theorem inside_inPad : atLoopEnd (shown (machine 0) store) (presOf (machine 0) store) = false := by decide +kernel

theorem below_inPad : let t := shown (machine 0) store
    t.slotKey (t.dst 1) + 5 * 2 ^ 0 + 2 ^ 0 ≤ memKey (regCode 0) 0 := by decide +kernel

/-- With the slot in its pad the store writes its byte: the hypotheses of `padStores_writeTheirBytes_belowCode` can be met. -/
theorem storesBytes_inPad : let t := shown (machine 0) store
    StoresBytes t 9 (2 ^ 0) (t.slotKey (t.dst 1) + 5 * 2 ^ 0) (exec store (machine 0)) := by
  have holds := padStores_writeTheirBytes_belowCode 0 9 1 0 5 0 (machine 0) (store, _, _) (List.mem_cons_self ..) _ rfl issuable_inPad inside_inPad
  exact holds below_inPad

theorem issuable_overlap : Issuable overlap (semStt 0 9 1 0 5) := by decide +kernel

theorem inside_overlap : atLoopEnd (shown overlap store) (presOf overlap store) = false := by decide +kernel

theorem loop_shown : (shown overlap store).cur.li = looping.li := by decide +kernel

/-- Behind its own bundle the store put a byte that is no line pad: the bundle ends the iteration, and no swap lands. -/
theorem counted_of_store {t : State} (stored : exec store overlap = .next t) : (t.unit t.curU).swap = none ∧ t.cur.li.map Loop.index = [1] := by
  have h : (match exec store overlap with
      | .next t => decide ((t.unit t.curU).swap = none ∧ t.cur.li.map Loop.index = [1])
      | _ => false) = true := by decide +kernel
  rw [stored] at h
  exact of_decide_eq_true h

end Sys2Proof.StoreIntoCode

namespace Sys2Proof

open Machine StoreIntoCode

/-- Refutes O33: it does not exclude a pool whose slots lie outside its pad (no POOLCFG write makes one, R156). There the store can reach the
code of its own context: the byte behind its bundle is no line pad any more, the bundle ends an iteration that it did not end when it was
presented, and the loop counts. `padStores_writeTheirBytes_belowCode` is what holds. -/
theorem not_padStoresWriteTheirBytes : ¬ Obligations.PadStoresWriteTheirBytes := by
  intro h
  obtain ⟨u, c, stored, frame, -⟩ := h 0 9 1 0 5 0 overlap (store, _, _) (List.mem_cons_self ..) _ rfl issuable_overlap inside_overlap
  obtain ⟨noSwap, counted⟩ := counted_of_store stored
  rw [State.stallLands_of_swap_none noSwap, State.cur_setCur, li_of_ctxFrame frame, loop_shown] at counted
  exact absurd counted (by decide)

end Sys2Proof
end

section

/-! PROOFS. The canonical form of memory is kept: how steps that keep it are put together. -/

namespace Sys2Proof.Machine

theorem memOk_iff {s : State} : MemOk s ↔ s.mem.wf = true := Iff.rfl

/-- Steps that each keep the canonical form keep it together. -/
theorem memOk_foldl {α : Type} (f : State → α → State) (l : List α) {s : State}
    (keeps : ∀ t a, MemOk t → MemOk (f t a)) (ok : MemOk s) : MemOk (l.foldl f s) := by
  induction l generalizing s with
  | nil => exact ok
  | cons a l ih => exact ih (keeps s a ok)

theorem memOk_foldl_fst {α β : Type} (f : State × β → α → State × β) (l : List α) {r : State × β}
    (keeps : ∀ t a, MemOk t.1 → MemOk (f t a).1) (ok : MemOk r.1) : MemOk (l.foldl f r).1 := by
  induction l generalizing r with
  | nil => exact ok
  | cons a l ih => exact ih (keeps r a ok)

theorem memOk_getD {o : Option State} {s : State} (keeps : ∀ z, o = some z → MemOk z) (ok : MemOk s) : MemOk (o.getD s) := by
  cases o with
  | none => exact ok
  | some z => exact keeps z rfl

theorem memOk_foldl_bind {α : Type} (f : α → State → Option State) (l : List α) {o : Option State} {z : State}
    (keeps : ∀ t a y, MemOk t → f a t = some y → MemOk y) (ok : ∀ y, o = some y → MemOk y)
    (e : l.foldl (fun o a => o.bind (f a)) o = some z) : MemOk z := by
  induction l generalizing o with
  | nil => exact ok z e
  | cons a l ih =>
    refine ih (fun y h => ?_) e
    obtain ⟨t, ht, hy⟩ := Option.bind_eq_some_iff.1 h
    exact keeps t a y (ok t ht) hy

/-- Whatever a job comes to, it leaves the memory in its canonical form. -/
def Perf.Ok : Perf → Prop
  | .done s _ | .fault s _ _ => MemOk s
  | .wait => True

theorem memOk_bind {o : Option State} {f : State → Option State} {z : State} (first : ∀ y, o = some y → MemOk y)
    (then' : ∀ y, MemOk y → f y = some z → MemOk z) (e : o.bind f = some z) : MemOk z := by
  obtain ⟨y, hy, hz⟩ := Option.bind_eq_some_iff.1 e
  exact then' y (first y hy) hz

theorem memOk_map {o : Option State} {f : State → State} {z : State} (first : ∀ y, o = some y → MemOk y)
    (then' : ∀ y, MemOk y → MemOk (f y)) (e : o.map f = some z) : MemOk z := by
  obtain ⟨y, hy, rfl⟩ := Option.map_eq_some_iff.1 e
  exact then' y (first y hy)

/-- A write of a run of bytes, the rest of the machine changed in any way, keeps the canonical form. -/
theorem memOk_of_writeN {s t : State} (ok : MemOk s) (a : Nat) (bs : Bytes) (h : t.mem = s.mem.writeN a bs) : MemOk t := by
  unfold MemOk; rw [h]; exact Mem.wf_writeN _ _ _ ok

/-- The parts of a slot that act on the machine keep the memory in its canonical form. -/
structure SlotSem.KeepsMem (o : SlotSem) : Prop where
  hook : ∀ {t}, MemOk t → MemOk (o.hook t)
  start : ∀ f, o.start = some f → ∀ {t}, MemOk t → MemOk (f t)
  eff : ∀ {t}, MemOk t → MemOk (o.eff t)

/-- If channels are bound, the memory is left in its canonical form. -/
def BindRes.Ok : BindRes → Prop
  | .done s => MemOk s
  | .wait | .fail _ => True

theorem Perf.ok_done {s : State} {j : Job} : (Perf.done s j).Ok ↔ MemOk s := Iff.rfl

theorem Perf.ok_wait : Perf.wait.Ok := trivial

theorem Perf.ok_fault {s : State} {j : Job} {t : Trap} : (Perf.fault s j t).Ok ↔ MemOk s := Iff.rfl

theorem BindRes.ok_done {s : State} : (BindRes.done s).Ok ↔ MemOk s := Iff.rfl

theorem wf_foldl_writeN {α : Type} (at' : α → Nat) (bs : α → Bytes) (l : List α) {m : Mem} (ok : m.wf = true) :
    (l.foldl (fun m a => m.writeN (at' a) (bs a)) m).wf = true := by
  induction l generalizing m with
  | nil => exact ok
  | cons a l ih => exact ih (Mem.wf_writeN m _ _ ok)

theorem memOk_foldl_mem {α : Type} {f : State → α → State} {l : List α} {s : State} (keeps : ∀ a ∈ l, ∀ t,
    MemOk t → MemOk (f t a)) (ok : MemOk s) :
    MemOk (l.foldl f s) := by
  induction l generalizing s with
  | nil => exact ok
  | cons a l ih => exact ih (fun b m => keeps b (.tail _ m)) (keeps a (.head _) s ok)

theorem memOk_findSome? {α : Type} {f : α → Option State} {l : List α} {z : State} (keeps : ∀ a y, f a = some y → MemOk y)
    (e : l.findSome? f = some z) : MemOk z := by
  obtain ⟨a, -, h⟩ := List.exists_of_findSome?_eq_some e
  exact keeps a z h

theorem X_wf_foldl_writeN {α : Type} (at' : α → Nat) (bs : α → Bytes) (l : List α) {m : Mem} (ok : m.wf = true) :
    (l.foldl (fun m a => m.writeN (at' a) (bs a)) m).wf = true := by
  induction l generalizing m with
  | nil => exact ok
  | cons a l ih => exact ih (Mem.wf_writeN m _ _ ok)

/-- A move keeps the memory in its canonical form. -/
def Move.KeepsMem (f : Move) : Prop := ∀ {s z : State}, MemOk s → f s = .next z → MemOk z

theorem Move.keepsMem_one {f : Move} (h : f.KeepsMem) : ∀ g ∈ [f], g.KeepsMem := List.forall_mem_singleton.2 h

theorem Move.keepsMem_cons {f : Move} {l : List Move} (h : f.KeepsMem) (hl : ∀ g ∈ l, g.KeepsMem) : ∀ g ∈ f :: l, g.KeepsMem :=
  List.forall_mem_cons.2 ⟨h, hl⟩

end Sys2Proof.Machine

end

section

/-! PROOFS. The canonical form of memory is kept: the accessors. -/

namespace Sys2Proof.Machine

theorem memOk_setUnit {s : State} (u : Nat) (x : UnitSt) (ok : MemOk s) : MemOk (s.setUnit u x) := ok

theorem memOk_updUnit {s : State} (u : Nat) (f : UnitSt → UnitSt) (ok : MemOk s) : MemOk (s.updUnit u f) := ok

theorem memOk_updDie {s : State} (d : Nat) (f : DieSt → DieSt) (ok : MemOk s) : MemOk (s.updDie d f) := ok

theorem memOk_updQueue {s : State} (d q : Nat) (f : QueueSt → QueueSt) (ok : MemOk s) : MemOk (s.updQueue d q f) := ok

theorem memOk_updPort {s : State} (p : Nat) (f : PortSt → PortSt) (ok : MemOk s) : MemOk (s.updPort p f) := ok

theorem memOk_updPad {s : State} (p : Nat) (f : PadSt → PadSt) (ok : MemOk s) : MemOk (s.updPad p f) := ok

theorem memOk_updSlot {s : State} (t : TileRef) (f : SlotSt → SlotSt) (ok : MemOk s) : MemOk (s.updSlot t f) := ok

theorem memOk_setCtx {s : State} (u b : Nat) (c : Ctx) (ok : MemOk s) : MemOk (s.setCtx u b c) := ok

theorem memOk_setCur {s : State} (c : Ctx) (ok : MemOk s) : MemOk (s.setCur c) := ok

theorem memOk_updCur {s : State} (f : Ctx → Ctx) (ok : MemOk s) : MemOk (s.updCur f) := ok

theorem memOk_updCid {s : State} (u cid : Nat) (f : Ctx → Ctx) (ok : MemOk s) : MemOk (s.updCid u cid f) := by
  grind [State.updCid, memOk_updDie, memOk_setCtx]

theorem memOk_xlate {s : State} (w : Who) (kind : Kind) (va : Nat) (ok : MemOk s) : MemOk (s.xlate w kind va).1 := by
  grind [State.xlate, memOk_setUnit]

theorem memOk_xlateN {s : State} (w : Who) (kind : Kind) (va n : Nat) (ok : MemOk s) : MemOk (s.xlateN w kind va n).1 := by
  induction n generalizing s w kind va with
  | zero => grind [State.xlateN]
  | succ n ih => grind [State.xlateN, memOk_xlate, Option.map_eq_some_iff]

theorem memOk_element {s : State} (w : Who) (fps : Map FpRec) (n : Nat) (off : Int) (size : Nat) (kind : Kind) (ok : MemOk s) :
    MemOk (s.element w fps n off size kind).1 := by
  grind [State.element, memOk_xlateN]

theorem memOk_writeGlobal {s : State} (ks : List Nat) (bs : Bytes) (ok : MemOk s) : MemOk (s.writeGlobal ks bs) :=
    Mem.wf_writeAt _ _ _ ok

theorem memOk_countVA {s : State} (d : Nat) (ks : List Nat) (ok : MemOk s) : MemOk (s.countVA d ks) := ok

theorem memOk_keysVA {s : State} (w : Who) (kind : Kind) (va n : Nat) (ok : MemOk s) : MemOk (s.keysVA w kind va n).1 := by
  induction n generalizing s w kind va with
  | zero => grind [State.keysVA]
  | succ n ih => grind [State.keysVA, memOk_xlate, Option.map_eq_some_iff]

end Sys2Proof.Machine

end

section

/-! PROOFS. The canonical form of memory is kept: cycles and addresses. -/

namespace Sys2Proof.Machine

theorem memOk_updJob {s : State} (u jid : Nat) (f : Job → Job) (ok : MemOk s) : MemOk (s.updJob u jid f) := ok

theorem memOk_putJob {s : State} (u : Nat) (j : Job) (ok : MemOk s) : MemOk (s.putJob u j) := ok

theorem memOk_othersAloft {s : State} (cid : Nat) (f : Job → Job) (ok : MemOk s) : MemOk (s.othersAloft cid f) := ok

theorem memOk_acquire {s : State} (u cid sc word tag : Nat) (late : Bool) (ok : MemOk s) :
    MemOk (s.acquire u cid sc word tag late) := by
  grind [State.acquire, memOk_othersAloft]

theorem memOk_noteRead {s : State} (u cid word tag : Nat) (ok : MemOk s) : MemOk (s.noteRead u cid word tag) := by
  grind [State.noteRead, memOk_updCid, memOk_othersAloft]

theorem memOk_writeEl {s : State} (j : Job) (a : Air) (ok : MemOk s) : MemOk (s.writeEl j a).1 := by
  grind [State.writeEl, memOk_writeGlobal]

theorem memOk_atomicAt {s : State} (u : Nat) (j : Job) (ks : List Nat) (ok : MemOk s) : MemOk (s.atomicAt u j ks).1 := by
  have waited (p q : Prop) [Decidable p] [Decidable q] (sc w tag : Nat) (late : Bool) :
      MemOk (if p then s.acquire u j.cid sc w tag late else if q then s.noteRead u j.cid w tag else s) := by
    split
    · exact memOk_acquire u j.cid sc w tag late ok
    · split
      · exact memOk_noteRead u j.cid w tag ok
      · exact ok
  unfold State.atomicAt
  dsimp only
  split
  · split
    · exact Mem.wf_writeAt _ _ _ (waited _ _ _ _ _ _)
    · exact Mem.wf_writeAt _ _ _ (waited _ _ _ _ _ _)
  · exact waited _ _ _ _ _ _

theorem memOk_land {s : State} (u : Nat) (j : Job) (a : Air) (ok : MemOk s) : MemOk (s.land u j a).1 := by
  grind [State.land, memOk_writeGlobal, memOk_writeEl, memOk_atomicAt]

theorem memOk_landAir {s : State} (u jid : Nat) (ks : List Span) (ok : MemOk s) : MemOk (s.landAir u jid ks) := by
  grind [State.landAir, memOk_putJob, memOk_land, memOk_foldl_fst]

theorem memOk_landOver {s : State} (n m l : Nat) (o1 : List Span) (ok : MemOk s) : MemOk (State.landOver n s m l o1) := by
  induction n generalizing s m l o1 with
  | zero => grind [State.landOver]
  | succ n ih => grind [State.landOver, memOk_landAir, memOk_foldl, memOk_foldl_fst]

theorem memOk_landSeen {s : State} (sees : Job → Bool) (ks : List Span) (ok : MemOk s) : MemOk (s.landSeen sees ks) := by
  grind [State.landSeen, memOk_landOver, memOk_foldl]

theorem memOk_orderAir {s : State} (a : Job) (b : Nat × Job) (ok : MemOk s) : MemOk (s.orderAir a b) := by
  grind [State.orderAir, memOk_updJob]

theorem memOk_cutWord {s : State} (w : Nat) (ok : MemOk s) : MemOk (s.cutWord w) := ok

theorem memOk_mark {s : State} (u cid jid sc : Nat) (word : Option Nat) (ok : MemOk s) : MemOk (s.mark u cid jid sc word) := by
  unfold State.mark
  grind [memOk_updJob, memOk_orderAir, memOk_cutWord, memOk_foldl]

theorem memOk_showWrite {s : State} (sees : Job → Bool) (ks : List Nat) (ok : MemOk s) : MemOk (s.showWrite sees ks) := by
  grind [State.showWrite, memOk_landSeen]

theorem memOk_reachVA {s : State} (sees : Job → Bool) (w : Who) (kind : Kind) (va n : Nat) (ok : MemOk s) :
    MemOk (s.reachVA sees w kind va n).1 := by
  grind [State.reachVA, memOk_keysVA, memOk_landSeen, memOk_showWrite]

theorem memOk_readVA {s : State} (w : Who) (va n : Nat) (ok : MemOk s) : MemOk (s.readVA w va n).1 := by
  grind [State.readVA, memOk_countVA, memOk_reachVA]

theorem memOk_writeVA {s : State} (w : Who) (va : Nat) (bs : Bytes) (ok : MemOk s) : MemOk (s.writeVA w va bs).1 := by
  grind [State.writeVA, memOk_writeGlobal, memOk_countVA, memOk_reachVA]

theorem memOk_dieWrite {s : State} (d : Nat) (ks : List Nat) (bs : Bytes) (ok : MemOk s) : MemOk (s.dieWrite d ks bs) := by
  grind [State.dieWrite, memOk_writeGlobal, memOk_countVA, memOk_showWrite]

theorem memOk_keepOld {s : State} (ks : List Nat) (ok : MemOk s) : MemOk (s.keepOld ks) := ok

theorem memOk_writeRec {s : State} (w : Who) (va : Nat) (bs : Bytes) (ok : MemOk s) : MemOk (s.writeRec w va bs).1 := by
  grind [State.writeRec, memOk_writeGlobal, memOk_countVA, memOk_reachVA, memOk_keepOld]

end Sys2Proof.Machine

end

section

/-! PROOFS. The canonical form of memory is kept: tiles, pads and banks. -/

namespace Sys2Proof.Machine

theorem memOk_updEnd {s : State} (u ch : Nat) (f : ChanEnd → ChanEnd) (ok : MemOk s) : MemOk (s.updEnd u ch f) := ok

theorem memOk_ringRecord {s : State} (d q : Nat) (rec : Bytes) (ok : MemOk s) : MemOk (s.ringRecord d q rec) := by
  grind [State.ringRecord, memOk_updQueue, memOk_writeGlobal, memOk_countVA]

theorem memOk_debugRecord {s : State} (d q r : Nat) (rec : Bytes) (ok : MemOk s) : MemOk (s.debugRecord d q r rec) := by
  grind [State.debugRecord, memOk_ringRecord, memOk_foldl]

theorem memOk_trace {s : State} (u b : Nat) (c : Ctx) (kind src tgt : Nat) (ok : MemOk s) : MemOk (s.trace u b c kind src tgt) := by
  grind [State.trace, memOk_debugRecord]

theorem memOk_stampRecord {s : State} (t : TileRef) (ab tr : Bool) (ok : MemOk s) : MemOk (s.stampRecord t ab tr) := by
  grind [State.stampRecord, memOk_debugRecord]

theorem memOk_release {s : State} (t : TileRef) (ab tr : Bool) (ok : MemOk s) : MemOk (s.release t ab tr) := by
  grind [State.release, memOk_updSlot, memOk_updCid, memOk_stampRecord]

theorem memOk_stampRead {s : State} (t : TileRef) (ok : MemOk s) : MemOk (s.stampRead t) := ok

theorem memOk_noteHold {s : State} (u : Nat) (c : Ctx) (t : TileRef) (ok : MemOk s) : MemOk (s.noteHold u c t) := by
  grind [State.noteHold, memOk_updSlot]

theorem memOk_consume {s : State} (u h : Nat) (ok : MemOk s) : MemOk (s.consume u h) := by
  grind [State.consume, memOk_updSlot, memOk_release]

theorem memOk_orEflags {s : State} (u cid : Nat) (ok : MemOk s) : MemOk (s.orEflags u cid) := by
  grind [State.orEflags, memOk_updCid]

theorem memOk_noteTileRead {s : State} (u cid : Nat) (t : TileRef) (ok : MemOk s) : MemOk (s.noteTileRead u cid t) := by
  grind [State.noteTileRead, memOk_updSlot, memOk_stampRead]

theorem memOk_readTile {s : State} (u cid : Nat) (t : TileRef) (h mark : Nat) (ok : MemOk s) : MemOk (s.readTile u cid t h mark) := by
  grind [State.readTile, memOk_consume, memOk_orEflags, memOk_noteTileRead]

theorem memOk_noteChunks {s : State} (t : TileRef) (ks : List Nat) (ok : MemOk s) : MemOk (s.noteChunks t ks) := ok

theorem memOk_writeChunk {s : State} (t : TileRef) (k : Nat) (bs : Bytes) (valid : Nat) (ok : MemOk s) :
    MemOk (s.writeChunk t k bs valid) :=
  memOk_noteChunks t [k] (memOk_of_writeN ok _ bs rfl)

theorem memOk_writeTile {s : State} (t : TileRef) (bs : Bytes) (valid : Nat → Nat) (ok : MemOk s) : MemOk (s.writeTile t bs valid) := by
  grind [State.writeTile, memOk_updSlot, memOk_writeChunk, memOk_foldl]

theorem memOk_produce {s : State} (t : TileRef) (rows cols fmt seq : Nat) (ok : MemOk s) : MemOk (s.produce t rows cols fmt seq) := ok

theorem memOk_stat {s : State} (u : Nat) (c : Ctx) (kind slot data addr : Nat) (ok : MemOk s) :
    MemOk (s.stat u c kind slot data addr) := by
  grind [State.stat, memOk_setUnit, memOk_updDie]

theorem memOk_countAccess {s : State} (j : Job) (salt : Nat) (ks : List Nat) (ok : MemOk s) : MemOk (s.countAccess j salt ks).1 := ok

end Sys2Proof.Machine

end

section

/-! PROOFS. The canonical form of memory is kept: the audit log. -/

namespace Sys2Proof.Machine

theorem memOk_placeLeaf {s : State} (u cid idx : Nat) (l : LeafRec) (ok : MemOk s) : MemOk (s.placeLeaf u cid idx l) := by
  grind [State.placeLeaf, memOk_updCid]

theorem memOk_storeTree {s : State} (d : Nat) (t : TreeEnt) (ok : MemOk s) : MemOk (s.storeTree d t) := by
  grind [State.storeTree, memOk_updDie, memOk_dieWrite]

theorem memOk_passRoot {s : State} (d q : Nat) (hdr : Bytes) (recs : List Bytes) (status retain : Nat) (ok : MemOk s) :
    MemOk (s.passRoot d q hdr recs status retain).1 := by
  grind [State.passRoot, memOk_updDie, memOk_storeTree]

theorem memOk_putUnits {s : State} (bs : Bytes) {z : State} (ok : MemOk s) (e : s.putUnits bs = some z) : MemOk z := by
  unfold State.putUnits at e
  dsimp only at e
  split at e
  · exact absurd e (by simp)
  · obtain rfl := Option.some.inj e
    exact Mem.wf_writeN _ _ _ (wf_foldl_writeN _ _ _ (memOk_keepOld _ (memOk_keepOld _ ok)))

theorem memOk_signHead {s : State} {z : State} (ok : MemOk s) (e : s.signHead = some z) : MemOk z :=
  memOk_map (f := fun s => { s with sec := { s.sec with sinceSign := 0 } }) (fun _ => memOk_putUnits _ ok) (fun _ ok => ok) e

theorem memOk_logOne {s : State} (r : AccRec) {z : State} (ok : MemOk s) (e : s.logOne r = some z) : MemOk z := by
  refine memOk_bind (fun y h => ?_) (fun y ok h => ?_) e
  · split at h
    · exact Option.some.inj h ▸ ok
    · exact memOk_signHead ok h
  · refine memOk_map (fun _ => memOk_putUnits _ ok) (fun y ok => ?_) h
    dsimp only
    split
    · exact memOk_getD (fun _ => memOk_signHead ok) ok
    · exact ok

theorem memOk_drainLog {s : State} (n : List AccRec) (ok : MemOk s) : MemOk (s.drainLog n) := by
  induction n generalizing s with
  | nil => exact ok
  | cons r rs ih =>
    rw [State.drainLog]
    split
    · next h => exact ih (memOk_logOne r ok h)
    · exact ok

theorem memOk_logRecord {s : State} (r : AccRec) {z : State} (ok : MemOk s) (e : s.logRecord r = some z) : MemOk z := by
  grind [State.logRecord, memOk_logOne, memOk_drainLog]

theorem memOk_logRefused {s : State} (u : Nat) (c : Ctx) (ok : MemOk s) : MemOk (s.logRefused u c) := by
  grind [State.logRefused, memOk_logRecord, memOk_getD, memOk_iff]

end Sys2Proof.Machine

end

section

/-! PROOFS. The canonical form of memory is kept: the operands and the effects of an operation. -/

namespace Sys2Proof.Machine

theorem memOk_saveBytes {s : State} (d slot off : Nat) (bs : Bytes) (ok : MemOk s) : MemOk (s.saveBytes d slot off bs) := by
  grind [State.saveBytes, memOk_dieWrite]

theorem memOk_saveTo {s : State} (d slot : Nat) (c : Ctx) (ok : MemOk s) : MemOk (s.saveTo d slot c) := by
  grind [State.saveTo, memOk_updDie, memOk_saveBytes]

theorem memOk_spillPoisoned {s : State} (u : Nat) (c : Ctx) (ok : MemOk s) : MemOk (s.spillPoisoned u c) := by
  grind [State.spillPoisoned, memOk_saveBytes, memOk_foldl]

theorem memOk_swapIn {s : State} (u b out : Nat) (ok : MemOk s) : MemOk (s.swapIn u b out) := ok

theorem memOk_spillShadow {s : State} (u : Nat) (ok : MemOk s) : MemOk (s.spillShadow u) := by
  grind [State.spillShadow, memOk_updUnit, memOk_saveTo]

theorem memOk_dropJob {s : State} (u jid : Nat) (ok : MemOk s) : MemOk (s.dropJob u jid) := ok

theorem memOk_jobFlags {s : State} (u : Nat) (j : Job) (f : Nat) (ok : MemOk s) : MemOk (s.jobFlags u j f) := by
  grind [State.jobFlags, memOk_updCid, memOk_stat]

theorem memOk_jobLeaf {s : State} (u : Nat) (j : Job) (l : LeafRec) (ok : MemOk s) : MemOk (s.jobLeaf u j l) := by
  grind [State.jobLeaf, memOk_placeLeaf]

theorem memOk_landChunks {s : State} (u : Nat) (j : Job) (t : TileRef) (ok : MemOk s) : MemOk (s.landChunks u j t) := ok

theorem memOk_placeOrWait {s : State} (u : Nat) (j : Job) (ok : MemOk s) : MemOk (s.placeOrWait u j) := by
  grind [State.placeOrWait, memOk_updUnit, memOk_jobLeaf]

theorem memOk_settleLeaves {s : State} (u : Nat) (ok : MemOk s) : MemOk (s.settleLeaves u) := by
  grind [State.settleLeaves, memOk_updUnit, memOk_jobLeaf, memOk_foldl]

theorem memOk_landVec {s : State} (u : Nat) (j : Job) (ok : MemOk s) : MemOk (s.landVec u j) := by
  grind [State.landVec, memOk_updCid, memOk_dropJob, memOk_landChunks, memOk_placeOrWait, memOk_foldl]

theorem memOk_landVecs {s : State} (u cid : Nat) (p : Job → Bool) (ok : MemOk s) : MemOk (s.landVecs u cid p) := by
  grind [State.landVecs, memOk_landVec, memOk_foldl]

theorem memOk_landAllVecs {s : State} (u cid : Nat) (ok : MemOk s) : MemOk (s.landAllVecs u cid) := by
  grind [State.landAllVecs, memOk_landVecs]

theorem memOk_post {s : State} (m : Msg) (ok : MemOk s) : MemOk (s.post m) := ok

theorem memOk_fenceUnit {s : State} (u reason : Nat) (ok : MemOk s) : MemOk (s.fenceUnit u reason) := ok

theorem memOk_toSecurity {s : State} (u : Nat) (rec' : Bytes) (ok : MemOk s) : MemOk (s.toSecurity u rec') := ok

theorem memOk_noteMemue {s : State} (u cause : Nat) (ok : MemOk s) : MemOk (s.noteMemue u cause) := by
  grind [State.noteMemue, memOk_updUnit, memOk_fenceUnit]

theorem memOk_enterTrap {s : State} (u b : Nat) (t : Trap) (obs : Nat) (ok : MemOk s) : MemOk (s.enterTrap u b t obs) := by
  grind [State.enterTrap, memOk_setCtx, memOk_writeVA, memOk_trace, memOk_logRefused, memOk_spillPoisoned, memOk_landAllVecs,
      memOk_post, memOk_fenceUnit, memOk_toSecurity, memOk_noteMemue]

theorem memOk_unbindVersion {s : State} (d : Nat) (v : Option (Nat × Nat × Nat)) (ok : MemOk s) : MemOk (s.unbindVersion d v) := by
  unfold State.unbindVersion
  grind [memOk_updDie]

theorem memOk_discardNode {s : State} (d n : Nat) (x : Node) (ok : MemOk s) : MemOk (s.discardNode d n x) := by
  grind [State.discardNode, memOk_updUnit, memOk_updDie, memOk_unbindVersion]

theorem memOk_failGraph {s : State} (d g : Nat) (ok : MemOk s) : MemOk (s.failGraph d g) := by
  grind [State.failGraph, memOk_updDie, memOk_unbindVersion, memOk_discardNode, memOk_foldl]

theorem memOk_killCtx {s : State} (u cid : Nat) (ok : MemOk s) : MemOk (s.killCtx u cid) := by
  grind [State.killCtx, memOk_updCid, memOk_landAllVecs, memOk_failGraph]

theorem memOk_returnLandings {s : State} (u : Nat) (c : Ctx) (ok : MemOk s) : MemOk (s.returnLandings u c) := by
  grind [State.returnLandings, memOk_updSlot, memOk_foldl]

theorem memOk_releaseAbandoned {s : State} (u : Nat) (c : Ctx) (ok : MemOk s) : MemOk (s.releaseAbandoned u c) := by
  grind [State.releaseAbandoned, memOk_release, memOk_stat, memOk_returnLandings, memOk_foldl]

theorem memOk_unreserve {s : State} (u : Nat) (pt : Map PtEnt) (ok : MemOk s) : MemOk (s.unreserve u pt) := by
  grind [State.unreserve, memOk_updPad, memOk_foldl]

theorem memOk_dropCtx {s : State} (u : Nat) (c : Ctx) (ok : MemOk s) : MemOk (s.dropCtx u c) := ok

theorem memOk_endRoot {s : State} (u : Nat) (c : Ctx) (ok : MemOk s) : MemOk (s.endRoot u c) := by
  grind [State.endRoot, memOk_updDie, memOk_passRoot, memOk_unreserve, memOk_dropCtx]

theorem memOk_dropFaulted {s : State} (u : Nat) (c : Ctx) (ok : MemOk s) : MemOk (s.dropFaulted u c) := ok

theorem memOk_endStep {s : State} (u : Nat) (c : Ctx) (ok : MemOk s) : MemOk (s.endStep u c) := by
  grind [State.endStep, memOk_updUnit, memOk_updCid, memOk_enterTrap, memOk_releaseAbandoned, memOk_endRoot, memOk_dropFaulted]

theorem memOk_returnTrap {s : State}  (ok : MemOk s) : MemOk s.returnTrap := by
  grind [State.returnTrap, memOk_updCur, memOk_updCid, memOk_trace, memOk_swapIn, memOk_landAllVecs, memOk_killCtx]

theorem memOk_issueJob {s : State} (j : Job) (ok : MemOk s) : MemOk (s.issueJob j) := ok

theorem memOk_semGain {s : State} (u cid e : Nat) (ok : MemOk s) : MemOk (s.semGain u cid e) := by
  grind [State.semGain, memOk_updCid]

theorem memOk_semDone {s : State} (u : Nat) (j : Job) (ok : MemOk s) : MemOk (s.semDone u j) := by
  grind [State.semDone, memOk_semGain]

theorem memOk_takeLeaf {s : State} (i : Instr) (ok : MemOk s) : MemOk (s.takeLeaf i).1 := ok

theorem memOk_landingStats {s : State} (u : Nat) (c : Ctx) (ch : Nat) (l : Landing) (slot addr : Nat) (ok : MemOk s) :
    MemOk (s.landingStats u c ch l slot addr) := by
  grind [State.landingStats, memOk_stat]

theorem memOk_observe1 {s : State} (slot w ext : Nat) (cn : Nat × Nat) (ok : MemOk s) : MemOk (s.observe1 slot w ext cn) := by
  grind [State.observe1, memOk_setCur, memOk_updEnd, memOk_placeLeaf, memOk_landingStats]

theorem memOk_takeEffect {s : State} (os : List SlotSem) (keeps : ∀ o ∈ os, o.KeepsMem) (ok : MemOk s) : MemOk (s.takeEffect os) := by
  unfold State.takeEffect
  split
  · exact ok
  · exact (keeps _ (.head _)).eff ok
  · refine memOk_foldl _ _ (fun t h ok => ?_) (memOk_foldl_mem (fun o m t ok => (keeps o (List.mem_of_mem_filter m)).eff ok)
      (memOk_foldl_mem (fun o m t ok => (keeps o (List.mem_of_mem_filter m)).eff ok)
        (memOk_foldl _ _ (fun t h ok => memOk_updSlot _ _ ok) ok)))
    split
    · exact memOk_consume _ _ (memOk_updSlot _ _ ok)
    · exact ok

theorem memOk_leave {s : State}  (ok : MemOk s) : MemOk s.leave := by
  grind [State.leave, memOk_updCur, memOk_trace, memOk_swapIn, memOk_landAllVecs]

theorem memOk_preemptLands {s : State}  (ok : MemOk s) : MemOk s.preemptLands := by
  grind [State.preemptLands, memOk_leave]

theorem memOk_stallLands {s : State}  (ok : MemOk s) : MemOk s.stallLands := by
  grind [State.stallLands, memOk_leave]

theorem memOk_noteStall {s : State}  (ok : MemOk s) : MemOk s.noteStall := ok

theorem memOk_finishBundle {s : State} (p : Pres) (ops : List Instr) (ok : MemOk s) : MemOk (s.finishBundle p ops) := by
  grind [State.finishBundle, memOk_setCur, memOk_updCur, memOk_trace, memOk_enterTrap, memOk_returnTrap, memOk_preemptLands,
      memOk_stallLands]

theorem memOk_begin {s : State}  (ok : MemOk s) : MemOk s.begin := by
  grind [State.begin, memOk_updCur, memOk_landVecs]

theorem memOk_runBundle {s : State} (ops : List SlotSem) (keeps : ∀ o ∈ ops, o.KeepsMem) (ok : MemOk s) :
    MemOk (State.runBundle ops s) := by
  unfold State.runBundle
  extract_lets begun c size p shown u live trap checks straddle hooked starts startedS started busy hold obs observed taken
  have live_keeps : ∀ o ∈ live, o.KeepsMem := fun o m => keeps o (List.mem_of_mem_filter m)
  have shown_ok : MemOk shown := memOk_setCur _ (memOk_begin ok)
  have trap_ok : ∀ r, MemOk (trap r) := fun r => memOk_enterTrap _ _ _ _ (memOk_updCur _ shown_ok)
  have hooked_ok : MemOk hooked := memOk_foldl_mem (fun o m _ ok => (live_keeps o m).hook ok) shown_ok
  have started_ok : MemOk startedS := by
    unfold startedS
    split
    · exact hooked_ok
    · refine memOk_foldl_mem (fun o m t ok => ?_) hooked_ok
      cases e : o.start with
      | none => exact ok
      | some f => exact (live_keeps o (List.mem_of_mem_filter m)).start f e ok
  have taken_ok : MemOk taken := memOk_takeEffect _ live_keeps (memOk_foldl _ _ (fun t x ok => memOk_observe1 _ _ _ _ ok) started_ok)
  clear_value trap startedS taken checks straddle hold
  split
  · exact trap_ok _
  split
  · exact trap_ok _
  split
  · exact trap_ok _
  split
  · exact trap_ok _
  split
  · exact memOk_updCur _ started_ok
  · exact memOk_finishBundle _ _ taken_ok

end Sys2Proof.Machine

end

section

/-! PROOFS. The canonical form of memory is kept: scalar operations. -/

namespace Sys2Proof.Machine

theorem memOk_issue1 {s : State} {o : SlotSem} {z : State} (keeps : o.KeepsMem) (ok : MemOk s) (e : s.issue1 o = .next z) :
    MemOk z := by
  cases e
  exact memOk_runBundle _ (by simpa using keeps) ok

end Sys2Proof.Machine

end

section

/-! PROOFS. The canonical form of memory is kept: control operations. -/

namespace Sys2Proof.Machine

theorem memOk_ask {s : State} (a : After) (ok : MemOk s) : MemOk (s.ask a) := ok

theorem memOk_linkWrite {s : State}  (ok : MemOk s) : MemOk s.linkWrite := ok

theorem transfer_keepsMem (i : Instr) (q : Nat) (lnk : Bool) (tgt : State → Nat) : (transfer i q lnk tgt).KeepsMem :=
  ⟨fun ok => ok, nofun, fun ok => by grind [transfer, memOk_ask, memOk_linkWrite]⟩

theorem loopStart_keepsMem (i : Instr) (q len epi : Nat) (rot : Bool) (count : State → Nat) :
    (loopStart i q len epi rot count).KeepsMem :=
  ⟨fun ok => ok, nofun, fun ok => by grind [loopStart, memOk_updCur, memOk_ask]⟩

theorem memOk_startDeadline {s : State} (u ch n : Nat) (ok : MemOk s) : MemOk (s.startDeadline u ch n) := ok

theorem memOk_waitcHook {s : State} (h : Nat) (ks : List Nat) (ok : MemOk s) : MemOk (waitcHook h ks s) := by
  grind [waitcHook, memOk_noteHold, memOk_startDeadline]

theorem waitcSem_keepsMem (i : Instr) (q h g sa : Nat) : (waitcSem i q h g sa).KeepsMem :=
  ⟨fun ok => memOk_waitcHook _ _ ok, nofun, fun ok => by grind [waitcSem, memOk_orEflags]⟩

theorem ctrwaitSem_keepsMem (i : Instr) (q c sa : Nat) : (ctrwaitSem i q c sa).KeepsMem := by
  refine ⟨fun {t} ok => ?_, nofun, fun ok => by grind [ctrwaitSem, memOk_orEflags]⟩
  show MemOk (match t.endpointOf t.curU t.cur with
      | some e => (e.chansOf c).foldl (fun s x => s.startDeadline s.curU x.1 x.2.nextIn) t
      | none => t)
  split
  · exact memOk_foldl _ _ (fun _ _ ok => memOk_startDeadline _ _ _ ok) ok
  · exact ok

theorem semwaitSem_keepsMem (i : Instr) (q e n : Nat) : (semwaitSem i q e n).KeepsMem := by
  refine ⟨fun {t} ok => ?_, nofun, fun ok => ok⟩
  show MemOk (if n ≤ t.cur.semV.look e 0 then t else _)
  split
  · exact ok
  · refine memOk_foldl _ _ (fun t a ok => ?_) ok
    split
    · exact ok
    · exact memOk_noteHold _ _ _ ok

theorem tfenceSem_keepsMem (i : Instr) (q : Nat) : (tfenceSem i q).KeepsMem := ⟨fun ok => ok, nofun, fun ok => by grind [tfenceSem,
    memOk_updCur]⟩

theorem memOk_fenced {s : State} (sd : Dest) (scope bound : Nat) (ok : MemOk s) : MemOk (s.fenced sd scope bound) := by
  grind [State.fenced, memOk_updDie, memOk_updCur, memOk_acquire, memOk_foldl]

theorem fenceSem_keepsMem (i : Instr) (q sd scope : Nat) : (fenceSem i q sd scope).KeepsMem := ⟨fun ok => ok, nofun,
    fun ok => by grind [fenceSem, memOk_updCur, memOk_mark, memOk_fenced]⟩

theorem statpopSem_keepsMem (i : Instr) (q sd sd2 : Nat) : (statpopSem i q sd sd2).KeepsMem := ⟨fun ok => ok, nofun,
    fun ok => by grind [statpopSem, memOk_setUnit, memOk_updCur]⟩

end Sys2Proof.Machine

end

section

/-! PROOFS. The canonical form of memory is kept: jobs. -/

namespace Sys2Proof.Machine

theorem memOk_readEl {s : State} (u : Nat) (j : Job) (e : El) (ok : MemOk s) : MemOk (s.readEl u j e).1 := by
  grind [State.readEl, memOk_element, memOk_countAccess]

theorem memOk_jobRead {s : State} (u : Nat) (j : Job) (n m l : Nat) (ok : MemOk s) : MemOk (s.jobRead u j n m l).1 := by
  induction n generalizing s u j m l with
  | zero => grind [State.jobRead]
  | succ n ih => grind [State.jobRead, memOk_element, memOk_countAccess, Option.map_eq_some_iff]

theorem memOk_readEls {s : State} (u : Nat) (j : Job) (n : List Nat) (ok : MemOk s) : MemOk (s.readEls u j n).1 := by
  induction n generalizing s u j with
  | nil => grind [State.readEls]
  | cons a n ih => grind [State.readEls, memOk_readEl, Option.map_eq_some_iff]

theorem memOk_readChunk {s : State} (u : Nat) (j : Job) (k : Nat) (ok : MemOk s) : MemOk (s.readChunk u j k).1 := by
  grind [State.readChunk, memOk_readEls]

theorem memOk_sendEl {s : State} (u : Nat) (j : Job) (e : El) (red v : Nat) (ok : MemOk s) : MemOk (s.sendEl u j e red v).1 := by
  grind [State.sendEl, memOk_element, memOk_countAccess]

theorem memOk_writeEls {s : State} (u : Nat) (j : Job) (fly : Bool) (val : State → El → Except Trap (Flagged Nat)) (is : List Nat)
    (ok : MemOk s) : (s.writeEls u j fly val is).Ok := by
  induction is generalizing s j with
  | nil => exact ok
  | cons i is ih => grind [State.writeEls, memOk_sendEl, memOk_writeEl, Perf.ok_fault]

theorem memOk_sendScalar {s : State} (u : Nat) (j : Job) (ok : MemOk s) :
    (∀ z k ks, s.sendScalar u j = .ok (z, k, ks) → MemOk z) ∧ ∀ z t, s.sendScalar u j = .error (z, t) → MemOk z := by
  grind [State.sendScalar, memOk_element, memOk_countAccess, memOk_updCid]

theorem memOk_doScalar {s : State} (u : Nat) (j : Job) (fly : Bool) (ok : MemOk s) : (s.doScalar u j fly).Ok := by
  obtain ⟨sent, faulted⟩ := memOk_sendScalar u j ok
  unfold State.doScalar
  split
  · next h => exact faulted _ _ h
  · next h =>
    split
    · exact sent _ _ _ h
    · exact memOk_land _ _ _ (sent _ _ _ h)

theorem memOk_writeSome {s : State} (u : Nat) (j : Job) (fly : Bool) (is : List Nat) (ok : MemOk s) : (s.writeSome u j fly is).Ok := by
  grind [State.writeSome, memOk_writeEls]

theorem memOk_perform1 {s : State} (u : Nat) (j : Job) (fly : Bool) (is : List Nat) (ok : MemOk s) : (s.perform1 u j fly is).Ok := by
  grind [State.perform1, memOk_doScalar, memOk_writeSome, Perf.ok_done, Perf.ok_wait, Perf.ok_fault]

theorem memOk_showWalks {s : State} (u : Nat) (j : Job) (ks : List Span) (ok : MemOk s) : MemOk (s.showWalks u j ks).1 := by
  grind [State.showWalks, memOk_landSeen]

theorem memOk_loftEls {s : State} (u : Nat) (j : Job) (is : List Nat) {z : State} (ok : MemOk s) (e : s.loftEls u j is = some z) :
    MemOk z := by
  grind [State.loftEls, memOk_putJob, memOk_orderAir, memOk_perform1, memOk_showWalks, Perf.ok_done, memOk_foldl]

theorem memOk_loft {s : State} (u : Nat) (j : Job) {z : State} (ok : MemOk s) (e : s.loft u j = some z) : MemOk z := by
  grind [State.loft, memOk_loftEls]

theorem memOk_stand {s : State} (u cid jid sc : Nat) (word : Option Nat) {z : State} (ok : MemOk s)
    (e : s.stand u cid jid sc word = some z) : MemOk z := by
  unfold State.stand at e
  dsimp only at e
  split at e
  · exact absurd e (by simp)
  · refine memOk_map (fun y h => memOk_foldl_bind _ _ ?_ ?_ h) (fun y ok => memOk_mark u cid jid sc word ok) e
    · intro t i y ok h
      split at h
      · split at h
        · exact absurd h (by simp)
        · exact memOk_loft _ _ (memOk_mark _ _ _ _ _ ok) h
      · exact memOk_loft _ _ ok h
    · intro y h
      exact Option.some.inj h ▸ ok

theorem memOk_released {s : State} (u : Nat) (j : Job) {z : State} (ok : MemOk s) (e : s.released u j = some z) : MemOk z := by
  grind [State.released, memOk_stand]

theorem memOk_force {s : State} (u : Nat) (now : Bool) (n : List (Job × List Nat)) {z : State} (ok : MemOk s)
    (e : s.force u now n = some z) : MemOk z := by
  induction n generalizing s with
  | nil => exact Option.some.inj e ▸ ok
  | cons i is ih =>
    refine memOk_bind (fun y h => memOk_bind (fun t k => ?_) (fun t ok k => memOk_loft _ _ ok k) h) (fun y ok h => ih ?_ h) e
    · split at k
      · exact memOk_released _ _ ok k
      · exact Option.some.inj k ▸ ok
    · split
      · exact memOk_landOver _ _ _ _ ok
      · exact ok

theorem memOk_promote {s : State} (u cid jid : Nat) (ok : MemOk s) : MemOk (s.promote u cid jid) := by
  grind [State.promote, memOk_updJob, memOk_noteRead, memOk_orderAir, memOk_foldl]

theorem memOk_fenceStep {s : State} (f : Fencing) (ok : MemOk s) : MemOk (s.fenceStep f) := by
  grind [State.fenceStep, memOk_updCur, memOk_enterTrap, memOk_noteStall, memOk_fenced, memOk_stand, memOk_promote]

theorem memOk_ready {s : State} (u : Nat) (j : Job) (ks : List Span) {z : State} (ok : MemOk s) (e : s.ready u j ks = some z) :
    MemOk z := by
  unfold State.ready at e
  split at e
  · exact absurd e (by simp)
  · exact memOk_bind (fun _ => memOk_force _ _ _ (memOk_landSeen _ _ (memOk_showWalks u j ks ok))) (fun _ ok => memOk_released _ _ ok) e

theorem memOk_perform {s : State} (u : Nat) (j : Job) (ok : MemOk s) : (s.perform u j).Ok := by
  grind [State.perform, memOk_landOver, memOk_perform1, memOk_ready, Perf.ok_done, Perf.ok_wait]

theorem memOk_arriveEl {s : State} (u : Nat) (j : Job) (k : Nat) {z : State} (ok : MemOk s) (e : s.arriveEl u j k = some z) :
    MemOk z := by
  have scalar : ∀ t i, s.perform u j = .done t i → MemOk (t.putJob u i) := fun t i h =>
    memOk_putJob _ _ (Perf.ok_done.1 (h ▸ memOk_perform u j ok))
  unfold State.arriveEl at e
  dsimp only at e
  split at e
  · exact absurd e (by simp)
  split at e
  · exact Option.some.inj e ▸ memOk_landOver _ _ _ _ ok
  split at e
  · split at e
    · exact Option.some.inj e ▸ scalar _ _ (by assumption)
    · exact absurd e (by simp)
  · split at e
    · exact Option.some.inj e ▸ scalar _ _ (by assumption)
    · exact absurd e (by simp)
  · split at e
    · exact absurd e (by simp)
    · refine memOk_bind (fun _ => memOk_force _ _ _ ok) (fun _ ok h => ?_) e
      refine memOk_bind (fun _ => memOk_ready _ _ _ ok) (fun _ ok h => ?_) h
      exact memOk_map (fun _ => memOk_loftEls _ _ _ ok) (fun _ ok => memOk_landOver _ _ _ _ ok) h

theorem memOk_readAhead {s : State} (u : Nat) (j : Job) (k : Nat) {z : State} (ok : MemOk s) (e : s.readAhead u j k = some z) :
    MemOk z := by
  grind [State.readAhead, memOk_element, memOk_putJob, memOk_countAccess, memOk_ready, Option.bind_eq_some_iff]

theorem memOk_logEgress {s : State} (u : Nat) (j : Job) {z : State} (ok : MemOk s) (e : s.logEgress u j = some z) : MemOk z := by
  grind [State.logEgress, memOk_logRecord]

theorem memOk_finishJob {s : State} (u : Nat) (j : Job) (leaf : Option LeafRec) (moved seq : Nat) (ok : MemOk s) :
    MemOk (s.finishJob u j leaf moved seq) := by
  unfold State.finishJob
  grind [memOk_dropJob, memOk_jobFlags, memOk_jobLeaf, memOk_post, memOk_semDone]

theorem memOk_stopJob {s : State} (u : Nat) (j : Job) (t : Trap) (ok : MemOk s) : MemOk (s.stopJob u j t) := ok

theorem memOk_stop (u : Nat) {p : Perf} {z : State} (ok : p.Ok) (e : p.stop u = some z) : MemOk z := by
  cases p with
  | fault s j t => exact Option.some.inj e ▸ memOk_stopJob _ _ _ ok
  | done s j => cases e
  | wait => cases e

theorem memOk_onJob {s : State} (u jid : Nat) (f : Job → Option State) {z : State} (keeps : ∀ j t, f j = some t → MemOk t)
    (ok : MemOk s) (e : s.onJob u jid f = .next z) : MemOk z := by
  unfold State.onJob at e
  split at e
  · cases e; exact ok
  · split at e <;> cases e
    · exact ok
    · exact memOk_getD (keeps _) ok

end Sys2Proof.Machine

end

section

/-! PROOFS. The canonical form of memory is kept: copies. -/

namespace Sys2Proof.Machine

theorem memOk_issuePriv {s : State} {o : SlotSem} {z : State} (keeps : o.KeepsMem) (ok : MemOk s) (e : s.issuePriv o = .next z) :
    MemOk z := by
  unfold State.issuePriv at e
  split at e
  · cases e; exact memOk_enterTrap _ _ _ _ ok
  · exact memOk_issue1 keeps ok e

theorem memOk_take {s : State} (hd pool reads : Nat) (t : TileRef) (ok : MemOk s) : MemOk (s.take hd pool reads t) := ok

theorem allocSem_keepsMem (i : Instr) (q hd pool : Nat) (reads : State → Nat) : (allocSem i q hd pool reads).KeepsMem :=
  ⟨fun ok => ok, nofun, fun ok => by grind [allocSem, memOk_take]⟩

theorem semAlloct_keepsMem (qp hd pool reads qs : Nat) : (semAlloct qp hd pool reads qs).KeepsMem := ⟨fun ok => ok, nofun,
    fun ok => by grind [semAlloct, memOk_updCur, memOk_take]⟩

theorem memOk_produceAs {s : State} (t : TileRef) (m : Map Word) (ok : MemOk s) : MemOk (s.produceAs t m) := ok

theorem semCopyin_keepsMem (qp hd sh e : Nat) : (semCopyin qp hd sh e).KeepsMem :=
  ⟨fun ok => ok, nofun, fun ok =>
    memOk_foldl _ _ (fun _ _ ok => memOk_writeChunk _ _ _ _ ok) (memOk_issueJob _ (memOk_produceAs _ _ (memOk_takeLeaf _ ok)))⟩

theorem memOk_readRow {s : State} (u : Nat) (j : Job) (r : Nat) (n : List Nat) (ok : MemOk s) : MemOk (s.readRow u j r n).1 := by
  induction n generalizing s u j r with
  | nil => grind [State.readRow]
  | cons a n ih => grind [State.readRow, memOk_readEl]

theorem memOk_fetchRow {s : State} (u : Nat) (j : Job) {z : State} {y : Job × Option Trap} (ok : MemOk s)
    (e : s.fetchRow u j = some (z, y)) : MemOk z := by
  grind [State.fetchRow, memOk_ready, memOk_readRow, Option.map_eq_some_iff]

theorem semGpush_keepsMem (qp hd sa last : Nat) : (semGpush qp hd sa last).KeepsMem := ⟨fun ok => ok, nofun,
    fun ok => by grind [semGpush, memOk_updJob]⟩

theorem semTmove_keepsMem (qp hd hs c e : Nat) : (semTmove qp hd hs c e).KeepsMem := ⟨fun ok => ok, nofun,
    fun ok => by grind [semTmove, memOk_readTile, memOk_produce, memOk_issueJob, memOk_takeLeaf]⟩

theorem padLoad_keepsMem (i : Instr) (q sd hs n sg c : Nat) (off : State → Nat) : (padLoad i q sd hs n sg c off).KeepsMem :=
  ⟨fun ok => ok, nofun, fun ok => memOk_readTile _ _ _ _ _ (memOk_updCur _ ok)⟩

theorem semTrel_keepsMem (qp hs : Nat) : (semTrel qp hs).KeepsMem := ⟨fun ok => ok, nofun, fun ok => by grind [semTrel, memOk_release]⟩

theorem semLandh_keepsMem (qp hd ch sa : Nat) : (semLandh qp hd ch sa).KeepsMem := ⟨fun ok => ok, nofun, fun ok => by grind [semLandh,
    memOk_updCur]⟩

theorem memOk_fetchChunk {s : State} (u : Nat) (j : Job) (k : Nat) (ok : MemOk s) : MemOk (s.fetchChunk u j k).1 := by
  grind [State.fetchChunk, memOk_readChunk]

theorem memOk_prefetch {s : State} (u : Nat) (j : Job) (n : List Nat) {z : State} {y : Job} (ok : MemOk s)
    (e : s.prefetch u j n = some (z, y)) : MemOk z := by
  induction n generalizing s u j z y with
  | nil => grind [State.prefetch]
  | cons a n ih => grind [State.prefetch, memOk_fetchChunk]

theorem memOk_landFetched {s : State} (u : Nat) (j : Job) (t : TileRef) (k : Nat) (ok : MemOk s) : MemOk (s.landFetched u j t k).1 := by
  grind [State.landFetched, memOk_updSlot, memOk_putJob, memOk_writeChunk]

theorem memOk_landGather {s : State} (u : Nat) (j : Job) (t : TileRef) (k : Nat) (ok : MemOk s) : MemOk (s.landGather u j t k).1 := by
  grind [State.landGather, memOk_landFetched]

theorem memOk_drainJob {s : State} (u : Nat) (j : Job) (ok : MemOk s) : MemOk (s.drainJob u j) := by
  unfold State.drainJob
  split
  · exact ok
  · next h => exact memOk_putJob _ _ (memOk_fetchRow _ _ ok h)
  · next i f h =>
    refine memOk_stopJob _ _ _ (memOk_foldl_fst _ _ (fun r k ok => ?_) (memOk_fetchRow _ _ ok h))
    cases i.dst with
    | none => exact ok
    | some t =>
      show MemOk (r.1.landGather u r.2 t k).1
      exact memOk_landGather _ _ _ _ ok

theorem memOk_drainGather {s : State} (u : Nat) (ok : MemOk s) : MemOk (s.drainGather u) := by
  grind [State.drainGather, memOk_drainJob]

theorem memOk_arrive {s : State} (u : Nat) (j : Job) (k : Nat) {z : State} (ok : MemOk s) (e : s.arrive u j k = some z) : MemOk z := by
  unfold State.arrive at e
  split at e
  · exact absurd e (by simp)
  split at e
  · split at e
    · exact Option.some.inj e ▸ memOk_landGather _ _ _ _ ok
    · exact absurd e (by simp)
  · dsimp only at e
    split at e
    · exact absurd e (by simp)
    · refine memOk_bind (fun _ => memOk_ready _ _ _ ok) (fun y ok h => ?_) e
      obtain ⟨r, hr, rfl⟩ := Option.map_eq_some_iff.1 h
      exact memOk_landFetched _ _ _ _ (memOk_prefetch _ _ _ ok hr)

theorem memOk_partOf {s : State} (u : Nat) (j : Job) (k : Nat) {z : State} (ok : MemOk s) (e : s.partOf u j k = some z) : MemOk z := by
  grind [State.partOf, memOk_arriveEl, memOk_readAhead, memOk_arrive]

theorem memOk_execChunkArrives {s : State} (u j k : Nat) {z : State} (ok : MemOk s) (e : execChunkArrives u j k s = .next z) :
    MemOk z := by
  grind [execChunkArrives, memOk_onJob, memOk_partOf]

theorem memOk_execTileJobComplete {s : State} (u j : Nat) {z : State} (ok : MemOk s) (e : execTileJobComplete u j s = .next z) :
    MemOk z := by
  grind [execTileJobComplete, memOk_finishJob, memOk_onJob]

theorem memOk_doLdg {s : State} (u : Nat) (j : Job) (ok : MemOk s) : (s.doLdg u j).Ok := by
  grind [State.doLdg, memOk_updCid, memOk_element, memOk_countAccess, Perf.ok_done, Perf.ok_fault]

theorem memOk_execLdgComplete {s : State} (u j : Nat) {z : State} (ok : MemOk s) (e : execLdgComplete u j s = .next z) : MemOk z := by
  grind [execLdgComplete, memOk_ready, memOk_finishJob, memOk_onJob, memOk_doLdg, Perf.ok_done]

theorem memOk_doOvl {s : State} (u : Nat) (j : Job) (is : List Nat) (ok : MemOk s) : (s.doOvl u j is).Ok := by
  induction is generalizing s j with
  | nil => exact ok
  | cons i is ih =>
    rw [State.doOvl]
    have read := memOk_element (s.whoJob u j) j.fps j.ch (Int.ofNat (j.a + 64 * i)) 64 .exec ok
    split
    · next h => rw [h] at read; exact read
    · next h =>
      rw [h] at read
      exact ih _ (Mem.wf_writeN _ _ _ (memOk_countAccess _ _ _ read))

theorem memOk_runOvl {s : State} (u : Nat) (j : Job) (ok : MemOk s) : (s.runOvl u j).Ok := by
  grind [State.runOvl, memOk_doOvl]

theorem memOk_execOvlComplete {s : State} (u j : Nat) {z : State} (ok : MemOk s) (e : execOvlComplete u j s = .next z) : MemOk z := by
  grind [execOvlComplete, memOk_ready, memOk_finishJob, memOk_onJob, memOk_runOvl, Perf.ok_done]

end Sys2Proof.Machine

end

section

/-! PROOFS. The canonical form of memory is kept: stores. -/

namespace Sys2Proof.Machine

theorem semCopyout_keepsMem (qp hs sh c red e : Nat) : (semCopyout qp hs sh c red e).KeepsMem := ⟨fun ok => ok, nofun,
    fun ok => by grind [semCopyout, memOk_readTile, memOk_issueJob, memOk_takeLeaf]⟩

theorem semScatter_keepsMem (qp hs hi sh c ci red e : Nat) : (semScatter qp hs hi sh c ci red e).KeepsMem := ⟨fun ok => ok, nofun,
    fun ok => by grind [semScatter, memOk_readTile, memOk_issueJob, memOk_takeLeaf]⟩

theorem padStore_keepsMem (i : Instr) (q sa hs n : Nat) (off : State → Nat) : (padStore i q sa hs n off).KeepsMem :=
  ⟨fun ok => ok, nofun, fun ok => memOk_of_writeN ok _ _ rfl⟩

theorem memOk_deliverReg {s : State} (u : Nat) (j : Job) (ok : MemOk s) : MemOk (s.deliverReg u j) := by
  grind [State.deliverReg, memOk_updCid]

theorem memOk_execOutJobComplete {s : State} (u j : Nat) {z : State} (ok : MemOk s) (e : execOutJobComplete u j s = .next z) :
    MemOk z := by
  grind [execOutJobComplete, memOk_perform, memOk_logEgress, memOk_finishJob, memOk_onJob, memOk_deliverReg, Perf.ok_done,
      Option.map_eq_some_iff]

theorem memOk_stopIn {s : State} (u : Nat) (j : Job) {z : State} (ok : MemOk s) (e : s.stopIn u j = some z) : MemOk z := by
  unfold State.stopIn at e
  grind [memOk_stopJob, memOk_fetchChunk, memOk_landFetched, memOk_foldl_fst]

end Sys2Proof.Machine

end

section

/-! PROOFS. The canonical form of memory is kept: vector operations, their effect taken apart into its steps. -/

namespace Sys2Proof.Machine

theorem memOk_vWrite {s : State} (t : TileRef) (bs : Bytes) (clear : List Nat) (ok : MemOk s) : MemOk (s.vWrite t bs clear) :=
  Mem.wf_writeN _ _ _ ok

/-- The tile that a source register of a vector operation names, if it has one and it names a tile. -/
def State.operand? (s : State) (x : Option Nat) : Option TileRef := x.bind fun n => s.tile? s.curU s.cur (s.cur.rh n)

/-- The handle of a source register. -/
def State.operandH (s : State) (x : Option Nat) : Nat := (x.map fun n => s.cur.rh n).getD 0

/-- A tile read by its handle `h`, consuming or not; nothing, when there is none. -/
def State.readOpt (s : State) (u cid : Nat) (x : Option TileRef) (h c : Nat) : State :=
  match x with
  | some t => s.readTile u cid t h c
  | none => s

theorem memOk_readOpt {s : State} (u cid : Nat) (x : Option TileRef) (h c : Nat) (ok : MemOk s) : MemOk (s.readOpt u cid x h c) := by
  cases x with
  | none => exact ok
  | some t => exact memOk_readTile _ _ _ _ _ ok

/-- A table or a side list made over its tile, with the tiles it made (R304). -/
def State.putTile (s : State) (seq : Nat) (sl : Bool) (x : Option TileRef) (bs : Option Bytes) (fmt n : Nat) : State × List TileRef :=
  match x, bs with
  | some t, some b =>
    if b.length = 0 then (s, [])
    else (((s.produce t 0 (n - 1) fmt seq).vWrite t b []).updSlot t fun x => { x with sealed := sl }, [t])
  | _, _ => (s, [])

/-- SEQ that a result takes of ha (R288). -/
def VOp.seqA (o : VOp) (s : State) : Nat := ((s.operand? o.ha).map fun t => (s.slot t).seq).getD 0

/-- The machine once an operation has its leaf and its lanes (R284). -/
def VOp.begun (o : VOp) (s : State) : State :=
  (s.takeLeaf o.i).1.updUnit s.curU fun x => { x with vecLeft := cdiv (s.cur.vshRC.1 * s.cur.vshRC.2) o.lanes }

/-- The chunks of hd's slot that a result lands (R288). -/
def VOp.lands (o : VOp) (w : State) (t : TileRef) (bs : Bytes) : List Nat :=
  if o.inPlace then w.vChunks t (cdiv bs.length 512) else List.range (cdiv bs.length 512)

/-- The result laid over hd's slot `t` (R288). -/
def VOp.written (o : VOp) (s : State) (sl : Bool) (t : TileRef) : State :=
  let bs := pack o.wd (o.run (o.input s)).d
  let (r, c) := s.cur.vshRC
  let w := if o.inPlace then o.begun s else (o.begun s).produce t ((o.shape r c).1 - 1) ((o.shape r c).2 - 1) o.fmt (o.seqA s)
  (w.vWrite t bs (if o.inPlace then o.lands w t bs else [])).updSlot t fun x => { x with sealed := sl }

/-- The table of VQNT laid over hb's slot, then the side list over its own (R304). -/
def VOp.made (o : VOp) (s : State) (sl : Bool) (t : TileRef) : (State × List TileRef) × State × List TileRef :=
  let out := o.run (o.input s)
  let p := (o.written s sl t).putTile (o.seqA s) sl (if o.outB.isSome then s.operand? o.hb else none) out.table 0x1B ((out.table.getD
      []).length / 8)
  (p, p.1.putTile (o.seqA s) sl (if o.outSide then s.operand? o.side else none) out.side 0x1A ((out.side.getD []).length / 8))

/-- An empty side list is released, and its register reads null (R304). -/
def VOp.sideGone (o : VOp) (s w : State) : State :=
  match (if o.outSide then s.operand? o.side else none), (o.run (o.input s)).side, o.side with
  | some t, some [], some x => (w.release t false true).updCur fun c => c.write (c.dh x) 0 (cdiv (s.cur.vshRC.1 * s.cur.vshRC.2)
      o.lanes + 6)
  | _, _, _ => w

/-- The sources read, when the job has been issued (R288). -/
def VOp.sourcesRead (o : VOp) (s w : State) : State :=
  let w := w.readOpt s.curU s.cur.cid (s.operand? o.ha) (s.operandH o.ha) o.ca
  match s.operand? o.hb with
  | some t => if o.outB.isSome then w else w.readTile s.curU s.cur.cid t (s.operandH o.hb) o.cb
  | none => w

/-- Whether a tile is sealed; none is not. -/
def State.sealedOpt (s : State) (x : Option TileRef) : Bool := (x.map fun t => (s.slot t).sealed).getD false

/-- Whether a result is sealed (R288). -/
def VOp.seals (o : VOp) (s : State) : Bool :=
  o.keepsSeal && (s.sealedOpt (s.operand? o.ha) || s.sealedOpt (s.operand? o.hb) ||
    (o.inPlace && s.sealedOpt (s.tile? s.curU s.cur (s.cur.rh o.hd))) || s.sealedOpt (if o.outSide then none else s.operand? o.side))

/-- The digests of what an operation reads (R370). -/
def VOp.readDigests (o : VOp) (s : State) : List TdWait :=
  let vmacc := match o.i with
    | .vmacc .. => true
    | _ => false
  let a := s.operand? o.ha
  let hd := s.tile? s.curU s.cur (s.cur.rh o.hd)
  (a.map fun t => s.vDig 0 t).toList ++ (if o.outB.isSome then [] else ((s.operand? o.hb).map fun t => s.vDig 1 t).toList) ++
    (if o.inPlace then (hd.map fun t => s.vDig 2 t).toList else []) ++ if vmacc then (a.map fun t => s.vDig 3 t).toList else []

/-- What every job of an operation holds (R284). -/
def VOp.baseJob (o : VOp) (s : State) : Job :=
  let l := s.takeLeaf o.i
  { l.1.newJob .vec o.i 0 with
    leaf := some l.2, due := l.1.cur.bundleNo + (cdiv (s.cur.vshRC.1 * s.cur.vshRC.2) o.lanes + 6), flags := (o.run (o.input s)).flags
    c := (if (s.operand? o.ha).isSome then 2 * o.ca else 0) + (if (s.operand? o.hb).isSome then 4 * o.cb else 0)
    tds := o.readDigests s }

/-- The job that lands the tile `t` (R288). -/
def VOp.tileJob (o : VOp) (s : State) (sl : Bool) (t : TileRef) : Job :=
  let bs := pack o.wd (o.run (o.input s)).d
  let (r, c) := s.cur.vshRC
  let w := if o.inPlace then o.begun s else (o.begun s).produce t ((o.shape r c).1 - 1) ((o.shape r c).2 - 1) o.fmt (o.seqA s)
  let ks := o.lands w t bs
  let m := o.made s sl t
  let x := m.2.1.slot t
  let res : TdWait := { pos := 4, tile := t, desc := x.desc
                        cells := (List.range x.chunks).map fun k => if ks.contains k then some (x.cds.look k (zeros 32), 1) else none }
  Job.resolve { o.baseJob s with
    dst := some t, tilesA := m.1.2 ++ m.2.2, lands := ks.foldl setBit 0, digB := (m.1.2.head?.map fun x => (m.2.1.slot x).tdNow).getD []
    tds := o.readDigests s ++ [res] }

theorem VOp.eff_tile {o : VOp} {s : State} {t : TileRef} (scalar : ∀ q sd ha sdhi ty ca, o.i ≠ .vsums q sd ha sdhi ty ca)
    (dest : s.tile? s.curU s.cur (s.cur.rh o.hd) = some t) :
    o.eff s = o.sourcesRead s (o.sideGone s ((o.made s (o.seals s) t).2.1.issueJob (o.tileJob s (o.seals s) t))) := by
  unfold VOp.eff
  rcases h : s.takeLeaf o.i with ⟨s1, lf⟩
  obtain rfl : (s.takeLeaf o.i).1 = s1 := by rw [h]
  obtain rfl : (s.takeLeaf o.i).2 = lf := by rw [h]
  dsimp -zeta only
  extract_lets _ _ _ _ _ _ _ _ _ _ _ hd
  have dest : hd = some t := dest
  split
  · exact absurd ‹_› (scalar _ _ _ _ _ _)
  · rw [dest]
    rfl

theorem VOp.eff_none {o : VOp} {s : State} (scalar : ∀ q sd ha sdhi ty ca, o.i ≠ .vsums q sd ha sdhi ty ca)
    (dest : s.tile? s.curU s.cur (s.cur.rh o.hd) = none) : o.eff s = o.begun s := by
  unfold VOp.eff
  rcases h : s.takeLeaf o.i with ⟨s1, lf⟩
  obtain rfl : (s.takeLeaf o.i).1 = s1 := by rw [h]
  dsimp -zeta only
  extract_lets _ _ _ _ _ _ _ _ _ _ _ hd
  have dest : hd = none := dest
  split
  · exact absurd ‹_› (scalar _ _ _ _ _ _)
  · rw [dest]
    rfl

/-- The machine with the sum of VSUMS in flight to its register `d` (R301). -/
def VOp.summed (o : VOp) (s : State) (d : Dest) : State :=
  let out := o.run (o.input s)
  (o.begun s).updCur fun c =>
    { c.write d (nth out.d 0) (cdiv (s.cur.vshRC.1 * s.cur.vshRC.2) o.lanes + 6) out.flags with
      touchSeal := c.touchSeal || s.sealedOpt (s.operand? o.ha) }

/-- The job that lands the sum with its register (R301). -/
def VOp.sumJob (o : VOp) (s : State) (d : Dest) : Job :=
  Job.resolve { o.baseJob s with image := leBytes 8 (nth (o.run (o.input s)).d 0), dreg := some (d, (o.summed s d).cur.bundleNo) }

/-- The effect of VSUMS: its sum in flight, its job, its source read. -/
theorem VOp.eff_sum {o : VOp} {s : State} {q sd ha sdhi ty ca : Nat} (scalar : o.i = .vsums q sd ha sdhi ty ca) :
    let d := (o.begun s).cur.ds (sd + 16 * sdhi)
    o.eff s = ((o.summed s d).issueJob (o.sumJob s d)).readOpt s.curU s.cur.cid (s.operand? o.ha) (s.operandH o.ha) o.ca := by
  unfold VOp.eff
  rcases h : s.takeLeaf o.i with ⟨s1, lf⟩
  obtain rfl : (s.takeLeaf o.i).1 = s1 := by rw [h]
  obtain rfl : (s.takeLeaf o.i).2 = lf := by rw [h]
  dsimp -zeta only
  extract_lets
  split
  · next e =>
    cases e.symm.trans scalar
    rfl
  · next e => exact absurd scalar (e _ _ _ _ _ _)

theorem memOk_putTile {s : State} (seq : Nat) (sl : Bool) (x : Option TileRef) (bs : Option Bytes) (fmt n : Nat) (ok : MemOk s) :
    MemOk (s.putTile seq sl x bs fmt n).1 := by
  unfold State.putTile
  split
  · split
    · exact ok
    · exact memOk_updSlot _ _ (memOk_vWrite _ _ _ (memOk_produce _ _ _ _ _ ok))
  · exact ok

theorem memOk_begun {s : State} (o : VOp) (ok : MemOk s) : MemOk (o.begun s) := ok

theorem memOk_written {s : State} (o : VOp) (sl : Bool) (t : TileRef) (ok : MemOk s) : MemOk (o.written s sl t) := by
  refine memOk_updSlot _ _ (memOk_vWrite _ _ _ ?_)
  split
  · exact memOk_begun o ok
  · exact memOk_produce _ _ _ _ _ (memOk_begun o ok)

theorem memOk_sideGone {s w : State} (o : VOp) (ok : MemOk w) : MemOk (o.sideGone s w) := by
  unfold VOp.sideGone
  split
  · exact memOk_updCur _ (memOk_release _ _ _ ok)
  · exact ok

theorem memOk_sourcesRead {s w : State} (o : VOp) (ok : MemOk w) : MemOk (o.sourcesRead s w) := by
  have readA := memOk_readOpt s.curU s.cur.cid (s.operand? o.ha) (s.operandH o.ha) o.ca ok
  unfold VOp.sourcesRead
  dsimp only
  split
  · split
    · exact readA
    · exact memOk_readTile _ _ _ _ _ readA
  · exact readA

theorem memOk_VOp_eff {s : State} (o : VOp) (ok : MemOk s) : MemOk (o.eff s) := by
  by_cases scalar : ∀ q sd ha sdhi ty ca, o.i ≠ .vsums q sd ha sdhi ty ca
  · cases dest : s.tile? s.curU s.cur (s.cur.rh o.hd) with
    | none => exact VOp.eff_none scalar dest ▸ memOk_begun o ok
    | some t =>
      rw [VOp.eff_tile scalar dest]
      exact memOk_sourcesRead o (memOk_sideGone o (memOk_issueJob _ (memOk_putTile _ _ _ _ _ _ (memOk_putTile _ _ _ _ _ _
        (memOk_written o _ t ok)))))
  · push Not at scalar
    obtain ⟨q, sd, ha, sdhi, ty, ca, scalar⟩ := scalar
    rw [VOp.eff_sum scalar]
    exact memOk_readOpt _ _ _ _ _ (memOk_issueJob _ (memOk_updCur _ (memOk_begun o ok)))

theorem VOp.sem_keepsMem (o : VOp) : o.sem.KeepsMem := ⟨fun ok => ok, nofun, fun ok => memOk_VOp_eff o ok⟩

theorem memOk_execVectorResultLands {s : State} (u j : Nat) {z : State} (ok : MemOk s) (e : execVectorResultLands u j s = .next z) :
    MemOk z := by
  grind [execVectorResultLands, memOk_landVec, memOk_onJob]

end Sys2Proof.Machine

end

section

/-! PROOFS. The canonical form of memory is kept: links. -/

namespace Sys2Proof.Machine

theorem memOk_deadLink {s : State} (x : Option (Nat × Nat)) (ok : MemOk s) : MemOk (s.deadLink x) := by
  unfold State.deadLink
  grind [memOk_updCid]

theorem memOk_failPkt {s : State} (o : OutPkt) (ok : MemOk s) : MemOk (s.failPkt o) := by
  grind [State.failPkt, memOk_updJob, memOk_finishJob, memOk_deadLink]

theorem memOk_emit {s : State} (port : Nat) (o : OutPkt) (ok : MemOk s) : MemOk (s.emit port o) := by
  grind [State.emit, memOk_updPort, memOk_failPkt]

theorem memOk_notify {s : State} (d : Nat) (p : Packet) (ok : MemOk s) : MemOk (s.notify d p) := by
  grind [State.notify, memOk_updDie, memOk_emit]

theorem memOk_flushWaiting {s : State} (d : Nat) (ok : MemOk s) : MemOk (s.flushWaiting d) := by
  grind [State.flushWaiting, memOk_updDie, memOk_notify, memOk_foldl]

theorem memOk_portDead {s : State} (port : Nat) (ok : MemOk s) : MemOk (s.portDead port) := by
  grind [State.portDead, memOk_updDie, memOk_updPort, memOk_failPkt, memOk_foldl]

theorem memOk_goBack {s : State} (port lseq now : Nat) (ok : MemOk s) : MemOk (s.goBack port lseq now) := by
  grind [State.goBack, memOk_updPort, memOk_portDead]

theorem memOk_ackPkt {s : State} (o : OutPkt) (ok : MemOk s) : MemOk (s.ackPkt o) := by
  grind [State.ackPkt, memOk_finishJob]

theorem memOk_execSerifAck {s : State} (port lseq : Nat) {z : State} (ok : MemOk s) (e : execSerifAck port lseq s = .next z) :
    MemOk z := by
  grind [execSerifAck, memOk_updPort, memOk_ackPkt, memOk_foldl]

theorem memOk_execSerifNack {s : State} (port lseq : Nat) {z : State} (ok : MemOk s) (e : execSerifNack port lseq s = .next z) :
    MemOk z := by
  grind [execSerifNack, memOk_goBack]

theorem memOk_execRetransmitTimeout {s : State} (port now : Nat) {z : State} (ok : MemOk s)
    (e : execRetransmitTimeout port now s = .next z) : MemOk z := by
  grind [execRetransmitTimeout, memOk_goBack]

theorem memOk_execLossOfSignalChanges {s : State} (port : Nat) (on : Bool) (now : Nat) {z : State} (ok : MemOk s)
    (e : execLossOfSignalChanges port on now s = .next z) : MemOk z := by
  grind [execLossOfSignalChanges, memOk_updPort]

theorem memOk_execLossOfSignalDead {s : State} (port now : Nat) {z : State} (ok : MemOk s)
    (e : execLossOfSignalDead port now s = .next z) : MemOk z := by
  grind [execLossOfSignalDead, memOk_portDead]

theorem memOk_execLinkTrainingComplete {s : State} (port : Nat) {z : State} (ok : MemOk s)
    (e : execLinkTrainingComplete port s = .next z) : MemOk z := by
  grind [execLinkTrainingComplete, memOk_updPort, memOk_flushWaiting]

theorem memOk_reply {s : State} (port : Nat) (p : Packet) (ok : MemOk s) : MemOk (s.reply port p) := by
  grind [State.reply, memOk_updPort, memOk_emit]

theorem memOk_receive {s : State} (port : Nat) (p : Packet) (act : State → State) (keeps : ∀ t,
    MemOk t → MemOk (act t)) (ok : MemOk s) :
    MemOk (s.receive port p act) := by
  unfold State.receive
  extract_lets x acted
  have acted_ok : MemOk acted := keeps _ (memOk_updPort _ _ ok)
  clear_value acted
  grind [memOk_reply, memOk_updPort]

theorem memOk_refuse {s : State} (port : Nat) (p : Packet) (ok : MemOk s) : MemOk (s.refuse port p) := by
  grind [State.refuse, memOk_emit]

theorem memOk_countRefused {s : State} (cid : Option (Nat × Nat)) (ok : MemOk s) : MemOk (s.countRefused cid) := by
  unfold State.countRefused
  grind [memOk_updCid]

theorem memOk_refused {s : State} (job cid : Option (Nat × Nat)) (ok : MemOk s) : MemOk (s.refused job cid) := by
  grind [State.refused, memOk_updJob, memOk_finishJob, memOk_countRefused]

theorem memOk_execRefusal {s : State} (port : Nat) (p : Packet) {z : State} (ok : MemOk s) (e : execRefusal port p s = .next z) :
    MemOk z := by
  grind [execRefusal, memOk_updPort, memOk_receive, memOk_refused]

end Sys2Proof.Machine

end

section

/-! PROOFS. The canonical form of memory is kept: channels. -/

namespace Sys2Proof.Machine

theorem memOk_issueSend {s : State} (i : Instr) (ch h c sem b m : Nat) (early : Bool) (ok : MemOk s) :
    MemOk (s.issueSend i ch h c sem b m early) := by
  grind [State.issueSend, memOk_updEnd, memOk_issueJob, memOk_takeLeaf]

theorem sendSem_keepsMem (i : Instr) (q ch hs c e : Nat) (putr early : Bool) (b : State → Nat) (m : Nat) :
    (sendSem i q ch hs c e putr early b m).KeepsMem :=
  ⟨fun ok => ok, nofun, fun ok => by grind [sendSem, memOk_readTile, memOk_issueSend]⟩

theorem memOk_sendChunk {s : State} (u : Nat) (j : Job) (k : Nat) (ok : MemOk s) : MemOk (s.sendChunk u j k) := by
  grind [State.sendChunk, memOk_updJob, memOk_updEnd, memOk_emit]

theorem memOk_handBack {s : State} (u : Nat) (j : Job) (ok : MemOk s) : MemOk (s.handBack u j) := by
  grind [State.handBack, memOk_updSlot]

theorem memOk_fireTile {s : State} (u : Nat) (j : Job) (t : TileRef) {z : State} (ok : MemOk s) (e : s.fireTile u j t = some z) :
    MemOk z := by
  grind [State.fireTile, memOk_updSlot, memOk_putJob, memOk_stopJob, memOk_sendChunk, memOk_handBack, memOk_foldl]

theorem memOk_execSendFire {s : State} (u j : Nat) {z : State} (ok : MemOk s) (e : execSendFire u j s = .next z) : MemOk z := by
  grind [execSendFire, memOk_onJob, memOk_fireTile]

theorem memOk_execSendtFire {s : State} (u j : Nat) {z : State} (ok : MemOk s) (e : execSendtFire u j s = .next z) : MemOk z := by
  refine memOk_onJob _ _ _ (fun j z h => ?_) ok e
  split at h
  · dsimp only at h
    split at h
    · exact absurd h (by simp)
    · split at h
      · exact Option.some.inj h ▸ memOk_stopJob _ _ _ ok
      · split at h
        · next k =>
          split at h
          · exact Option.some.inj h ▸ memOk_fireTile _ _ _ ok k
          · exact Option.some.inj h ▸ memOk_readTile _ _ _ _ _ (memOk_fireTile _ _ _ ok k)
        · exact absurd h (by simp)
      · exact absurd h (by simp)
  · exact absurd h (by simp)

theorem memOk_execSendComplete {s : State} (u j : Nat) {z : State} (ok : MemOk s) (e : execSendComplete u j s = .next z) : MemOk z := by
  grind [execSendComplete, memOk_logEgress, memOk_finishJob, memOk_onJob, Option.map_eq_some_iff]

theorem memOk_ctrAdd {s : State} (u c n : Nat) (ok : MemOk s) : MemOk (s.ctrAdd u c n) := ok

theorem memOk_sendAdd {s : State} (u : Nat) (j : Job) (ok : MemOk s) : MemOk (s.sendAdd u j) := by
  grind [State.sendAdd, memOk_emit]

theorem memOk_sendMessage {s : State} (u : Nat) (j : Job) (ok : MemOk s) : MemOk (s.sendMessage u j) := by
  grind [State.sendMessage, memOk_putJob, memOk_post, memOk_emit]

theorem memOk_leaveWaiting {s : State} (u : Nat) (ok : MemOk s) : MemOk (s.leaveWaiting u) := by
  grind [State.leaveWaiting, memOk_dropJob, memOk_sendAdd, memOk_sendMessage, memOk_foldl]

theorem semCtraddRemote_keepsMem (qp ch sa : Nat) : (semCtraddRemote qp ch sa).KeepsMem := ⟨fun ok => ok, nofun,
    fun ok => by grind [semCtraddRemote, memOk_issueJob, memOk_sendAdd]⟩

theorem semMbox_keepsMem (qp hs c sa e : Nat) : (semMbox qp hs c sa e).KeepsMem := ⟨fun ok => ok, nofun, fun ok => by grind [semMbox,
    memOk_readTile, memOk_issueJob, memOk_sendMessage]⟩

theorem memOk_grant {s : State} (u ch n : Nat) (ok : MemOk s) : MemOk (s.grant u ch n) := by
  induction n generalizing s u ch with
  | zero => grind [State.grant]
  | succ n ih => grind [State.grant, memOk_updEnd, memOk_notify, memOk_getD, Option.map_eq_some_iff]

theorem semPrime_keepsMem (qp ch hs c reads : Nat) : (semPrime qp ch hs c reads).KeepsMem := ⟨fun ok => ok, nofun,
    fun ok => by grind [semPrime, memOk_updEnd, memOk_readTile, memOk_issueJob]⟩

theorem memOk_execPrimeComplete {s : State} (u j : Nat) {z : State} (ok : MemOk s) (e : execPrimeComplete u j s = .next z) :
    MemOk z := by
  refine memOk_onJob _ _ _ (fun j z h => ?_) ok e
  split at h
  · split at h
    · exact absurd h (by simp)
    · exact Option.some.inj h ▸ memOk_finishJob _ _ _ _ _ (memOk_grant _ _ _ (memOk_updEnd _ _ _ (Mem.wf_writeN _ _ _ ok)))
  · exact absurd h (by simp)

theorem memOk_landBegin {s : State} (u ch n seq : Nat) (sl : Bool) (ok : MemOk s) : MemOk (s.landBegin u ch n seq sl) := by
  grind [State.landBegin, memOk_updSlot, memOk_updEnd]

theorem memOk_orEndpoint {s : State} (u f : Nat) (ok : MemOk s) : MemOk (s.orEndpoint u f) := ok

theorem memOk_landChunk {s : State} (u ch n k : Nat) (pay : Option (Bytes × Nat)) (ok : MemOk s) :
    MemOk (s.landChunk u ch n k pay) := by
  grind [State.landChunk, memOk_updEnd, memOk_writeChunk, memOk_orEndpoint]

theorem memOk_landData {s : State} (u ch : Nat) (p : Packet) (bad : Bool) (ok : MemOk s) : MemOk (s.landData u ch p bad) := by
  grind [State.landData, memOk_updEnd, memOk_landBegin, memOk_orEndpoint, memOk_landChunk, memOk_foldl]

theorem memOk_landAt {s : State} (p : Packet) (bad : Bool) (ok : MemOk s) : MemOk (s.landAt p bad) := by
  grind [State.landAt, memOk_updUnit, memOk_landData]

theorem memOk_landHeld {s : State} (u : Nat) (ok : MemOk s) : MemOk (s.landHeld u) := by
  grind [State.landHeld, memOk_updUnit, memOk_landData, memOk_foldl]

theorem memOk_execSerifData {s : State} (port : Nat) (p : Packet) {z : State} (ok : MemOk s) (e : execSerifData port p s = .next z) :
    MemOk z := by
  grind [execSerifData, memOk_receive, memOk_refuse, memOk_landAt]

theorem memOk_execFecFailure {s : State} (port : Nat) (p : Packet) {z : State} (ok : MemOk s) (e : execFecFailure port p s = .next z) :
    MemOk z := by
  grind [execFecFailure, memOk_reply, memOk_landAt]

theorem memOk_landEnd {s : State} (u ch : Nat) (e : ChanEnd) (l : Landing) (ok : MemOk s) : MemOk (s.landEnd u ch e l) := by
  grind [State.landEnd, memOk_updEnd, memOk_placeLeaf, memOk_landingStats]

theorem memOk_landDone {s : State} (u ch : Nat) (l : Landing) (ok : MemOk s) : MemOk (s.landDone u ch l) := by
  grind [State.landDone, memOk_updSlot, memOk_landEnd]

theorem memOk_countLandings {s : State} (u ch n : Nat) (ok : MemOk s) : MemOk (s.countLandings u ch n) := by
  induction n generalizing s u ch with
  | zero => grind [State.countLandings]
  | succ n ih => grind [State.countLandings, memOk_updEnd, memOk_ctrAdd, Perf.ok_done, Perf.ok_wait, Perf.ok_fault, memOk_getD,
      Option.map_eq_some_iff]

theorem memOk_applyAdds {s : State} (u ch : Nat) (ok : MemOk s) : MemOk (s.applyAdds u ch) := by
  grind [State.applyAdds, memOk_updEnd, memOk_ctrAdd, memOk_foldl]

theorem memOk_execLandingComplete {s : State} (u ch : Nat) {z : State} (ok : MemOk s) (e : execLandingComplete u ch s = .next z) :
    MemOk z := by
  grind [execLandingComplete, memOk_landDone, memOk_countLandings, memOk_applyAdds, memOk_foldl]

theorem memOk_execBlotDeadline {s : State} (u ch : Nat) {z : State} (ok : MemOk s) (e : execBlotDeadline u ch s = .next z) :
    MemOk z := by
  grind [execBlotDeadline, memOk_landBegin, memOk_landChunk, memOk_foldl]

theorem memOk_execSlotReady {s : State} (port : Nat) (p : Packet) {z : State} (ok : MemOk s) (e : execSlotReady port p s = .next z) :
    MemOk z := by
  grind [execSlotReady, memOk_updDie, memOk_updEnd, memOk_receive]

theorem memOk_execCounterAdd {s : State} (port : Nat) (p : Packet) {z : State} (ok : MemOk s) (e : execCounterAdd port p s = .next z) :
    MemOk z := by
  grind [execCounterAdd, memOk_updEnd, memOk_receive, memOk_refuse, memOk_applyAdds]

theorem memOk_applyNotice {s : State} (u ch : Nat) (p : Packet) (ok : MemOk s) : MemOk (s.applyNotice u ch p) := ok

theorem memOk_applyHeld {s : State} (u ch : Nat) (p : Packet) (ok : MemOk s) : MemOk (s.applyHeld u ch p) := by
  grind [State.applyHeld, memOk_updEnd, memOk_applyNotice]

theorem memOk_execBindNotice {s : State} (port : Nat) (p : Packet) {z : State} (ok : MemOk s) (e : execBindNotice port p s = .next z) :
    MemOk z := by
  grind [execBindNotice, memOk_updDie, memOk_receive, memOk_applyNotice]

theorem memOk_execSlotStorageReturns {s : State} (pad slot : Nat) {z : State} (ok : MemOk s)
    (e : execSlotStorageReturns pad slot s = .next z) : MemOk z := by
  grind [execSlotStorageReturns, memOk_updSlot, memOk_updEnd, memOk_grant]

end Sys2Proof.Machine

end

section

/-! PROOFS. The canonical form of memory is kept: the matrix array. -/

namespace Sys2Proof.Machine

theorem memOk_pop1 {s : State} (u cid n : Nat) (ok : MemOk s) : MemOk (s.pop1 u cid n) := by
  grind [State.pop1, memOk_updSlot, memOk_updCid, memOk_readTile]

theorem memOk_pops {s : State} (u cid n m : Nat) (ok : MemOk s) : MemOk (s.pops u cid n m) := by
  induction m generalizing s u cid n with
  | zero => grind [State.pops]
  | succ m ih => grind [State.pops, memOk_pop1]

theorem memOk_updAcc {s : State} (u n : Nat) (f : AccSt → AccSt) (ok : MemOk s) : MemOk (s.updAcc u n f) := ok

theorem memOk_setBank {s : State} (u n : Nat) (int : Bool) (bs : Bytes) (ok : MemOk s) : MemOk (s.setBank u n int bs) :=
  Mem.wf_writeN _ _ _ ok

theorem semAcczero_keepsMem (qp acc ty : Nat) : (semAcczero qp acc ty).KeepsMem :=
  ⟨fun ok => ok, nofun, fun ok => memOk_of_writeN ok _ _ rfl⟩

theorem semAccwr_keepsMem (qp acc hs c ty : Nat) : (semAccwr qp acc hs c ty).KeepsMem := ⟨fun ok => ok, nofun,
    fun ok => by grind [semAccwr, memOk_readTile, memOk_setBank]⟩

theorem semAccmov_keepsMem (qp d f : Nat) : (semAccmov qp d f).KeepsMem :=
  ⟨fun ok => ok, nofun, fun ok => memOk_of_writeN ok _ _ rfl⟩

theorem semAccrd_keepsMem (qp hd acc ht fo rm sat ct : Nat) : (semAccrd qp hd acc ht fo rm sat ct).KeepsMem := ⟨fun ok => ok, nofun,
    fun ok => by grind [semAccrd, memOk_updSlot, memOk_readTile, memOk_produce, memOk_issueJob, memOk_takeLeaf]⟩

theorem memOk_execAccrdComplete {s : State} (u j : Nat) {z : State} (ok : MemOk s) (e : execAccrdComplete u j s = .next z) :
    MemOk z := by
  grind [execAccrdComplete, memOk_writeTile, memOk_placeOrWait, memOk_finishJob, memOk_onJob]

theorem memOk_mcallEff {s : State} (i : Instr) (ri acc z e : Nat) (ok : MemOk s) : MemOk (s.mcallEff i ri acc z e) := by
  unfold State.mcallEff
  extract_lets u x _ n _ ent _ _ _ _ _ _ hs _ noted _ h
  have noted_ok : MemOk noted := memOk_foldl _ _ (fun s h ok => by
    cases s.tile? u s.cur h with
    | none => exact ok
    | some t => exact memOk_noteTileRead _ _ _ ok) ok
  clear_value noted
  split
  next taken lf heq =>
  have taken_ok : MemOk taken := by simpa only [heq] using memOk_takeLeaf i noted_ok
  extract_lets _ _ _ claimed t sent
  have claimed_ok : MemOk claimed := memOk_updCur _ (memOk_updAcc _ _ _ (memOk_issueJob _ taken_ok))
  have sent_ok : MemOk sent := memOk_issueSend _ _ _ _ _ _ _ _ claimed_ok
  clear_value claimed sent t
  split
  · exact claimed_ok
  · split
    · exact memOk_readTile _ _ _ _ _ sent_ok
    · exact sent_ok

theorem semMcall_keepsMem (qp routine acc z e : Nat) : (semMcall qp routine acc z e).KeepsMem := ⟨fun ok => ok, nofun,
    fun ok => by grind [semMcall, memOk_take, memOk_mcallEff]⟩

theorem memOk_stopRoutine {s : State} (u : Nat) (j : Job) (t : Trap) (ok : MemOk s) : MemOk (s.stopRoutine u j t) := by
  grind [State.stopRoutine, memOk_stopJob, memOk_updAcc]

theorem memOk_execRoutineStart {s : State} (u j : Nat) {z : State} (ok : MemOk s) (e : execRoutineStart u j s = .next z) : MemOk z := by
  refine memOk_onJob _ _ _ (fun j z h => ?_) ok e
  have cleared : MemOk (if j.closed then
          ({ s with mem := s.mem.writeN (accKey u j.bank) (zeros 65536) } : State).updAcc u j.bank fun a =>
            { a with int := intBank j.ch }
        else s) := by
    split
    · exact Mem.wf_writeN _ _ _ ok
    · exact ok
  grind [memOk_putJob, memOk_stopRoutine]

theorem memOk_fetchEls {s : State} (u : Nat) (j : Job) (n : List Nat) (ok : MemOk s) : MemOk (s.fetchEls u j n).1 := by
  induction n generalizing s u j with
  | nil => grind [State.fetchEls]
  | cons a n ih => grind [State.fetchEls, memOk_readEl, Option.map_eq_some_iff]

theorem memOk_fetchBlock {s : State} (u : Nat) (j : Job) (isB : Bool) (b : Nat) (ok : MemOk s) : MemOk (s.fetchBlock u j isB b).1 := by
  grind [State.fetchBlock, memOk_fetchEls]

theorem memOk_opBlock {s : State} (u : Nat) (j : Job) (isB : Bool) (b : Nat) (ok : MemOk s) : MemOk (s.opBlock u j isB b).1 := by
  grind [State.opBlock, memOk_fetchBlock]

theorem memOk_blockIn {s : State} (u : Nat) (j : Job) (b : Nat) (ok : MemOk s) : MemOk (s.blockIn u j b).1 := by
  grind [State.blockIn, memOk_opBlock]

theorem memOk_sumBlock {s : State} (u : Nat) (j : Job) (b : Nat) (xs ys : List (List Int)) (ok : MemOk s) :
    MemOk (s.sumBlock u j b xs ys).1 :=
  memOk_foldl_fst _ _ (fun _ _ ok => Mem.wf_writeN _ _ _ ok) ok

theorem memOk_blockReady {s : State} (u : Nat) (j : Job) {z : State} (ok : MemOk s) (e : s.blockReady u j = some z) : MemOk z := by
  grind [State.blockReady, memOk_ready]

theorem memOk_execRoutineBlockComplete {s : State} (u j : Nat) {z : State} (ok : MemOk s)
    (e : execRoutineBlockComplete u j s = .next z) : MemOk z := by
  grind [execRoutineBlockComplete, memOk_putJob, memOk_onJob, memOk_updAcc, memOk_blockIn, memOk_sumBlock, memOk_blockReady,
      Option.bind_eq_some_iff]

theorem memOk_execRoutineFault {s : State} (u j : Nat) {z : State} (ok : MemOk s) (e : execRoutineFault u j s = .next z) : MemOk z := by
  grind [execRoutineFault, memOk_onJob, memOk_stopRoutine, memOk_blockIn, memOk_blockReady, Option.bind_eq_some_iff]

theorem memOk_eat3 {s : State} (u : Nat) (j : Job) (ok : MemOk s) : MemOk (s.eat3 u j) := by
  grind [State.eat3, memOk_readTile]

theorem memOk_execRoutineRetire {s : State} (u j : Nat) {z : State} (ok : MemOk s) (e : execRoutineRetire u j s = .next z) :
    MemOk z := by
  grind [execRoutineRetire, memOk_updCid, memOk_finishJob, memOk_onJob, memOk_pops, memOk_updAcc, memOk_eat3]

theorem memOk_execBankUncorrectable {s : State} (u n : Nat) {z : State} (ok : MemOk s) (e : execBankUncorrectable u n s = .next z) :
    MemOk z := by
  grind [execBankUncorrectable, memOk_updSlot, memOk_stopJob, memOk_updAcc, memOk_stopRoutine, memOk_foldl]

theorem memOk_issueMprog {s : State} (i : Instr) (index f sa e : Nat) (ok : MemOk s) : MemOk (s.issueMprog i index f sa e) := ok

theorem semMprog_keepsMem (qp index f sa : Nat) : (semMprog qp index f sa).KeepsMem := by
  refine ⟨fun ok => ok, fun f h {t} ok => ?_, fun {t} ok => ?_⟩
  · cases h
    grind [semMprog, memOk_dropJob, memOk_issueMprog]
  · grind [semMprog, memOk_dropJob, memOk_issueMprog]

theorem memOk_readCode {s : State} (u : Nat) (j : Job) (n m l : Nat) (ok : MemOk s) : MemOk (s.readCode u j n m l).1 := by
  induction n generalizing s u j m l with
  | zero => grind [State.readCode]
  | succ n ih => grind [State.readCode, memOk_element, memOk_countAccess, Option.map_eq_some_iff]

theorem memOk_readImage {s : State} (u : Nat) (j : Job) (ok : MemOk s) : MemOk (s.readImage u j).1 := by
  grind [State.readImage, memOk_readCode]

theorem memOk_install {s : State} (u ri : Nat) (m : Image) (held : List Nat) (ok : MemOk s) : MemOk (s.install u ri m held).1 := by
  grind [State.install, memOk_updUnit, memOk_foldl]

theorem memOk_execMprogComplete {s : State} (u j : Nat) {z : State} (ok : MemOk s) (e : execMprogComplete u j s = .next z) :
    MemOk z := by
  grind [execMprogComplete, memOk_putJob, memOk_ready, memOk_finishJob, memOk_onJob, memOk_readImage, memOk_install,
      Option.bind_eq_some_iff, Option.map_eq_some_iff]

end Sys2Proof.Machine

end

section

/-! PROOFS. The canonical form of memory is kept: the audit engine. -/

namespace Sys2Proof.Machine

theorem semAudmark_keepsMem (qp sa sb : Nat) : (semAudmark qp sa sb).KeepsMem := ⟨fun ok => ok, nofun, fun ok => by grind [semAudmark,
    memOk_placeLeaf, memOk_takeLeaf]⟩

theorem semAudroot_keepsMem (qp hd sl : Nat) : (semAudroot qp hd sl).KeepsMem := ⟨fun ok => ok, nofun, fun ok => by grind [semAudroot,
    memOk_writeTile, memOk_produce]⟩

theorem memOk_writeLog {s : State} (d : Nat) (a : AudCfg) (n : Nat) (bs : Bytes) (ok : MemOk s) : MemOk (s.writeLog d a n bs) := by
  grind [State.writeLog, memOk_showWrite, memOk_dieWrite, memOk_keepOld]

theorem memOk_appendLog {s : State} (d : Nat) (a : AudCfg) (rec' : Bytes) {z : State} (ok : MemOk s)
    (e : s.appendLog d a rec' = some z) : MemOk z := by
  unfold State.appendLog at e
  extract_lets w n pos pad counted padded written at e
  have counted_ok : MemOk counted := memOk_countVA _ _ ok
  have padded_ok : MemOk padded := by
    unfold padded
    split
    · exact counted_ok
    · exact memOk_writeLog _ _ _ _ counted_ok
  split at e
  · exact absurd e (by simp)
  · exact Option.some.inj e ▸ memOk_writeLog _ _ _ _ (memOk_updDie _ _ (memOk_writeLog _ _ _ _ padded_ok))

theorem memOk_writeSeal {s : State} (d : Nat) (a : AudCfg) (e : RootEnt) {z : State} (ok : MemOk s) (e : s.writeSeal d a e = some z) :
    MemOk z := by
  grind [State.writeSeal, memOk_updDie, memOk_updQueue, memOk_appendLog, Option.map_eq_some_iff]

theorem memOk_writeRoot {s : State} (d : Nat) (a : AudCfg) (e : RootEnt) {z : State} (ok : MemOk s) (e : s.writeRoot d a e = some z) :
    MemOk z := by
  grind [State.writeRoot, memOk_updDie, memOk_appendLog, Option.map_eq_some_iff]

theorem memOk_execRootLogWrite {s : State} (d : Nat) {z : State} (ok : MemOk s) (e : execRootLogWrite d s = .next z) : MemOk z := by
  grind [execRootLogWrite, memOk_updDie, memOk_writeSeal, memOk_writeRoot, memOk_getD]

theorem semAudsealSeal_keepsMem (qp sd f sa : Nat) : (semAudsealSeal qp sd f sa).KeepsMem := by
  refine ⟨fun ok => ok, fun f h {t} ok => ?_, fun {t} ok => ?_⟩
  · cases h
    grind [semAudsealSeal, memOk_updDie, memOk_updCur]
  · grind [semAudsealSeal, memOk_updDie, memOk_updCur]

theorem memOk_jobWrite {s : State} (u : Nat) (j : Job) (n m : Nat) (l : Bytes) (ok : MemOk s) : MemOk (s.jobWrite u j n m l).1 := by
  induction n generalizing s u j m l with
  | zero => grind [State.jobWrite]
  | succ n ih => grind [State.jobWrite, memOk_element, memOk_writeGlobal, memOk_countAccess, memOk_take]

theorem memOk_readCfg {s : State} (u : Nat) (j : Job) (ok : MemOk s) : MemOk (s.readCfg u j).1 := by
  grind [State.readCfg, memOk_jobRead]

theorem memOk_execAuditConfigTakesEffect {s : State} (u j : Nat) {z : State} (ok : MemOk s)
    (e : execAuditConfigTakesEffect u j s = .next z) : MemOk z := by
  grind [execAuditConfigTakesEffect, memOk_updDie, memOk_ready, memOk_finishJob, memOk_stopJob, memOk_onJob, memOk_writeLog,
      memOk_readCfg, Option.bind_eq_some_iff]

theorem memOk_sendMsg {s : State} (d chip mb die : Nat) (bs : Bytes) (ok : MemOk s) : MemOk (s.sendMsg d chip mb die bs) := by
  grind [State.sendMsg, memOk_post, memOk_emit]

theorem memOk_execAuditNodeRequest {s : State} (d : Nat) (msg : Bytes) {z : State} (ok : MemOk s)
    (e : execAuditNodeRequest d msg s = .next z) : MemOk z := by
  grind [execAuditNodeRequest, memOk_sendMsg]

theorem memOk_ask1 {s : State} (d : Nat) (b : Bisect) (lo n : Nat) {z : State} {y : Bisect × NodeAnswer} (ok : MemOk s)
    (e : s.ask1 d b lo n = some (z, y)) : MemOk z := by
  grind [State.ask1, memOk_sendMsg]

theorem memOk_descend {s : State} (d : Nat) (b : Bisect) (t : TreeEnt) (n m l : Nat) (o1 o2 : Bytes) {z : State} {y : Compared}
    (ok : MemOk s) (e : s.descend d b t n m l o1 o2 = some (z, y)) : MemOk z := by
  induction n generalizing s b m l o1 o2 with
  | zero => cases e; exact ok
  | succ f ih =>
    rw [State.descend] at e
    dsimp only at e
    split at e
    · cases e; exact ok
    split at e
    · split at e
      · cases e
      next h =>
      have asked := memOk_ask1 _ _ _ _ ok h
      clear h
      grind [memOk_ask1]
    · cases e; exact ok

theorem memOk_compare {s : State} (d : Nat) (b : Bisect) {z : State} {y : Compared} (ok : MemOk s) (e : s.compare d b = some (z, y)) :
    MemOk z := by
  unfold State.compare at e
  split at e
  · cases e; exact ok
  dsimp only at e
  split at e
  · cases e
  next h =>
  have asked := memOk_ask1 _ _ _ _ ok h
  clear h
  grind [memOk_descend]

theorem memOk_runBisect {s : State} (u : Nat) (j : Job) (ans : List NodeAnswer) (ok : MemOk s) : (s.runBisect u j ans).Ok := by
  grind [State.runBisect, memOk_jobRead, memOk_jobWrite, memOk_compare, Perf.ok_done, Perf.ok_wait, Perf.ok_fault]

end Sys2Proof.Machine

end

section

/-! PROOFS. The canonical form of memory is kept: graphs and their nodes. -/

namespace Sys2Proof.Machine

theorem memOk_reserve {s : State} (u : Nat) (pt : Map PtEnt) (ok : MemOk s) : MemOk (s.reserve u pt) := by
  grind [State.reserve, memOk_updPad, memOk_foldl]

theorem memOk_bindEnd {s : State} (d u ep : Nat) (r : ChanRec) (peer : Nat × Nat) (ok : MemOk s) : MemOk (s.bindEnd d u ep r peer) := by
  grind [State.bindEnd, memOk_updUnit, memOk_updDie, memOk_updSlot, memOk_notify, memOk_applyHeld, memOk_foldl]

theorem memOk_bindChans {s : State} (d q h : Nat) (o : Obj) (needs : Bool) (ok : MemOk s) : (s.bindChans d q h o needs).Ok := by
  unfold State.bindChans
  have held (u : Nat) (f : UnitSt → UnitSt) (p : Bool) : MemOk (if p then s else s.updUnit u f) := by
    split
    · exact ok
    · exact ok
  split
  · exact ok
  split
  · trivial
  extract_lets u x own _ _ bad start
  clear_value own bad
  split
  · exact ok
  split
  · trivial
  split
  · trivial
  split
  · trivial
  · exact memOk_foldl _ _ (fun _ _ ok => memOk_bindEnd _ _ _ _ _ ok) (held _ _ _)

theorem memOk_addGraph {s : State} (d : Nat) (g : Graph) (ok : MemOk s) : MemOk (s.addGraph d g) := ok

theorem memOk_graphNodes {s : State} (d q va : Nat) (h : GraphHdr) (o : Obj) (ok : MemOk s) : MemOk (s.graphNodes d q va h o).1 := by
  unfold State.graphNodes
  grind [memOk_updDie, memOk_readVA, memOk_foldl_fst]

theorem memOk_launchGraph {s : State} (d q va : Nat) (b : Bytes) (overlap : Bool) (sp : Option (Nat × Nat × Nat)) {z : State} (ok :
    MemOk s) (e : s.launchGraph d q va b overlap sp = some z) : MemOk z := by
  grind [State.launchGraph, memOk_graphNodes, memOk_bindChans, BindRes.ok_done, memOk_addGraph, memOk_updDie]

theorem memOk_failEntry {s : State} (d gk st : Nat) (ok : MemOk s) : MemOk (s.failEntry d gk st) := by
  grind [State.failEntry, memOk_updDie, memOk_failGraph]

theorem memOk_execNodeEntersWindow {s : State} (d q : Nat) {z : State} (ok : MemOk s) (e : execNodeEntersWindow d q s = .next z) :
    MemOk z := by
  grind [execNodeEntersWindow, memOk_bindChans, BindRes.ok_done, memOk_failEntry, memOk_updDie]

theorem memOk_gateWaits {s : State} (d : Nat) (n : Node) (ok : MemOk s) : MemOk (s.gateWaits d n) := by
  grind [State.gateWaits, memOk_startDeadline, memOk_foldl]

theorem memOk_execNodeDispatch {s : State} (d n : Nat) {z : State} (ok : MemOk s) (e : execNodeDispatch d n s = .next z) : MemOk z := by
  grind [execNodeDispatch, memOk_updUnit, memOk_updDie, memOk_gateWaits]

theorem memOk_grantAccs {s : State} (u cid : Nat) (ns : List Nat) (ok : MemOk s) : MemOk (s.grantAccs u cid ns) :=
  memOk_foldl _ _ (fun _ _ ok => Mem.wf_writeN _ _ _ ok) ok

theorem memOk_startCtx {s : State} (u b : Nat) (c : Ctx) (accs : List Nat) (pt : Map PtEnt) (ok : MemOk s) :
    MemOk (s.startCtx u b c accs pt) := by
  grind [State.startCtx, memOk_updDie, memOk_setCtx, memOk_trace, memOk_reserve, memOk_grantAccs, memOk_iff]

theorem memOk_gateSees {s : State} (u b : Nat) (t : TaskRec) (ok : MemOk s) : MemOk (s.gateSees u b t) := by
  grind [State.gateSees, memOk_orEflags, memOk_observe1, memOk_foldl, memOk_iff]

theorem memOk_undeque {s : State} (n : Nat) (x : Node) (ok : MemOk s) : MemOk (s.undeque n x) := by
  grind [State.undeque, memOk_updUnit]

theorem memOk_startNode {s : State} (d n u b : Nat) (x : Node) (pt : Map PtEnt) (ok : MemOk s) : MemOk (s.startNode d n u b x pt) := by
  grind [State.startNode, memOk_updDie, memOk_unbindVersion, memOk_startCtx, memOk_gateSees, memOk_undeque, memOk_iff]

theorem memOk_tryStart {s : State} (d u b : Nat) (serve : Bool) (n : List (Nat × Nat × Nat)) {z : State} (ok : MemOk s)
    (e : s.tryStart d u b serve n = some z) : MemOk z := by
  induction n generalizing s d u b serve z with
  | nil => grind [State.tryStart]
  | cons a n ih => grind [State.tryStart, memOk_updUnit, memOk_failGraph, memOk_startNode]

theorem memOk_wantBank {s : State} (u : Nat) (ok : MemOk s) : MemOk (s.wantBank u) := by
  grind [State.wantBank, memOk_setCtx]

theorem memOk_noteReady {s : State} (d : Nat) (ok : MemOk s) : MemOk (s.noteReady d) := ok

theorem memOk_graphTick {s : State} (d : Nat) (ok : MemOk s) : MemOk (s.graphTick d) := ok

theorem memOk_clockTo {s : State} (d now : Nat) (ok : MemOk s) : MemOk (s.clockTo d now) := ok

theorem memOk_startStarved {s : State} (d q : Nat) {z : State} (ok : MemOk s) (e : s.startStarved d q = some z) : MemOk z := by
  unfold State.startStarved at e
  split at e
  · exact absurd e (by simp)
  dsimp only at e
  split at e
  · exact absurd e (by simp)
  refine memOk_findSome? (fun u y h => ?_) e
  split at h
  · exact Option.some.inj h ▸ memOk_updQueue _ _ _ (memOk_startNode _ _ _ _ _ _ ok)
  · exact absurd h (by simp)

theorem memOk_execTaskStart {s : State} (u : Nat) {z : State} (ok : MemOk s) (e : execTaskStart u s = .next z) : MemOk z := by
  grind [execTaskStart, memOk_tryStart, memOk_wantBank, memOk_getD]

theorem memOk_execQueueStarvation {s : State} (d q now : Nat) {z : State} (ok : MemOk s)
    (e : execQueueStarvation d q now s = .next z) : MemOk z := by
  grind [execQueueStarvation, memOk_clockTo, memOk_startStarved, memOk_getD]

theorem memOk_execSteal {s : State} (u : Nat) {z : State} (ok : MemOk s) (e : execSteal u s = .next z) : MemOk z := by
  unfold execSteal at e
  extract_lets d near far vs at e
  split at e
  · cases e; exact ok
  split at e
  · cases e; exact ok
  split at e
  · cases e; exact ok
  · cases e
    exact memOk_getD (fun _ => memOk_findSome? fun _ _ => memOk_tryStart _ _ _ _ _ ok) ok

theorem memOk_execTaskComplete {s : State} (d n : Nat) {z : State} (ok : MemOk s) (e : execTaskComplete d n s = .next z) : MemOk z := by
  grind [execTaskComplete, memOk_updDie, memOk_unreserve, memOk_iff]

theorem memOk_unbindEnd {s : State} (u ch : Nat) (ok : MemOk s) : MemOk (s.unbindEnd u ch) := by
  grind [State.unbindEnd, memOk_updUnit, memOk_updSlot, memOk_release, memOk_foldl]

theorem memOk_endChans {s : State} (d gk : Nat) (g : Graph) {z : State} (ok : MemOk s) (e : s.endChans d gk g = some z) : MemOk z := by
  grind [State.endChans, memOk_updDie, memOk_passRoot]

theorem memOk_freeChans {s : State} (d gk : Nat) (g : Graph) (ok : MemOk s) : MemOk (s.freeChans d gk g) := by
  grind [State.freeChans, memOk_updDie, memOk_unbindEnd, memOk_foldl]

theorem memOk_refusalRecorded {s : State} (g : Graph) (ok : MemOk s) : MemOk (s.refusalRecorded g) := by
  grind [State.refusalRecorded, memOk_semGain]

theorem memOk_writeDone {s : State} (d gk : Nat) (g : Graph) (ok : MemOk s) : MemOk (s.writeDone d gk g) := by
  grind [State.writeDone, memOk_updDie, memOk_writeRec, memOk_refusalRecorded]

theorem memOk_execGraphComplete {s : State} (d g : Nat) {z : State} (ok : MemOk s) (e : execGraphComplete d g s = .next z) :
    MemOk z := by
  grind [execGraphComplete, memOk_updDie, memOk_endChans, memOk_freeChans, memOk_writeDone]

theorem memOk_retryRecords {s : State} (d : Nat) (ok : MemOk s) : MemOk (s.retryRecords d) := ok

theorem memOk_spawnHeader {s : State} (u : Nat) (j : Job) (ok : MemOk s) : MemOk (s.spawnHeader u j).1 := by
  grind [State.spawnHeader, memOk_element, memOk_countAccess]

theorem memOk_execSpawnAccepted {s : State} (u j : Nat) {z : State} (ok : MemOk s) (e : execSpawnAccepted u j s = .next z) :
    MemOk z := by
  refine memOk_onJob _ _ _ (fun j z h => ?_) ok e
  split at h
  · exact absurd h (by simp)
  refine memOk_bind (fun _ => memOk_ready _ _ _ ok) (fun y ok h => ?_) h
  have header := memOk_spawnHeader u j ok
  split at h
  · exact absurd h (by simp)
  · next k =>
    rw [k] at header
    refine memOk_map (fun _ => memOk_launchGraph _ _ _ _ _ _ header) (fun y ok => ?_) h
    dsimp only
    split
    · exact memOk_dropJob _ _ (memOk_updDie _ _ ok)
    · exact memOk_finishJob _ _ _ _ _ ok

theorem memOk_accept {s : State} (d mb : Nat) (bs : Bytes) (sealed : Bool) {z : State} (ok : MemOk s)
    (e : s.accept d mb bs sealed = some z) : MemOk z := by
  have queued : MemOk ({ s with agenda := s.agenda ++ [.auditNodeRequest d bs] } : State) := ok
  grind [State.accept, memOk_bindChans, BindRes.ok_done, memOk_addGraph, memOk_updDie]

theorem memOk_execSerifMailbox {s : State} (port : Nat) (p : Packet) {z : State} (ok : MemOk s)
    (e : execSerifMailbox port p s = .next z) : MemOk z := by
  grind [execSerifMailbox, memOk_receive, memOk_refuse, memOk_accept, memOk_getD]

theorem memOk_deliver {s : State} (i : Nat) (m : Msg) (r : Option State) (ok' : ∀ z, r = some z → MemOk z) (ok : MemOk s) :
    MemOk (s.deliver i m r) := by
  unfold State.deliver
  split
  · exact memOk_refused _ _ ok
  · next z =>
    have dropped : MemOk { z with msgs := z.msgs.eraseIdx i } := ok' z rfl
    dsimp only
    generalize ({ z with msgs := z.msgs.eraseIdx i } : State) = w at *
    split
    · split
      · exact memOk_finishJob _ _ _ _ _ dropped
      · exact dropped
    · exact dropped

theorem memOk_execMboxLocalDelivery {s : State} (i : Nat) {z : State} (ok : MemOk s) (e : execMboxLocalDelivery i s = .next z) :
    MemOk z := by
  unfold execMboxLocalDelivery at e
  split at e
  · exact Host.Outcome.next.inj e ▸ ok
  · split at e
    · exact Host.Outcome.next.inj e ▸ ok
    · cases e; exact memOk_deliver _ _ _ (fun z h => memOk_accept _ _ _ _ ok h) ok

theorem memOk_launchHandler {s : State} (u b : Nat) (ok : MemOk s) : MemOk (s.launchHandler u b) := by
  grind [State.launchHandler, memOk_updUnit, memOk_setCtx, memOk_trace, memOk_saveTo, memOk_swapIn, memOk_landAllVecs, memOk_startCtx]

theorem memOk_launchRace {s : State} (d n u : Nat) (ok : MemOk s) : MemOk (s.launchRace d n u) := by
  unfold State.launchRace
  split
  · split
    · extract_lets rec' cleared w
      have cleared_ok : MemOk cleared := ok
      have written : MemOk w.1 := memOk_writeVA _ _ _ cleared_ok
      clear_value w cleared
      split
      · split
        · exact memOk_startCtx _ _ _ _ _ written
        · exact memOk_toSecurity _ _ written
      · exact memOk_toSecurity _ _ cleared_ok
    · exact ok
  · exact ok

theorem memOk_execHandlerLaunch {s : State} (w : HandlerFor) {z : State} (ok : MemOk s) (e : execHandlerLaunch w s = .next z) :
    MemOk z := by
  unfold execHandlerLaunch at e
  grind [memOk_launchHandler, memOk_launchRace]

theorem memOk_endSwap {s : State} (u : Nat) (ok : MemOk s) : MemOk (s.endSwap u) := by
  grind [State.endSwap, memOk_updUnit, memOk_spillShadow]

theorem memOk_execContextSwapComplete {s : State} (u : Nat) {z : State} (ok : MemOk s) (e : execContextSwapComplete u s = .next z) :
    MemOk z := by
  grind [execContextSwapComplete, memOk_endSwap]

theorem memOk_migrate {s : State} (u k : Nat) (c : Ctx) (ok : MemOk s) : MemOk (s.migrate u k c) := by
  refine memOk_updDie _ _ (memOk_foldl _ _ (fun _ _ ok => memOk_updSlot _ _ ok) (memOk_foldl _ _ (fun t x ok => ?_) ok))
  exact Mem.wf_writeN _ _ _ (memOk_saveBytes _ _ _ _ ok)

theorem memOk_execStallSwap {s : State} (u b : Nat) {z : State} (ok : MemOk s) (e : execStallSwap u b s = .next z) : MemOk z := by
  grind [execStallSwap, memOk_updDie, memOk_setCtx, memOk_trace, memOk_swapIn, memOk_landAllVecs, memOk_migrate]

end Sys2Proof.Machine

end

section

/-! PROOFS. The canonical form of memory is kept: the system. -/

namespace Sys2Proof.Machine

theorem semCapopDerive_keepsMem (qp sd sa sb rights : Nat) : (semCapopDerive qp sd sa sb rights).KeepsMem := ⟨fun ok => ok, nofun,
    fun ok => by grind [semCapopDerive, memOk_updDie, memOk_updCur]⟩

theorem semCapopRevoke_keepsMem (qp sd sa sb : Nat) : (semCapopRevoke qp sd sa sb).KeepsMem := by
  refine ⟨fun ok => ok, fun f h {t} ok => ?_, fun ok => ok⟩
  cases h
  exact ok

theorem memOk_popStat {s : State} (d cap : Nat) (ok : MemOk s) : MemOk (s.popStat d cap).1 := by
  grind [State.popStat, memOk_updUnit, memOk_updDie]

theorem memOk_xinv {s : State} (d idx val : Nat) (ok : MemOk s) : MemOk (s.xinv d idx val) := by
  grind [State.xinv, memOk_updUnit, memOk_retryRecords, memOk_foldl]

theorem memOk_setQroot {s : State} (d q val : Nat) (ok : MemOk s) : MemOk (s.setQroot d q val) := ok

theorem memOk_releaseNode {s : State} (d n : Nat) (ok : MemOk s) : MemOk (s.releaseNode d n) := by
  grind [State.releaseNode, memOk_updDie]

theorem memOk_failNode {s : State} (d n : Nat) (ok : MemOk s) : MemOk (s.failNode d n) := by
  grind [State.failNode, memOk_failGraph]

theorem memOk_ufenceClear {s : State} (u : Nat) (ok : MemOk s) : MemOk (s.ufenceClear u) := by
  grind [State.ufenceClear, memOk_updUnit, memOk_killCtx, memOk_foldl]

theorem memOk_enableQueue {s : State} (d q : Nat) (ok : MemOk s) : MemOk (s.enableQueue d q) := by
  grind [State.enableQueue, memOk_updDie, memOk_updQueue]

theorem memOk_disableQueue {s : State} (d q : Nat) (ok : MemOk s) : MemOk (s.disableQueue d q) := by
  grind [State.disableQueue, memOk_updDie, memOk_updQueue]

theorem memOk_setQctl {s : State} (d q val : Nat) (ok : MemOk s) : MemOk (s.setQctl d q val) := by
  grind [State.setQctl, memOk_updQueue, memOk_enableQueue, memOk_disableQueue]

theorem memOk_setPool {s : State} (d idx val : Nat) (ok : MemOk s) : MemOk (s.setPool d idx val) := by
  grind [State.setPool, memOk_updPad]

theorem semCsrr_keepsMem (qp sd sa csr : Nat) : (semCsrr qp sd sa csr).KeepsMem := ⟨fun ok => ok, nofun, fun ok => by grind [semCsrr,
    memOk_updCur, memOk_popStat]⟩

theorem memOk_csrWrite {s : State} (d n idx val : Nat) (ok : MemOk s) : MemOk (s.csrWrite d n idx val) := by
  unfold State.csrWrite
  grind [memOk_updDie, memOk_updQueue, memOk_fenceUnit, memOk_xinv, memOk_setQroot, memOk_releaseNode, memOk_failNode,
      memOk_ufenceClear, memOk_setQctl, memOk_setPool]

theorem semCsrw_keepsMem (qp sa sb csr : Nat) : (semCsrw qp sa sb csr).KeepsMem := by
  refine ⟨fun ok => ok, fun f h {t} ok => ?_, fun {t} ok => ?_⟩
  · cases h
    grind [semCsrw, memOk_csrWrite]
  · grind [semCsrw, memOk_csrWrite]

theorem memOk_execXinv {s : State} (d idx val : Nat) {z : State} (ok : MemOk s) (e : execXinv d idx val s = .next z) : MemOk z := by
  grind [execXinv, memOk_xinv]

theorem memOk_execQrootWrite {s : State} (d q val : Nat) {z : State} (ok : MemOk s) (e : execQrootWrite d q val s = .next z) :
    MemOk z := by
  grind [execQrootWrite, memOk_setQroot]

theorem memOk_execNodectlRelease {s : State} (d n : Nat) {z : State} (ok : MemOk s) (e : execNodectlRelease d n s = .next z) :
    MemOk z := by
  grind [execNodectlRelease, memOk_releaseNode]

theorem memOk_execNodectlFail {s : State} (d n : Nat) {z : State} (ok : MemOk s) (e : execNodectlFail d n s = .next z) : MemOk z := by
  grind [execNodectlFail, memOk_failNode]

theorem memOk_execUfenceClear {s : State} (d u : Nat) {z : State} (ok : MemOk s) (e : execUfenceClear d u s = .next z) : MemOk z := by
  grind [execUfenceClear, memOk_ufenceClear]

theorem memOk_execUfenceSet {s : State} (d u : Nat) {z : State} (ok : MemOk s) (e : execUfenceSet d u s = .next z) : MemOk z := by
  grind [execUfenceSet, memOk_fenceUnit]

theorem memOk_execQctlEnable {s : State} (d q : Nat) {z : State} (ok : MemOk s) (e : execQctlEnable d q s = .next z) : MemOk z := by
  grind [execQctlEnable, memOk_enableQueue]

theorem memOk_execQctlDisable {s : State} (d q : Nat) {z : State} (ok : MemOk s) (e : execQctlDisable d q s = .next z) : MemOk z := by
  grind [execQctlDisable, memOk_disableQueue]

theorem memOk_execPoolcfgWrite {s : State} (d idx val : Nat) {z : State} (ok : MemOk s) (e : execPoolcfgWrite d idx val s = .next z) :
    MemOk z := by
  grind [execPoolcfgWrite, memOk_setPool]

theorem memOk_execStatrd {s : State} (d cap : Nat) {z : State} (ok : MemOk s) (e : execStatrd d cap s = .next z) : MemOk z := by
  grind [execStatrd, memOk_popStat]

theorem semJobres_keepsMem (qp sa : Nat) : (semJobres qp sa).KeepsMem := ⟨fun ok => ok, nofun, fun ok => by grind [semJobres,
    memOk_updJob]⟩

theorem memOk_iflush {s : State}  (ok : MemOk s) : MemOk s.iflush := ok

theorem semIflush_keepsMem (qp : Nat) : (semIflush qp).KeepsMem := by
  refine ⟨fun ok => ok, fun f h {t} ok => ?_, fun ok => ok⟩
  cases h
  exact memOk_iflush ok

theorem memOk_onTarget {s : State} (r : Except Trap (Nat × Ctx)) (f : Nat → Ctx → State) (keeps : ∀ u c, MemOk (f u c)) (ok : MemOk s) :
    MemOk (s.onTarget r f) := by
  unfold State.onTarget
  split
  · exact keeps _ _
  · exact ok

theorem semCtxctlStop_keepsMem (qp sd sa sb : Nat) : (semCtxctlStop qp sd sa sb).KeepsMem := by
  refine ⟨fun ok => ok, fun f h {t} ok => ?_, fun ok => ok⟩
  cases h
  refine memOk_onTarget _ _ (fun u c => ?_) ok
  split
  · exact ok
  split
  · exact memOk_updCid _ _ _ ok
  · exact memOk_updCid _ _ _ ok

theorem semCtxctlGo_keepsMem (qp sd sa sb : Nat) : (semCtxctlGo qp sd sa sb).KeepsMem :=
  ⟨fun ok => ok, nofun, fun ok => memOk_onTarget _ _ (fun _ _ => memOk_updCid _ _ _ ok) ok⟩

theorem semCtxctlKill_keepsMem (qp sd sa sb : Nat) : (semCtxctlKill qp sd sa sb).KeepsMem :=
  ⟨fun ok => ok, nofun, fun ok => memOk_updCur _ (memOk_onTarget _ _ (fun _ _ => memOk_killCtx _ _ ok) ok)⟩

theorem semCtxctlRead_keepsMem (qp sd sa sb off : Nat) : (semCtxctlRead qp sd sa sb off).KeepsMem :=
  ⟨fun ok => ok, nofun, fun ok => memOk_onTarget _ _ (fun _ _ => memOk_updCur _ ok) ok⟩

theorem semCtxctlWrite_keepsMem (qp sd sa sb off : Nat) : (semCtxctlWrite qp sd sa sb off).KeepsMem :=
  ⟨fun ok => ok, nofun, fun ok => memOk_onTarget _ _ (fun _ _ => memOk_updCid _ _ _ ok) ok⟩

theorem semCtxctlBrkSet_keepsMem (qp sd sa sb n : Nat) : (semCtxctlBrkSet qp sd sa sb n).KeepsMem :=
  ⟨fun ok => ok, nofun, fun ok => memOk_onTarget _ _ (fun _ _ => memOk_updQueue _ _ _ ok) ok⟩

theorem semCtxctlBrkClr_keepsMem (qp sd sa sb n : Nat) : (semCtxctlBrkClr qp sd sa sb n).KeepsMem :=
  ⟨fun ok => ok, nofun, fun ok => memOk_onTarget _ _ (fun _ _ => memOk_updQueue _ _ _ ok) ok⟩

theorem semCtxctlTestMode_keepsMem (qp sd sa sb : Nat) : (semCtxctlTestMode qp sd sa sb).KeepsMem := ⟨fun ok => ok, nofun,
    fun ok => by grind [semCtxctlTestMode, memOk_startCtx]⟩

end Sys2Proof.Machine

end

section

/-! PROOFS. The canonical form of memory is kept: the host queues. -/

namespace Sys2Proof.Machine

theorem memOk_pktRecord {s : State} (d q rec' head status result : Nat) (ok : MemOk s) :
    MemOk (s.pktRecord d q rec' head status result) := by
  grind [State.pktRecord, memOk_writeRec]

theorem memOk_readHead {s : State} (d q : Nat) (ok : MemOk s) : MemOk (s.readHead d q).1 := by
  grind [State.readHead, memOk_updQueue, memOk_countVA]

theorem memOk_readOn {s : State} (d q n : Nat) (ok : MemOk s) : MemOk (s.readOn d q n) := by
  induction n generalizing s d q with
  | zero => grind [State.readOn]
  | succ n ih => grind [State.readOn, memOk_updQueue, memOk_pktRecord, memOk_readHead]

theorem memOk_pktDone {s : State} (d q rec' status result : Nat) (ok : MemOk s) : MemOk (s.pktDone d q rec' status result) := by
  grind [State.pktDone, memOk_updQueue, memOk_pktRecord, memOk_readOn]

theorem memOk_ring {s : State} (d q tail : Nat) (ok : MemOk s) : MemOk (s.ring d q tail) := by
  unfold State.ring
  extract_lets r x
  clear_value x
  split
  · exact memOk_updQueue _ _ _ (memOk_updQueue _ _ _ ok)
  · exact memOk_readOn _ _ _ (memOk_updQueue _ _ _ ok)

end Sys2Proof.Machine

end

section

/-! PROOFS. The canonical form of memory is kept: the matrix array (continued). -/

namespace Sys2Proof.Machine

theorem semRingpush_keepsMem (qp ring hs : Nat) : (semRingpush qp ring hs).KeepsMem := ⟨fun ok => ok, nofun,
    fun ok => by grind [semRingpush, memOk_updSlot, memOk_updCur, memOk_ring]⟩

theorem semRingdrop_keepsMem (qp ring n : Nat) : (semRingdrop qp ring n).KeepsMem := ⟨fun ok => ok, nofun,
    fun ok => by grind [semRingdrop, memOk_pops, memOk_ring]⟩

end Sys2Proof.Machine

end

section

/-! PROOFS. The canonical form of memory is kept: the host queues (continued). -/

namespace Sys2Proof.Machine

theorem memOk_regWrite {s : State} (d q off val : Nat) (ok : MemOk s) : MemOk (s.regWrite d q off val) := by
  grind [State.regWrite, memOk_updQueue, memOk_ring]

theorem memOk_execDoorbell {s : State} (d q tail : Nat) {z : State} (ok : MemOk s) (e : execDoorbell d q tail s = .next z) :
    MemOk z := by
  grind [execDoorbell, memOk_regWrite]

theorem memOk_execRegisterWrite {s : State} (d q off val : Nat) {z : State} (ok : MemOk s)
    (e : execRegisterWrite d q off val s = .next z) : MemOk z := by
  grind [execRegisterWrite, memOk_regWrite]

theorem memOk_execLaunch {s : State} (d q : Nat) {z : State} (ok : MemOk s) (e : execLaunch d q s = .next z) : MemOk z := by
  unfold execLaunch at e
  grind [memOk_readVA, memOk_launchGraph, memOk_pktDone, memOk_getD, Option.map_eq_some_iff]

theorem memOk_execPatch {s : State} (d q : Nat) {z : State} (ok : MemOk s) (e : execPatch d q s = .next z) : MemOk z := by
  grind [execPatch, memOk_updDie, memOk_readVA, memOk_pktDone]

theorem memOk_execBarrier {s : State} (d q : Nat) {z : State} (ok : MemOk s) (e : execBarrier d q s = .next z) : MemOk z := by
  grind [execBarrier, memOk_pktDone]

theorem memOk_execSignal {s : State} (d q : Nat) {z : State} (ok : MemOk s) (e : execSignal d q s = .next z) : MemOk z := by
  grind [execSignal, memOk_updDie, memOk_pktDone]

theorem memOk_execHostSeal {s : State} (d q : Nat) {z : State} (ok : MemOk s) (e : execHostSeal d q s = .next z) : MemOk z := by
  grind [execHostSeal, memOk_updDie, memOk_updQueue, memOk_pktRecord, memOk_pktDone]

theorem memOk_execBind {s : State} (d q : Nat) {z : State} (ok : MemOk s) (e : execBind d q s = .next z) : MemOk z := by
  grind [execBind, memOk_updQueue, memOk_readVA, memOk_pktDone]

theorem memOk_execLoad {s : State} (d q : Nat) {z : State} (ok : MemOk s) (e : execLoad d q s = .next z) : MemOk z := by
  unfold execLoad at e
  split at e
  · cases e; exact ok
  next p _ =>
  have read := memOk_readVA (s.whoQ d q) p.addr1 p.arg64 ok
  split at e
  · next h => rw [h] at read; cases e; exact memOk_pktDone _ _ _ _ _ read
  next h =>
  rw [h] at read
  split at e
  · cases e; exact memOk_pktDone _ _ _ _ _ read
  dsimp only at e
  split at e
  · cases e; exact memOk_pktDone _ _ _ _ _ read
  · cases e; exact X_wf_foldl_writeN _ _ _ read

theorem memOk_execLoadComplete {s : State} (d q : Nat) {z : State} (ok : MemOk s) (e : execLoadComplete d q s = .next z) : MemOk z := by
  grind [execLoadComplete, memOk_updDie, memOk_updQueue, memOk_pktRecord, memOk_pktDone]

theorem memOk_execUnload {s : State} (d q : Nat) {z : State} (ok : MemOk s) (e : execUnload d q s = .next z) : MemOk z := by
  grind [execUnload, memOk_updDie, memOk_updQueue, memOk_pktRecord, memOk_pktDone]

theorem memOk_execSetchip {s : State} (d : Nat) {z : State} (ok : MemOk s) (e : execSetchip d s = .next z) : MemOk z := by
  unfold execSetchip at e
  split at e
  · exact Host.Outcome.next.inj e ▸ ok
  · cases e
    refine memOk_deliver _ _ _ (fun z h => ?_) ok
    split at h
    · cases h
    · exact Option.some.inj h ▸ ok

theorem memOk_execSetroute {s : State} (d : Nat) {z : State} (ok : MemOk s) (e : execSetroute d s = .next z) : MemOk z := by
  unfold execSetroute at e
  split at e
  · exact Host.Outcome.next.inj e ▸ ok
  · cases e
    refine memOk_flushWaiting _ (memOk_deliver _ _ _ (fun z h => ?_) ok)
    exact Option.some.inj h ▸ memOk_updDie _ _ (memOk_countVA _ _ ok)

theorem memOk_execRetrain {s : State} (d : Nat) {z : State} (ok : MemOk s) (e : execRetrain d s = .next z) : MemOk z := by
  grind [memOk_deliver, execRetrain, memOk_updPort]

end Sys2Proof.Machine

end

section

/-! PROOFS. The canonical form of memory is kept: the security core. -/

namespace Sys2Proof.Machine

theorem memOk_answer {s : State} (a : Spdm) (ok : MemOk s) : MemOk (s.answer a) := ok

theorem memOk_request {s : State} (f : State → State) {z : State} (keeps : ∀ t, MemOk t → MemOk (f t)) (ok : MemOk s)
    (e : s.request f = .next z) : MemOk z := by
  unfold State.request at e
  split at e <;> cases e
  · exact memOk_answer _ ok
  · exact keeps s ok

theorem memOk_execGetVersion {s : State}  {z : State} (ok : MemOk s) (e : execGetVersion s = .next z) : MemOk z := by
  grind [execGetVersion, memOk_answer]

theorem memOk_execGetCapabilities {s : State}  {z : State} (ok : MemOk s) (e : execGetCapabilities s = .next z) : MemOk z := by
  grind [execGetCapabilities, memOk_answer, memOk_request]

theorem memOk_execNegotiateAlgorithms {s : State}  {z : State} (ok : MemOk s) (e : execNegotiateAlgorithms s = .next z) : MemOk z := by
  grind [execNegotiateAlgorithms, memOk_answer, memOk_request]

theorem memOk_execGetDigests {s : State}  {z : State} (ok : MemOk s) (e : execGetDigests s = .next z) : MemOk z := by
  grind [execGetDigests, memOk_answer, memOk_request]

theorem memOk_execGetCertificate {s : State} (slot off len : Nat) {z : State} (ok : MemOk s)
    (e : execGetCertificate slot off len s = .next z) : MemOk z := by
  grind [execGetCertificate, memOk_answer, memOk_request]

theorem memOk_execChallenge {s : State} (slot : Nat) (nonce : Bytes) {z : State} (ok : MemOk s)
    (e : execChallenge slot nonce s = .next z) : MemOk z := by
  grind [execChallenge, memOk_answer, memOk_request]

theorem memOk_execGetMeasurements {s : State} (idx : Nat) (sign : Bool) (nonce : Bytes) {z : State} (ok : MemOk s)
    (e : execGetMeasurements idx sign nonce s = .next z) : MemOk z := by
  grind [execGetMeasurements, memOk_answer, memOk_request]

theorem memOk_execUnsupportedRequest {s : State} (code : Nat) {z : State} (ok : MemOk s)
    (e : execUnsupportedRequest code s = .next z) : MemOk z := by
  grind [execUnsupportedRequest, memOk_answer, memOk_request]

theorem memOk_importTo {s : State} (r : ImportReq) (ok : MemOk s) :
    (∀ z, s.importTo r = .ok z → MemOk z) ∧ ∀ n z, s.importTo r = .error (n, z) → MemOk z := by
  grind [State.importTo, memOk_writeGlobal, memOk_iff]

theorem memOk_importReq {s : State} (r : ImportReq) (ok : MemOk s) : MemOk (s.importReq r) := by
  obtain ⟨done, failed⟩ := memOk_importTo r ok
  unfold State.importReq
  split
  · next h => exact memOk_getD (fun _ => memOk_map (fun _ => memOk_logRecord _ (failed _ _ h)) fun _ ok => memOk_answer _ ok) ok
  · next h => exact memOk_getD (fun _ => memOk_map (fun _ => memOk_logRecord _ (done _ h)) fun _ ok => memOk_answer _ ok) ok

theorem memOk_releaseReq {s : State} (i : Nat) (ok : MemOk s) : MemOk (s.releaseReq i) := by
  unfold State.releaseReq
  split
  · exact memOk_answer _ ok
  split
  · exact ok
  dsimp only
  split
  · exact ok
  · next t h =>
    have logged : MemOk t := memOk_logRecord _ (memOk_writeGlobal _ _ ok) h
    exact memOk_answer _ logged

theorem memOk_execImportRegion {s : State} (r : ImportReq) {z : State} (ok : MemOk s) (e : execImportRegion r s = .next z) :
    MemOk z := by
  grind [execImportRegion, memOk_answer, memOk_request, memOk_importReq, memOk_releaseReq]

theorem memOk_execRelease {s : State} (i : Nat) {z : State} (ok : MemOk s) (e : execRelease i s = .next z) : MemOk z := by
  grind [execRelease, memOk_request, memOk_releaseReq]

theorem memOk_execSignLogHead {s : State}  {z : State} (ok : MemOk s) (e : execSignLogHead s = .next z) : MemOk z := by
  grind [execSignLogHead, memOk_signHead, memOk_answer, memOk_request, memOk_getD, Option.map_eq_some_iff]

theorem memOk_execMeterRefill {s : State}  {z : State} (ok : MemOk s) (e : execMeterRefill s = .next z) : MemOk z := by
  grind [execMeterRefill, memOk_drainLog, memOk_iff]

theorem memOk_debit {s : State} (b : Nat) {z : State} (ok : MemOk s) (e : s.debit b = some z) : MemOk z := by
  grind [State.debit, memOk_iff]

theorem memOk_cross {s : State} (u : Nat) (j : Job) (b : Nat) {z : State} (ok : MemOk s) (e : s.cross u j b = some z) : MemOk z := by
  grind [State.cross, memOk_putJob, memOk_sendChunk, memOk_handBack, memOk_debit, Option.map_eq_some_iff]

theorem memOk_execCrossingGrant {s : State} (u j : Nat) {z : State} (ok : MemOk s) (e : execCrossingGrant u j s = .next z) :
    MemOk z := by
  unfold execCrossingGrant at e
  extract_lets wants rs rs' _ asked at e
  have asked_ok : MemOk asked := ok
  have stopped (x : Job) (t : Trap) : MemOk (asked.stopJob u x t) := memOk_stopJob _ _ _ asked_ok
  have crossed (x : Job) (b : Nat) (t : State) (h : asked.cross u x b = some t) :
      MemOk { t with sec := { t.sec with reqs := t.sec.reqs.drop 1 } } :=
    show MemOk t from memOk_cross _ _ _ asked_ok h
  clear_value asked rs' wants
  grind

theorem memOk_startTest {s : State} (d : Nat) (ok : MemOk s) : MemOk (s.startTest d) := Mem.wf_writeN _ _ _ ok

theorem memOk_execPowerOn {s : State} (nonce : Bytes) {z : State} (ok : MemOk s) (e : execPowerOn nonce s = .next z) : MemOk z := by
  unfold execPowerOn at e
  extract_lets bootc n _ on r _ logged at e
  have on_ok : MemOk on := ok
  have logged_ok : MemOk logged := memOk_getD (fun _ => memOk_logRecord _ on_ok) on_ok
  clear_value logged
  split at e
  · cases e; exact ok
  · cases e
    split
    · exact memOk_foldl _ _ (fun _ d ok => memOk_startTest d ok) logged_ok
    · exact logged_ok

theorem memOk_execThermalGate {s : State} (d : Nat) {z : State} (ok : MemOk s) (e : execThermalGate d s = .next z) : MemOk z := by
  grind [execThermalGate, memOk_updDie]

theorem memOk_execThermalGateRelease {s : State} (d : Nat) {z : State} (ok : MemOk s) (e : execThermalGateRelease d s = .next z) :
    MemOk z := by
  grind [execThermalGateRelease, memOk_updDie]

theorem memOk_execThermalShutdown {s z : State} (ok : MemOk s) (e : execThermalShutdown s = .next z) : MemOk z := by
  cases e
  exact Mem.wf_filter _ _ ok

end Sys2Proof.Machine

end

section

/-! PROOFS. The canonical form of memory is kept: errors. -/

namespace Sys2Proof.Machine

theorem memOk_freezeStats {s : State} (u : Nat) (acc : Bool) (ok : MemOk s) : MemOk (s.freezeStats u acc) := by
  grind [State.freezeStats, memOk_stat, memOk_foldl]

theorem memOk_execSoftErrorCorrected {s : State} (u : Nat) (acc : Bool) {z : State} (ok : MemOk s)
    (e : execSoftErrorCorrected u acc s = .next z) : MemOk z := by
  grind [execSoftErrorCorrected, memOk_updUnit, memOk_freezeStats]

theorem memOk_execFreezeEnd {s : State} (u : Nat) {z : State} (ok : MemOk s) (e : execFreezeEnd u s = .next z) : MemOk z := by
  grind [execFreezeEnd, memOk_updUnit]

theorem memOk_execPadUncorrectable {s : State} (w : ErrAt) {z : State} (ok : MemOk s) (e : execPadUncorrectable w s = .next z) :
    MemOk z := by
  cases w <;> cases e <;> exact ok

theorem memOk_watch1 {s : State} (u b : Nat) (ok : MemOk s) : MemOk (s.watch1 u b) := by
  grind [State.watch1, memOk_setCtx]

theorem memOk_execWatchdogW1 {s : State} (u b : Nat) {z : State} (ok : MemOk s) (e : execWatchdogW1 u b s = .next z) : MemOk z := by
  grind [execWatchdogW1, memOk_watch1]

theorem memOk_watchKill {s : State} (u b : Nat) (ok : MemOk s) : MemOk (s.watchKill u b) := by
  grind [State.watchKill, memOk_setCtx, memOk_enterTrap, memOk_failGraph, memOk_releaseAbandoned]

theorem memOk_watch2 {s : State} (u b : Nat) (ok : MemOk s) : MemOk (s.watch2 u b) := by
  grind [State.watch2, memOk_setCtx, memOk_watchKill]

theorem memOk_execWatchdogW2 {s : State} (u b : Nat) {z : State} (ok : MemOk s) (e : execWatchdogW2 u b s = .next z) : MemOk z := by
  grind [execWatchdogW2, memOk_watch2]

theorem memOk_watch3 {s : State} (u cid : Nat) (ok : MemOk s) : MemOk (s.watch3 u cid) := by
  grind [State.watch3, memOk_fenceUnit]

theorem memOk_execWatchdogW3 {s : State} (u cid : Nat) {z : State} (ok : MemOk s) (e : execWatchdogW3 u cid s = .next z) : MemOk z := by
  grind [execWatchdogW3, memOk_watch3]

theorem memOk_jobFaultNow {s : State} (u : Nat) (j : Job) {z : State} (ok : MemOk s) (e : s.jobFaultNow u j = some z) : MemOk z := by
  have performed (h : (s.perform u j).stop u = some z) : MemOk z := memOk_stop u (memOk_perform u j ok) h
  have prepared {f : State → Option State} (h : (s.ready u j (s.jobKeys u j)).bind f = some z)
      (then' : ∀ y, MemOk y → f y = some z → MemOk z) : MemOk z := memOk_bind (fun _ => memOk_ready _ _ _ ok) then' h
  unfold State.jobFaultNow at e
  split at e
  case h_1 => grind [memOk_stopIn]
  case h_2 => grind [memOk_stopIn]
  case h_3 => grind [memOk_drainJob]
  case h_4 => exact prepared e fun y ok h => memOk_stop u (memOk_doLdg u j ok) h
  case h_5 => exact prepared e fun y ok h => memOk_stop u (memOk_runOvl u j ok) h
  case h_11 =>
    obtain ⟨t, -, rfl⟩ := Option.map_eq_some_iff.1 e
    exact memOk_stopJob _ _ _ ok
  case h_12 => exact prepared e fun y ok h => by grind [memOk_spawnHeader, memOk_stopJob]
  case h_13 =>
    split at e
    · cases e
    · exact prepared e fun y ok h => by grind [memOk_readImage, memOk_stopJob]
  case h_14 => cases e
  all_goals exact performed e

end Sys2Proof.Machine

end

section

/-! PROOFS. The canonical form of memory is kept: the issue of a bundle. -/

namespace Sys2Proof.Machine

theorem semOf_keepsMem {i : Instr} {o : SlotSem} (h : semOf i = some o) : o.KeepsMem := by
  cases i <;> simp only [semOf, Option.some.injEq, reduceCtorEq] at h <;> subst h
  case br | brExt | call | callExt | brs | calls => exact transfer_keepsMem ..
  case loop | loopi | loopiExt | loopr => exact loopStart_keepsMem ..
  case semwait => exact semwaitSem_keepsMem ..
  case waitc => exact waitcSem_keepsMem ..
  case ctrwait => exact ctrwaitSem_keepsMem ..
  case tfence => exact tfenceSem_keepsMem ..
  case fence => exact fenceSem_keepsMem ..
  case statpop => exact statpopSem_keepsMem ..
  case csrr => exact semCsrr_keepsMem ..
  case csrw => exact semCsrw_keepsMem ..
  case jobres => exact semJobres_keepsMem ..
  case iflush => exact semIflush_keepsMem ..
  case capopDerive => exact semCapopDerive_keepsMem ..
  case capopRevoke => exact semCapopRevoke_keepsMem ..
  case ctxctlStop => exact semCtxctlStop_keepsMem ..
  case ctxctlGo => exact semCtxctlGo_keepsMem ..
  case ctxctlKill => exact semCtxctlKill_keepsMem ..
  case ctxctlRead => exact semCtxctlRead_keepsMem ..
  case ctxctlWrite => exact semCtxctlWrite_keepsMem ..
  case ctxctlBrkSet => exact semCtxctlBrkSet_keepsMem ..
  case ctxctlBrkClr => exact semCtxctlBrkClr_keepsMem ..
  case ctxctlTestMode => exact semCtxctlTestMode_keepsMem ..
  case audmark => exact semAudmark_keepsMem ..
  case audsealSeal => exact semAudsealSeal_keepsMem ..
  case audroot => exact semAudroot_keepsMem ..
  case alloc | allocr => exact allocSem_keepsMem ..
  case alloct => exact semAlloct_keepsMem ..
  case copyin => exact semCopyin_keepsMem ..
  case gpush => exact semGpush_keepsMem ..
  case tmove => exact semTmove_keepsMem ..
  case ldt | ldtr | tread => exact padLoad_keepsMem ..
  case trel => exact semTrel_keepsMem ..
  case landh => exact semLandh_keepsMem ..
  case vadd | vsub | vmul | vfma | vmin | vmax | vand | vor | vxor | vshl | vshr | vcmp | vsel | vabs | vneg | vmov | vfill | vfillExt |
      vbrow | vbcol | vtrans | vsfu | vrsum | vrmax | vcsum | vcmax | vdot | vmacc | vcvt | vqnt | vdqnt | vscale | viota | vsums =>
    exact VOp.sem_keepsMem ..
  case mcall => exact semMcall_keepsMem ..
  case acczero => exact semAcczero_keepsMem ..
  case accrd => exact semAccrd_keepsMem ..
  case accwr => exact semAccwr_keepsMem ..
  case accmov => exact semAccmov_keepsMem ..
  case ringpush => exact semRingpush_keepsMem ..
  case ringdrop => exact semRingdrop_keepsMem ..
  case mprog => exact semMprog_keepsMem ..
  case copyout => exact semCopyout_keepsMem ..
  case stt | sttr => exact padStore_keepsMem ..
  case send | sendt | putr => exact sendSem_keepsMem ..
  case ctraddRemote => exact semCtraddRemote_keepsMem ..
  case mbox => exact semMbox_keepsMem ..
  case scatter => exact semScatter_keepsMem ..
  case prime => exact semPrime_keepsMem ..
  all_goals exact ⟨fun ok => ok, nofun, fun ok => ok⟩

theorem memOk_parkStopped {s : State} (u b : Nat) (ok : MemOk s) : MemOk (s.parkStopped u b) := by
  grind [State.parkStopped, memOk_setCtx, memOk_landAllVecs]

theorem memOk_fetchBundle {s : State} (ok : MemOk s) : MemOk s.fetchBundle := by
  have trap (t : Trap) : MemOk (s.enterTrap s.curU s.curB t s.cur.pc) := memOk_enterTrap _ _ _ _ ok
  unfold State.fetchBundle
  extract_lets
  split
  · exact trap _
  split
  · exact trap _
  split
  · exact ok
  · exact trap _
  split
  · exact trap _
  · refine memOk_noteStall (memOk_runBundle _ (fun o m => ?_) ?_)
    · obtain ⟨i, -, h⟩ := List.mem_filterMap.1 m
      exact semOf_keepsMem h
    · split
      · exact ok
      · exact memOk_updCur _ ok

theorem memOk_present {s : State} (u b : Nat) (ok : MemOk s) : MemOk (s.present u b) := by
  grind [memOk_fetchBundle, State.present, memOk_updCur, memOk_begin, memOk_fenceStep, memOk_watchKill, memOk_parkStopped, memOk_iff]

theorem memOk_setWaited {s : State} (u b n : Nat) (ok : MemOk s) : MemOk (s.setWaited u b n) := by
  grind [State.setWaited, memOk_setCtx]

theorem memOk_starved {s : State} (u p q : Nat) (ok : MemOk s) : MemOk (s.starved u p q) := by
  grind [State.starved, memOk_present, memOk_setWaited]

theorem memOk_merge {s : State} (u : Nat) (ok : MemOk s) : MemOk (s.merge u) := by
  grind [State.merge, memOk_updUnit, memOk_present, memOk_setWaited, memOk_starved]

theorem memOk_tickSwap {s : State} (u : Nat) (ok : MemOk s) : MemOk (s.tickSwap u) := by
  grind [State.tickSwap, memOk_updUnit, memOk_endSwap]

theorem memOk_tickDie {s : State} (u : Nat) (ok : MemOk s) : MemOk (s.tickDie u) := by
  grind [State.tickDie, memOk_noteReady, memOk_graphTick]

theorem memOk_endSteps {s : State} (u : Nat) (ok : MemOk s) : MemOk (s.endSteps u) := by
  grind [State.endSteps, memOk_endStep, memOk_foldl]

theorem memOk_cycleUnit {s : State} (u : Nat) (ok : MemOk s) : MemOk (s.cycleUnit u) := by
  grind [State.cycleUnit, memOk_updUnit, memOk_settleLeaves, memOk_drainGather, memOk_leaveWaiting, memOk_landHeld, memOk_merge,
      memOk_tickSwap, memOk_tickDie, memOk_endSteps]

theorem memOk_execBundleIssue {s : State} (u : Nat) {z : State} (ok : MemOk s) (e : execBundleIssue u s = .next z) : MemOk z := by
  grind [execBundleIssue, memOk_cycleUnit]

theorem memOk_execEmptyBundle {s : State}  {z : State} (ok : MemOk s) (e : execEmptyBundle s = .next z) : MemOk z := by
  grind [memOk_runBundle, execEmptyBundle]

theorem memOk_execMergeStarvation {s : State} (u : Nat) {z : State} (ok : MemOk s) (e : execMergeStarvation u s = .next z) :
    MemOk z := by
  grind [execMergeStarvation, memOk_starved]

theorem memOk_execFixedLatencyResultLands {s : State} (u b i : Nat) {z : State} (ok : MemOk s)
    (e : execFixedLatencyResultLands u b i s = .next z) : MemOk z := by
  grind [execFixedLatencyResultLands, memOk_setCtx]

end Sys2Proof.Machine

end

section

/-! PROOFS. The canonical form of memory is kept: the referee. -/

namespace Sys2Proof.Machine

theorem memOk_readEntry {s : State} (u : Nat) (j : Job) (off : Nat) (ok : MemOk s) : MemOk (s.readEntry u j off).1 := by
  grind [State.readEntry, memOk_jobRead]

theorem memOk_runReferee {s : State} (u : Nat) (j : Job) (ok : MemOk s) : (s.runReferee u j).Ok := by
  unfold State.runReferee
  have read := memOk_jobRead u j 9 j.a 64 ok
  generalize s.jobRead u j 9 j.a 64 = r at *
  obtain ⟨s, j, t | b⟩ := r
  · exact read
  have entry := memOk_readEntry u j (leAt b 0 8) read
  dsimp only
  generalize s.readEntry u j (leAt b 0 8) = r at *
  obtain ⟨s, j, t | e⟩ := r
  · exact entry
  dsimp only
  generalize s.judge u e = r
  obtain ⟨v, _ | r⟩ := r
  · exact entry
  have written := memOk_jobWrite u j 9 (leAt b 8 8) r entry
  dsimp only
  generalize s.jobWrite u j 9 (leAt b 8 8) r = w at *
  obtain ⟨s, j, _ | t⟩ := w
  · exact written
  · exact written

end Sys2Proof.Machine

end

section

/-! PROOFS. The canonical form of memory is kept: replay. -/

namespace Sys2Proof.Machine

theorem memOk_readLands {s : State} (u : Nat) (j : Job) (o : Obj) (n m : Nat) (ok : MemOk s) : MemOk (s.readLands u j o n m).1 := by
  induction m generalizing s j n with
  | zero => exact ok
  | succ k ih =>
    rw [State.readLands]
    have read := memOk_jobRead u j 5 n 32 ok
    generalize s.jobRead u j 5 n 32 = r at *
    obtain ⟨s, j, t | b⟩ := r
    · exact read
    dsimp only
    split
    · exact ih _ _ read
    next r _ =>
    have bytes := memOk_jobRead u j (tileLenOf r.rows r.cols r.fmt / 8 + 1) (leAt b 8 8) (tileLenOf r.rows r.cols r.fmt) read
    generalize s.jobRead u j (tileLenOf r.rows r.cols r.fmt / 8 + 1) (leAt b 8 8) (tileLenOf r.rows r.cols r.fmt) = w at *
    obtain ⟨s, j, t | bs⟩ := w
    · exact bytes
    dsimp only
    generalize chunksOf (tileLenOf r.rows r.cols r.fmt) = c
    have counts := memOk_jobRead u j (c / 8 + 1) (leAt b 16 8) c bytes
    generalize s.jobRead u j (c / 8 + 1) (leAt b 16 8) c = w at *
    obtain ⟨s, j, t | vs⟩ := w
    · exact counts
    · exact ih _ _ counts

theorem memOk_capture {s : State} (u : Nat) (j : Job) (n : List Bytes) (m : Nat) (ok : MemOk s) : MemOk (s.capture u j n m).1 := by
  induction n generalizing s u j m with
  | nil => grind [State.capture]
  | cons a n ih => grind [State.capture, memOk_jobWrite]

theorem memOk_freeShadow {s : State} (u : Nat) {z : State} (ok : MemOk s) (e : s.freeShadow u = some z) : MemOk z := by
  grind [State.freeShadow, memOk_updUnit, memOk_saveTo, memOk_landAllVecs]

theorem memOk_endReplay {s : State} (u : Nat) (j : Job) (b : Bytes) (node : Nat × Nat × Bytes) (bank : Nat) (p : Play) (ok : MemOk s) :
    (s.endReplay u j b node bank p).Ok := by
  unfold State.endReplay
  extract_lets c rec' root lo cnt off isSealed es n
  clear_value es isSealed
  split
  · exact ok
  have captured := memOk_capture u { j with cap := some es.flatten.length } es off ok
  generalize s.capture u { j with cap := some es.flatten.length } es off = r at *
  obtain ⟨s, j, _ | t⟩ := r
  · exact captured
  · exact captured

theorem memOk_runReplay {s : State} (u : Nat) (j : Job) (ok : MemOk s) : (s.runReplay u j).Ok := by
  unfold State.runReplay
  have read := memOk_jobRead u j 9 j.a 64 ok
  generalize s.jobRead u j 9 j.a 64 = r at *
  obtain ⟨s, j, t | b⟩ := r
  · exact read
  dsimp only
  split
  · exact read
  split
  · exact read
  split
  · exact read
  split
  · exact read
  split
  · exact read
  next h o _ _ _ _ =>
  generalize (if leAt b 48 8 = 0 then 0 else leAt b 56 4) = n
  have lands := memOk_readLands u j o (leAt b 48 8) n read
  generalize s.readLands u j o (leAt b 48 8) n = r at *
  obtain ⟨s, j, t | ls⟩ := r
  · exact lands
  dsimp only
  split
  · trivial
  next freed =>
  have freed_ok := memOk_freeShadow u lands freed
  split
  · trivial
  next started =>
  split
  · exact freed_ok
  split
  · trivial
  · exact memOk_endReplay _ _ _ _ _ _ (memOk_updDie _ _ (memOk_updUnit _ _ freed_ok))

theorem memOk_runAudit {s : State} (u : Nat) (j : Job) (ans : List NodeAnswer) (ok : MemOk s) : (s.runAudit u j ans).Ok := by
  grind [State.runAudit, memOk_runBisect, memOk_runReferee, memOk_runReplay]

theorem memOk_measure {s : State} (u : Nat) (j : Job) (ans : List NodeAnswer) {z : State} (ok : MemOk s)
    (e : s.measure u j ans = some z) : MemOk z := by
  grind [State.measure, memOk_putJob]

theorem memOk_execAuditJobComplete {s : State} (u j : Nat) (ans : List NodeAnswer) {z : State} (ok : MemOk s)
    (e : execAuditJobComplete u j ans s = .next z) : MemOk z := by
  refine memOk_onJob _ _ _ (fun j z h => ?_) ok e
  split at h
  · cases h
  split at h
  · exact memOk_bind (fun _ => memOk_ready _ _ _ ok) (fun _ ok => memOk_measure _ _ _ ok) h
  refine memOk_bind (fun _ => memOk_ready _ _ _ ok) (fun r ok h => ?_) h
  have ran := memOk_runAudit u j ans ok
  dsimp only at h
  generalize r.runAudit u j ans = p at *
  cases p with
  | wait => cases h
  | fault s k t => exact Option.some.inj h ▸ memOk_stopJob _ _ _ ran
  | done s k =>
    dsimp only at h
    split at h
    · exact memOk_measure _ _ _ ok h
    · refine Option.some.inj h ▸ memOk_finishJob _ _ _ _ _ ?_
      split
      · exact memOk_updCid _ _ _ ran
      · exact ran

theorem memOk_execJobFault {s : State} (u j : Nat) {z : State} (ok : MemOk s) (e : execJobFault u j s = .next z) : MemOk z := by
  refine memOk_onJob _ _ _ (fun j z h => ?_) ok e
  split at h
  · exact memOk_bind (fun _ => memOk_ready _ _ _ ok) (fun _ ok => memOk_stop _ (memOk_runAudit _ _ _ ok)) h
  · exact memOk_jobFaultNow _ _ ok h

end Sys2Proof.Machine

end

section

/-! PROOFS. The canonical form of memory is kept: the operations and events together. -/

namespace Sys2Proof.Machine

theorem memOk_exec {s : State} (i : Instr) {z : State} (ok : MemOk s) (e : exec i s = .next z) : MemOk z := by
  cases h : semOf i with
  | some o =>
    have keeps := semOf_keepsMem h
    rcases Laws.exec_semOf h s with e' | e'
    · exact memOk_issue1 keeps ok (e'.symm.trans e)
    · exact memOk_issuePriv keeps ok (e'.symm.trans e)
  | none =>
    cases i
    case bundleIssue => exact memOk_execBundleIssue _ ok e
    case emptyBundle => exact memOk_execEmptyBundle ok e
    case handlerLaunch => exact memOk_execHandlerLaunch _ ok e
    case contextSwapComplete => exact memOk_execContextSwapComplete _ ok e
    case stallSwap => exact memOk_execStallSwap _ _ ok e
    case mergeStarvation => exact memOk_execMergeStarvation _ ok e
    case chunkArrives => exact memOk_execChunkArrives _ _ _ ok e
    case tileJobComplete => exact memOk_execTileJobComplete _ _ ok e
    case outJobComplete => exact memOk_execOutJobComplete _ _ ok e
    case ldgComplete => exact memOk_execLdgComplete _ _ ok e
    case jobFault => exact memOk_execJobFault _ _ ok e
    case ovlComplete => exact memOk_execOvlComplete _ _ ok e
    case vectorResultLands => exact memOk_execVectorResultLands _ _ ok e
    case accrdComplete => exact memOk_execAccrdComplete _ _ ok e
    case routineStart => exact memOk_execRoutineStart _ _ ok e
    case routineBlockComplete => exact memOk_execRoutineBlockComplete _ _ ok e
    case routineRetire => exact memOk_execRoutineRetire _ _ ok e
    case routineFault => exact memOk_execRoutineFault _ _ ok e
    case mprogComplete => exact memOk_execMprogComplete _ _ ok e
    case spawnAccepted => exact memOk_execSpawnAccepted _ _ ok e
    case sendFire => exact memOk_execSendFire _ _ ok e
    case sendtFire => exact memOk_execSendtFire _ _ ok e
    case sendComplete => exact memOk_execSendComplete _ _ ok e
    case primeComplete => exact memOk_execPrimeComplete _ _ ok e
    case serifData => exact memOk_execSerifData _ _ ok e
    case landingComplete => exact memOk_execLandingComplete _ _ ok e
    case blotDeadline => exact memOk_execBlotDeadline _ _ ok e
    case serifAck => exact memOk_execSerifAck _ _ ok e
    case serifNack => exact memOk_execSerifNack _ _ ok e
    case slotReady => exact memOk_execSlotReady _ _ ok e
    case counterAdd => exact memOk_execCounterAdd _ _ ok e
    case serifMailbox => exact memOk_execSerifMailbox _ _ ok e
    case refusal => exact memOk_execRefusal _ _ ok e
    case bindNotice => exact memOk_execBindNotice _ _ ok e
    case retransmitTimeout => exact memOk_execRetransmitTimeout _ _ ok e
    case lossOfSignalDead => exact memOk_execLossOfSignalDead _ _ ok e
    case auditNodeRequest => exact memOk_execAuditNodeRequest _ _ ok e
    case auditJobComplete => exact memOk_execAuditJobComplete _ _ _ ok e
    case rootLogWrite => exact memOk_execRootLogWrite _ ok e
    case nodeEntersWindow => exact memOk_execNodeEntersWindow _ _ ok e
    case nodeDispatch => exact memOk_execNodeDispatch _ _ ok e
    case taskStart => exact memOk_execTaskStart _ ok e
    case steal => exact memOk_execSteal _ ok e
    case queueStarvation => exact memOk_execQueueStarvation _ _ _ ok e
    case taskComplete => exact memOk_execTaskComplete _ _ ok e
    case graphComplete => exact memOk_execGraphComplete _ _ ok e
    case watchdogW1 => exact memOk_execWatchdogW1 _ _ ok e
    case watchdogW2 => exact memOk_execWatchdogW2 _ _ ok e
    case watchdogW3 => exact memOk_execWatchdogW3 _ _ ok e
    case softErrorCorrected => exact memOk_execSoftErrorCorrected _ _ ok e
    case freezeEnd => exact memOk_execFreezeEnd _ ok e
    case padUncorrectable => exact memOk_execPadUncorrectable _ ok e
    case bankUncorrectable => exact memOk_execBankUncorrectable _ _ ok e
    case doorbell => exact memOk_execDoorbell _ _ _ ok e
    case registerWrite => exact memOk_execRegisterWrite _ _ _ _ ok e
    case launch => exact memOk_execLaunch _ _ ok e
    case patch => exact memOk_execPatch _ _ ok e
    case load => exact memOk_execLoad _ _ ok e
    case loadComplete => exact memOk_execLoadComplete _ _ ok e
    case unload => exact memOk_execUnload _ _ ok e
    case barrier => exact memOk_execBarrier _ _ ok e
    case signal => exact memOk_execSignal _ _ ok e
    case hostSeal => exact memOk_execHostSeal _ _ ok e
    case bind => exact memOk_execBind _ _ ok e
    case setchip => exact memOk_execSetchip _ ok e
    case setroute => exact memOk_execSetroute _ ok e
    case retrain => exact memOk_execRetrain _ ok e
    case xinv => exact memOk_execXinv _ _ _ ok e
    case qrootWrite => exact memOk_execQrootWrite _ _ _ ok e
    case nodectlRelease => exact memOk_execNodectlRelease _ _ ok e
    case nodectlFail => exact memOk_execNodectlFail _ _ ok e
    case ufenceClear => exact memOk_execUfenceClear _ _ ok e
    case ufenceSet => exact memOk_execUfenceSet _ _ ok e
    case qctlEnable => exact memOk_execQctlEnable _ _ ok e
    case qctlDisable => exact memOk_execQctlDisable _ _ ok e
    case poolcfgWrite => exact memOk_execPoolcfgWrite _ _ _ ok e
    case statrd => exact memOk_execStatrd _ _ ok e
    case getVersion => exact memOk_execGetVersion ok e
    case getCapabilities => exact memOk_execGetCapabilities ok e
    case negotiateAlgorithms => exact memOk_execNegotiateAlgorithms ok e
    case getDigests => exact memOk_execGetDigests ok e
    case getCertificate => exact memOk_execGetCertificate _ _ _ ok e
    case challenge => exact memOk_execChallenge _ _ ok e
    case getMeasurements => exact memOk_execGetMeasurements _ _ _ ok e
    case unsupportedRequest => exact memOk_execUnsupportedRequest _ ok e
    case importRegion => exact memOk_execImportRegion _ ok e
    case release => exact memOk_execRelease _ ok e
    case signLogHead => exact memOk_execSignLogHead ok e
    case meterRefill => exact memOk_execMeterRefill ok e
    case crossingGrant => exact memOk_execCrossingGrant _ _ ok e
    case powerOn => exact memOk_execPowerOn _ ok e
    case thermalGate => exact memOk_execThermalGate _ ok e
    case thermalShutdown => exact memOk_execThermalShutdown ok e
    case fixedLatencyResultLands => exact memOk_execFixedLatencyResultLands _ _ _ ok e
    case slotStorageReturns => exact memOk_execSlotStorageReturns _ _ ok e
    case mboxLocalDelivery => exact memOk_execMboxLocalDelivery _ ok e
    case auditConfigTakesEffect => exact memOk_execAuditConfigTakesEffect _ _ ok e
    case fecFailure => exact memOk_execFecFailure _ _ ok e
    case lossOfSignalChanges => exact memOk_execLossOfSignalChanges _ _ _ ok e
    case linkTrainingComplete => exact memOk_execLinkTrainingComplete _ ok e
    case thermalGateRelease => exact memOk_execThermalGateRelease _ ok e
    all_goals cases h

end Sys2Proof.Machine

end

section

/-! PROOFS. The canonical form of memory is kept: the moves of a schedule. -/

namespace Sys2Proof.Machine

theorem Job.moves_keepMem (u : Nat) (j : Job) : ∀ f ∈ j.moves u, f.KeepsMem := by
  unfold Job.moves
  extract_lets own
  have own_keeps : ∀ f ∈ own, f.KeepsMem := by
    unfold own
    cases j.kind
    case copyIn | gather | tmove =>
      exact Move.keepsMem_cons (memOk_execChunkArrives _ _ _) (Move.keepsMem_one (memOk_execTileJobComplete _ _))
    case ldg => exact Move.keepsMem_one (memOk_execLdgComplete _ _)
    case ovl => exact Move.keepsMem_one (memOk_execOvlComplete _ _)
    case copyOut | copyAcc | scatter | stg | atomic =>
      exact Move.keepsMem_cons (memOk_execCrossingGrant _ _) (Move.keepsMem_one (memOk_execOutJobComplete _ _))
    case vec => exact Move.keepsMem_one (memOk_execVectorResultLands _ _)
    case accrd => exact Move.keepsMem_one (memOk_execAccrdComplete _ _)
    case routine =>
      exact Move.keepsMem_cons (memOk_execRoutineStart _ _) <| Move.keepsMem_cons (memOk_execRoutineBlockComplete _ _) <|
        Move.keepsMem_cons (memOk_execRoutineFault _ _) (Move.keepsMem_one (memOk_execRoutineRetire _ _))
    case send =>
      exact Move.keepsMem_cons (memOk_execSendFire _ _) <| Move.keepsMem_cons (memOk_execSendtFire _ _) <|
        Move.keepsMem_cons (memOk_execCrossingGrant _ _) (Move.keepsMem_one (memOk_execSendComplete _ _))
    case prime => exact Move.keepsMem_one (memOk_execPrimeComplete _ _)
    case mprog => exact Move.keepsMem_one (memOk_execMprogComplete _ _)
    case spawn => exact Move.keepsMem_one (memOk_execSpawnAccepted _ _)
    case audConfig => exact Move.keepsMem_one (memOk_execAuditConfigTakesEffect _ _)
    case audit => exact Move.keepsMem_one (memOk_execAuditJobComplete _ _ _)
    case mbox | ctradd => exact List.forall_mem_nil _
  split
  · exact List.forall_mem_nil _
  · exact List.forall_mem_append.2 ⟨own_keeps, Move.keepsMem_one (memOk_execJobFault _ _)⟩

theorem State.unitMoves_keepMem (s : State) (u : Nat) : ∀ f ∈ s.unitMoves u, f.KeepsMem := by
  unfold State.unitMoves
  simp only [List.forall_mem_append, List.forall_mem_flatMap, List.forall_mem_map]
  refine ⟨⟨⟨⟨fun ch _ => ?_, fun b _ => ?_⟩, fun e _ => memOk_execWatchdogW3 _ _⟩, ?_⟩, fun j _ => Job.moves_keepMem u j⟩
  · exact Move.keepsMem_cons (memOk_execLandingComplete _ _) (Move.keepsMem_one (memOk_execBlotDeadline _ _))
  · exact Move.keepsMem_cons (memOk_execHandlerLaunch _) <| Move.keepsMem_cons (memOk_execWatchdogW1 _ _) <|
      Move.keepsMem_cons (memOk_execWatchdogW2 _ _) (Move.keepsMem_one (memOk_execStallSwap _ _))
  · exact Move.keepsMem_cons (memOk_execContextSwapComplete _) <| Move.keepsMem_cons (memOk_execTaskStart _)
      (Move.keepsMem_one (memOk_execSteal _))

theorem State.dieMoves_keepMem (s : State) (d : Nat) : ∀ f ∈ s.dieMoves d, f.KeepsMem := by
  unfold State.dieMoves
  simp only [List.forall_mem_append, List.forall_mem_flatMap, List.forall_mem_map]
  refine ⟨⟨⟨?_, fun q _ => ?_⟩, fun n _ => ?_⟩, fun g _ => memOk_execGraphComplete _ _⟩
  · exact Move.keepsMem_cons (memOk_execRootLogWrite _) <| Move.keepsMem_cons (memOk_execSetchip _) <|
      Move.keepsMem_cons (memOk_execSetroute _) (Move.keepsMem_one (memOk_execRetrain _))
  · exact Move.keepsMem_cons (memOk_execLaunch _ _) <| Move.keepsMem_cons (memOk_execPatch _ _) <|
      Move.keepsMem_cons (memOk_execLoad _ _) <| Move.keepsMem_cons (memOk_execLoadComplete _ _) <|
      Move.keepsMem_cons (memOk_execUnload _ _) <| Move.keepsMem_cons (memOk_execBarrier _ _) <|
      Move.keepsMem_cons (memOk_execSignal _ _) <| Move.keepsMem_cons (memOk_execHostSeal _ _) <|
      Move.keepsMem_cons (memOk_execBind _ _) <| Move.keepsMem_cons (memOk_execNodeEntersWindow _ _)
        (Move.keepsMem_one (memOk_execQueueStarvation _ _ _))
  · cases n.2.state with
    | waiting => exact Move.keepsMem_one (memOk_execNodeDispatch _ _)
    | held => exact Move.keepsMem_one (memOk_execHandlerLaunch _)
    | ended _ => exact Move.keepsMem_one (memOk_execTaskComplete _ _)
    | queued _ | running _ _ => exact List.forall_mem_nil _

theorem State.moves_keepMem (s : State) : ∀ f ∈ s.moves, f.KeepsMem := by
  unfold State.moves
  simp only [List.forall_mem_append, List.forall_mem_flatMap, List.forall_mem_map]
  refine ⟨⟨⟨⟨⟨fun d _ => s.dieMoves_keepMem d.1, fun u _ => s.unitMoves_keepMem u.1⟩,
    fun p _ e _ => memOk_execSlotStorageReturns _ _⟩, fun i _ => memOk_execMboxLocalDelivery _⟩, fun p _ => ?_⟩,
    Move.keepsMem_one memOk_execMeterRefill⟩
  exact Move.keepsMem_cons (memOk_execRetransmitTimeout _ _) (Move.keepsMem_one (memOk_execLossOfSignalDead _ _))

theorem memOk_State_advance {s z : State} (ok : MemOk s) (e : s.advance = .next z) : MemOk z := by
  unfold State.advance at e
  extract_lets t n at e
  have ok' : MemOk t := ok
  split at e
  · exact memOk_execBundleIssue _ ok' e
  · split at e
    next f hf => exact s.moves_keepMem f (List.mem_of_getElem? hf) ok' e
    next => exact Host.Outcome.next.inj e ▸ ok'

end Sys2Proof.Machine

end

section

/-! PROOFS. The canonical form of memory is kept: one step. -/

namespace Sys2Proof.Machine

theorem memOk_step {s z : State} (ok : MemOk s) (e : step s = .next z) : MemOk z := by
  unfold step at e
  split at e
  next n r _ _ => exact memOk_exec (s := { s with agenda := r }) _ ok e
  next => cases e
  next i r _ _ _ => exact memOk_exec (s := { s with agenda := r }) _ ok e
  next => exact memOk_execPowerOn _ ok e
  next => exact memOk_State_advance ok e

/-- Settles O59: each function of the model that makes a state keeps the form, from the accessors up to `exec` and `step`; the writes and
filters of `Mem` do (`Mem.wf_writeN`, `Mem.wf_filter`), and every function is made of them and of those before it. -/
theorem stepsKeepMemoryCanonical : Obligations.StepsKeepMemoryCanonical :=
  ⟨fun i s t ok e => memOk_exec i ok e, fun s t ok e => memOk_step ok e⟩

end Sys2Proof.Machine

end

section

/-! PROOFS. VectorTiles (O14) fails: VSUMS of a type code past those of its field of three bits. -/

namespace Sys2Proof.SumOfNoType

open Machine Tests

/-- A context whose tile of handle register 1 holds -1.0 as its one element. -/
def minusOne : State := { s1 with mem := s1.mem.writeN (s1.slotKey ⟨0, 0⟩) (leBytes 4 0xBF800000) }

/-- VSUMS of the type code 8, which the model reads as FP32, as it does code 0. -/
def sum : SlotSem := semVsums 0 9 1 0 8 0

/-- The two readings agree on the eight codes that the field holds. -/
theorem isFlt_tyCode {ty : Nat} (code : ty < 8) : isFlt (tyCode ty) = decide (ty < 3) := by
  revert ty
  decide

/-- The machine as the sum finds it. -/
def found : State := observeAll sum.i (sum.sees (hooked minusOne sum)) (hooked minusOne sum)

theorem issuable_minusOne : Issuable minusOne sum := by decide +kernel

theorem found_tile : found.tile? found.curU found.cur (found.cur.rh 1) = some ⟨0, 0⟩ := by decide +kernel

/-- The model puts the bits of the float sum -1.0 in flight. -/
theorem val_effect : (effect minusOne sum).cur.fly.getLast?.map (·.val) = some 0xBF800000 := by decide +kernel

/-- The statement takes the same bits, of a type past the float types, for a negative integer, and extends its sign. -/
theorem val_stated : (BitVec.ofInt 64 (intOf 32 true (vSum (tyCode 8) (elems (widthOf (tyCode 8)) (found.cur.vshRC.1 * found.cur.vshRC.2)
    (found.mem.readN (found.slotKey ⟨0, 0⟩) ((found.cur.vshRC.1 * found.cur.vshRC.2 * widthOf (tyCode 8) + 7) / 8)))).1)).toNat =
    0xFFFFFFFFBF800000 := by decide +kernel

end Sys2Proof.SumOfNoType

namespace Sys2Proof

open Machine SumOfNoType

/-- Refutes O14: its clause of VSUMS quantifies over every number `ty` and takes every `ty` from 3 on for an integer type, but the model reads
a code past the eight of the field (R74) as FP32. With `ty = 8`, which no encoding holds, the sum -1.0 goes into its register as the bits of
the float, and the statement has their sign extended. On the codes of the field the two agree (`isFlt_tyCode`). -/
theorem not_vectorTiles : ¬ Obligations.VectorTiles := by
  rintro ⟨-, sums, -⟩
  obtain ⟨-, flying, -⟩ := sums 0 9 1 0 8 0 minusOne ⟨0, 0⟩ issuable_minusOne found_tile
  have vals := congrArg (fun l : List Fly => l.getLast?.map (·.val)) flying
  simp only [List.getLast?_append, List.getLast?_singleton, Option.some_or, Option.map_some, if_neg (by decide : ¬8 < 3)] at vals
  exact absurd ((val_effect.symm.trans vals).trans (congrArg some val_stated)) (by decide)

end Sys2Proof

end

section

/-! PROOFS. Bytes of a memory in canonical form, read one by one and as a run. -/

namespace Sys2Proof.Machine

theorem Mem.lt_of_wfFrom (m : Mem) : ∀ a, Mem.wfFrom a m = true → ∀ c ∈ m, a ≤ c.1 := by
  induction m with
  | nil => exact fun _ _ => nofun
  | cons c m ih =>
    intro a w x here
    simp only [Mem.wfFrom, Bool.and_eq_true, decide_eq_true_eq] at w
    rcases List.mem_cons.1 here with rfl | here
    · exact w.1.1
    · have := ih _ w.2 x here
      omega

/-- The bytes that a run reads of entries that rise from its first address. -/
theorem Mem.getD_readGo (n : Nat) : ∀ (m : Mem) (a k : Nat), Mem.wfFrom a m = true → k < n → (Mem.readGo m a n).getD k 0 = m.read (a + k) := by
  induction n with
  | zero => intro m a k _ small; omega
  | succ n ih =>
    intro m a k w small
    cases m with
    | nil => cases k with
      | zero => rfl
      | succ k => exact ih [] 0 k rfl (by omega)
    | cons c m =>
      have rest := w
      simp only [Mem.wfFrom, Bool.and_eq_true, decide_eq_true_eq] at rest
      by_cases first : c.1 = a
      · rw [Mem.readGo, if_pos first]
        cases k with
        | zero => simp [Mem.read, first]
        | succ k =>
          rw [List.getD_cons_succ, ih m (a + 1) k (first ▸ rest.2) (by omega), Mem.read, if_neg (by omega), Nat.add_assoc, Nat.add_comm 1 k]
      · have later : Mem.wfFrom (a + 1) (c :: m) = true := by
          simp only [Mem.wfFrom, Bool.and_eq_true, decide_eq_true_eq]
          exact ⟨⟨by omega, rest.1.2⟩, rest.2⟩
        rw [Mem.readGo, if_neg first]
        cases k with
        | zero =>
          refine (Mem.read_unlisted _ _ fun x here => ?_).symm
          have := Mem.lt_of_wfFrom _ _ later x here
          omega
        | succ k => rw [List.getD_cons_succ, ih _ (a + 1) k later (by omega), Nat.add_assoc, Nat.add_comm 1 k]

/-- In canonical form a run of bytes reads byte by byte. -/
theorem Mem.getD_readN {m : Mem} (w : m.wf = true) (a : Nat) {n k : Nat} (small : k < n) : (m.readN a n).getD k 0 = m.read (a + k) := by
  have above : Mem.wfFrom a (m.filter fun c => decide (a ≤ c.1 ∧ c.1 < a + n)) = true := by
    have := Mem.wfFrom_filter (fun c => decide (c.1 < a + n)) _ a (Mem.wfFrom_above m a 0 w)
    rwa [List.filter_filter, List.filter_congr (q := fun c => decide (a ≤ c.1 ∧ c.1 < a + n)) fun c _ => by simp [Bool.and_comm]] at this
  rw [Mem.readN, Mem.getD_readGo n _ a k above small, Mem.read_filter (fun x => decide (a ≤ x ∧ x < a + n)), if_pos (by simp; omega)]

theorem Mem.length_readGo (n : Nat) : ∀ (m : Mem) (a : Nat), (Mem.readGo m a n).length = n := by
  induction n with
  | zero => intro m a; cases m <;> rfl
  | succ n ih =>
    intro m a
    cases m with
    | nil => simp [Mem.readGo, ih]
    | cons c m => rw [Mem.readGo]; split <;> simp [ih]

@[simp] theorem Mem.length_readN (m : Mem) (a n : Nat) : (m.readN a n).length = n := Mem.length_readGo n _ _

end Sys2Proof.Machine

end

section

/-! PROOFS. O39 and O40: accumulator banks cleared and copied. -/

namespace Sys2Proof.Machine

theorem getD_zeros (n k : Nat) : (zeros n).getD k 0 = 0 := by
  rw [zeros, List.getD_eq_getElem?_getD, List.getElem?_replicate]
  split <;> rfl

@[simp] theorem length_zeros (n : Nat) : (zeros n).length = n := List.length_replicate

/-- Which physical banks a context holds rests on the owners of the banks alone. -/
theorem UnitSt.physAcc_congr {x y : UnitSt} (owners : ∀ k, (y.accs.look k {}).owner = (x.accs.look k {}).owner) (c : Ctx) (n : Nat) :
    y.physAcc c n = x.physAcc c n := by
  simp only [UnitSt.physAcc, owners]

/-- The machine with its memory and the state of one bank of the current unit changed. -/
def State.withBank (s : State) (m : Mem) (n : Nat) (f : AccSt → AccSt) : State := ({ s with mem := m } : State).updAcc s.curU n f

variable {s : State} {m : Mem} {f : AccSt → AccSt}

@[simp] theorem State.cur_withBank (n : Nat) : (s.withBank m n f).cur = s.cur := State.cur_updUnit _ _ _ fun _ => rfl

@[simp] theorem State.curU_withBank (n : Nat) : (s.withBank m n f).curU = s.curU := rfl

@[simp] theorem State.mem_withBank (n : Nat) : (s.withBank m n f).mem = m := rfl

theorem State.accs_withBank (n : Nat) : ((s.withBank m n f).unit s.curU).accs = (s.unit s.curU).accs.adj n {} f := by
  rw [State.withBank, State.updAcc, State.unit_updUnit]; rfl

theorem State.accs_withBank_other {n k : Nat} (other : k ≠ n) :
    ((s.withBank m n f).unit s.curU).accs.look k {} = (s.unit s.curU).accs.look k {} := by
  rw [State.accs_withBank, Map.adj, Map.look_put_other _ _ _ _ _ other]

theorem State.unit_withBank_other {n v : Nat} (other : v ≠ s.curU) : (s.withBank m n f).unit v = s.unit v :=
  State.unit_updUnit_other _ _ _ _ other

/-- A bank changed without its owner is the operand that it was. -/
theorem State.acc_withBank (owner : ∀ a, (f a).owner = a.owner) (n k : Nat) : (s.withBank m n f).acc k = s.acc k := by
  rw [State.acc, State.acc, State.cur_withBank, State.curU_withBank]
  refine UnitSt.physAcc_congr (fun j => ?_) _ _
  by_cases same : j = n
  · rw [State.accs_withBank, same, Map.adj, Map.look_put_same, owner]
  · rw [State.accs_withBank_other same]

theorem State.accSt_withBank (owner : ∀ a, (f a).owner = a.owner) (n : Nat) : (s.withBank m (s.acc n) f).accSt n = f (s.accSt n) := by
  rw [State.accSt, State.acc_withBank owner, State.curU_withBank, State.accs_withBank, Map.adj, Map.look_put_same]
  rfl

end Sys2Proof.Machine

namespace Sys2Proof

open Machine Laws

/-- The checks of operands that the task holds come to ACCBUSY when one of the banks is busy. -/
theorem accBusy_of_busy {t : State} {n : Nat} (busy : (t.accSt n).busy = true) : t.accBusy n = some (trapOf 0x19 0) := if_pos busy

theorem accBusy_of_free {t : State} {n : Nat} (free : (t.accSt n).busy = false) : t.accBusy n = none := if_neg (by simp [free])

theorem accPoison_of_poison {t : State} {n : Nat} (poison : (t.accSt n).poison = true) : t.accPoison n = some (trapOf 0x1A 0) := if_pos poison

theorem accHeld_of_lt {t : State} {n : Nat} (held : n < t.cur.banks) : t.accHeld n = none := if_pos held

theorem effect_acczero (qp acc ty : Nat) (s : State) (t : State) (h : t = shown s (.acczero qp acc ty)) : effect s (semAcczero qp acc ty) =
    t.withBank (t.mem.writeN (accKey t.curU (t.acc acc)) (zeros 65536)) (t.acc acc)
      fun a => { a with int := ty == 1, kdone := 0, poison := false, bd := some (zeroBank (ty == 1)) } := by
  subst h; rfl

/-- Settles O39: the effect writes 65536 zeros at the bank's place in memory and changes the bank's state alone. -/
theorem acczeroClearsTheBank : Obligations.AcczeroClearsTheBank := by
  intro qp acc ty s i t e key
  refine ⟨fun issuable => ⟨issue1_issuable issuable, ?_⟩, fun ready held quiet busy => ?_⟩
  · have e_eq : e = _ := effect_acczero qp acc ty s t rfl
    have bank := State.accSt_withBank (s := t) (m := t.mem.writeN key (zeros 65536)) (n := acc)
      (f := fun a => { a with int := ty == 1, kdone := 0, poison := false, bd := some (zeroBank (ty == 1)) }) fun _ => rfl
    rw [← e_eq] at bank
    refine ⟨fun a => ?_, ?_, ?_, ?_, ?_, ?_, fun n other => ?_, fun v other => ?_, ?_⟩
    · rw [e_eq, State.mem_withBank, Mem.read_writeN, length_zeros]
      split
      · exact getD_zeros _ _
      · rfl
    · rw [bank]
    · rw [bank]
    · rw [bank]
    · rw [bank]
    · rw [bank]
    · rw [e_eq, State.accs_withBank_other other]
    · rw [e_eq, State.unit_withBank_other other]
    · rw [e_eq, State.cur_withBank]
  · refine faultsAreRaisedBeforeIssue.2 i (semAcczero qp acc ty) s { cause := 0x19 } rfl nofun ready quiet ?_ rfl
    exact (congrArg firstTrap (by rw [accHeld_of_lt held, accBusy_of_busy busy])).trans rfl

theorem effect_accmov (qp d r : Nat) (s : State) (t : State) (h : t = shown s (.accmov qp d r)) : effect s (semAccmov qp d r) =
    t.withBank (t.mem.writeN (accKey t.curU (t.acc d)) (t.accBytes t.curU (t.acc r))) (t.acc d)
      fun x => { x with int := (t.accSt r).int, kdone := (t.accSt r).kdone, bd := (t.accSt r).bd } := by
  subst h; rfl

/-- ACCMOV copies bank S to bank D: the effect writes the 65536 bytes of bank S at the place of bank D and changes the state of D alone. -/
theorem accmov_copiesTheBank_of_memOk (qp d r : Nat) {s : State} (issuable : Issuable s (semAccmov qp d r))
    (ok : MemOk (shown s (.accmov qp d r))) :
    let t := shown s (.accmov qp d r)
    let e := effect s (semAccmov qp d r)
    exec (.accmov qp d r) s = .next (issued s (semAccmov qp d r)) ∧
    (∀ k, k < 65536 → e.mem.read (accKey t.curU (t.acc d) + k) = t.mem.read (accKey t.curU (t.acc r) + k)) ∧
    (∀ a, (a < accKey t.curU (t.acc d) ∨ accKey t.curU (t.acc d) + 65536 ≤ a) → e.mem.read a = t.mem.read a) ∧
    (e.accSt d).int = (t.accSt r).int ∧ (e.accSt d).kdone = (t.accSt r).kdone ∧ e.cur = t.cur := by
  intro t e
  have e_eq : e = _ := effect_accmov qp d r s t rfl
  have bank := State.accSt_withBank (s := t) (m := t.mem.writeN (accKey t.curU (t.acc d)) (t.accBytes t.curU (t.acc r))) (n := d)
    (f := fun x => { x with int := (t.accSt r).int, kdone := (t.accSt r).kdone, bd := (t.accSt r).bd }) fun _ => rfl
  rw [← e_eq] at bank
  have length : (t.accBytes t.curU (t.acc r)).length = 65536 := Mem.length_readN _ _ _
  refine ⟨issue1_issuable issuable, fun k small => ?_, fun a apart => ?_, ?_, ?_, ?_⟩
  · rw [e_eq, State.mem_withBank, Mem.read_writeN, if_pos ⟨Nat.le_add_right _ _, by omega⟩, Nat.add_sub_cancel_left, State.accBytes,
      Mem.getD_readN ok _ small]
  · rw [e_eq, State.mem_withBank, Mem.read_writeN_other _ _ _ _ (by omega)]
  · rw [bank]
  · rw [bank]
  · rw [e_eq, State.cur_withBank]

/-- A busy bank of the two raises ACCBUSY. -/
theorem accmov_busy (qp d r : Nat) {s : State} (ready : Ready s (.accmov qp d r) qp) :
    let t := shown s (.accmov qp d r)
    d < t.cur.banks → r < t.cur.banks → t.faultOf t.curU (t.writerObs d ++ t.accObs r) = none →
    (t.accSt d).busy = true ∨ (t.accSt r).busy = true →
    exec (.accmov qp d r) s = .next (raised s (.accmov qp d r) (slotTrap s (.accmov qp d r) { cause := 0x19 })) := by
  intro t heldD heldR quiet busy
  refine faultsAreRaisedBeforeIssue.2 _ (semAccmov qp d r) s { cause := 0x19 } rfl nofun ready quiet ?_ rfl
  show firstTrap [t.accHeld d, t.accHeld r, t.accBusy d, t.accBusy r, t.accPoison d, t.accPoison r] = _
  rw [accHeld_of_lt heldD, accHeld_of_lt heldR]
  cases first : (t.accSt d).busy with
  | true => rw [accBusy_of_busy first]; rfl
  | false => rw [accBusy_of_free first, accBusy_of_busy (busy.resolve_left (by simp [first]))]; rfl

end Sys2Proof

namespace Sys2Proof.TwoOrders

open Machine Tests

/-- A context with a memory whose entries fall: the first two bytes of its bank 1, the second byte first. -/
def falling : State := { s1 with mem := [(accKey 0 (s1.acc 1) + 1, 1), (accKey 0 (s1.acc 1), 1)] }

/-- The copy of bank 1 to bank 0. -/
def copy : SlotSem := semAccmov 0 0 1

def found : State := shown falling copy.i

theorem issuable_falling : Issuable falling copy := by decide +kernel

theorem read_found : found.mem.read (accKey found.curU (found.acc 1) + 0) = 1 := by decide +kernel

theorem getD_accBytes_found : (found.accBytes found.curU (found.acc 1)).getD 0 0 = 0 := by decide +kernel

end Sys2Proof.TwoOrders

namespace Sys2Proof

open Machine Laws TwoOrders

/-- Refutes O40: it does not ask that the memory be in canonical form (which every step keeps, O59). From a memory whose entries do not rise
a run of bytes, which the copy reads, misses a byte that `Mem.read` finds. What holds is `accmov_copiesTheBank_of_memOk` and `accmov_busy`. -/
theorem not_accmovCopiesTheBank : ¬ Obligations.AccmovCopiesTheBank := by
  intro h
  obtain ⟨-, copied, -⟩ := (h 0 0 1 falling).1 issuable_falling
  have byte : (effect falling copy).mem.read (accKey found.curU (found.acc 0) + 0) =
      found.mem.read (accKey found.curU (found.acc 1) + 0) := copied 0 (by decide)
  rw [copy, effect_accmov 0 0 1 falling found rfl, State.mem_withBank, Mem.read_writeN, State.accBytes, Mem.length_readN,
    if_pos ⟨Nat.le_add_right _ _, by omega⟩, Nat.add_sub_cancel_left] at byte
  exact absurd (getD_accBytes_found.symm.trans (byte.trans read_found)) (by decide)

end Sys2Proof

end

section

/-! PROOFS. O41 and O42: rings and counters, leaves and the roots of trees. -/

namespace Sys2Proof.Machine

theorem Map.find?_put_of_find? {α : Type} {p : Nat × α → Bool} {k : Nat} {v : α} (new : p (k, v) = true) (m : Map α)
    (first : (m.find? p).map (·.1) = some k) : (Map.put m k v).find? p = some (k, v) := by
  induction m with
  | nil => simp at first
  | cons e m ih =>
    unfold Map.put
    split
    · simp [new]
    · split
      · simp [new]
      · next same =>
        cases here : p e with
        | true => exact absurd (by simpa [here] using first) same
        | false =>
          rw [List.find?_cons_of_neg (by simp [here])]
          exact ih (by simpa [here] using first)

/-- The current context is found where it was once it has changed, its name kept. -/
theorem State.bankOf_setCur_own {w : State} {e : Ctx} (home : (w.unit w.curU).bankOf w.cur.cid = some w.curB) (stays : e.cid = w.cur.cid) :
    ((w.setCur e).unit w.curU).bankOf w.cur.cid = some w.curB := by
  rw [State.setCur, State.setCtx, State.unit_updUnit, UnitSt.bankOf, Map.find?_put_of_find? (by simp [stays]) _ home]
  rfl

end Sys2Proof.Machine

namespace Sys2Proof

open Machine Laws

/-- The effect of RINGPUSH of a tile that has arrived: its slot goes to the ring, its handle to the ring's tail. -/
theorem eff_ringpush {qp ring hs : Nat} {t : State} {tile : TileRef} (arrived : t.handle t.curU t.cur (t.cur.rh hs) = .ok tile) :
    (semRingpush qp ring hs).eff t = (t.updSlot tile fun x => { x with okind := 2, oid := t.curU * 8 + ring }).updCur fun c =>
      { c with rings := c.rings.put ring { c.ring ring with
          entries := (c.ring ring).entries.put (((c.ring ring).head + (c.ring ring).count) % 16) (t.cur.rh hs)
          count := (c.ring ring).count + 1 } } := by
  simp only [semRingpush, arrived]

/-- Settles O41: the two effects, read field by field. -/
theorem ringsAndCounters : Obligations.RingsAndCounters := by
  constructor
  · intro qp ring hs s tile issuable t e r arrived
    have e_eq : e = (semRingpush qp ring hs).eff t := rfl
    rw [eff_ringpush arrived] at e_eq
    refine ⟨issue1_issuable issuable, ?_, ?_, ?_, ?_, fun a => ?_⟩
    · rw [e_eq]; exact congrArg SlotSt.okind (State.slot_updSlot t tile _)
    · rw [e_eq]; exact congrArg SlotSt.oid (State.slot_updSlot t tile _)
    · rw [e_eq, State.cur_updCur, State.cur_updSlot, Ctx.ring, Map.look_put_same]
    · rw [e_eq, State.cur_updCur, State.cur_updSlot]
    · rw [e_eq, State.updCur_mem, State.updSlot_mem]
  · intro qp c sa s ep issuable t e endpoint
    have e_eq : e = t.ctrAdd t.curU c ((t.cur.rs sa).toNat % 2 ^ 32) := rfl
    have counters : (e.unit t.curU).endpoint = some { ep with ctrs := ep.ctrs.adj c 0 fun v => (v + (t.cur.rs sa).toNat % 2 ^ 32) % 2 ^ 32 } := by
      rw [e_eq, State.ctrAdd, State.unit_updUnit, endpoint]; rfl
    refine ⟨issue1_issuable issuable, ⟨_, counters, ?_, fun k other => ?_⟩, ?_, rfl⟩
    · rw [Map.adj, Map.look_put_same]
    · rw [Map.adj, Map.look_put_other _ _ _ _ _ other]
    · exact State.cur_updUnit _ _ _ fun _ => rfl

theorem splitAt_lt {n : Nat} (two : 2 ≤ n) : splitAt n < n := by
  have := Nat.log2_self_le (n := n - 1) (by omega)
  unfold splitAt
  omega

theorem le_two_splitAt {n : Nat} (two : 2 ≤ n) : n ≤ 2 * splitAt n := by
  have := Nat.lt_log2_self (n := n - 1)
  unfold splitAt
  omega

theorem splitAt_pos (n : Nat) : 0 < splitAt n := Nat.two_pow_pos _

theorem treeRoot_node (f : Nat) {ds : List Bytes} (two : 2 ≤ ds.length) :
    treeRoot (f + 1) ds = digest 4 (treeRoot f (ds.take (splitAt ds.length)) ++ treeRoot f (ds.drop (splitAt ds.length))) := by
  match ds, two with
  | _ :: _ :: _, _ => rfl

theorem treeRoot_leaf (f : Nat) {ds : List Bytes} (few : ds.length < 2) : treeRoot (f + 1) ds = treeRoot 1 ds := by
  match ds, few with
  | [], _ | [_], _ => rfl

/-- A part of a tree of at most `2 ^ (f + 1)` leaves holds at most `2 ^ f`. -/
theorem splitAt_le {n f : Nat} (two : 2 ≤ n) (few : n ≤ 2 ^ (f + 1)) : splitAt n ≤ 2 ^ f := by
  refine Nat.pow_le_pow_right (by decide) (Nat.lt_succ_iff.1 ((Nat.log2_lt (by omega)).2 ?_))
  omega

/-- A tree of at most `2 ^ f` leaves is no deeper than `f`, whatever bounds it beyond that. -/
theorem treeRoot_of_le (f : Nat) : ∀ (g : Nat) (ds : List Bytes), ds.length ≤ 2 ^ f → f ≤ g →
    treeRoot (g + 1) ds = treeRoot (f + 1) ds := by
  induction f with
  | zero => exact fun g ds few _ => treeRoot_leaf g (Nat.lt_succ_of_le few)
  | succ f ih =>
    intro g ds few deep
    by_cases two : 2 ≤ ds.length
    · obtain ⟨g, rfl⟩ : ∃ h, g = h + 1 := ⟨g - 1, by omega⟩
      have left : (ds.take (splitAt ds.length)).length ≤ 2 ^ f := (List.length_take_le _ _).trans (splitAt_le two few)
      have right : (ds.drop (splitAt ds.length)).length ≤ 2 ^ f := by
        have := le_two_splitAt two
        have := splitAt_le two few
        rw [List.length_drop]
        omega
      rw [treeRoot_node _ two, treeRoot_node _ two, ih g _ left (by omega), ih g _ right (by omega)]
    · rw [treeRoot_leaf g (by omega), treeRoot_leaf (f + 1) (by omega)]

/-- The depth that bounds the root over some leaves is any that holds them. -/
theorem rootOfList_eq {f : Nat} {ds : List Bytes} (few : ds.length ≤ 2 ^ f) : rootOfList ds = treeRoot (f + 1) ds := by
  have own : ds.length ≤ 2 ^ (Nat.log2 ds.length + 1) := Nat.lt_log2_self.le
  rcases le_total f (Nat.log2 ds.length + 1) with le | le
  · exact treeRoot_of_le f _ ds few le
  · exact (treeRoot_of_le _ f ds own le).symm

/-- The root over two leaves or more is the node of the roots of its two parts (R372). -/
theorem rootOfList_node {ds : List Bytes} (two : 2 ≤ ds.length) :
    rootOfList ds = digest 4 (rootOfList (ds.take (splitAt ds.length)) ++ rootOfList (ds.drop (splitAt ds.length))) := by
  have few : ds.length ≤ 2 ^ (Nat.log2 (ds.length - 1) + 1) := by
    have := le_two_splitAt two
    rwa [splitAt, ← Nat.pow_succ'] at this
  have part := splitAt_le two few
  rw [rootOfList_eq few, treeRoot_node _ two, rootOfList_eq (ds := ds.take _) ((List.length_take_le _ _).trans part),
    rootOfList_eq (ds := ds.drop _)]
  rw [List.length_drop]
  have := le_two_splitAt two
  omega

/-- The effect of AUDMARK is on the current context alone, when its bank is where the context is found by its name. -/
theorem eff_audmark {qp sa sb : Nat} {t : State} (home : (t.unit t.curU).bankOf t.cur.cid = some t.curB) :
    let i := Instr.audmark qp sa sb
    (semAudmark qp sa sb).eff t = t.setCur ((t.cur.takeLeaf t.issAddr i.slot i.syl.w i.syl.ext).1.placeLeaf t.cur.leafNext
      { type := 0x0D, slot := 1, addr := t.issAddr, w := i.syl.w, ext := i.syl.ext
        c := leBytes 8 (t.cur.rs sa).toNat ++ leBytes 8 (t.cur.rs sb).toNat }) := by
  intro i
  have stays := State.bankOf_setCur_own (e := (t.cur.takeLeaf t.issAddr i.slot i.syl.w i.syl.ext).1) home rfl
  have placed : (semAudmark qp sa sb).eff t = (t.takeLeaf i).1.placeLeaf t.curU t.cur.cid (t.takeLeaf i).2
      { type := 0x0D, slot := 1, addr := t.issAddr, w := i.syl.w, ext := i.syl.ext
        c := leBytes 8 (t.cur.rs sa).toNat ++ leBytes 8 (t.cur.rs sb).toNat } := rfl
  rw [placed, State.placeLeaf, State.takeLeaf_eq, State.updCid_of_bankOf stays]
  rw [State.setCur, State.ctxAt_setCtx, State.setCtx_setCtx]
  rfl

/-- Settles O42: the root's two parts by `rootOfList_node`; AUDMARK's leaf by its effect on the current context. -/
theorem leavesAndTreeRoots : Obligations.LeavesAndTreeRoots := by
  refine ⟨⟨rfl, fun d => rfl, fun ds two => ⟨Nat.log2 (ds.length - 1), splitAt_lt two, le_two_splitAt two, rootOfList_node two⟩⟩, ?_⟩
  intro qp sa sb s issuable i t e home
  have e_eq : e = (semAudmark qp sa sb).eff t := rfl
  rw [eff_audmark home] at e_eq
  have addr : t.issAddr = s.begin.cur.pc := by
    rw [State.issAddr, shown_cur]; rfl
  refine ⟨issue1_issuable issuable, ?_, ?_, ?_, ?_⟩
  · rw [e_eq, State.cur_setCur]; rfl
  · rw [e_eq, State.cur_setCur, addr]
    simp [Ctx.placeLeaf, Ctx.takeLeaf, Map.adj, i]
  · rw [e_eq, State.cur_setCur]; rfl
  · rw [e_eq, State.setCur_mem]

end Sys2Proof

end

section

/-! PROOFS. O18: operations that start their work and then hold. -/

namespace Sys2Proof

open Machine Laws

/-- An operation that starts its work in the first cycle and observes, adds and sees nothing: what the examinations of its bundle look at is
its checks, what it waits for, and what it starts; nothing of that can fail before it has started. -/
structure Starts (o : SlotSem) : Prop where
  obs : o.obs = fun _ => []
  hook : o.hook = fun s => s
  adds : o.adds = fun _ => []
  port : o.port = 0
  sees : o.sees = fun _ => []
  early : ∀ t : State, (t.cur.pres.map (·.started)).getD false = false → o.stuck t = none

/-- Presented again with its work started and nothing left to wait for, such an operation issues (R424). -/
theorem Starts.issue1_again {s : State} {o : SlotSem} (starts : Starts o) {p : Pres} (again : s.cur.pres = some p) (checked : p.checked = true)
    (started : p.started = true) (live : s.cur.rq o.q = true) (group : s.cur.grpFrom.isSome = true)
    (free : o.stuck (s.setCur s.cur) = none) (done : o.hold (s.setCur s.cur) = false) :
    s.issue1 o = .next ((o.eff (s.setCur s.cur)).finishBundle p [o.i]) := by
  have begun : s.begin = s := by simp [State.begin, again]
  have same : s.setCur { s.cur with pres := some p, grpFrom := s.cur.grpFrom.or (some p.addr) } = s.setCur s.cur := by
    obtain ⟨g, hg⟩ := Option.isSome_iff_exists.1 group
    rw [← again, hg, Option.some_or, ← hg]
  have live' : ([o].filter fun o : SlotSem => s.cur.rq o.q) = [o] := by simp [live]
  unfold State.issue1 State.runBundle
  simp only [begun, again, Option.getD_some, same, live']
  simp [started, checked, starts.obs, starts.hook, starts.adds, starts.port, starts.sees, free, done, firstTrap]

/-- Presented first with its checks passed, such an operation is held while it has something to wait for (R424). -/
theorem Starts.exec_held {s : State} {o : SlotSem} (starts : Starts o) (slot : semOf o.i = some o) (level : s.cur.level ≠ 0)
    (ready : Ready s o.i o.q) (passed : o.check (shown s o.i) = none) (held : o.hold (hooked s o) = true) :
    exec o.i s = .next (heldAt s o) := by
  refine heldBundlesWait o.i o s slot (fun _ => level) ready ?_ passed (starts.early _ ?_) (.inl held)
  · rw [starts.obs, faultOf_nil]
  · rw [shown_cur]; rfl

/-- Settles O18: each of the six only starts and holds. -/
theorem startedOperationsIssue : Obligations.StartedOperationsIssue := by
  intro qp sd f sa sb index csr s level i listed o slot
  obtain rfl := semOf_i slot
  have starts : Starts o := by
    simp only [List.mem_cons, List.not_mem_nil, or_false] at listed
    rcases listed with h | h | h | h | h | h <;> rw [h] at slot <;> cases slot
    case inr.inl => exact ⟨rfl, rfl, rfl, rfl, rfl, fun t early => if_neg (by rw [early]; exact Bool.false_ne_true)⟩
    all_goals exact ⟨rfl, rfl, rfl, rfl, rfl, fun _ _ => rfl⟩
  refine ⟨fun ready passed held => starts.exec_held slot level ready passed held, fun issuable => ?_,
    fun p again checked started live group free done => ?_⟩
  · rw [exec_issue slot s fun _ => level, issue1_issuable issuable]
  · rw [exec_issue slot s fun _ => level, starts.issue1_again again checked started live group free done]

end Sys2Proof

end

section

/-! PROOFS. ArrayEvents (O44) fails: sums of a bank in a memory whose entries do not rise. -/

namespace Sys2Proof.FallingBank

open Machine

/-- A standard integer routine of one row and two columns. -/
def job : Job :=
  { jid := 0, cid := 0, die := 0, queue := 0, kind := .routine, instr := .mcall 0 0 0 0 0, mp := [(2, 0x100)], ch := 2
    image := sha3_512 (Config.standardImage 2) }

/-- A machine that runs it, with the second element of the bank's first row listed before the first. -/
def bank : State := { units := [(0, { jobs := [job] })], mem := [(accKey 0 0 + 4, 1), (accKey 0 0, 1)] }

theorem live_job : LiveJob bank 0 0 job := ⟨rfl, rfl, rfl⟩

/-- A block without elements adds nothing. -/
theorem blockElem_nil (fa fb ea eb acc : Nat) : blockElem 2 fa fb ea eb [] [] acc = accAddInt acc 0 := rfl

/-- The sum of a block reads its row as one run. -/
theorem mem_sumBlock : (bank.sumBlock 0 job 0 [] []).1.mem = bank.mem.writeN (accKey 0 0)
    (pack 32 ((elems 32 2 (bank.mem.readN (accKey 0 0) 8)).map fun x => (accAddInt x 0).1)) := by
  have std : job.ch < 8 ∧ job.image = sha3_512 (Config.standardImage job.ch) := ⟨by decide, rfl⟩
  unfold State.sumBlock
  simp only [if_pos std]
  rfl

theorem first_summed : leVal ((bank.mem.writeN (accKey 0 0)
    (pack 32 ((elems 32 2 (bank.mem.readN (accKey 0 0) 8)).map fun x => (accAddInt x 0).1))).readN (accKey 0 0) 4) = 0 := by decide +kernel

theorem first_stated : (accAddInt (leVal (bank.mem.readN (accKey 0 0) 4)) 0).1 = 1 := by decide +kernel

end Sys2Proof.FallingBank

namespace Sys2Proof

open Machine FallingBank

/-- Refutes O44: its clause of the sum of a block does not ask that the memory be in canonical form (which every step keeps, O59). From a
memory whose entries do not rise the row, which the sum reads as one run, misses an element that a run of its own four bytes finds; in
canonical form a run reads byte by byte (`Mem.getD_readN`). -/
theorem not_arrayEvents : ¬ Obligations.ArrayEvents := by
  rintro ⟨h, -⟩
  obtain ⟨-, -, -, -, sums, -⟩ := h bank bank 0 0 job job ⟨0, 0⟩ [] [] live_job
  have element := sums (by decide) (by decide) (by decide) rfl 0 0 0 (by decide) (by decide)
  have key : accKey 0 job.bank + 512 * 0 + 4 * 0 = accKey 0 0 := rfl
  rw [key, mem_sumBlock] at element
  exact absurd (first_summed.symm.trans (element.trans first_stated)) (by decide)

end Sys2Proof

end

section

/-! PROOFS. ChannelEvents (O45) fails: a slot that an operation's leaf still waits for. -/

namespace Sys2Proof.Machine

/-- A slot of no channel that holds no tile returns its storage once no job uses it and no leaf waits for its tile (R161). -/
theorem exec_slotStorageReturns {s : State} {pad slot : Nat} (empty : (s.slot ⟨pad, slot⟩).okind = 0)
    (busy : (s.slot ⟨pad, slot⟩).busy = true) (own : (s.slot ⟨pad, slot⟩).chan = none) (running : 512 ≤ pad ∨ (s.unit pad).freeze = 0)
    (unused : (s.units.any fun x => x.2.awaits ⟨pad, slot⟩ || x.2.jobs.any fun j => j.onSlot ⟨pad, slot⟩) = false) :
    exec (.slotStorageReturns pad slot) s = .next (s.updSlot ⟨pad, slot⟩ fun x => { x with busy := false }) := by
  have unfrozen : (decide (pad < 512) && (s.unit pad).freeze != 0) = false := by
    rcases running with far | still
    · simp [Nat.not_lt.2 far]
    · simp [still]
  show execSlotStorageReturns pad slot s = _
  simp only [execSlotStorageReturns, empty, busy, own, unfrozen, unused, ne_eq, not_true_eq_false, Bool.not_true, Bool.false_eq_true, or_self,
    if_false]

end Sys2Proof.Machine

namespace Sys2Proof.AwaitedSlot

open Machine

/-- A vector operation that has completed but for its leaf, which waits for a chunk of the tile of slot 0 (R370). -/
def leaf : Job :=
  { jid := 0, cid := 0, die := 0, queue := 0, kind := .vec, instr := .vmov 0 0 0 0 0
    tds := [{ pos := 0, tile := ⟨0, 0⟩, desc := [], cells := [none] }] }

/-- A unit with that leaf and no job; slot 0 of its pad holds no tile and has not returned its storage. -/
def waiting : State := { units := [(0, { late := [leaf] })], pads := [(0, { slots := [(0, { busy := true })] })] }

/-- An end of a channel and an endpoint, which the clause names besides. -/
def channel : ChanEnd :=
  { peerChip := 0, peerEp := 0, fmt := 0, rows := 1, cols := 1, depth := 1, blot := false, red := 0, ctr := 0, deadline := 0 }

def home : Endpoint := { ep := 0, die := 0, queue := 0 }

theorem kept : exec (.slotStorageReturns 0 0) waiting = .next waiting := rfl

end Sys2Proof.AwaitedSlot

namespace Sys2Proof

open Machine AwaitedSlot

/-- Refutes O45: its clause of a slot that returns its storage asks only that no job uses the slot, but the model keeps the storage also
while the leaf of an operation that has completed waits for a chunk of the slot's tile (R370). With that condition the clause
is `exec_slotStorageReturns`. -/
theorem not_channelEvents : ¬ Obligations.ChannelEvents := by
  rintro ⟨-, h⟩
  obtain ⟨-, -, -, returns⟩ := h waiting 0 0 0 0 channel { n := 0 } home
  have returned := returns rfl rfl rfl (.inr rfl) rfl
  rw [kept] at returned
  have busy := congrArg (fun s : State => (s.slot ⟨0, 0⟩).busy) (Host.Outcome.next.inj returned)
  rw [State.slot_updSlot] at busy
  exact absurd busy (by decide)

end Sys2Proof

end

section

/-! PROOFS. O53: events of the audit engine. -/

namespace Sys2Proof.Machine

variable {s t w : State} {d u jid : Nat} {a : AudCfg} {e : RootEnt} {es : List RootEnt} {j j' : Job} {msg : Bytes} {ans : List NodeAnswer}

/-- The head of the root queue is written when the ring has room (R377). -/
theorem exec_rootLogWrite (conf : (s.die d).aud = some a) (queue : (s.die d).rootQ = e :: es) (root : e.isSeal = false)
    (room : (s.updDie d fun x => { x with rootQ := es }).writeRoot d a e = some t) : exec (.rootLogWrite d) s = .next t := by
  show execRootLogWrite d s = _
  rw [execRootLogWrite, conf, queue]
  simp [root, room]

/-- A message to the chip itself is posted on it. -/
theorem State.sendMsg_own {chip mb die : Nat} {bs : Bytes} (own : chip = s.chipId) :
    s.sendMsg d chip mb die bs = s.post { die := die, mb := mb, bytes := bs, sup := true, cid := none, job := none } := if_pos own

/-- A question of the chip itself about a node is answered with two messages, the second with the node's digest (R382). -/
theorem exec_auditNodeRequest (serves : (s.die d).serves = true) (question : isNodeRequest msg = true) (own : leAt msg 4 4 = s.chipId) :
    ∃ z, exec (.auditNodeRequest d msg) s = .next z ∧ ∃ m n, z.msgs = s.msgs ++ [m, n] ∧
      n.bytes = padTo 64 (s.answerOf d (leAt msg 10 2) (leAt msg 16 8) (leAt msg 24 8) (leAt msg 32 8)).digest := by
  refine ⟨_, (if_neg (by simp [serves, question])).trans rfl, ?_⟩
  dsimp only
  rw [State.sendMsg_own (s := s) own, State.sendMsg_own (by exact own)]
  exact ⟨_, _, List.append_assoc _ _ _, rfl⟩

/-- A configuration that has been read takes effect, with an empty log and tree (R376). -/
theorem exec_auditConfigTakesEffect (live : LiveJob s u jid j) (kind : j.kind = .audConfig) (ready : s.ready u j (s.jobKeys u j) = some w)
    (read : w.readCfg u j = (t, j', .ok a)) :
    exec (.auditConfigTakesEffect u jid) s = .next (((t.writeLog j'.die a 0 (zeros 64)).updDie j'.die fun x =>
      { x with aud := some a, logWrite := 0, tree := [], treeW := 0 }).finishJob u j' none 0 0) := by
  obtain ⟨found, unfaulted, running⟩ := live
  refine s.onJob_live found unfaulted running ?_
  simp only [kind, ne_eq, not_true_eq_false, if_false, ready, Option.bind_some, read]

/-- The job that an audit job's event sees, when the first event of a replay, which measures it, is past. -/
theorem execAuditJobComplete_of_measured (live : LiveJob s u jid j) (kind : j.kind = .audit) (measured : j.c = 2 → j.cap.isSome = true)
    (ready : s.ready u j (s.jobKeys u j) = some w) {z : State}
    (ends : (match w.runAudit u j ans with
      | .done s k =>
        if j.c = 2 ∧ j.cap.getD 0 < k.cap.getD 0 then w.measure u j ans
        else
          let s := match k.dreg with
            | some (d, tk) => s.updCid u k.cid fun c => c.engineWrite d tk k.next
            | none => s
          some (s.finishJob u k none 0 0)
      | .fault s k t => some (s.stopJob u k t)
      | .wait => none) = some z) : exec (.auditJobComplete u jid ans) s = .next z := by
  obtain ⟨found, unfaulted, running⟩ := live
  refine s.onJob_live found unfaulted running ?_
  have past : ¬(j.c = 2 ∧ j.cap.isNone = true) := fun ⟨replay, new⟩ => by
    simp [Option.isNone_iff_eq_none.1 new] at measured
    exact measured replay
  simp only [kind, ne_eq, not_true_eq_false, if_false, if_neg past, ready, Option.bind_some]
  exact ends

/-- The first event of a replay finds how much it captures (log 77). -/
theorem exec_auditJobComplete_measures (live : LiveJob s u jid j) (kind : j.kind = .audit) (replay : j.c = 2) (new : j.cap = none)
    (ready : s.ready u { j with cap := some 0 } (s.jobKeys u { j with cap := some 0 }) = some w) (ran : w.runAudit u j ans = .done t j') :
    exec (.auditJobComplete u jid ans) s = .next (w.putJob u { j with cap := some (j'.cap.getD 0) }) := by
  obtain ⟨found, unfaulted, running⟩ := live
  refine s.onJob_live found unfaulted running ?_
  have measures : w.measure u j ans = some (w.putJob u { j with cap := some (j'.cap.getD 0) }) := by simp only [State.measure, ran]
  refine (if_neg (by simp [kind])).trans ((if_pos ⟨replay, by simp [new]⟩).trans ?_)
  exact (congrArg (Option.bind · _) ready).trans measures

end Sys2Proof.Machine

namespace Sys2Proof

open Machine

/-- Settles O53: one lemma per event above; a job that has run ends by the case of `execAuditJobComplete_of_measured` that its run takes. -/
theorem auditEvents : Obligations.AuditEvents := by
  intro s t d u jid a e es j j' msg ans
  refine ⟨exec_rootLogWrite, exec_auditNodeRequest, fun w live kind ready read => exec_auditConfigTakesEffect live kind ready read,
    fun w f live kind measured ready ran => ?_,
    fun w live kind replay new ready ran => exec_auditJobComplete_measures live kind replay new ready ran,
    fun w live kind within ready ran => ?_⟩
  · refine execAuditJobComplete_of_measured live kind measured ready ?_
    rw [ran]
    rfl
  · have measured : j.c = 2 → j.cap.isSome = true := fun replay => by
      obtain ⟨n, cap, -⟩ := within replay
      simp [cap]
    have caught : ¬(j.c = 2 ∧ j.cap.getD 0 < j'.cap.getD 0) := fun ⟨replay, less⟩ => by
      obtain ⟨n, cap, le⟩ := within replay
      rw [cap] at less
      exact absurd less (by simpa using le)
    refine execAuditJobComplete_of_measured live kind measured ready ?_
    rw [ran]
    exact if_neg caught

end Sys2Proof

end

section

/-! PROOFS. O54: power and heat. -/

namespace Sys2Proof.Machine

/-- The module is on, and `n` starts have been counted. -/
def State.OnAfter (s : State) (n : Nat) : Prop := s.power = .on ∧ s.sec.bootc = n

variable {s z : State} {n : Nat}

theorem State.onAfter_keepOld (ks : List Nat) (on : s.OnAfter n) : (s.keepOld ks).OnAfter n := on

theorem State.onAfter_putUnits {bs : Bytes} (on : s.OnAfter n) (put : s.putUnits bs = some z) : z.OnAfter n := by
  unfold State.putUnits at put
  dsimp only at put
  split at put
  · cases put
  · obtain rfl := Option.some.inj put
    exact State.onAfter_keepOld (s := s.keepOld _) _ (State.onAfter_keepOld _ on)

theorem State.onAfter_signHead (on : s.OnAfter n) (signed : s.signHead = some z) : z.OnAfter n := by
  obtain ⟨y, put, e⟩ := Option.map_eq_some_iff.1 signed
  have on' : y.OnAfter n := State.onAfter_putUnits on put
  exact e ▸ on'

theorem State.onAfter_getD_signHead (on : s.OnAfter n) : (if s.sec.sinceSign = 256 then s.signHead.getD s else s).OnAfter n := by
  split
  · cases signed : s.signHead with
    | none => exact on
    | some z => exact State.onAfter_signHead on signed
  · exact on

theorem State.onAfter_logOne {r : AccRec} (on : s.OnAfter n) (logged : s.logOne r = some z) : z.OnAfter n := by
  obtain ⟨y, ready, logged⟩ := Option.bind_eq_some_iff.1 logged
  have on' : y.OnAfter n := by
    split at ready
    · exact Option.some.inj ready ▸ on
    · exact State.onAfter_signHead on ready
  obtain ⟨x, put, e⟩ := Option.map_eq_some_iff.1 logged
  have counted : x.OnAfter n := State.onAfter_putUnits on' put
  rw [← e]
  refine State.onAfter_getD_signHead ?_
  exact ⟨counted.1, counted.2⟩

theorem State.onAfter_drainLog (rs : List AccRec) (on : s.OnAfter n) : (s.drainLog rs).OnAfter n := by
  induction rs generalizing s with
  | nil => exact on
  | cons r rs ih =>
    rw [State.drainLog]
    split
    · next logged => exact ih (State.onAfter_logOne on logged)
    · exact on

theorem State.onAfter_logRecord {r : AccRec} (on : s.OnAfter n) (logged : s.logRecord r = some z) : z.OnAfter n := by
  unfold State.logRecord at logged
  dsimp only at logged
  split at logged
  · exact State.onAfter_logOne (State.onAfter_drainLog _ on) logged
  · cases logged

theorem State.onAfter_startTest (d : Nat) (on : s.OnAfter n) : (s.startTest d).OnAfter n := on

theorem State.onAfter_record (r : AccRec) (on : s.OnAfter n) :
    ((s.logRecord r).getD { s with sec := { s.sec with logQ := s.sec.logQ ++ [r] } }).OnAfter n := by
  cases logged : s.logRecord r with
  | none => exact on
  | some z => exact State.onAfter_logRecord on logged

theorem State.onAfter_tests (v : Bool) (on : s.OnAfter n) : (if v then [0, 1, 2, 3].foldl (fun s d => s.startTest d) s else s).OnAfter n := by
  cases v with
  | false => exact on
  | true => exact State.onAfter_startTest _ (State.onAfter_startTest _ (State.onAfter_startTest _ (State.onAfter_startTest _ on)))

/-- Power-on counts the start and leaves the module on (R420). -/
theorem exec_powerOn_off (nonce : Bytes) (off : s.power ≠ .on) :
    ∃ t, exec (.powerOn nonce) s = .next t ∧ t.OnAfter (min 4096 (s.sec.bootc + 1)) := by
  refine ⟨_, if_neg off, ?_⟩
  refine State.onAfter_tests supervisorOk (State.onAfter_record _ ?_)
  exact ⟨rfl, rfl⟩

/-- Once the module has been shut down a step with no event due answers the fault (log 53). -/
theorem step_of_down (down : s.power = .down) (idle : s.agenda = []) : step s = .fault .poweredDown := by
  rw [step, down, idle]

end Sys2Proof.Machine

namespace Sys2Proof

open Machine

/-- Settles O54. -/
theorem powerAndHeat : Obligations.PowerAndHeat := by
  intro s d port u nonce
  refine ⟨fun off => ?_, fun on => if_pos on, rfl, rfl, ⟨_, rfl, rfl, ?_, ?_, fun idle => step_of_down rfl idle⟩⟩
  · obtain ⟨t, e, on, counted⟩ := exec_powerOn_off nonce off
    exact ⟨t, e, on, counted⟩
  · rfl
  · exact (by decide : ({} : UnitSt).fence ≠ 0)

end Sys2Proof

end

section

/-! PROOFS. O50: events of the host queues. -/

namespace Sys2Proof.Machine

variable {s t v : State} {d q off tail val base al : Nat} {p : Pkt} {bs nb code : Bytes} {o : Obj}

/-! ### Registers (R399, R402) -/

/-- TAIL as a doorbell writes it, and what the queue does then. -/
theorem State.ring_eq : s.ring d q tail =
    let r := s.updQueue d q fun x => { x with tail := tail % 2 ^ 32 }
    if 2 ^ (s.queue d q).rsize < (tail % 2 ^ 32 + 2 ^ 32 - (s.queue d q).head) % 2 ^ 32 then
      r.updQueue d q fun x => { x with stopped := true }
    else r.readOn d q 65537 := by
  rw [State.ring]
  dsimp only
  rw [State.queue_updQueue]

theorem exec_doorbell : exec (.doorbell d q tail) s = .next (s.ring d q tail) := by
  show Host.Outcome.next (s.regWrite d q 0x10 tail) = _
  rw [State.regWrite, if_pos rfl]

theorem State.regWrite_rsize (off : (s.queue d q).en = false) (low : 1 ≤ val) (high : val ≤ 16) :
    s.regWrite d q 8 val = s.updQueue d q fun x => { x with rsize := val } := by
  simp [State.regWrite, off, low, high]

theorem State.regWrite_rbase (off : (s.queue d q).en = false) :
    s.regWrite d q 0 val = s.updQueue d q fun x => { x with rbase := fld val 0 3 + fld val 12 40 * 2 ^ 12 } := by
  simp [State.regWrite, off]

/-- A register of an enabled queue is not written, but for TAIL. -/
theorem State.regWrite_of_en (en : (s.queue d q).en = true) (other : off ≠ 0x10) : s.regWrite d q off val = s := by
  rw [State.regWrite, if_neg other, if_pos en]

/-- Queue `q` of die `d` has its registers at `d * 0x4_0000 + q * 64` of BAR0 (R399). -/
theorem barAt_register (die : d < 4) (queue : q < 4096) (small : off < 64) : barAt (d * 0x40000 + q * 64 + off) = some (d, q, off) := by
  rw [barAt, if_pos (by omega)]
  have hd : (d * 0x40000 + q * 64 + off) / 0x40000 = d := by omega
  have hq : (d * 0x40000 + q * 64 + off) % 0x40000 / 64 = q := by omega
  have ho : (d * 0x40000 + q * 64 + off) % 64 = off := by omega
  rw [hd, hq, ho]

theorem exec_registerWrite_bar (die : d < 4) (queue : q < 4096) (small : off < 64) :
    exec (.registerWrite d q off val) s = .next (s.hostWrite (d * 0x40000 + q * 64 + off) val) ∧
      s.hostRead (d * 0x40000 + q * 64 + off) = s.regRead d q off := by
  rw [State.hostWrite, State.hostRead, barAt_register die queue small]
  exact ⟨rfl, rfl⟩

theorem State.regRead_held : s.regRead d q 0 = (s.queue d q).rbase ∧ s.regRead d q 8 = (s.queue d q).rsize ∧
    s.regRead d q 0x10 = (s.queue d q).tail ∧ s.regRead d q 0x18 = (s.queue d q).head ∧
    s.regRead d q 0x20 = (if (s.queue d q).en then 1 else 0) + (if (s.queue d q).stopped then 2 else 0) := by
  refine ⟨rfl, rfl, rfl, rfl, ?_⟩
  show (s.queue d q).en.toNat + 2 * (s.queue d q).stopped.toNat = _
  cases (s.queue d q).en <;> cases (s.queue d q).stopped <;> rfl

/-! ### The packet at a queue's head (R403-R406) -/

/-- While a queue has a packet at its head to act on, it neither loads nor seals. -/
theorem State.idle_of_pktAt {k : Nat} (head : s.pktAt d q k = some p) : (s.queue d q).loading = none ∧ (s.queue d q).sealing = none := by
  unfold State.pktAt at head
  dsimp only at head
  split at head
  · cases head
  · next free =>
    simp only [Bool.or_eq_true, not_or, Bool.not_eq_true, Option.isSome_eq_false_iff, Option.isNone_iff_eq_none] at free
    exact ⟨free.1.2, free.2⟩

theorem exec_launch (head : s.pktAt d q 1 = some p) (header : s.readVA (s.whoQ d q) p.addr1 64 = (t, some bs))
    (launched : t.launchGraph d q p.addr1 bs (p.flags == 1) none = some v) : exec (.launch d q) s = .next (v.pktDone d q 0 0 0) := by
  show execLaunch d q s = _
  simp only [execLaunch, head, header, launched, Option.map_some, Option.getD_some]

theorem exec_patch (head : s.pktAt d q 2 = some p) (header : s.readVA (s.whoQ d q) p.addr1 64 = (t, some bs))
    (block : t.readVA (s.whoQ d q) p.addr2 64 = (v, some nb)) (inside : p.arg32 < (graphHdr bs).npblk)
    (room : ((s.die d).blocks.any fun x => x.hdr == hdrKey q p.addr1 && x.idx == p.arg32 && decide (4 ≤ x.live)) = false) :
    exec (.patch d q) s = .next ((v.updDie d fun x => x.patch (hdrKey q p.addr1) p.arg32 (wordsOf nb)).pktDone d q p.rec' 0 0) := by
  show execPatch d q s = _
  simp only [execPatch, head, header, block, if_neg (Nat.not_le.2 inside), room, Bool.false_eq_true, if_false]

theorem exec_load (head : s.pktAt d q 3 = some p) (object : s.readVA (s.whoQ d q) p.addr1 p.arg64 = (t, some bs))
    (accepted : loadObj bs q = .ok (o, code, al))
    (room : codeBase (2 ^ al) code.length 0 (((t.die d).objs.map fun e => (e.2.base, e.2.code)).foldl (fun l r => insRange r l) []) = some base) :
    ∃ e, exec (.load d q) s = .next e ∧ (e.queue d q).loading = some ((t.die d).nextObj, p.rec') := by
  show ∃ e, execLoad d q s = .next e ∧ _
  simp only [execLoad, head, object, accepted, room]
  exact ⟨_, rfl, by rw [State.queue_updQueue]⟩

theorem exec_loadComplete {h r : Nat} (strays : (s.queue d q).strays = []) (loading : (s.queue d q).loading = some (h, r)) :
    ∃ e : State, exec (.loadComplete d q) s = .next (e.pktDone d q r 0 h) ∧ (e.queue d q).loading = none := by
  show ∃ e : State, execLoadComplete d q s = .next _ ∧ _
  simp only [execLoadComplete, strays, loading, List.findSome?_nil]
  exact ⟨_, rfl, by rw [State.queue_updQueue]⟩

theorem exec_barrier (head : s.pktAt d q 5 = some p)
    (idle : ((s.die d).graphs.any fun g => g.2.queue == q && g.2.record && g.2.spawned.isNone) = false) :
    exec (.barrier d q) s = .next (s.pktDone d q p.rec' 0 0) := by
  show execBarrier d q s = _
  simp only [execBarrier, head, idle, Bool.false_eq_true, if_false]

theorem exec_signal {k : Nat} {g : Graph} (head : s.pktAt d q 6 = some p)
    (graph : ((s.die d).graphs.find? fun g => g.2.queue == q && g.2.seq == p.arg64 && (s.die d).window.any fun n => n.2.graph == g.1) =
      some (k, g)) :
    ∃ e : State, exec (.signal d q) s = .next (e.pktDone d q p.rec' 0 0) ∧
      ∃ g', (e.die d).graphs.entry? k = some g' ∧ p.arg32 ∈ g'.signals ∧ ∀ n ∈ g.signals, n ∈ g'.signals := by
  show ∃ e : State, execSignal d q s = .next _ ∧ _
  simp only [execSignal, head, graph]
  refine ⟨_, rfl, _, by rw [State.die_updDie, Map.entry_put_same], ?_⟩
  dsimp only
  split
  · next set => exact ⟨by simpa using set, fun n here => here⟩
  · exact ⟨List.mem_cons_self .., fun n here => List.mem_cons_of_mem _ here⟩

theorem exec_hostSeal (head : s.pktAt d q 7 = some p) (strays : (s.queue d q).strays = []) (may : s.sealTrap d q = none) :
    exec (.hostSeal d q) s = .next ((s.updDie d fun x => x.putSeal q (sealKey q (s.queue d q).sess)).updQueue d q fun x =>
      { x with sealing := some p.rec' }) := by
  obtain ⟨-, idle⟩ := State.idle_of_pktAt head
  have none : s.straySeal d q = none := by rw [State.straySeal, strays]; rfl
  show execHostSeal d q s = _
  simp only [execHostSeal, none, idle, head, may, Option.isSome_none, Bool.false_eq_true, if_false]

theorem exec_bind (head : s.pktAt d q 8 = some p) (object : ((s.die d).objs.entry? p.arg32) = some o) (held : o.refs.contains q = true)
    (free : s.endpointUnit d q = none) (noTable : p.addr1 = 0) :
    exec (.bind d q) s = .next ((s.updQueue d q fun x => { x with binding := some (p.arg32, fld p.arg64 0 8, fld p.arg64 8 7, []) }).pktDone
      d q p.rec' 0 0) := by
  show execBind d q s = _
  simp only [execBind, head, object, held, free, noTable, Option.map_some, ne_eq, not_true_eq_false, if_false, Option.isSome_none,
    Bool.false_eq_true, if_true, peerTab]

theorem exec_unload (head : s.pktAt d q 4 = some p) (waits : (s.queue d q).unloads = []) (object : ((s.die d).objs.entry? p.arg32) = some o)
    (held : o.refs.contains q = true) :
    (s.launched d q = [] → exec (.unload d q) s = .next ((s.updDie d fun x => x.dropRef q p.arg32).pktDone d q p.rec' 0 0)) ∧
    (s.launched d q ≠ [] →
      ∃ e : State, exec (.unload d q) s = .next (e.pktDone d q 0 0 0) ∧ (e.queue d q).unloads.length = 1) := by
  refine ⟨fun idle => ?_, fun pending => ?_⟩
  · show execUnload d q s = _
    simp only [execUnload, waits, List.find?_nil, head, object, held, Option.map_some, ne_eq, not_true_eq_false, if_false, idle, if_true]
  · show ∃ e : State, execUnload d q s = .next _ ∧ _
    simp only [execUnload, waits, List.find?_nil, head, object, held, Option.map_some, ne_eq, not_true_eq_false, if_false, if_neg pending]
    exact ⟨_, rfl, by rw [State.queue_updQueue, waits]; rfl⟩

end Sys2Proof.Machine

namespace Sys2Proof

open Machine

/-- Settles O50: one lemma per packet above, with `barAt_register` for the place of the registers. -/
theorem hostEvents : Obligations.HostEvents := by
  intro s t v d q off tail val base al p bs nb code o
  refine ⟨⟨fun near => ?_, fun far => ?_⟩, rfl, fun dis low high => ?_, fun dis => ?_, fun en other => ?_, exec_registerWrite_bar,
    State.regRead_held, exec_launch, exec_patch, exec_load, fun h r => exec_loadComplete, exec_barrier, fun k g => exec_signal, exec_hostSeal,
    exec_bind, exec_unload⟩
  · rw [exec_doorbell, State.ring_eq]
    exact congrArg _ (if_neg (Nat.not_lt.2 near))
  · rw [exec_doorbell, State.ring_eq]
    exact congrArg _ (if_pos far)
  · exact congrArg _ (State.regWrite_rsize dis low high)
  · exact congrArg _ (State.regWrite_rbase dis)
  · exact congrArg _ (State.regWrite_of_en en other)

end Sys2Proof

end

section

/-! PROOFS. SecurityCoreAnswers (O52) is neither proved nor refuted: it holds exactly when the access log has no room for a record. -/

namespace Sys2Proof.Machine

variable {s t v : State} {idx : Nat} {req : ImportReq} {r : Region}

/-- While no record head is kept a request is answered (R420). -/
theorem State.request_of_noHead (none : s.sec.heads = []) (f : State → State) : s.request f = .next (f s) := by
  rw [State.request, none]

theorem exec_of_request {i : Instr} {f : State → State} (asks : exec i s = s.request f) (none : s.sec.heads = []) : exec i s = .next (f s) :=
  asks.trans (State.request_of_noHead none f)

theorem exec_importRegion (none : s.sec.heads = []) : exec (.importRegion req) s = .next
    (if req.op = 1 then s.importReq req else if req.op = 2 then s.releaseReq req.region
      else s.answer (.errorInvalid req.op req.region 0)) := by
  show execImportRegion req s = _
  rw [execImportRegion, State.request_of_noHead none]

theorem exec_release (none : s.sec.heads = []) : exec (.release idx) s = .next (s.releaseReq idx) := by
  show execRelease idx s = _
  rw [execRelease, State.request_of_noHead none]

theorem State.importReq_ok (imported : s.importTo req = .ok t) (logged : t.logRecord { kind := 1 } = some v) :
    s.importReq req = v.answer (.vendorDone 1 req.region) := by
  simp only [State.importReq, imported, logged, Option.map_some, Option.getD_some]

theorem State.importReq_error {step : Nat} (failed : s.importTo req = .error (step, t)) (logged : t.logRecord { kind := 4 } = some v) :
    s.importReq req = v.answer (.errorInvalid 1 req.region step) := by
  simp only [State.importReq, failed, logged, Option.map_some, Option.getD_some]

theorem State.releaseReq_active (active : s.sec.regions.entry? idx = some r)
    (unmapped : (s.tasksRunning.any fun q => s.mapsRegion (s.space q.1 q.2) idx) = false)
    (logged : (s.writeGlobal (placeKeys r.place r.base r.len) (zeros r.len)).logRecord { kind := 2 } = some v) :
    s.releaseReq idx = State.answer { v with sec := { v.sec with regions := v.sec.regions.del idx } } (.vendorDone 2 idx) := by
  simp only [State.releaseReq, active, unmapped, Bool.false_eq_true, if_false, logged]

theorem exec_getMeasurements {bs : List (Nat × Bytes)} (nonce : Bytes) (none : s.sec.heads = []) (blocks : s.measureBlocks idx = some bs) :
    exec (.getMeasurements idx false nonce) s = .next (s.answer (.measurements bs [])) := by
  show execGetMeasurements idx false nonce s = _
  rw [execGetMeasurements, State.request_of_noHead none, blocks]
  rfl

theorem exec_signLogHead (none : s.sec.heads = []) (signed : s.signHead = some v) :
    exec .signLogHead s = .next (v.answer (.vendorDone 0 0)) := by
  show execSignLogHead s = _
  rw [execSignLogHead, State.request_of_noHead none, signed, Option.map_some, Option.getD_some]

/-! ### An access log without room -/

theorem State.putUnits_of_noRoom {bs : Bytes} (small : Config.accessLogUnits ≤ 1) (long : 64 ≤ bs.length) : s.putUnits bs = none := by
  have units : 1 ≤ bs.length / 64 := (Nat.le_div_iff_mul_le (by decide)).2 (by omega)
  unfold State.putUnits
  exact if_pos (by omega)

theorem AccRec.length_bytes (r : AccRec) (chip idx : Nat) : (r.bytes chip idx).length = 64 := by
  exact length_padTo 64 _

theorem State.signHead_of_noRoom (small : Config.accessLogUnits ≤ 1) : s.signHead = none := by
  unfold State.signHead
  dsimp only
  rw [State.putUnits_of_noRoom small (by simp only [List.length_append, AccRec.length_bytes]; omega)]
  rfl

theorem State.logOne_of_noRoom (small : Config.accessLogUnits ≤ 1) (r : AccRec) : s.logOne r = none := by
  rw [State.logOne, Option.bind_eq_none_iff]
  intro y _
  exact Option.map_eq_none_iff.2 (State.putUnits_of_noRoom small (AccRec.length_bytes ..).ge)

/-- Records that wait go on waiting. -/
theorem State.drainLog_of_noRoom (small : Config.accessLogUnits ≤ 1) : s.drainLog s.sec.logQ = s := by
  cases waiting : s.sec.logQ with
  | nil => rw [State.drainLog, ← waiting]
  | cons r rs => rw [State.drainLog, State.logOne_of_noRoom small]; dsimp only; rw [← waiting]

end Sys2Proof.Machine

namespace Sys2Proof.QueuedRecord

open Machine

/-- A region, and a record of the access log that waits for room in the ring, which is empty. -/
def queued : State :=
  { sec := { regions := [(0, { place := 0, base := 0, len := 0, key := [], rate := 0, burst := 0, tok := 0 })], logQ := [{ kind := 1 }] } }

/-- Where the log's write pointer lies. -/
def writePtr : Nat := memKey regHost Config.accessLogBase

/-- With room for one unit a record is put in the log. -/
theorem putUnits_queued (room : 2 ≤ Config.accessLogUnits) {bs : Bytes} (one : bs.length = 64) :
    ∃ u : State, queued.putUnits bs = some u ∧ u.mem.read writePtr = 1 ∧ u.sec.sinceSign = 0 := by
  have empty (a : Nat) : leVal (queued.mem.readN a 8) = 0 := rfl
  unfold State.putUnits
  dsimp only
  rw [one, empty, if_neg (by simp [queued]; omega)]
  refine ⟨_, rfl, ?_, rfl⟩
  dsimp only
  rw [← writePtr, Mem.read_writeN, if_pos ⟨le_rfl, Nat.lt_add_of_pos_right (by decide)⟩, Nat.sub_self]
  rfl

/-- With room for one unit the refill writes the record, and the log's write pointer. -/
theorem written_refill (room : 2 ≤ Config.accessLogUnits) {t : State} (e : exec .meterRefill queued = .next t) : t.mem.read writePtr = 1 := by
  have e' : execMeterRefill queued = .next t := e
  obtain ⟨u, put, ptr, unsigned⟩ := putUnits_queued room (AccRec.length_bytes { kind := 1 } queued.chipId queued.sec.logIdx)
  have logged : queued.logOne { kind := 1 } = some { u with sec := { u.sec with
      logIdx := (u.sec.logIdx + 1) % 2 ^ 64, sinceSign := u.sec.sinceSign + 1
      logH := digest 0x11 (u.chainTo { kind := 1 } ++ AccRec.bytes { kind := 1 } queued.chipId queued.sec.logIdx) } } := by
    rw [State.logOne, if_pos (by decide), Option.bind_some]
    dsimp only
    rw [put, Option.map_some, if_neg (by omega)]
  have waiting : queued.sec.logQ = [{ kind := 1 }] := rfl
  rw [execMeterRefill, waiting, State.drainLog, logged] at e'
  cases e'
  exact ptr

end Sys2Proof.QueuedRecord

namespace Sys2Proof

open Machine QueuedRecord

/-- How far O52 goes: all of its clauses hold but that of a refill, which leaves the memory, the units and the dies as they are. The model's
refill first writes the records that wait into the access log when it has room (R417), so that the clause holds exactly when the log never has
room for a record; and how many units the log has is a free value of `Config`, of which nothing is proved. -/
theorem securityCoreAnswers_iff : Obligations.SecurityCoreAnswers ↔ Config.accessLogUnits ≤ 1 := by
  constructor
  · rintro ⟨-, refill⟩
    by_contra room
    obtain ⟨t, e, r, -, -, -, -, -, -, mem, -⟩ := refill queued 0 _ rfl
    have written := written_refill (by omega) e
    rw [mem] at written
    exact absurd written (by decide)
  · refine fun small => ⟨fun s t v code off len idx nonce req bs r => ⟨rfl, fun none => ⟨?_, ?_, ?_, ?_, ?_, fun blocks => ?_, ?_,
      fun op imported logged => ?_, fun step op failed logged => ?_, fun op => ?_, fun other other' => ?_, fun active unmapped logged => ?_,
      fun signed => exec_signLogHead none signed⟩⟩, fun s i r active => ?_⟩
    · exact exec_of_request (f := fun s => s.answer .capabilities) rfl none
    · exact exec_of_request (f := fun s => s.answer .algorithms) rfl none
    · exact exec_of_request (f := fun s => s.answer (.digests (sha3_512 Config.certChain))) rfl none
    · exact exec_of_request (f := fun s => s.answer (.certificate ((Config.certChain.drop off).take len))) rfl none
    · exact ⟨_, exec_of_request (f := fun s => s.answer (.challengeAuth
        (signWith identitySeed (sha3_512 (sha3_512 Config.certChain ++ nonce))))) rfl none⟩
    · exact exec_getMeasurements nonce none blocks
    · exact exec_of_request (f := fun s => s.answer (.errorUnsupported code)) rfl none
    · rw [exec_importRegion none, if_pos op, State.importReq_ok imported logged]
    · rw [exec_importRegion none, if_pos op, State.importReq_error failed logged]
    · rw [exec_importRegion none, if_neg (by omega), if_pos op, exec_release none]
    · rw [exec_importRegion none, if_neg other, if_neg other']
    · rw [exec_release none, State.releaseReq_active active unmapped logged]
    · have refilled : exec .meterRefill s = .next { s with sec := { s.sec with
          regions := s.sec.regions.mapv fun r => { r with tok := min r.burst (r.tok + r.rate) } } } := by
        show execMeterRefill s = _
        rw [execMeterRefill, State.drainLog_of_noRoom small]
      refine ⟨_, refilled, { r with tok := min r.burst (r.tok + r.rate) }, ?_, rfl, rfl, rfl, rfl, rfl, rfl, rfl, rfl⟩
      rw [Map.entry_mapv, active]
      rfl

end Sys2Proof

end
